-- ==== Sys2Proof/Word.lean ====
section
/-! DEFINITION. The word types: bytes, 32-bit words, FP32 bit patterns and byte strings. -/

namespace Sys2Proof

/-- One byte of memory, of a descriptor, of a packet or of a record (R4). -/
abbrev Byte := BitVec 8

/-- A 32-bit register (R378). -/
abbrev Word32 := BitVec 32

/-- The bits of an FP32 value (R26, code 0x0). -/
abbrev F32 := BitVec 32

/-- A byte string, lowest address first (R4). -/
abbrev Bytes := List Byte

end Sys2Proof
end

