-- ==== Sys2Proof/Syntax.lean ====
section
/-! DEFINITION. The commands of the module: one constructor of `Instr` for each row of
spec/opcode_table.json, and the operand types they carry. An operand says what the row's event
brings with it: a register value, the bytes of a packet, what the host or a DRAM cell did, a
sensor reading. -/

namespace Sys2Proof

/-- A write of a function's PCIe configuration (R109, R128): MSI-X enable and vector mask, the number of VFs of the
function's port, the BAR2 size (2^size GiB), Device Control (Relaxed Ordering, maximum payload and read request codes),
and a write that clears AER status bits. The table has no row for these writes; DOORBELL_SWEEP brings them in its
operand. (DESIGN CHOICE, log 162.) -/
inductive ConfigWrite where
  | msix (on masked : Bool)
  | vfs (n : Nat)
  | bar2 (size : Nat)
  | control (relaxed : Bool) (mps mrrs : Nat)
  | aerClear (bits : Word32)
  deriving DecidableEq, Repr

/-- What the host did to its own memory before a command reads it. A host byte is named by
port · 2^64 + address. `rejects` and `poisons` are ranges (first byte, length) whose reads the
host rejects or answers with poisoned data (R101, R116, R121). -/
structure HostIn where
  stores  : List (Nat × Byte) := []
  rejects : List (Nat × Nat) := []
  poisons : List (Nat × Nat) := []
  /-- the host's writes of its functions' PCIe configuration and MSI-X tables: function and write -/
  config  : List (Nat × ConfigWrite) := []
  deriving DecidableEq, Repr

/-- What the DRAM did since the last command. `flips` are upsets of stored bytes (an XOR mask for
one byte of a stored codeword), `transient` the number of consecutive reads of a class A block
that mismatch although the cell is sound (R157), `linkRead` and `linkWrite` the link CRCs that came with the
consecutive sends of a block, read or written (R149). Keys are those of `Sys2Proof.Machine.flipKey`, `blockKey` and, for a
written check block, `checkKey`. -/
structure MemIn where
  flips     : List (Nat × Byte) := []
  transient : List (Nat × Nat) := []
  linkRead  : List (Nat × List Word32) := []
  linkWrite : List (Nat × List Word32) := []
  deriving DecidableEq, Repr

/-- The bytes of a write through BAR2, and what the DRAM does meanwhile (R115, R149). -/
structure Bar2Data where
  bytes : Bytes
  mem   : MemIn := {}
  deriving DecidableEq, Repr

/-- A read of BAR0: its first byte and its length (R378). -/
structure BarSpan where
  offset : Nat
  len    : Nat := 4
  deriving DecidableEq, Repr

/-- The environment of one operation: host, DRAM, the CORE clocks it took (R86, R61), whether its
core's clocks were skipped for more than 10 µs in total (R330), whether it waited on
an in-place retrain (R164), and the single-bit errors it met in its core's SRAM (R55). -/
structure Env where
  host    : HostIn := {}
  mem     : MemIn := {}
  cycles  : Word32 := 0#32
  slow    : Bool := false
  stalled : Bool := false
  sbe     : Nat := 0
  deriving DecidableEq, Repr

/-- Where a descriptor's timer expires (R76): while it waits, as the `index`-th fetched descriptor
of its ring, or after dispatch, as the operation in an in-flight slot. -/
inductive TimerOf where
  | waiting (ring index : Nat)
  | dispatched (op : Nat)
  deriving DecidableEq, Repr

/-- A collective on this module: its group-table entry, its sequence number and, for SEND, RECV and
MCAST_PUT, the ordered pair (sender rank, receiver rank) of its sequence space (R233). -/
structure CollRef where
  group : Nat
  seq   : Nat
  pair  : Option (Nat × Nat) := none
  deriving DecidableEq, Repr

/-- What a rail's regulator reports: millivolts, milliamperes and its temperature in 0.001 °C (R317, R359). -/
structure RailReport where
  mv   : Int
  ma   : Int
  temp : Int
  deriving DecidableEq, Repr

/-- What a Kettle period brings (R322, R359): the rail whose report is missing, and the rails' reports in order. -/
structure Telemetry where
  missing : Option Nat := none
  rails   : List RailReport := []
  deriving DecidableEq, Repr

/-- The voltage at a VCORE domain, in mV (R326). -/
structure DomainVolts where
  domain : Nat
  mv     : Nat
  deriving DecidableEq, Repr

/-- A segment seen from one of its end ports: the port and the express ID, 0 for a neighbour link
(R292, R295). -/
structure SegId where
  port : Nat
  xid  : Nat
  deriving DecidableEq, Repr

/-- The name of a data chunk within a collective (R247). -/
structure ChunkKey where
  srcRank : Nat
  level   : Nat
  segment : Nat
  chunk   : Nat
  stat    : Bool := false
  deriving DecidableEq, Repr

/-- An acknowledgement: the chunk it answers and the receive buffers it grants (R235, R247). -/
structure ChunkAck where
  key    : ChunkKey
  grants : Nat
  deriving DecidableEq, Repr

/-- Which VC's packet leaves, and how many of its flits leave before VC0 takes the port (R268). -/
structure PacketTurn where
  vc    : Nat
  flits : Nat
  deriving DecidableEq, Repr

/-- How a channel's copy ended (R162): on a sound new channel or not, and what the DRAM did meanwhile. -/
structure CopyEnd where
  failed : Bool
  mem    : MemIn := {}
  deriving DecidableEq, Repr

/-- Why a member stopped a collective: a digest difference (R245), or a chunk whose fourth send
failed (R247). -/
inductive AbortKind where
  | mismatch
  | sendFailed
  deriving DecidableEq, Repr

/-- One layer's 48-byte statistics entry (R194). -/
structure StatEntry where
  amax   : F32
  su     : F32
  sw     : F32
  nz     : BitVec 64
  nf     : BitVec 64
  ufE5m2 : BitVec 64
  ufMx   : BitVec 64
  deriving DecidableEq, Repr

/-- New compute values sent by an owner (R218): the layer, the step, the byte offset of the run
within the slot and the bytes. -/
structure ComputeValues where
  layer : Nat
  step  : Nat
  off   : Nat
  data  : Bytes
  deriving DecidableEq, Repr

/-- The answer to sent compute values (R218). -/
inductive ComputeAnswer where
  | acknowledged
  | refused
  deriving DecidableEq, Repr

/-- The boot ROM's verdict on the bundle of one slot (R341, R367): it passes, it fails check 1, 4 or
5, or it fails check 2 or 3. -/
inductive BundleVerdict where
  | pass
  | badSignature
  | notTested
  deriving DecidableEq, Repr

/-- What the physical parts do during the power-on sequence (R337 to R343). Empty lists and `none`
mean that nothing fails. (DESIGN CHOICE, log 112.) -/
structure BringUp where
  /-- straps sampled at step 2 (R389): BIF_SEL grounded (x8x8), ADDR1, ADDR0 -/
  bifGrounded   : Bool := false
  addr1         : Bool := true
  addr0         : Bool := true
  /-- input voltage in mV -/
  inputMv       : Nat := 54000
  /-- rail whose regulator fails to start (FAULT 0x10) -/
  regulatorFail : Option Nat := none
  pllFail       : Bool := false
  verdict0      : BundleVerdict := .pass
  verdict1      : BundleVerdict := .pass
  flashFail     : Bool := false
  /-- records of the configuration flash, by their place in it, that no longer read as written (R358) -/
  flashUpsets   : List Nat := []
  /-- physical cores that do not acknowledge microcode (step 5) or fail BIST (step 6) -/
  noAck         : List Nat := []
  bistFail      : List Nat := []
  /-- step 6: on-die network or queue engine; network interface, Plait or Steeper -/
  bistQueue     : Bool := false
  bistNetwork   : Bool := false
  /-- physical channels (stack · 34 + channel) that fail training, and failing lanes by channel -/
  untrained     : List Nat := []
  lanesSpared   : List (Nat × Nat) := []
  /-- rows reported by BIST: (logical channel, bank, logical row) -/
  badRows       : List (Nat × Nat × Nat) := []
  /-- lasers that do not light, tag emitters that do not light -/
  lasersDark    : List Nat := []
  /-- identity records received at step 11, by port (R282) -/
  records       : List (Nat × Bytes) := []
  /-- ports whose loop closes at step 11 -/
  loops         : List Nat := []
  /-- the DRAM at a reset that flushes the write-combining entries (R172) -/
  mem           : MemIn := {}
  /-- milliseconds from power to Ready, for DBX_READY -/
  readyMs       : Nat := 7621
  deriving DecidableEq, Repr

/-- How a firmware-update step ends (R369): whether the flash failed; at step 4 the host memory that the image is read
from, or what PLDM RequestFirmwareData has supplied; at step 5 whether certificate and signature verify (check 1). -/
structure StepEnd where
  failed : Bool := false
  host   : HostIn := {}
  data   : Bytes := []
  signed : Bool := true
  deriving DecidableEq, Repr

/-- A PLDM Type 0 request (DSP0240). -/
inductive PldmBase where
  | setTid (tid : Byte)
  | getTid
  | getVersion (type_ : Byte)
  | getTypes
  | getCommands (type_ : Byte)
  | other (code : Byte)
  deriving DecidableEq, Repr

/-- A PLDM Type 2 request (DSP0248): a sensor's reading, a PDR by its record handle, or what the repository holds. -/
inductive PldmSensor where
  | reading (sensorId : Nat)
  | pdr (handle : Nat)
  | repositoryInfo
  deriving DecidableEq, Repr

/-- Levels on the sideband pins of R388, true for high. -/
structure Sideband where
  perst0  : Bool := false
  perst1  : Bool := false
  bifSel  : Bool := true
  addr1   : Bool := true
  addr0   : Bool := true
  smbClk  : Bool := true
  smbDat  : Bool := true
  alertN  : Bool := true
  pwrgd   : Bool := false
  prsntN  : Bool := false
  deriving DecidableEq, Repr

/-- The JTAG instructions of R391. With the two that use the scan chain: the levels that the baseboard drives on the pins
as they are captured, and what is shifted into the chain. -/
inductive JtagOp where
  | bypass
  | idcode
  | samplePreload (pins shifted : Sideband)
  | extest (pins shifted : Sideband)
  deriving DecidableEq, Repr

/-- The reading of one sensor: valid, failed (KT_SENSOR_FAIL) or unavailable (R359). -/
inductive Reading where
  | valid (value : Int)
  | failed
  | unavailable
  deriving DecidableEq, Repr

/-- Why a channel is marked for repair (R161). -/
inductive RepairCause where
  | fourthLinkFailure
  | resendRate
  | laneFault
  deriving DecidableEq, Repr

/-- The MCTP control commands of DSP0236 that set or read the endpoint ID, and any other. -/
inductive MctpControl where
  | setEndpointId (eid : Nat)
  | getEndpointId
  | other (code : Nat)
  deriving DecidableEq, Repr

/-- The light of one slot of a lane's frame in a mode, 1 DP-QPSK or 2 DP-16QAM: its symbols, each the levels of XI, XQ,
YI and YQ (R289, R290). Slot 0 has the frame's marker before it. -/
structure Light where
  mode    : Nat
  symbols : List (List Int)
  deriving DecidableEq, Repr

/-- The commands: one constructor for each row of spec/opcode_table.json. -/
inductive Instr where
  -- queue engine and registers
  | descriptorFetch (ring : Nat) (host : HostIn)
  | dispatch (ring : Nat)
  | descriptorTimeout (at_ : TimerOf)
  | heldRecordRelease (oring : Nat)
  | doorbellSweep (fn : Nat) (host : HostIn)
  | qeWake (fn : Nat) (value : Word32) (host : HostIn)
  | irqLeafClear (fn offset : Nat) (value : Word32)
  | irqMaskWrite (fn : Nat) (value : Word32)
  | ringEnable (fn ring : Nat) (value : Word32)
  | ringDisable (fn ring : Nat) (value : Word32)
  | oringEnable (fn oring : Nat) (value : Word32)
  | driverNegotiate (fn : Nat) (value : Word32)
  | partitionEnable (fn p : Nat) (value : Word32)
  | partitionDisable (fn p : Nat) (value : Word32)
  | regionEnable (fn rid : Nat) (value : Word32)
  | regionInitDone (rid : Nat)
  | regionDisable (fn rid : Nat) (value : Word32)
  | layerTableLoad (fn p : Nat) (value : Word32) (mem : MemIn)
  | caddyEnable (fn p : Nat) (value : Word32)
  | caddyDisable (fn p : Nat) (value : Word32)
  | detModeWrite (fn : Nat) (value : Word32)
  | mbAsyncRemove (fn : Nat) (value : Word32)
  | registerWrite (fn offset : Nat) (enables : BitVec 4) (value : Word32)
  | bar2Read (fn addr len : Nat) (mem : MemIn)
  | bar2Write (fn addr : Nat) (data : Bar2Data)
  -- descriptor operations, by in-flight slot
  | nop (op : Nat) (env : Env)
  | evtSet (op : Nat) (env : Env)
  | evtAdd (op : Nat) (env : Env)
  | timestamp (op : Nat) (env : Env)
  | gemm (op : Nat) (env : Env)
  | expr (op : Nat) (env : Env)
  | rowReduce (op : Nat) (env : Env)
  | colReduce (op : Nat) (env : Env)
  | softmaxFwd (op : Nat) (env : Env)
  | softmaxBwd (op : Nat) (env : Env)
  | normFwd (op : Nat) (env : Env)
  | normBwd (op : Nat) (env : Env)
  | copy (op : Nat) (env : Env)
  | transpose (op : Nat) (env : Env)
  | pack (op : Nat) (env : Env)
  | unpack (op : Nat) (env : Env)
  | gather (op : Nat) (env : Env)
  | scatterAdd (op : Nat) (env : Env)
  | hostRead (op : Nat) (env : Env)
  | hostWrite (op : Nat) (env : Env)
  | rngUniform (op : Nat) (env : Env)
  | rngNormal (op : Nat) (env : Env)
  | rngBernoulli (op : Nat) (env : Env)
  | stashPut (op : Nat) (env : Env)
  | stashGet (op : Nat) (env : Env)
  | stashFree (op : Nat) (env : Env)
  | stArm (op : Nat) (env : Env)
  | stShardSet (op : Nat) (env : Env)
  | stSchedSet (op : Nat) (env : Env)
  | allReduce (op : Nat) (env : Env)
  | reduceScatter (op : Nat) (env : Env)
  | allGather (op : Nat) (env : Env)
  | broadcast (op : Nat) (env : Env)
  | reduce (op : Nat) (env : Env)
  | allToAll (op : Nat) (env : Env)
  | barrier (op : Nat) (env : Env)
  | stepVote (op : Nat) (env : Env)
  | send (op : Nat) (env : Env)
  | recv (op : Nat) (env : Env)
  | mcastPut (op : Nat) (env : Env)
  | groupSet (op : Nat) (env : Env)
  | planStage (op : Nat) (env : Env)
  | planCommit (op : Nat) (env : Env)
  | fence (op : Nat) (env : Env)
  | mcastSet (op : Nat) (env : Env)
  -- mailbox requests: endpoint 0 to 15 a function, 16 SMBus, 17 and 18 the VDM endpoints (R363)
  | getInfo (ep : Nat) (tag : BitVec 16)
  | sensorRead (ep : Nat) (tag : BitVec 16) (first : BitVec 16) (count : Byte)
  | logRead (ep : Nat) (tag : BitVec 16) (seq : Word32) (count : BitVec 16) (addr : BitVec 64) (host : HostIn)
  | setMgmtCap (ep : Nat) (tag : BitVec 16) (cap : BitVec 16)
  | reset (ep : Nat) (tag : BitVec 16) (domain : Byte)
  | partReset (ep : Nat) (tag : BitVec 16) (part : Byte)
  | partHandover (ep : Nat) (tag : BitVec 16) (part newFn force : Byte) (image record : BitVec 64) (host : HostIn)
  | coreReconfig (ep : Nat) (tag : BitVec 16)
  | bootPlanSet (ep : Nat) (tag : BitVec 16) (addr : BitVec 64) (len : Word32) (wait : BitVec 16) (host : HostIn)
  | alertMask (ep : Nat) (tag : BitVec 16) (mask : BitVec 16)
  | mviewRead (ep : Nat) (tag : BitVec 16)
  | mviewClear (ep : Nat) (tag : BitVec 16) (block : Byte) (leaves : Word32)
  | fwUpdate (ep : Nat) (tag : BitVec 16) (addr : BitVec 64) (len : Word32) (flags : Byte) (signatureOk : Bool) (host : HostIn)
  | fwUpdateStepDone (ending : StepEnd)
  | fwStatus (ep : Nat) (tag : BitVec 16)
  | fwActivate (ep : Nat) (tag : BitVec 16) (slot : Byte)
  | svnCommit (ep : Nat) (tag : BitVec 16)
  -- power and resets
  | inputPowerApplied (bu : BringUp)
  | bootWaitExpiry
  | brownOutTrip (mv : Nat)
  | overvoltageTrip (mv : Nat)
  | bladeWithdrawal (mv : Nat)
  | rootPllLoss (bu : BringUp)
  | coldReset (bu : BringUp)
  | warmReset (bu : BringUp)
  | fabricReset (bu : BringUp)
  | computeReset
  | functionLevelReset (fn : Nat)
  | perstAssert (port : Nat)
  | d3hotReturn (fn : Nat)
  | portDlDown (port : Nat)
  | portHoldExpiry (port : Nat)
  -- core faults
  | coreAckTimeout (core : Nat)
  | coreFailure (core : Nat)
  | coreRebind (core : Nat) (env : Env)
  | sramDoubleBitError (core word : Nat) (env : Env)
  -- memory repair
  | channelRepairMark (channel : Nat) (cause : RepairCause)
  | liveMigrationStart (channel : Nat)
  | migrationSwitch (channel : Nat) (ending : CopyEnd)
  | offlineRetrainDone (stack phys : Nat) (passed : Bool)
  | inPlaceRetrain (channel : Nat) (passed : Bool)
  | patrolScrub (rid granule block : Nat) (mem : MemIn)
  | wcEntryFlush (channel index : Nat) (mem : MemIn)
  | repairRecordWrite
  -- training state
  | stashReexecution (op : Nat) (env : Env)
  | stashFreeDeferred (op : Nat)
  | slotClaim (op layer : Nat)
  | reducedChunkApply (coll : CollRef) (chunk : Nat) (env : Env)
  | shardFinish (op entry : Nat) (env : Env)
  | ruleVResume (op entry : Nat) (env : Env)
  | computeValuesReceive (mcast : Nat) (src : Nat) (msg : ComputeValues)
  | computeValuesAck (op member : Nat) (msg : ComputeValues) (answer : ComputeAnswer)
  | computeValuesResend (op : Nat)
  | statisticsExchange (op : Nat) (host : HostIn) (mem : MemIn)
  | voteContribute (op : Nat)
  | voteDecision (op : Nat) (record : Bytes)
  -- collectives
  | collectiveOpen (op : Nat) (env : Env)
  | chunkReceive (via : SegId) (bytes : Bytes)
  | grantReceive (coll : CollRef) (fromRank count : Nat)
  | ackReceive (coll : CollRef) (fromRank : Nat) (ack : ChunkAck)
  | nakReceive (coll : CollRef) (fromRank : Nat) (key : ChunkKey)
  | chunkResendTimeout (coll : CollRef) (toRank : Nat) (key : ChunkKey)
  | abortNoticeReceive (coll : CollRef) (kind : AbortKind) (rank : Nat)
  | voteRecordReceive (via : SegId) (bytes : Bytes)
  -- fabric
  | packetReceive (via : SegId) (bytes : Bytes)
  | packetTransmit (seg : SegId) (turn : PacketTurn)
  | creditReturn (port : Nat) (tag : BitVec 64)
  | expressAnnounce (port : Nat) (tag : BitVec 64)
  | expressBusy (port : Nat) (tag : BitVec 64)
  | expressRetry (seg : SegId) (vc : Nat)
  | expressEnd (port : Nat) (tag : BitVec 64)
  | expressIdleKeepalive (seg : SegId)
  | epochSwitch
  | previousBankRetire
  | identityRecordSend (port : Nat)
  | identityRecordReceive (port : Nat) (bytes : Bytes)
  | neighbourRecordTimeout (port : Nat)
  | fabLinkDown (port : Nat)
  | routeFaultNotice (payload : Word32)
  -- links and light
  | flitReceive (seg : SegId) (lane index : Nat) (light : Light)
  | relayAck (port : Nat) (tag : BitVec 64)
  | relayNak (port : Nat) (tag : BitVec 64)
  | replayTimeout (seg : SegId) (seq : Nat)
  | lanesFrame (port : Nat) (tag : BitVec 64)
  | laneRetrainDone (seg : SegId) (lane : Nat)
  | enobWindowEnd (seg : SegId) (lane enob xt : Nat)
  | keepSend (port : Nat)
  | keepFrame (port : Nat) (tag : BitVec 64)
  | loopOpenTimeout (port : Nat)
  | portTrainingTimeout (port : Nat)
  | ringLockCheck (port lane tone margin : Nat) (marker : Byte)
  | ringSweepDone (port lane : Nat)
  | laserPowerSample (laser : Nat) (delta : Int)
  | laserStop (laser : Nat)
  | spareWarmDone (laser : Nat)
  | spareLockTimeout (laser : Nat)
  | laserChangeoverDone (wavelength : Nat)
  | tagEmitterFailure (port : Nat)
  -- Kettle
  | capLoopPeriod (watts centivolts : Nat) (currentBelow : Bool) (report : Telemetry)
  | limiterSample (milliamps : Nat)
  | coreCodeSwitch (core : Nat)
  | vcoreDroop (rail : DomainVolts)
  | thermalSensorScan (die stack : List Reading) (laserBank : Reading)
  | converterFail (converter : Nat)
  | phaseFail (rail phase : Nat)
  -- Drabex
  | drabexWatchdogExpiry
  | dbxRestart
  | logEntryWrite
  | getCerts (port : Nat) (object : Bytes)
  | measure (port : Nat) (object : Bytes)
  | doeAbort (port : Nat)
  | doeDiscovery (port : Nat) (index : Byte)
  | mctpControlMessage (ep : Nat) (msg : MctpControl)
  | pldmDiscovery (ep : Nat) (command : PldmBase)
  | pldmGetSensorReading (ep : Nat) (request : PldmSensor)
  | pldmRequestUpdate (ep : Nat) (manifest : Bytes) (len : Nat) (signatureOk : Bool)
  | pldmActivateFirmware (ep : Nat)
  | jtagInstruction (instr : JtagOp)
  -- rows at the end of the table
  | d3hotEntry (fn : Nat)
  | perstDeassert (port : Nat)
  | portLinkUp (port : Nat)
  | oringDisable (fn oring : Nat) (value : Word32)
  | reverseRelayFrame (port : Nat) (tag : BitVec 64)
  | droopStretchEnd (rail : DomainVolts)
  | lowWordRead (fn : Nat) (at_ : BarSpan)
  | bladeInsertion (bu : BringUp)
  | unlistedMailboxOp (ep : Nat) (req : Bytes)
  deriving DecidableEq, Repr

end Sys2Proof
end

