-- ==== Sys2Proof/Config.lean ====
section
/-! DEFINITION. What the spec leaves free: constants without a body. No proof can see their value,
so a theorem about them holds for every value. -/

namespace Sys2Proof.Config

/-- The n-th free value (DESIGN CHOICE, log 1): an undefined byte of an output range (R89, R155) or an unstated
result. `State.free` counts the values drawn. -/
opaque freeNat : Nat → Nat

/-- The fixed approximations of the special-function unit (R95, DESIGN CHOICE, log 12): functions of the
operand's bits alone, the same on every part. -/
opaque sfuRsqrt : F32 → F32
opaque sfuRecip : F32 → F32
opaque sfuExp : F32 → F32
opaque sfuLog : F32 → F32
opaque sfuTanh : F32 → F32
opaque sfuSigmoid : F32 → F32
opaque sfuErf : F32 → F32
opaque sfuSin : F32 → F32
opaque sfuCos : F32 → F32

/-- The ECDSA signature of a 48-byte hash under the identity key that never leaves the key store
(R372, DESIGN CHOICE, log 13): 96 bytes, as a number. -/
opaque identitySign : List (BitVec 8) → BitVec 768

/-- The device certificate followed by the CA certificate (R372, R375, DESIGN CHOICE, log 13). -/
opaque certificateChain : List (BitVec 8)

/-- SHA-384 of the fuse map, whose SVN_MIN can rise, and of the boot ROM (R376, DESIGN CHOICE, log 13). -/
opaque fuseMapHash : Nat → BitVec 384
opaque bootRomHash : BitVec 384

/-- SHA-384 of the configuration records in the flash (R376, DESIGN CHOICE, log 13): the spec gives their contents and not
their bytes, so the records come as lists of numbers. -/
opaque configHash : List (List Nat) → BitVec 384

/-- Minor interface versions of a bundle, by its bytes (R131, R380, DESIGN CHOICE, log 179). -/
opaque bundleCurMinor : List (BitVec 8) → BitVec 8
opaque bundlePrevMinor : List (BitVec 8) → BitVec 8

end Sys2Proof.Config
end

