-- ==== Sys2Proof/Machine/State.lean ====
section
/-! DEFINITION. The state of the module: every register, table, buffer, queue and pin the spec gives
it, grouped by block, as plain data. A default value of a field is its reset value; where the spec
gives none, the docstring names the log entry. -/

namespace Sys2Proof.Machine

open Sys2Proof

/-- A sparse table: keys strictly rising, no entry equal to the default. -/
abbrev Tbl (α : Type) := List (Nat × α)

/-- Bytes by address: a sparse table whose default is 0. -/
abbrev Mem := List Host.Cell

/-- The module variants (R1). -/
inductive Variant where
  | a
  | b
  | c
  deriving DecidableEq, Repr

/-- Data fused or programmed into the part (R51, R320, R364, R131, R368, R376). The spec gives no
values: DESIGN CHOICE, log 4. -/
structure PartData where
  variant   : Variant := .a
  /-- physical cores mapped out at manufacture, at most 28 -/
  mappedOut : List Nat := []
  /-- fused code of a physical core; the variant's maximum code where absent -/
  fuse      : Tbl Nat := []
  /-- fused voltage of each code in mV; R319's typical values -/
  fusedMv   : List Nat := [880, 830, 780, 740, 710, 680, 660, 620]
  serial    : Bytes := []
  dieStep   : Nat := 0
  picStep   : Nat := 0
  dramStep  : Nat := 0
  curMinor  : Nat := 0
  prevMinor : Nat := 0
  svnMin    : Nat := 0
  romVersion : Nat := 0
  /-- Lerram's PCI vendor ID (R374, DESIGN CHOICE, log 13) -/
  vendorId  : BitVec 16 := 0#16
  deriving DecidableEq, Repr

/-- Where the power-on sequence stands (R337, R340, R341, R334). -/
inductive Phase where
  /-- no input, or stage 2 shut down after a brown-out or overvoltage trip -/
  | off
  /-- stopped by a bring-up fault -/
  | stopped
  /-- at step 12, waiting for agreement on the boot plan -/
  | bootWait
  | ready
  | recovery
  /-- after a thermal trip -/
  | tripped
  deriving DecidableEq, Repr

/-- Power-on state, ID_STATUS, pins and TICK. -/
structure Power where
  phase     : Phase := .off
  /-- ID_STATUS fields (R339) -/
  ready     : Bool := false
  step      : Nat := 0
  fault     : Nat := 0
  slot      : Nat := 0
  fallback  : Bool := false
  cause     : Nat := 0
  warmCount : Nat := 0
  /-- straps sampled at step 2 (R389, DESIGN CHOICE, log 5) -/
  x8x8      : Bool := false
  addr1     : Bool := true
  addr0     : Bool := true
  /-- pins (R388, R392, DESIGN CHOICE, log 5): PERSTn_N asserted, PWR_EN_N made -/
  perst0    : Bool := true
  perst1    : Bool := true
  pwrEn     : Bool := true
  inputMv   : Nat := 0
  /-- a reset in progress that disables rings (R339) -/
  resetting : Bool := false
  /-- the Drabex runs; false during its restart (R349) -/
  drabexUp  : Bool := false
  /-- cold resets since manufacture, modulo 2^16 (R360, DESIGN CHOICE, log 6) -/
  boots     : Nat := 0
  /-- Drabex restarts since the last cold reset (R356) -/
  restarts  : Nat := 0
  /-- milliseconds to Ready of this bring-up (R356) -/
  readyMs   : Nat := 0
  /-- TICK (R318) -/
  tick      : BitVec 64 := 0#64
  /-- the JTAG instruction in force and whether EXTEST was entered since the last cold reset (R391) -/
  jtag      : JtagOp := .bypass
  extest    : Bool := false
  /-- what stands in the boundary-scan chain (R391) -/
  scan      : Sideband := {}
  deriving DecidableEq, Repr

/-- A doorbell page register pair and its count of consecutive read failures (R120, R121). -/
structure DbPage where
  valid : Bool := false
  addr  : Nat := 0
  fails : Nat := 0
  deriving DecidableEq, Repr

/-- An asynchronous notice of DBX_MB_ASYNC: CODE and ARG (14). -/
structure Notice where
  code : Nat
  arg  : Nat
  deriving DecidableEq, Repr

/-- The registers of one function (05, 14, 15). Interrupt leaves are kept by their BAR0 offset. -/
structure FnRegs where
  drvWritten : Bool := false
  drvMajor   : Nat := 0
  drvMinor   : Nat := 0
  accepted   : Bool := false
  refused    : Bool := false
  badAccess  : Bool := false
  foreign    : Bool := false
  lateWrite  : Bool := false
  flrValid   : Bool := false
  flrNoPart  : Bool := false
  flrPart    : Nat := 0
  flrOps     : Nat := 0
  d3hot      : Bool := false
  sweep      : Nat := 2
  pages      : Tbl DbPage := []
  irqMask    : Word32 := 0x7F#32
  leaves     : Tbl Word32 := []
  /-- the masked summary after the last command, to see it turn non-zero (R128) -/
  lastSum    : Word32 := 0#32
  /-- MSI-X messages sent, the standard's enable, vector mask and pending bits (R127, R128, PRESUMED, log 7) -/
  msix       : Nat := 0
  msixOn     : Bool := false
  msixMasked : Bool := true
  msixPend   : Bool := false
  /-- Device Control, BAR2 size as log2 of GiB, and AER uncorrectable status (R109, R114, PRESUMED, log 7) -/
  relaxed    : Bool := true
  mps        : Nat := 0
  mrrs       : Nat := 2
  bar2       : Nat := 0
  aer        : Word32 := 0#32
  /-- high words latched by low-word reads, by the offset of the high word (R5) -/
  latch      : Tbl (Option Word32) := []
  /-- DBX_MB_CTRL.GO, set by a write of 1 and standing while its request is in progress (R6; DESIGN CHOICE, log 139) -/
  mbGo       : Bool := false
  mbBusy     : Bool := false
  mbData     : Tbl Word32 := []
  mbAsync    : List Notice := []
  mbOverflow : Bool := false
  deriving DecidableEq, Repr

/-- One host port (R108, R109, R135). `up` is false while the port is in reset or DL_Down. `vfs` is the number of VFs
that SR-IOV enables, `vfsLost` the most that it has enabled since the PF's last reset: those a reset of the port or of its
PF reaches (R134; PRESUMED, log 7). -/
structure PortRegs where
  up     : Bool := false
  holdMs : Nat := 0x3E8
  vfs    : Nat := 0
  vfsLost : Nat := 0
  deriving DecidableEq, Repr

/-- FN_PART_STATUS.STATE. -/
inductive PartState where
  | disabled
  | enabling
  | enabled
  | disabling
  deriving DecidableEq, Repr

/-- A handover under way, between steps 2 and 5 (R136): the requesting PF and its tag, the new owner, the address of
the record and the image; whether the PF still waits for its answer, which a reset of the PF discards (R365). -/
structure HandOver where
  ep     : Nat
  tag    : BitVec 16
  newFn  : Nat
  record : Nat
  image  : Bytes
  reply  : Bool := true
  deriving DecidableEq, Repr

/-- The registers of one partition (15, 07, 08, 09). -/
structure PartRegs where
  owner    : Nat := 0
  state    : PartState := .disabled
  conflict : Bool := false
  held     : Bool := false
  hand     : Option HandOver := none
  cause    : Nat := 0
  cores    : BitVec 512 := 0#512
  ringFirst : Nat := 0
  ringCount : Nat := 0
  orFirst  : Nat := 0
  orCount  : Nat := 0
  evFirst  : Nat := 0
  evCount  : Nat := 0
  quota    : Nat := 0
  timeout  : Nat := 0x54
  evValid  : Bool := false
  evRing   : Nat := 0
  stValid  : Bool := false
  stRing   : Nat := 0
  seed     : BitVec 64 := 0#64
  layBase  : Nat := 0
  layFirst : Nat := 0
  layCount : Nat := 0
  layState : Nat := 0
  layErrKind : Nat := 0
  layErrEntry : Nat := 0
  /-- a loaded table is in force, and the blocks it was loaded for; a refused reload leaves it so (R175) -/
  layInForce : Bool := false
  forceFirst : Nat := 0
  forceCount : Nat := 0
  ufLimit  : Nat := 0x419
  shFirst  : Nat := 0
  shCount  : Nat := 0
  /-- CD_PART_REC and CD_PART_REX as last written, and the values in force since the Caddy was enabled (R6, R183) -/
  regRec   : Nat := 0
  regRexBase : Nat := 0
  regRexSize : Nat := 0
  recBase  : Nat := 0
  rexBase  : Nat := 0
  rexSize  : Nat := 0
  cdEnable : Bool := false
  cdState  : Nat := 0
  cdEntries : Nat := 0
  grpFirst : Nat := 0
  grpCount : Nat := 0
  contexts : Nat := 0
  mcFirst  : Nat := 0
  mcCount  : Nat := 0
  deriving DecidableEq, Repr

/-- A view of a versioned layer that a descriptor latched: view 0 or 1, the slot it resolved to and
that slot's version (R17, R178). -/
structure Latch where
  layer   : Nat
  view    : Nat
  slot    : Nat
  version : Nat
  deriving DecidableEq, Repr

/-- A descriptor fetched and not yet dispatched, with its fetch position (R118). -/
structure Fetched where
  pos   : Nat
  bytes : Bytes
  deriving DecidableEq, Repr

/-- One of the last 256 fetched descriptors of a ring, kept for STASH_PUT (R103, R188): its
completion status once known, the slots it latched and the TICK it wrote. -/
structure Recent where
  pos     : Nat
  bytes   : Bytes
  status  : Option Nat := none
  latches : List Latch := []
  deriving DecidableEq, Repr

/-- A submission ring: its registers and its status block (R116, R117). SIZE, TARGET and OUTRING of QE_RING_CFG are held
as last written (`cfgSize` and so on) and as in force since the ring was last enabled (R6, R399; DEDUCED, log 138). -/
structure Ring where
  base     : Nat := 0
  dbPage   : Nat := 0
  dbSlot   : Nat := 0
  enable   : Bool := false
  cfgSize  : Nat := 6
  cfgTarget : Nat := 0
  cfgOut   : Nat := 0
  size     : Nat := 6
  target   : Nat := 0
  outRing  : Nat := 0
  state    : Nat := 0
  error    : Nat := 0
  consumed : Nat := 0
  producer : Nat := 0
  waiting  : List Fetched := []
  recent   : List Recent := []
  deriving DecidableEq, Repr

/-- What a held record is (R125, R201, R354). A completion record keeps its operation's in-flight
slot, if it had one. -/
inductive RecKind where
  | completion (ring : Nat) (irq : Bool) (op : Option Nat)
  | event
  | statistics
  deriving DecidableEq, Repr

/-- A record due for an output ring and not yet written. -/
structure HeldRec where
  kind  : RecKind
  bytes : Bytes
  deriving DecidableEq, Repr

/-- An output ring (R123 to R125). -/
structure ORing where
  base     : Nat := 0
  dbPage   : Nat := 0
  dbSlot   : Nat := 0
  enable   : Bool := false
  size     : Nat := 6
  recsz    : Nat := 0
  produced : Nat := 0
  consumer : Nat := 0
  held     : List HeldRec := []
  deriving DecidableEq, Repr

/-- An event counter (R82). Value and poison at reset: DESIGN CHOICE, log 8. -/
structure EvtCounter where
  value  : Word32 := 0#32
  poison : Bool := false
  deriving DecidableEq, Repr

/-- Where a dispatched operation stands. -/
inductive OpPhase where
  /-- executing -/
  | running
  /-- completed; its record is held (R125) -/
  | recordHeld
  /-- stopped by a core failure, to be executed again after the rebinding (R70) -/
  | stopped
  /-- a STASH_GET that met a persistent mismatch and waits for its re-execution (R190) -/
  | reexecute
  /-- a STASH_FREE that waits for a running GET (R191) -/
  | freeing
  /-- a network operation registered with the Plait, Steeper or fabric -/
  | registered
  deriving DecidableEq, Repr

/-- An operation in the in-flight table (R126). `seq` is its place in dispatch order. -/
structure Op where
  id      : Nat
  seq     : Nat
  part    : Nat
  ring    : Nat
  core    : Nat
  pos     : Nat
  desc    : Bytes
  phase   : OpPhase := .running
  started : Bool := false
  /-- the limiter has skipped its core's clocks while it executed (R330) -/
  skipped : Bool := false
  latches : List Latch := []
  deriving DecidableEq, Repr

/-- A descriptor of a replay window (R69, R70). `status` is none until it completes. -/
structure WinEntry where
  op      : Nat
  part    : Nat
  ring    : Nat
  pos     : Nat
  desc    : Bytes
  status  : Option Nat := none
  latches : List Latch := []
  tick    : BitVec 64 := 0#64
  deriving DecidableEq, Repr

/-- The replay window of a logical core (R69, R71, R72): its descriptors, whether it can be
replayed, whether the rebuilt SRAM is not trusted, and the SRAM words that met a double-bit error. -/
structure Window where
  entries    : List WinEntry := []
  replayable : Bool := true
  untrusted  : Bool := false
  dbeWords   : List Nat := []
  deriving DecidableEq, Repr

/-- The queue engine (05). -/
structure Queues where
  rings   : Tbl Ring := []
  orings  : Tbl ORing := []
  evts    : Tbl EvtCounter := []
  ops     : List Op := []
  opSeq   : Nat := 0
  windows : Tbl Window := []
  /-- round-robin service (R119): the partition, and by partition the ring, from which the next fetch is looked for -/
  nextPart : Nat := 0
  nextRing : Tbl Nat := []
  deriving DecidableEq, Repr

/-- A logical core (03, 12): whether dispatch to it is stopped (R70 step 1) and the divider code in
force. Its physical core stands in `Cores.map`. -/
structure CoreRegs where
  stopped : Bool := false
  code    : Nat := 0
  deriving DecidableEq, Repr

/-- The cores and their map (R51, R342, R348). `map` holds the bound physical core; a number
without an entry is a hole. -/
structure Cores where
  regs     : Tbl CoreRegs := []
  map      : Tbl (Option Nat) := []
  /-- physical cores that are candidates of this bring-up (R342) -/
  good     : List Nat := []
  recorded : Option (Tbl (Option Nat)) := none
  late     : Tbl Nat := []
  /-- domains whose cores stretch clocks (R327) -/
  droop    : List Nat := []
  /-- single-bit errors corrected in the SRAM of a logical core since the cold reset (R55; what clears the count, DESIGN
  CHOICE, log 148) -/
  sbe      : Tbl Nat := []
  sram     : Mem := []
  deriving DecidableEq, Repr

/-- A region (R141): its class, size and base in force since it was enabled, and the last values written to CLASS, SIZE
and PDA, which read back (R6). (DEDUCED, log 47.) -/
structure Region where
  enable : Bool := false
  state  : Nat := 0
  cls    : Nat := 0
  size   : Nat := 0
  base   : Nat := 0
  slot   : Nat := 0
  regCls  : Nat := 0
  regSize : Nat := 0
  regBase : Nat := 0
  deriving DecidableEq, Repr

/-- A logical channel (R160 to R170). -/
structure Channel where
  state   : Nat := 0
  phys    : Nat := 0
  reserveFree : Nat := 2622
  retired : Nat := 0
  deriving DecidableEq, Repr

/-- A pending write-combining entry (R155): region, byte mask, and the data block's index within the region or, for a
check block, its number on the channel. -/
structure WcEntry where
  rid   : Nat
  blk   : Nat
  mask  : BitVec 128
  check : Bool := false
  deriving DecidableEq, Repr

/-- A repair record for the configuration flash (R169, R312, R342, R348). -/
inductive RepairRec where
  /-- by physical channel, stack · 34 + channel: the spare row that now stands for a logical row, and its remap count -/
  | rowRemap (phys bank row count spare : Nat)
  | retired (channel slot reserve : Nat)
  | channelFailed (channel : Nat)
  /-- a physical channel that failed its offline retrain, by stack · 34 + channel (R162) -/
  | physFailed (phys : Nat)
  | laserRole (laser role : Nat)
  | wavelengthRetired (wavelength group : Nat)
  | lateFailure (phys count : Nat)
  | coreMap (map : Tbl (Option Nat))
  /-- the boot plan held, and BOOT_WAIT (R343) -/
  | bootPlan (image : Option Bytes) (wait : Nat)
  | alertMask (mask : BitVec 16)
  deriving DecidableEq, Repr

/-- A record in the configuration flash with its CRC-32C, and its previous copy with that one's (R358). -/
structure FlashRec where
  rcd  : RepairRec
  crc  : Word32
  prev : Option (RepairRec × Word32) := none
  deriving DecidableEq, Repr

/-- A migration on a stack: the logical channel, its old physical channel and the spare (R162). -/
structure Migration where
  channel : Nat
  oldPhys : Nat
  newPhys : Nat
  deriving DecidableEq, Repr

/-- DRAM and the Weave (06). -/
structure Dram where
  cells    : Mem := []
  flips    : Mem := []
  wc       : Tbl (List WcEntry) := []
  regions  : Tbl Region := []
  channels : Tbl Channel := []
  /-- by physical channel, stack · 34 + channel: lanes mapped out and row remaps made (R160, R167) -/
  lanes    : Tbl Nat := []
  remaps   : Tbl Nat := []
  /-- the row map (R146, R167): the physical row of a logical row of a physical channel, 0 its own number; its remap
  count; used spare rows of a bank -/
  rowMap   : Tbl Nat := []
  rowCount : Tbl Nat := []
  bankUsed : Tbl Nat := []
  /-- retirement entries: (channel · 2^20 + slot) to reserve slot -/
  retire   : Tbl Nat := []
  /-- spare physical channels that trained, by stack; physical channels recorded as failed -/
  spares   : Tbl (List Nat) := []
  failed   : List Nat := []
  /-- physical channels in offline retrain (R162 step 6), by module-wide index -/
  offline  : List Nat := []
  migrations : Tbl Migration := []
  /-- channels marked for repair and waiting, in order (R161) -/
  repairs  : List Nat := []
  capacity : Bool := false
  shortRaised : List Nat := []
  pendingRecs : List RepairRec := []
  /-- refresh interval halved, by stack (R173) -/
  refresh  : Tbl Bool := []
  deriving DecidableEq, Repr

/-- A layer-table entry (R176). -/
structure Layer where
  valid     : Bool := false
  versioned : Bool := false
  governed  : Bool := false
  enforce   : Bool := false
  gInit     : Nat := 0
  gFloor    : Nat := 0
  slot0     : Nat := 0
  slot1     : Nat := 0
  len       : Nat := 0
  verInit   : Nat := 0
  ratioMin  : F32 := 0#32
  ratioMax  : F32 := 0#32
  deriving DecidableEq, Repr

/-- The version state of a layer (R178 to R180): the current slot, the version each slot holds, the
step that claimed the other slot, the two fences, and the byte ranges of the claimed slot that have
been written for that step (R218). -/
structure VerState where
  cur    : Nat := 0
  ver0   : Option Nat := none
  ver1   : Option Nat := none
  claim  : Option Nat := none
  fence0 : Nat := 0
  fence1 : Nat := 0
  filled : List (Nat × Nat) := []
  deriving DecidableEq, Repr

/-- A gradient accumulator (R192, R193). -/
structure GradAcc where
  nz     : Nat := 0
  nf     : Nat := 0
  amax   : F32 := 0#32
  ufE5m2 : Nat := 0
  ufMx   : Nat := 0
  deriving DecidableEq, Repr

/-- Statistics and governor state of a layer (R193, R196, R197): the two accumulators, the open
step, the late mark, the rank held, the relaxation count and rank, the step whose format is set,
the first step after load, and the exchanged statistics waiting for the vote (log 77). -/
structure GovState where
  acc0   : GradAcc := {}
  acc1   : GradAcc := {}
  opened : Option Nat := none
  late   : Bool := false
  rank   : Nat := 0
  relax  : Nat := 0
  held   : Nat := 0
  setFor : Nat := 0
  first  : Option Nat := none
  /-- by arming, GROUP · 2^32 + SEQ: what its exchange of the step gave, and whether that is incomplete (R194) -/
  exchanged : Option (Nat × List (Nat × StatEntry × Bool)) := none
  /-- the step whose accumulator an exchange has taken along -/
  taken  : Option Nat := none
  deriving DecidableEq, Repr

/-- A pinned slot of a stash entry (R181). -/
structure Pin where
  layer   : Nat
  slot    : Nat
  version : Nat
  deriving DecidableEq, Repr

/-- A stash entry: its header and the copies of its producers, and its record slot in the record area (R183, R188).
(DESIGN CHOICE, log 49.) -/
structure Stash where
  codec  : Nat := 0
  count  : Nat := 0
  fmt    : Nat := 0
  layout : Nat := 0
  src    : BitVec 64 := 0#64
  dst    : Nat := 0
  size   : Nat := 0
  ring   : Nat := 0
  rex    : Nat := 0
  pins   : List Pin := []
  prods  : List Recent := []
  slot   : Nat := 0
  /-- a STASH_FREE that timed out and still frees the entry when its GET ends (R191) -/
  freeing : Option Nat := none
  deriving DecidableEq, Repr

/-- The Caddy and the layer state (07). Stash entries are keyed by partition · 2^32 + ENTRY. -/
structure Training where
  layers : Tbl Layer := []
  vers   : Tbl VerState := []
  govs   : Tbl GovState := []
  stash  : Tbl (Option Stash) := []
  deriving DecidableEq, Repr

/-- Progress of one shard entry of an arming. -/
inductive EntryState where
  /-- elements still due -/
  | filling
  /-- Rule V: waiting on counter V_EVT + 1 -/
  | waitingV
  /-- pending half and compute copy written -/
  | finished
  deriving DecidableEq, Repr

/-- Compute values sent to one member and not yet acknowledged (R218). -/
structure SentValues where
  member  : Nat
  values  : ComputeValues
  refused : Bool := false
  deriving DecidableEq, Repr

/-- An ST_ARM in progress (R210 to R221). `ord` counts the armings of its step that started before it, `per` the
elements of a chunk of its REDUCE_SCATTER once bound. `done` holds the chunks applied, `vals` the reduced values of
blocks of 32 that are not whole yet, by position in the member's segment. -/
structure Arming where
  op        : Nat
  part      : Nat
  step      : Nat
  group     : Nat
  seq       : Nat
  first     : Nat
  count     : Nat
  mcast     : Nat
  ord       : Nat := 0
  per       : Nat := 0
  claimed   : List Nat := []
  bound     : Bool := false
  done      : List Nat := []
  vals      : Tbl (Option F32) := []
  entries   : Tbl EntryState := []
  /-- elements of each entry applied or staged, by entry index -/
  applied   : Tbl Nat := []
  sent      : List SentValues := []
  gap       : Bool := false
  nonfinite : Bool := false
  exchanged : Bool := false
  /-- in the record that was contributed -/
  counted   : Bool := false
  degraded  : Nat := 0
  deriving DecidableEq, Repr

/-- An arming that has ended, kept so that a late copy of its chunks is known to be stale (R211). -/
structure PastArming where
  part  : Nat
  group : Nat
  seq   : Nat
  step  : Nat
  first : Nat
  count : Nat
  per   : Nat
  deriving DecidableEq, Repr

/-- The vote state of a partition (R203, R221 to R226): the last outcome; records contributed and not decided, by step;
undecided steps; steps discarded on this member, which end as in a skip (R225, R228) and leave the last outcome
(DEDUCED, log 78). -/
structure VoteState where
  lastStep   : Option Nat := none
  lastCommit : Bool := false
  contributed : List (Nat × Bytes) := []
  undecided  : List Nat := []
  discarded  : List Nat := []
  /-- armings started, by step; failed armings: their step, place in starting order, and layers (R200, R221) -/
  started    : Tbl Nat := []
  failed     : List (Nat × Nat × List Nat) := []
  suspectRank : Option Nat := none
  suspects   : Nat := 0
  deriving DecidableEq, Repr

/-- The Steeper (08): shard images by index, schedule images by 16 · partition + entry, armings,
votes. -/
structure Steeper where
  shards  : Tbl Bytes := []
  scheds  : Tbl Bytes := []
  armings : List Arming := []
  past    : List PastArming := []
  votes   : Tbl VoteState := []
  staleRaised : List (Nat × Nat) := []
  deriving DecidableEq, Repr

/-- A group-table entry (R230, R231): SIZE, MYRANK and so on, the recorded hash and the next
sequence numbers of the group and of each ordered pair (sender · 2^16 + receiver). -/
structure Group where
  valid  : Bool := false
  quota  : Nat := 0
  size   : Nat := 0
  myRank : Nat := 0
  seq0   : Nat := 0
  list   : Nat := 0
  ghash  : Word32 := 0#32
  next   : Nat := 0
  pairs  : Tbl (Option Nat) := []
  deriving DecidableEq, Repr

/-- A chunk sent and kept until it is acknowledged (R247). -/
structure SentChunk where
  dst   : Nat
  key   : ChunkKey
  bytes : Bytes
  sends : Nat := 1
  acked : Bool := false
  deriving DecidableEq, Repr

/-- A chunk received and combined or written once (R247); `red` where it carries a node value. -/
structure GotChunk where
  key     : ChunkKey
  red     : Bool := false
  wfmt    : Nat
  payload : Bytes
  /-- buffers that its acknowledgement returned to its sender -/
  returned : Nat := 1
  deriving DecidableEq, Repr

/-- An open collective context (R234 to R249). `src` holds the bytes of SRC read at opening. -/
structure Ctx where
  op       : Nat
  part     : Nat
  coll     : CollRef
  slot     : Nat
  code     : Nat
  rank     : Nat
  size     : Nat
  coords   : List Nat
  ghash    : Word32
  /-- ranks fenced when the context opened, and while it was open -/
  absent   : List Nat := []
  lost     : List Nat := []
  epoch    : Nat := 0
  src      : Bytes := []
  plane    : Bytes := []
  got      : List GotChunk := []
  sent     : List SentChunk := []
  /-- buffers granted to this member by each rank, and granted by this member -/
  grants   : Tbl Nat := []
  granted  : Tbl Nat := []
  digests  : Tbl (BitVec 64) := []
  /-- segments or blocks already written to DST or handed to the Steeper -/
  written  : List (Nat × Nat) := []
  /-- root chunks, by segment and chunk, that this member has measured (R241) -/
  measured : List (Nat × Nat) := []
  /-- the layer entries with which this member has begun the statistics exchange (R194, R248) -/
  stats    : Option (List StatEntry) := none
  /-- a chunk passed a segment below full rate (R306); a memory channel stalled (R164) -/
  degraded : Bool := false
  stalled  : Bool := false
  received : Nat := 0
  resends  : Nat := 0
  /-- vote and barrier records received from children, by rank, and the record contributed -/
  records  : List (Nat × Bytes) := []
  own      : Option Bytes := none
  result   : Option Bytes := none
  deriving DecidableEq, Repr

/-- A vote or barrier record sent and not acknowledged when its operation completed (R247). -/
structure KeptRecord where
  coll  : CollRef
  me    : Nat
  peers : List Nat
  chunk : SentChunk
  deriving DecidableEq, Repr

/-- Grants and an abort notice absorbed for a collective before it opens on this member (R235, R245). (DEDUCED, log 71.) -/
structure EarlyNote where
  coll   : CollRef
  rank   : Nat
  grants : Nat := 0
  abort  : Option (AbortKind × Nat) := none
  deriving DecidableEq, Repr

/-- The Plait (09): group table and open contexts. Operations not yet open stand in the in-flight
table in phase `registered`. -/
structure Plait where
  groups  : Tbl Group := []
  ctxs    : List Ctx := []
  kept    : List KeptRecord := []
  early   : List EarlyNote := []
  deriving DecidableEq, Repr

/-- A multicast entry (R275). -/
structure McEntry where
  ports : BitVec 12 := 0#12
  loc   : Bool := false
  deriving DecidableEq, Repr

/-- What a neighbour's last identity record says (R282, FAB_NBR). -/
structure Nbr where
  seen   : Bool := false
  agreed : Bool := false
  coord  : Nat := 0
  port   : Nat := 0
  hxver  : Nat := 0
  role   : Nat := 0
  hashAct : BitVec 64 := 0#64
  hashStg : BitVec 64 := 0#64
  deriving DecidableEq, Repr

/-- A message of this module waiting for injection: a whole Plait chunk, block of compute values or
notice (R262, R263). -/
structure OutMsg where
  vc    : Nat
  kind  : Nat
  mcast : Bool
  dst   : Nat
  bytes : Bytes
  /-- the collective's operation whose chunk it is (R306) -/
  op    : Option Nat := none
  deriving DecidableEq, Repr

/-- A packet waiting at a transmitter: its bytes, and how many times its own size in credits it
needs (2 when it enters an axis, R267). -/
structure QPacket where
  bytes : Bytes
  need  : Nat
  /-- the segment it came in on, whose credits return when it leaves; the ports of a multicast's other copies -/
  via   : Option SegId := none
  ports : List Nat := []
  op    : Option Nat := none
  deriving DecidableEq, Repr

/-- Messages of one source, destination and VC being put together (R262): the one under way, with the index of its next
fragment (0 for none), and those discarded, each until its last fragment. -/
structure Reasm where
  src   : Nat
  dst   : Nat
  vc    : Nat
  msg   : Nat := 0
  next  : Nat := 0
  bytes : Bytes := []
  dead  : List Nat := []
  deriving DecidableEq, Repr

/-- A whole message delivered to this module: the VC it came on, packet KIND, source and bytes. -/
structure Delivered where
  vc    : Nat
  kind  : Nat
  src   : Nat
  bytes : Bytes
  deriving DecidableEq, Repr

/-- The switch of an output port for express light (R272). -/
inductive Switch where
  | free
  | reserved (xid vc inPort epoch : Nat)
  | carrying (xid vc inPort epoch : Nat)
  deriving DecidableEq, Repr

/-- The deficit round robin of a port (R268): the VC whose turn it is, and the flits each VC may still send. -/
structure Round where
  turn : Nat := 1
  left : Tbl Nat := []
  deriving DecidableEq, Repr

/-- The flits of a packet that a VC0 packet pre-empted, still to be sent, and the packet's epoch (R268). -/
structure CutPacket where
  epoch : Nat := 0
  flits : List (Bytes × Nat × List Nat) := []
  deriving DecidableEq, Repr

/-- An epoch change in progress (R279, R286). `op` is none for the boot plan (R343). -/
structure EpochChange where
  op      : Option Nat
  epoch   : Nat
  fence   : List Nat
  isFence : Bool
  /-- topology agreement reached: steps 2 and 3 run -/
  draining : Bool
  deriving DecidableEq, Repr

/-- The fabric (10). Banks hold plan images. -/
structure Fabric where
  active   : Option Bytes := none
  previous : Option Bytes := none
  staged   : Option Bytes := none
  epoch    : Nat := 0
  prevEpoch : Nat := 0
  prevKept : Bool := false
  change   : Option EpochChange := none
  fence    : List Nat := []
  mcast    : Tbl McEntry := []
  nbrs     : Tbl Nbr := []
  missing  : BitVec 12 := 0#12
  extra    : BitVec 12 := 0#12
  discHdr  : Nat := 0
  discMsg  : Nat := 0
  discExp  : Nat := 0
  discRoute : Nat := 0
  /-- TICK + 1 of the last FAB_DISCARD event of each kind, 0 for none (R354) -/
  discTick : Tbl Nat := []
  /-- order reversals in force and pending: destination · 4 + VC (R285) -/
  reversals : List Nat := []
  pendRev  : List Nat := []
  reversed : List Nat := []
  /-- notices sent in this epoch: source, destination, VC -/
  notices  : List (Nat × Nat × Nat) := []
  outbox   : List OutMsg := []
  msgCount : Tbl Nat := []
  reasm    : List Reasm := []
  delivered : List Delivered := []
  /-- packets waiting by (port · 4096 + XID) · 4 + VC -/
  txq      : Tbl (List QPacket) := []
  /-- credits spent at the terminator, by the same key -/
  spent    : Tbl Nat := []
  switches : Tbl Switch := []
  /-- flits still due of an announced express payload that ends here, by port · 4096 + XID (R271) -/
  incoming : Tbl Nat := []
  /-- deficit round robin by port, and pre-empted packets by the key of `txq` (R268) -/
  rounds   : Tbl Round := []
  cut      : Tbl CutPacket := []
  /-- express payloads refused with busy, by (port · 4096 + XID) · 4 + VC -/
  busy     : List Nat := []
  bootPlan : Option Bytes := none
  bootWait : Nat := 60
  deriving DecidableEq, Repr

/-- R298. -/
inductive LinkState where
  | off
  | probe
  | ramp
  | acquire
  | up
  deriving DecidableEq, Repr

/-- A fibre port (R298 to R301). -/
structure LinkPort where
  state   : LinkState := .off
  version : Nat := 0
  verOk   : Bool := false
  loop    : Bool := false
  /-- a valid tag frame was received within the last 2 µs -/
  heard   : Bool := false
  replays : Nat := 0
  emitterFailed : Bool := false
  /-- lanes whose rings locked in RAMP (R298) -/
  locked  : BitVec 8 := 0#8
  deriving DecidableEq, Repr

/-- A lane of a port (R302 to R308, OPT_WL_STAT): mode 0 off, 1 DP-QPSK, 2 DP-16QAM. Lanes of an express segment that
ends at the port stand under the port number + 12 · XID. -/
structure Lane where
  mode     : Nat := 0
  resweep  : Bool := false
  retired  : Bool := false
  enob     : Nat := 0
  xt       : Nat := 0
  /-- consecutive windows in favour of the next higher or lower mode -/
  up16     : Nat := 0
  upQ      : Nat := 0
  down     : Nat := 0
  /-- lane drained for a laser changeover (R310), or kept off after a second wrong lock (R308) -/
  drained  : Bool := false
  keptOff  : Bool := false
  /-- TICK + 1 of the last wrong lock, 0 for none (R308) -/
  wrongTick : Nat := 0
  deriving DecidableEq, Repr

/-- A data flit kept until acknowledged (R295 to R297). -/
structure KeptFlit where
  seq     : Nat
  lane    : Nat
  vc      : Nat
  body    : Bytes
  poff    : Nat
  replays : Nat := 0
  /-- EPOCH of the packet it was made for (R271) -/
  epoch   : Nat := 0
  /-- the collectives' operations whose chunks it holds bytes of (R306) -/
  ops     : List Nat := []
  deriving DecidableEq, Repr

/-- Bytes of a VC's stream not yet filling a flit body, and where the first packet header among them starts (256:
none). -/
structure Tail where
  bytes : Bytes := []
  poff  : Nat := 256
  ops   : List Nat := []
  deriving DecidableEq, Repr

/-- A segment (R295, R304, R305): transmit side and receive side. -/
structure Seg where
  nextSeq  : Nat := 0
  kept     : List KeptFlit := []
  tail     : Tbl Tail := []
  rxNext   : Nat := 0
  rxHold   : List KeptFlit := []
  rxBytes  : Tbl Bytes := []
  nakked   : List Nat := []
  /-- lane masks last reported by the terminator: DP-16QAM and DP-QPSK -/
  mask16   : BitVec 8 := 0#8
  maskQ    : BitVec 8 := 0#8
  /-- lanes dropped or retraining at the launcher -/
  out      : BitVec 8 := 0#8
  down     : Bool := false
  /-- an express segment has come up: its lane set has held MIN_WL lanes since (R298, R304) -/
  ready    : Bool := false
  /-- SEQ of unacknowledged flits to send again once the port can (R272, R300) -/
  due      : List Nat := []
  deriving DecidableEq, Repr

/-- Where a laser changeover stands (R310). -/
inductive Changeover where
  | none
  /-- the laser has stopped and the Drabex, which restarts, has not decided on it (R349) -/
  | undecided
  | warming (spare : Nat) (drained : Bool)
  | switched (spare : Nat)
  deriving DecidableEq, Repr

/-- A laser (R309 to R312): role 0 group A, 1 group B, 2 spare, 3 failed. -/
structure Laser where
  role   : Nat := 2
  warm   : Bool := false
  locked : Bool := false
  delta  : Int := 0
  fadeRaised : Bool := false
  change : Changeover := .none
  lit    : Bool := false
  deriving DecidableEq, Repr

/-- What leaves on a fibre: a tag frame, the light of a slot of a lane's frame, an identity record. -/
inductive Wire where
  | tag (port : Nat) (bits : BitVec 64)
  | flit (port xid lane index : Nat) (light : Light)
  | identity (port : Nat) (record : Bytes)
  deriving DecidableEq, Repr

/-- Links and light (11). -/
structure Links where
  minWl   : Nat := 4
  q16Up   : Nat := 0x58
  q16Down : Nat := 0x50
  qpskUp  : Nat := 0x30
  qpskDown : Nat := 0x28
  xt16    : Nat := 0x48
  xtOff   : Nat := 0x30
  ports   : Tbl LinkPort := []
  lanes   : Tbl Lane := []
  segs    : Tbl Seg := []
  lasers  : Tbl Laser := []
  /-- laser roles and retired wavelengths of the configuration flash (R312) -/
  flashRoles : Tbl Nat := []
  flashRetired : List (Nat × Nat) := []
  /-- start-of-life powers of the lasers in the configuration flash, in 0.01 dBm (R309, R357; DESIGN CHOICE, log 177) -/
  flashPower : Tbl Int := []
  laserTemp : Int := 0
  /-- the slot of its frame that a lane of a port sends next, by port · 8 + lane (R290) -/
  frames  : Tbl Nat := []
  wire    : List Wire := []
  deriving DecidableEq, Repr

/-- The Kettle (12). `hostCap` and `mgmtCap` in units of 10 W. -/
structure Kettle where
  hostCap  : Nat := 300
  mgmtCap  : Option Nat := none
  /-- the management cap in force since the last period (R336) -/
  mgmtNow  : Option Nat := none
  det      : Bool := false
  f        : Nat := 0
  depth    : Nat := 0
  /-- f when depth 1 last began, and consecutive samples over the limit (R324) -/
  depthF   : Nat := 0
  overs    : Nat := 0
  quiet    : Nat := 0
  thermal  : Bool := false
  dieHot   : Bool := false
  watts    : Nat := 0
  volts    : Nat := 0
  converters : Nat := 4
  failedConv : List Nat := []
  /-- periods without telemetry, and the level held once it is lost (R335) -/
  missing  : Nat := 0
  heldF    : Option Nat := none
  /-- TICK + 1 of the last KT_BELOW_FLOOR, 0 for none; TICK when skipping began -/
  belowTick : Nat := 0
  skipTick : Nat := 0
  shedPhases : List (Nat × Nat) := []
  deriving DecidableEq, Repr

/-- A log entry without SEQ, TICK, BOOT and CHK, which are added when it is raised (R360). -/
structure LogEntry where
  kind : Nat
  code : Nat
  seq  : Nat
  tick : Nat
  boot : Nat
  args : Bytes
  part : Nat
  sev  : Nat
  deriving DecidableEq, Repr

/-- A bundle slot of the flash (R357, R371): 0 invalid, 1 valid, 2 being written; the bytes that an update wrote from the
slot's start on, none for what it held at manufacture, which the spec does not give; what its manifest says. -/
structure Slot where
  state : Nat := 0
  image : Option Bytes := none
  bver  : BitVec 64 := 0#64
  svn   : Nat := 0
  hash  : Bytes := []
  deriving DecidableEq, Repr

/-- Where the image of an update comes from (R369): host memory at an address of a function, or PLDM. -/
inductive UpdateSource where
  | host (fn addr : Nat)
  | pldm (ep : Nat)
  deriving DecidableEq, Repr

/-- A firmware update in progress (R369). -/
structure Update where
  step     : Nat
  target   : Nat
  activate : Bool
  source   : UpdateSource
  len      : Nat
  bver     : BitVec 64
  deriving DecidableEq, Repr

/-- The response of a mailbox endpoint or DOE instance, as bytes. -/
structure Response where
  ep    : Nat
  bytes : Bytes
  deriving DecidableEq, Repr

/-- A request held while the Drabex restarts, and whether its sender still waits for the answer: a Function Level Reset
of the sender discards it (R349, R365). -/
structure HeldReq where
  req   : Instr
  reply : Bool := true
  deriving DecidableEq, Repr

/-- A firmware image of a bundle slot at manufacture: DESIGN CHOICE, log 6. -/
def factorySlot : Slot := { state := 1 }

/-- The Drabex (14). -/
structure Drabex where
  log      : List LogEntry := []
  logHeld  : List LogEntry := []
  logSeq   : Nat := 0
  dropped  : Nat := 0
  mview    : Tbl Word32 := []
  alertMask : BitVec 16 := 0x1FF#16
  sev3     : Bool := false
  slots    : Tbl Slot := [(0, factorySlot)]
  nextBoot : Nat := 0
  update   : Option Update := none
  lastStatus : Nat := 0
  lastXstatus : Nat := 0
  /-- requests held while the Drabex restarts, in order of arrival (R349) -/
  heldReqs : List HeldReq := []
  /-- a reset domain accepted and due (R363) -/
  resetDue : Option Nat := none
  responses : List Response := []
  eids     : Tbl Nat := []
  /-- PLDM terminus IDs by endpoint (R366) -/
  tids     : Tbl Nat := []
  doeBusy  : List Nat := []
  sensors  : Tbl Reading := []
  flashRecs : List FlashRec := []
  deriving DecidableEq, Repr

/-- What the last read returned (R114, R5). -/
inductive ReadData where
  | none
  /-- bytes of a BAR2 read and its EP bit -/
  | bytes (data : Bytes) (ep : Bool)
  | unsupported
  | word (value : Word32)
  /-- the sideband pins that a scan captured (R391) -/
  | scan (pins : Sideband)
  deriving DecidableEq, Repr

/-- The module. `pending` is the queue of commands, `free` the number of free values drawn (the
model's own), `host` the host memories as the module last saw them (byte key port · 2^64 + address,
DESIGN CHOICE, log 2). -/
structure State where
  pending : List Instr := []
  free    : Nat := 0
  host    : Mem := []
  lastRead : ReadData := .none
  /-- BAR2 reads of a view whose slot holds no version, which wait (R179): function, address, length -/
  reads   : List (Nat × Nat × Nat) := []
  part    : PartData := {}
  power   : Power := {}
  fns     : Tbl FnRegs := []
  ports   : Tbl PortRegs := []
  fabOwner : Option Nat := none
  fabOwnerPart : Nat := 0
  parts   : Tbl PartRegs := []
  q       : Queues := {}
  cores   : Cores := {}
  dram    : Dram := {}
  tr      : Training := {}
  st      : Steeper := {}
  pl      : Plait := {}
  fab     : Fabric := {}
  links   : Links := {}
  kt      : Kettle := {}
  dbx     : Drabex := {}
  deriving DecidableEq, Repr

/-- Why the module's run stops. Not raised by any command: every fault the spec names is an effect
on the state (a STATUS, an event, a stopped ring, channel or module). Safe: it never occurs. -/
inductive Fault where
  /-- raised by nothing -/
  | none
  deriving DecidableEq, Repr

/-- Why a command has no meaning. -/
inductive Refusal where
  /-- a row of the table whose meaning has not been written (safe: the command stops) -/
  | notModelled (mnemonic : String)
  deriving DecidableEq, Repr

/-- The state after reset: every field at the value the spec states, or at the value its log entry
names. Before the input is applied nothing runs (R337). -/
def State.reset : State := {}

end Sys2Proof.Machine
end

