-- ==== Sys2Proof/Machine/Table.lean ====
section
/-! DEFINITION. Sparse tables and byte memories in canonical form: reading, writing, and the
predicate that says the form holds. Keys rise strictly and no entry equals the default. -/

namespace Sys2Proof.Machine

open Sys2Proof

/-- The entry of key `i`, or the default. -/
def tget {α : Type} (d : α) : Tbl α → Nat → α
  | [], _ => d
  | (k, v) :: t, i => if k = i then v else tget d t i

/-- The table without key `i`. -/
def tdel {α : Type} (i : Nat) (t : Tbl α) : Tbl α := t.filter (fun e => e.1 ≠ i)

/-- The table with key `i` holding `v`; a default entry is not kept. -/
def tset {α : Type} [DecidableEq α] (d : α) (i : Nat) (v : α) : Tbl α → Tbl α
  | [] => if v = d then [] else [(i, v)]
  | (k, w) :: t =>
    if i < k then (if v = d then tdel i ((k, w) :: t) else (i, v) :: (k, w) :: t)
    else if i = k then (if v = d then tdel i t else (i, v) :: t)
    else (k, w) :: tset d i v t

/-- Keys strictly rise from `lo` on and no entry is the default. -/
def twfFrom {α : Type} [DecidableEq α] (d : α) : Nat → Tbl α → Bool
  | _, [] => true
  | lo, (k, v) :: t => decide (lo ≤ k) && decide (v ≠ d) && twfFrom d (k + 1) t

/-- The canonical form of a table. -/
def twf {α : Type} [DecidableEq α] (d : α) (t : Tbl α) : Bool := twfFrom d 0 t

/-- Remove every entry whose key fails the test. -/
def tkeep {α : Type} (p : Nat → Bool) (t : Tbl α) : Tbl α := t.filter (fun e => p e.1)

/-- One byte of a memory. -/
def mget (m : Mem) (a : Nat) : Byte := tget 0#8 m a

/-- Write one byte. -/
def mset (m : Mem) (a : Nat) (b : Byte) : Mem := tset 0#8 a b m

/-- The canonical form of a memory. -/
def Memory.wf (m : Mem) : Bool := twf 0#8 m

/-- `n` bytes from address `a`. -/
def mread (m : Mem) (a : Nat) : Nat → Bytes
  | 0 => []
  | n + 1 => mget m a :: mread m (a + 1) n

/-- Write bytes from address `a` upward. -/
def mwrite (m : Mem) (a : Nat) : Bytes → Mem
  | [] => m
  | b :: bs => mwrite (mset m a b) (a + 1) bs

/-- Write a list of (address, byte) cells in order. -/
def mstores (m : Mem) : List (Nat × Byte) → Mem
  | [] => m
  | (a, b) :: t => mstores (mset m a b) t

/-- Clear `n` bytes from `a`: one pass over the list. -/
def mclear (m : Mem) (a n : Nat) : Mem := m.filter (fun e => !(decide (a ≤ e.1) && decide (e.1 < a + n)))

end Sys2Proof.Machine
end

