-- ==== Sys2Proof/Machine/Bits.lean ====
section
/-! DEFINITION. Little-endian fields (R4), bit fields, byte strings and small list helpers. -/

namespace Sys2Proof.Machine

open Sys2Proof

/-- Bits [lo + w - 1 : lo] of a number. -/
def field (v lo w : Nat) : Nat := (v >>> lo) % 2 ^ w

/-- Bit `i` of a number. -/
def bit (v i : Nat) : Bool := (v >>> i) % 2 == 1

/-- A number from bytes, least significant first (R4). -/
def le : Bytes → Nat
  | [] => 0
  | b :: bs => b.toNat + 256 * le bs

/-- `n` bytes of a number, least significant first (R4). -/
def leBytes : Nat → Nat → Bytes
  | 0, _ => []
  | n + 1, v => BitVec.ofNat 8 v :: leBytes n (v / 256)

/-- `size` bytes at `off` of a byte string, bytes beyond its end read 0. -/
def fld (b : Bytes) (off size : Nat) : Nat := le ((b.drop off).take size)

/-- The byte at `off`. -/
def byteAt (b : Bytes) (off : Nat) : Nat := fld b off 1

/-- Every byte from `off` for `size` is 0. -/
def zeroAt (b : Bytes) (off size : Nat) : Bool := fld b off size == 0

/-- `n` zero bytes. -/
def zeros (n : Nat) : Bytes := List.replicate n 0#8

/-- A byte string padded with zeros, or cut, to `n` bytes. -/
def padTo (n : Nat) (b : Bytes) : Bytes := (b ++ zeros (n - b.length)).take n

/-- ⌈a / b⌉. -/
def cdiv (a b : Nat) : Nat := (a + b - 1) / b

/-- a rounded up to a multiple of b. -/
def roundUp (a b : Nat) : Nat := cdiv a b * b

/-- The number of 1 bits among bits 0 to n - 1. -/
def popcount (v : Nat) : Nat → Nat
  | 0 => 0
  | n + 1 => popcount v n + (if bit v n then 1 else 0)

/-- Signed value of a `w`-bit two's-complement number. -/
def sgn (w v : Nat) : Int :=
  if bit v (w - 1) then Int.ofNat (v % 2 ^ w) - Int.ofNat (2 ^ w) else Int.ofNat (v % 2 ^ w)

/-- The `w`-bit two's-complement code of an integer. -/
def unsgn (w : Nat) (v : Int) : Nat := (v % (2 ^ w : Int)).toNat

/-- Two ranges (start, length) share a byte. -/
def overlap (a la b lb : Nat) : Bool :=
  decide (0 < la) && decide (0 < lb) && decide (a < b + lb) && decide (b < a + la)

/-- `a + n` as a saturating counter. -/
def sat (max v : Nat) : Nat := if v ≤ max then v else max

/-- Replace bits [lo + w - 1 : lo] of `v`. -/
def putField (v lo w x : Nat) : Nat := v - (field v lo w) * 2 ^ lo + (x % 2 ^ w) * 2 ^ lo

/-- The words of a byte string, 4 bytes each. -/
def words : Nat → Bytes → List Nat
  | 0, _ => []
  | n + 1, b => fld b 0 4 :: words n (b.drop 4)

/-- Apply `f` with every number below `n` in order. -/
def forN {α : Type} : Nat → (Nat → α → α) → α → α
  | 0, _, a => a
  | n + 1, f, a => f n (forN n f a)

/-- The least number below `n` from `i` on that passes the test. -/
def findFrom (p : Nat → Bool) (i : Nat) : Nat → Option Nat
  | 0 => none
  | n + 1 => if p i then some i else findFrom p (i + 1) n

/-- The least number below `n` that passes the test. -/
def findN (n : Nat) (p : Nat → Bool) : Option Nat := findFrom p 0 n

/-- Every number below `n` passes the test. -/
def allN : Nat → (Nat → Bool) → Bool
  | 0, _ => true
  | n + 1, p => p n && allN n p

/-- Some number below `n` passes the test. -/
def anyN (n : Nat) (p : Nat → Bool) : Bool := !allN n (fun i => !p i)

/-- The sum of `f i` for `i` below `n`. -/
def sumN : Nat → (Nat → Nat) → Nat
  | 0, _ => 0
  | n + 1, f => sumN n f + f n

/-- Replace the first element that passes the test. -/
def listUpdate {α : Type} (p : α → Bool) (f : α → α) : List α → List α
  | [] => []
  | x :: t => if p x then f x :: t else x :: listUpdate p f t

/-- Is some element repeated? -/
def hasDup : List Nat → Bool
  | [] => false
  | x :: t => t.contains x || hasDup t

end Sys2Proof.Machine
end

