-- ==== Sys2Proof/Machine/Crc.lean ====
section
/-! DEFINITION. The checks: CRC-32 and CRC-32C, reflected (R149, R222, R244, R247), CRC-8 (R271),
and SHA-384 (R373). -/

namespace Sys2Proof.Machine

open Sys2Proof

/-- One bit of a reflected CRC-32 with reversed polynomial `poly`. -/
def crcBit (poly : BitVec 32) (r : BitVec 32) : BitVec 32 :=
  if r.getLsbD 0 then (r >>> 1) ^^^ poly else r >>> 1

/-- One byte of a reflected CRC-32. -/
def crcByte (poly r : BitVec 32) (b : Byte) : BitVec 32 :=
  let x := r ^^^ b.setWidth 32
  crcBit poly (crcBit poly (crcBit poly (crcBit poly (crcBit poly (crcBit poly (crcBit poly (crcBit poly x)))))))

/-- The register of a reflected CRC-32 after a byte string, from register value `r`. -/
def crcReg (poly : BitVec 32) : BitVec 32 → Bytes → BitVec 32
  | r, [] => r
  | r, b :: bs => crcReg poly (crcByte poly r b) bs

/-- 0x04C1_1DB7 and 0x1EDC_6F41, reflected. -/
def poly32 : BitVec 32 := 0xEDB88320#32
def poly32c : BitVec 32 := 0x82F63B78#32

/-- CRC-32 with an initial register value and final XOR 0xFFFF_FFFF (R149). -/
def crc32From (init : BitVec 32) (b : Bytes) : BitVec 32 := crcReg poly32 init b ^^^ 0xFFFFFFFF#32

/-- CRC-32C with an initial register value and final XOR 0xFFFF_FFFF (R247). -/
def crc32cFrom (init : BitVec 32) (b : Bytes) : BitVec 32 := crcReg poly32c init b ^^^ 0xFFFFFFFF#32

def crc32 (b : Bytes) : BitVec 32 := crc32From 0xFFFFFFFF#32 b
def crc32c (b : Bytes) : BitVec 32 := crc32cFrom 0xFFFFFFFF#32 b

/-- The 64-bit digest: (CRC-32 << 32) | CRC-32C (R222, R244). -/
def digest64 (b : Bytes) : BitVec 64 := crc32 b ++ crc32c b

/-- The step digest D of the empty string is 0 (R222). -/
def stepDigest (b : Bytes) : BitVec 64 := if b.isEmpty then 0#64 else digest64 b

/-- One bit of CRC-8, polynomial 0x07, most significant bit first (R271). -/
def crc8Step (r : BitVec 8) (b : Bool) : BitVec 8 :=
  if r.getLsbD 7 != b then (r <<< 1) ^^^ 0x07#8 else r <<< 1

/-- CRC-8 over bits 63:8 of a tag frame, initial value 0 (R271). -/
def crc8Bits (t : BitVec 64) : Nat → BitVec 8 → BitVec 8
  | 0, r => r
  | n + 1, r => crc8Bits t n (crc8Step r (t.getLsbD (n + 8)))

def tagCrc (t : BitVec 64) : BitVec 8 := crc8Bits t 56 0#8

/-- SHA-512 family round constants (FIPS 180-4). -/
def shaK1 : List (BitVec 64) :=
  [0x428a2f98d728ae22#64, 0x7137449123ef65cd#64, 0xb5c0fbcfec4d3b2f#64, 0xe9b5dba58189dbbc#64,
   0x3956c25bf348b538#64, 0x59f111f1b605d019#64, 0x923f82a4af194f9b#64, 0xab1c5ed5da6d8118#64,
   0xd807aa98a3030242#64, 0x12835b0145706fbe#64, 0x243185be4ee4b28c#64, 0x550c7dc3d5ffb4e2#64,
   0x72be5d74f27b896f#64, 0x80deb1fe3b1696b1#64, 0x9bdc06a725c71235#64, 0xc19bf174cf692694#64,
   0xe49b69c19ef14ad2#64, 0xefbe4786384f25e3#64, 0x0fc19dc68b8cd5b5#64, 0x240ca1cc77ac9c65#64,
   0x2de92c6f592b0275#64, 0x4a7484aa6ea6e483#64, 0x5cb0a9dcbd41fbd4#64, 0x76f988da831153b5#64,
   0x983e5152ee66dfab#64, 0xa831c66d2db43210#64, 0xb00327c898fb213f#64, 0xbf597fc7beef0ee4#64,
   0xc6e00bf33da88fc2#64, 0xd5a79147930aa725#64, 0x06ca6351e003826f#64, 0x142929670a0e6e70#64,
   0x27b70a8546d22ffc#64, 0x2e1b21385c26c926#64, 0x4d2c6dfc5ac42aed#64, 0x53380d139d95b3df#64,
   0x650a73548baf63de#64, 0x766a0abb3c77b2a8#64, 0x81c2c92e47edaee6#64, 0x92722c851482353b#64]

def shaK2 : List (BitVec 64) :=
  [0xa2bfe8a14cf10364#64, 0xa81a664bbc423001#64, 0xc24b8b70d0f89791#64, 0xc76c51a30654be30#64,
   0xd192e819d6ef5218#64, 0xd69906245565a910#64, 0xf40e35855771202a#64, 0x106aa07032bbd1b8#64,
   0x19a4c116b8d2d0c8#64, 0x1e376c085141ab53#64, 0x2748774cdf8eeb99#64, 0x34b0bcb5e19b48a8#64,
   0x391c0cb3c5c95a63#64, 0x4ed8aa4ae3418acb#64, 0x5b9cca4f7763e373#64, 0x682e6ff3d6b2b8a3#64,
   0x748f82ee5defb2fc#64, 0x78a5636f43172f60#64, 0x84c87814a1f0ab72#64, 0x8cc702081a6439ec#64,
   0x90befffa23631e28#64, 0xa4506cebde82bde9#64, 0xbef9a3f7b2c67915#64, 0xc67178f2e372532b#64,
   0xca273eceea26619c#64, 0xd186b8c721c0c207#64, 0xeada7dd6cde0eb1e#64, 0xf57d4f7fee6ed178#64,
   0x06f067aa72176fba#64, 0x0a637dc5a2c898a6#64, 0x113f9804bef90dae#64, 0x1b710b35131c471b#64,
   0x28db77f523047d84#64, 0x32caab7b40c72493#64, 0x3c9ebe0a15c9bebc#64, 0x431d67c49c100d4c#64,
   0x4cc5d4becb3e42b6#64, 0x597f299cfc657e2a#64, 0x5fcb6fab3ad6faec#64, 0x6c44198c4a475817#64]

/-- The initial hash value of SHA-384. -/
def sha384Init : List (BitVec 64) :=
  [0xcbbb9d5dc1059ed8#64, 0x629a292a367cd507#64, 0x9159015a3070dd17#64, 0x152fecd8f70e5939#64,
   0x67332667ffc00b31#64, 0x8eb44a8768581511#64, 0xdb0c2e0d64f98fa7#64, 0x47b5481dbefa4fa4#64]

/-- A big-endian 64-bit word. -/
def beWord (b : Bytes) : BitVec 64 := BitVec.ofNat 64 (le (b.take 8).reverse)

/-- The message schedule: the last 16 words, newest first; answers word t of 80. -/
def shaNext (w : List (BitVec 64)) : BitVec 64 :=
  let a := w.getD 1 0
  let b := w.getD 14 0
  let s1 := (a.rotateRight 19) ^^^ (a.rotateRight 61) ^^^ (a >>> 6)
  let s0 := (b.rotateRight 1) ^^^ (b.rotateRight 8) ^^^ (b >>> 7)
  s1 + w.getD 6 0 + s0 + w.getD 15 0

/-- One round on the eight working words. -/
def shaRound (h : List (BitVec 64)) (k w : BitVec 64) : List (BitVec 64) :=
  let a := h.getD 0 0
  let e := h.getD 4 0
  let t1 := h.getD 7 0 + ((e.rotateRight 14) ^^^ (e.rotateRight 18) ^^^ (e.rotateRight 41))
    + ((e &&& h.getD 5 0) ^^^ (~~~e &&& h.getD 6 0)) + k + w
  let t2 := ((a.rotateRight 28) ^^^ (a.rotateRight 34) ^^^ (a.rotateRight 39))
    + ((a &&& h.getD 1 0) ^^^ (a &&& h.getD 2 0) ^^^ (h.getD 1 0 &&& h.getD 2 0))
  [t1 + t2, a, h.getD 1 0, h.getD 2 0, h.getD 3 0 + t1, e, h.getD 5 0, h.getD 6 0]

/-- The rounds: constants left, words of the block not yet used, the last 16 words newest first. -/
def shaRounds : List (BitVec 64) → List (BitVec 64) → List (BitVec 64) → List (BitVec 64) → List (BitVec 64)
  | [], _, _, h => h
  | k :: ks, w :: ws, seen, h => shaRounds ks ws (w :: seen) (shaRound h k w)
  | k :: ks, [], seen, h =>
    let w := shaNext seen
    shaRounds ks [] (w :: seen.take 15) (shaRound h k w)

/-- The 16 words of a 128-byte block. -/
def shaWords : Nat → Bytes → List (BitVec 64)
  | 0, _ => []
  | n + 1, b => beWord b :: shaWords n (b.drop 8)

/-- All blocks of a padded message. -/
def shaBlocks : Nat → Bytes → List (BitVec 64) → List (BitVec 64)
  | 0, _, h => h
  | n + 1, b, h =>
    shaBlocks n (b.drop 128) (List.zipWith (· + ·) h (shaRounds (shaK1 ++ shaK2) (shaWords 16 b) [] h))

/-- The 48 bytes of SHA-384 in the order of FIPS 180-4 (R373). -/
def sha384 (m : Bytes) : Bytes :=
  let n := (m.length + 17 + 127) / 128
  let padded := m ++ [0x80#8] ++ zeros (n * 128 - m.length - 17) ++ (leBytes 16 (8 * m.length)).reverse
  ((shaBlocks n padded sha384Init).take 6).flatMap (fun w => (leBytes 8 w.toNat).reverse)

end Sys2Proof.Machine
end

