-- ==== Sys2Proof/Machine/Flags.lean ====
section
/-! DEFINITION. Accessors of functions, partitions, rings, counters and cores, and the interrupt tree:
leaves, summary, mask, MSI-X messages and INTA (R127, R128, R382). -/

namespace Sys2Proof.Machine

open Sys2Proof

def getFn (s : State) (f : Nat) : FnRegs := tget {} s.fns f
def setFn (s : State) (f : Nat) (r : FnRegs) : State := { s with fns := tset {} f r s.fns }
def updFn (s : State) (f : Nat) (g : FnRegs → FnRegs) : State := setFn s f (g (getFn s f))

def getPort (s : State) (p : Nat) : PortRegs := tget {} s.ports p
def updPort (s : State) (p : Nat) (g : PortRegs → PortRegs) : State :=
  { s with ports := tset {} p (g (getPort s p)) s.ports }

def getPart (s : State) (p : Nat) : PartRegs := tget {} s.parts p
def setPart (s : State) (p : Nat) (r : PartRegs) : State := { s with parts := tset {} p r s.parts }
def updPart (s : State) (p : Nat) (g : PartRegs → PartRegs) : State := setPart s p (g (getPart s p))

def getRing (s : State) (r : Nat) : Ring := tget {} s.q.rings r
def setRing (s : State) (r : Nat) (x : Ring) : State := { s with q := { s.q with rings := tset {} r x s.q.rings } }
def updRing (s : State) (r : Nat) (g : Ring → Ring) : State := setRing s r (g (getRing s r))

def getORing (s : State) (o : Nat) : ORing := tget {} s.q.orings o
def setORing (s : State) (o : Nat) (x : ORing) : State := { s with q := { s.q with orings := tset {} o x s.q.orings } }
def updORing (s : State) (o : Nat) (g : ORing → ORing) : State := setORing s o (g (getORing s o))

def getEvt (s : State) (e : Nat) : EvtCounter := tget {} s.q.evts e
def setEvt (s : State) (e : Nat) (x : EvtCounter) : State := { s with q := { s.q with evts := tset {} e x s.q.evts } }

def getWindow (s : State) (l : Nat) : Window := tget {} s.q.windows l
def updWindow (s : State) (l : Nat) (g : Window → Window) : State :=
  { s with q := { s.q with windows := tset {} l (g (getWindow s l)) s.q.windows } }

def getCore (s : State) (l : Nat) : CoreRegs := tget {} s.cores.regs l
def updCore (s : State) (l : Nat) (g : CoreRegs → CoreRegs) : State :=
  { s with cores := { s.cores with regs := tset {} l (g (getCore s l)) s.cores.regs } }

/-- The physical core bound to a logical number; none for a hole (R51). -/
def corePhys (s : State) (l : Nat) : Option Nat := tget none s.cores.map l

def getRegion (s : State) (rid : Nat) : Region := tget {} s.dram.regions rid
def setRegion (s : State) (rid : Nat) (x : Region) : State :=
  { s with dram := { s.dram with regions := tset {} rid x s.dram.regions } }

/-- A channel before any training binds logical channel j of a stack to physical channel j (DESIGN CHOICE, log 9). -/
def defChannel (l : Nat) : Channel := { phys := l % 32 }
def getChannel (s : State) (l : Nat) : Channel := tget (defChannel l) s.dram.channels l
def setChannel (s : State) (l : Nat) (c : Channel) : State :=
  { s with dram := { s.dram with channels := tset (defChannel l) l c s.dram.channels } }
def updChannel (s : State) (l : Nat) (g : Channel → Channel) : State := setChannel s l (g (getChannel s l))

def getLayer (s : State) (l : Nat) : Layer := tget {} s.tr.layers l
def getVer (s : State) (l : Nat) : VerState := tget {} s.tr.vers l
def setVer (s : State) (l : Nat) (v : VerState) : State := { s with tr := { s.tr with vers := tset {} l v s.tr.vers } }
def getGov (s : State) (l : Nat) : GovState := tget {} s.tr.govs l
def setGov (s : State) (l : Nat) (v : GovState) : State := { s with tr := { s.tr with govs := tset {} l v s.tr.govs } }

/-- The key of a partition's stash entry. -/
def stashKey (p entry : Nat) : Nat := p * 2 ^ 32 + entry
def getStash (s : State) (p entry : Nat) : Option Stash := tget none s.tr.stash (stashKey p entry)
def setStash (s : State) (p entry : Nat) (x : Option Stash) : State :=
  { s with tr := { s.tr with stash := tset none (stashKey p entry) x s.tr.stash } }

def getGroup (s : State) (g : Nat) : Group := tget {} s.pl.groups g
def setGroup (s : State) (g : Nat) (x : Group) : State := { s with pl := { s.pl with groups := tset {} g x s.pl.groups } }

def getVote (s : State) (p : Nat) : VoteState := tget {} s.st.votes p
def setVote (s : State) (p : Nat) (v : VoteState) : State := { s with st := { s.st with votes := tset {} p v s.st.votes } }

/-- A laser's role at shipment (R309). -/
def defLaser (i : Nat) : Laser := { role := i % 3 }
def getLaser (s : State) (i : Nat) : Laser := tget (defLaser i) s.links.lasers i
def updLaser (s : State) (i : Nat) (g : Laser → Laser) : State :=
  { s with links := { s.links with lasers := tset (defLaser i) i (g (getLaser s i)) s.links.lasers } }

def getLink (s : State) (p : Nat) : LinkPort := tget {} s.links.ports p
def updLink (s : State) (p : Nat) (g : LinkPort → LinkPort) : State :=
  { s with links := { s.links with ports := tset {} p (g (getLink s p)) s.links.ports } }

def laneKey (port w : Nat) : Nat := port * 8 + w
def getLane (s : State) (port w : Nat) : Lane := tget {} s.links.lanes (laneKey port w)
def updLane (s : State) (port w : Nat) (g : Lane → Lane) : State :=
  { s with links := { s.links with lanes := tset {} (laneKey port w) (g (getLane s port w)) s.links.lanes } }

def segKey (g : SegId) : Nat := g.port * 4096 + g.xid
def getSeg (s : State) (g : SegId) : Seg := tget {} s.links.segs (segKey g)
def setSeg (s : State) (g : SegId) (x : Seg) : State :=
  { s with links := { s.links with segs := tset {} (segKey g) x s.links.segs } }
def updSeg (s : State) (g : SegId) (h : Seg → Seg) : State := setSeg s g (h (getSeg s g))

/-- Ports of the mode sampled from BIF_SEL (R108), and whether function f exists (R111). -/
def portCount (s : State) : Nat := if s.power.x8x8 then 2 else 1
def fnPort (f : Nat) : Nat := f / 8
def isPf (f : Nat) : Bool := f % 8 = 0
/-- A function that a reset of its port or of its PF reaches (R134): the PF, and the VFs that SR-IOV has enabled since the
PF's last reset. -/
def fnReset (s : State) (f : Nat) : Bool :=
  decide (f < 8 * portCount s) && decide (f % 8 ≤ max (getPort s (fnPort f)).vfs (getPort s (fnPort f)).vfsLost)
/-- The PF of a port exists, and the VFs that SR-IOV enables (R109, R111). -/
def fnExists (s : State) (f : Nat) : Bool := decide (f < 8 * portCount s) && decide (f % 8 ≤ (getPort s (fnPort f)).vfs)

/-- The partition a function owns: the lowest enabled partition naming it (R111). -/
def ownedPart (s : State) (f : Nat) : Option Nat :=
  findN 8 (fun p => (getPart s p).state = .enabled && (getPart s p).owner = f)

/-- A handover to function f is under way. -/
def handedTo (s : State) (f : Nat) : Bool := anyN 8 (fun p => match (getPart s p).hand with
  | some h => h.newFn = f
  | none => false)

def partEnabled (s : State) (p : Nat) : Bool := (getPart s p).state = .enabled
def anyPartEnabled (s : State) : Bool := anyN 8 (fun p => !decide ((getPart s p).state = .disabled))

/-- The enabled partition that holds a submission ring, an output ring or an event counter (R112). -/
def ringPart (s : State) (r : Nat) : Option Nat :=
  findN 8 (fun p => partEnabled s p && decide (64 * (getPart s p).ringFirst ≤ r) &&
    decide (r < 64 * ((getPart s p).ringFirst + (getPart s p).ringCount)))

def oringPart (s : State) (o : Nat) : Option Nat :=
  findN 8 (fun p => partEnabled s p && decide (16 * (getPart s p).orFirst ≤ o) &&
    decide (o < 16 * ((getPart s p).orFirst + (getPart s p).orCount)))

/-- A counter lies in the partition's range; 0xFFFF lies in every range (R113). -/
def evtInPart (s : State) (p e : Nat) : Bool :=
  e = 0xFFFF || (decide (1024 * (getPart s p).evFirst ≤ e) && decide (e < 1024 * ((getPart s p).evFirst + (getPart s p).evCount)))

/-- The host port of a partition's owner is up. -/
def partPortUp (s : State) (p : Nat) : Bool := (getPort s (fnPort (getPart s p).owner)).up

/-- A partition's rings can be fetched and its records written: its owner's port is up, it is not held (R135), and no
handover of it is under way (R136 step 2). -/
def partReachable (s : State) (p : Nat) : Bool := !(getPart s p).held && (getPart s p).hand.isNone && partPortUp s p

/-! ### The interrupt tree -/

/-- Some leaf word at an offset from `lo` up to `hi` is non-zero. -/
def anyLeaf (r : FnRegs) (lo hi : Nat) : Bool :=
  r.leaves.any (fun e => decide (lo ≤ e.1) && decide (e.1 < hi) && decide (e.2 ≠ 0#32))

/-- IRQ_SUM (R127). MODULE is seen by PFs only (R385). -/
def irqSum (r : FnRegs) (pf : Bool) : Word32 :=
  BitVec.ofNat 32 ((if anyLeaf r 0x41000 0x41200 then 1 else 0) + (if anyLeaf r 0x41200 0x41400 then 2 else 0)
    + (if anyLeaf r 0x41400 0x41500 then 4 else 0) + (if anyLeaf r 0x40020 0x40024 then 8 else 0)
    + (if anyLeaf r 0x40024 0x40028 then 16 else 0) + (if anyLeaf r 0x40028 0x4002C then 32 else 0)
    + (if pf && anyLeaf r 0x42000 0x42024 then 64 else 0))

/-- The masked summary: an IRQ_MASK bit of 1 keeps its bit from raising the interrupt. -/
def irqMasked (r : FnRegs) (pf : Bool) : Word32 := irqSum r pf &&& ~~~r.irqMask

/-- An MSI-X message, or its pending bit while the vector is masked (R128). -/
def sendMsix (r : FnRegs) : FnRegs :=
  if !r.msixOn then r else if r.msixMasked then { r with msixPend := true } else { r with msix := r.msix + 1 }

/-- After a change of leaves or mask: a message when the masked summary turns non-zero, and also after a
write that leaves it non-zero (R128). A pending bit goes with its cause, as the standard defines (PRESUMED, log 7). -/
def settleIrq (pf wrote : Bool) (r : FnRegs) : FnRegs :=
  let m := irqMasked r pf
  let r1 := if m ≠ 0#32 && (wrote || r.lastSum = 0#32) then sendMsix r else r
  { r1 with lastSum := m, msixPend := r1.msixPend && decide (m ≠ 0#32) }

/-- A write of MSI-X enable and mask: a pending message is sent when its vector is unmasked (R128, the standard's rule,
PRESUMED, log 7). -/
def writeMsix (on masked : Bool) (r : FnRegs) : FnRegs :=
  let r1 := { r with msixOn := on, msixMasked := masked }
  if on && !masked && r.msixPend then { sendMsix r1 with msixPend := false } else r1

/-- INTA: asserted on a PF with MSI-X disabled while the masked summary is non-zero (R127, R128). -/
def intaAsserted (s : State) (f : Nat) : Bool :=
  let r := getFn s f
  isPf f && !r.msixOn && decide (irqMasked r true ≠ 0#32)

/-- Set bits of an interrupt leaf of a function (R382). -/
def setLeaf (s : State) (f off bits : Nat) : State :=
  updFn s f (fun r => settleIrq (isPf f) false
    { r with leaves := tset 0#32 off (tget 0#32 r.leaves off ||| BitVec.ofNat 32 bits) r.leaves })

/-- The leaf word and bit of a submission ring in a pair array at `base`. -/
def ringLeafOff (base r : Nat) : Nat := base + 8 * (r / 64) + 4 * ((r % 64) / 32)

/-- Set a leaf on the owner of a partition. -/
def setOwnerLeaf (s : State) (p off bits : Nat) : State :=
  if partEnabled s p then setLeaf s (getPart s p).owner off bits else s

end Sys2Proof.Machine
end

