-- ==== Sys2Proof/Machine/Ops.lean ====
section
/-! DEFINITION. Operations every chapter shares: host memory, the log, events, output records,
completion (R84), event counters, replay windows, version fences and mailbox notices. -/

namespace Sys2Proof.Machine

open Sys2Proof

abbrev Out := Host.Outcome State Fault Refusal

/-! ### Host memory -/

/-- The key of a host byte: port · 2^64 + address (DESIGN CHOICE, log 2). -/
def hostKey (port addr : Nat) : Nat := port * 2 ^ 64 + addr % 2 ^ 64

/-- The host's own stores take effect before the command reads. -/
def hostStores (s : State) (h : HostIn) : State := { s with host := mstores s.host h.stores }

/-- What a host read returns (R101, R116, R121). -/
inductive HostData where
  | data (b : Bytes)
  | rejected
  | poisoned
  deriving DecidableEq, Repr

/-- Read host memory. Poison is judged before rejection (R101). -/
def hostRead (s : State) (h : HostIn) (port addr n : Nat) : HostData :=
  let k := hostKey port addr
  if h.poisons.any (fun r => overlap r.1 r.2 k n) then .poisoned
  else if h.rejects.any (fun r => overlap r.1 r.2 k n) then .rejected
  else .data (mread s.host k n)

/-- Write host memory through a port. -/
def hostWrite (s : State) (port addr : Nat) (b : Bytes) : State :=
  { s with host := mwrite s.host (hostKey port addr) b }

/-! ### The log and events -/

/-- Bits 57:10 of TICK (R360). -/
def logTick (s : State) : Nat := field s.power.tick.toNat 10 48

/-- Put an entry into the log SRAM, or drop it beyond 4,096; after a drop the next entry is preceded by
a KIND 5 entry with the number dropped (R360, R361). -/
def addLog (s : State) (kind code part sev : Nat) (args : Bytes) : State :=
  let d := s.dbx
  let mk (d : Drabex) (kind code part sev : Nat) (args : Bytes) : LogEntry :=
    { kind, code, seq := d.logSeq, tick := logTick s, boot := s.power.boots, args := padTo 12 args, part, sev }
  if 4096 ≤ d.logHeld.length then { s with dbx := { d with dropped := d.dropped + 1 } }
  else
    let d1 := if d.dropped = 0 then d
      else { d with logHeld := d.logHeld ++ [mk d 5 0 0xFF 0 (leBytes 4 d.dropped)], logSeq := d.logSeq + 1, dropped := 0 }
    if 4096 ≤ d1.logHeld.length then { s with dbx := { d1 with dropped := d1.dropped + 1 } }
    else { s with dbx := { d1 with logHeld := d1.logHeld ++ [mk d1 kind code part sev args], logSeq := d1.logSeq + 1 } }

/-- Scope and severity of an event (R356): module scope, SEV. -/
def eventInfo (code : Nat) : Bool × Nat :=
  let block := code / 256
  let modScope := !(block = 5 || block = 6 || block = 7)
  let sev :=
    if [0x0804, 0x0902].contains code then 3
    else if [0x0104, 0x0107, 0x0108, 0x0305, 0x0406, 0x0501, 0x0603, 0x0604, 0x0702, 0x0801, 0x0905].contains code then 2
    else if [0x0103, 0x0201, 0x0202, 0x0203, 0x0301, 0x0303, 0x0306, 0x0401, 0x0403, 0x0404, 0x0601, 0x0602, 0x0701,
      0x0802, 0x0803, 0x0805, 0x0807, 0x0903, 0x0904, 0x0907].contains code then 1
    else 0
  (modScope, sev)

/-- The 32-byte event record (R353). -/
def eventRecord (code sev part tick : Nat) (args : Bytes) : Bytes :=
  [1#8] ++ leBytes 1 sev ++ leBytes 2 code ++ leBytes 1 part ++ [0#8] ++ leBytes 2 1 ++ leBytes 8 tick ++ padTo 16 args

def recSize (recsz : Nat) : Nat := 16 * 2 ^ recsz

/-- The output ring holds no room for a further record (R125). -/
def oringFull (o : ORing) : Bool := decide ((o.produced + 2 ^ 32 - o.consumer) % 2 ^ 32 = 2 ^ o.size)

/-- The status block after an output ring's last record: PRODUCED, OSVER 1, reserved (R123). -/
def oringStatus (s : State) (p o : Nat) : State :=
  let x := getORing s o
  hostWrite s (fnPort (getPart s p).owner) (x.base + 2 ^ x.size * recSize x.recsz) (leBytes 4 x.produced ++ [1#8] ++ zeros 59)

/-- Write one record and PRODUCED (R124). -/
def putRecord (s : State) (p o : Nat) (b : Bytes) : State :=
  let x := getORing s o
  let s1 := hostWrite s (fnPort (getPart s p).owner) (x.base + (x.produced % 2 ^ x.size) * recSize x.recsz) b
  oringStatus (setORing s1 o { x with produced := (x.produced + 1) % 2 ^ 32 }) p o

/-- A record for this output ring can be written now. -/
def oringOpen (s : State) (p o : Nat) : Bool :=
  let x := getORing s o
  x.enable && !oringFull x && x.held.isEmpty && partReachable s p

/-- Hold a record; the ring's output-full leaf is set (R125, R382). -/
def holdRecord (s : State) (p o : Nat) (r : HeldRec) : State :=
  setOwnerLeaf (updORing s o (fun x => { x with held := x.held ++ [r] })) p (0x41400 + 4 * (o / 16)) (2 ^ (o % 16))

/-- Held event records of an output ring. -/
def heldEvents (o : ORing) : List HeldRec := o.held.filter (fun r => r.kind = .event)

/-- Coalesce an occurrence into a held record: COUNT rises, HELD_OVER is set (R354). -/
def coalesce (b : Bytes) : Bytes :=
  b.take 5 ++ leBytes 1 (fld b 5 1 ||| 1) ++ leBytes 2 (sat 0xFFFF (fld b 6 2 + 1)) ++ b.drop 8

/-- Write an event record to a partition's event ring, hold it, or coalesce it (R354, R355). -/
def eventToPart (s : State) (p : Nat) (b : Bytes) : State :=
  let r := getPart s p
  let o := getORing s r.evRing
  if !r.evValid || !o.enable || o.recsz ≠ 1 then s
  else if oringOpen s p r.evRing then setOwnerLeaf (putRecord s p r.evRing b) p 0x40020 1
  else if 256 ≤ (heldEvents o).length && (heldEvents o).any (fun h => fld h.bytes 2 2 = fld b 2 2) then
    updORing s r.evRing (fun o =>
      { o with held := (listUpdate (fun h => h.kind = .event && fld h.bytes 2 2 = fld b 2 2) (fun h => { h with bytes := coalesce h.bytes }) o.held) })
  else holdRecord s p r.evRing { kind := .event, bytes := b }

/-- Set a block's leaf on a PF; PF 1 exists in x8x8 mode only. -/
def setPfLeaf (s : State) (port off bits : Nat) : State := if port < portCount s then setLeaf s (8 * port) off bits else s

/-- Raise an event (R354, R355, R383): log, leaves, management view, ALERT_N, event rings. `part` is 0xFF
for module scope. (DEDUCED, log 31.) -/
def raise (s : State) (code part : Nat) (args : Bytes) : State :=
  let (modScope, sev) := eventInfo code
  let s1 := addLog s 1 code part sev args
  let k := code / 256 - 1
  let off := 0x42000 + 4 * k
  let bits := 2 ^ (code % 256 - 1)
  let s2 := { s1 with dbx := { s1.dbx with
      mview := tset 0#32 k (tget 0#32 s1.dbx.mview k ||| BitVec.ofNat 32 bits) s1.dbx.mview
      sev3 := s1.dbx.sev3 || sev = 3 } }
  let rec_ := eventRecord code sev part s.power.tick.toNat args
  if modScope then
    let s3 := setPfLeaf (setPfLeaf s2 0 off bits) 1 off bits
    forN 8 (fun p t => if partEnabled t p && isPf (getPart t p).owner then eventToPart t p rec_ else t) s3
  else
    let s3 := if partEnabled s2 part then setPfLeaf s2 (fnPort (getPart s2 part).owner) off bits else s2
    eventToPart s3 part rec_

/-- Module-scope event. -/
def raiseMod (s : State) (code : Nat) (args : Bytes) : State := raise s code 0xFF args

/-- The module can drive its sideband pins: it has input power, or hold-up capacitance still carries the management rails,
as long as the power-failure entry waits to be written (R316, R388, R390). -/
def sidebandDriven (s : State) : Bool := s.power.phase ≠ .off || s.dbx.logHeld.any (fun e => decide (e.kind = 2))

/-- ALERT_N is asserted: an enabled management-view leaf, or a SEV 3 event (R129, R354, R363); it is high impedance without
power (R388, R390). -/
def alertAsserted (s : State) : Bool :=
  sidebandDriven s && (s.dbx.sev3 || anyN 9 (fun k => s.dbx.alertMask.getLsbD k && decide (tget 0#32 s.dbx.mview k ≠ 0#32)))

/-- Configuration space, the ID_ block and the mailboxes answer, and the host ports are released: from the end of step 2, and
in the tripped state, where the Drabex keeps running (R334, R338). -/
def portsOut (s : State) : Bool := decide (2 ≤ s.power.step) || s.power.phase = .tripped

/-- PWRGD is high from the end of step 2 until the stage-2 shutdown, and low in recovery (R390). -/
def pwrgd (s : State) : Bool :=
  match s.power.phase with
  | .ready => true
  | .bootWait => true
  | .stopped => decide (2 ≤ s.power.step)
  | _ => false

/-- The rails that step 2 raises are up: from there until stage 2 shuts down, in the recovery state too (R317, R337). Where
the root PLL does not lock, FAULT 0x11, they are up already (R340). -/
def railsUp (s : State) : Bool :=
  match s.power.phase with
  | .recovery => true
  | .stopped => pwrgd s || s.power.fault = 0x11
  | _ => pwrgd s

/-- The 7-bit SMBus address of the out-of-band endpoint, by the straps (R366, R389). -/
def smbusAddress (s : State) : Nat := 0x30 + 2 * (if s.power.addr1 then 1 else 0) + (if s.power.addr0 then 1 else 0)

/-- Queue a notice for a function; 16 wait at most. ASYNC is set when the notice appears in DBX_MB_ASYNC: at once where
none waits before it (R382). -/
def postNotice (s : State) (f code arg : Nat) : State :=
  let s1 := updFn s f (fun r => if 16 ≤ r.mbAsync.length then { r with mbOverflow := true }
    else { r with mbAsync := r.mbAsync ++ [{ code, arg }] })
  if (getFn s f).mbAsync.isEmpty then setLeaf s1 f 0x40024 2 else s1

/-! ### Mailbox responses (R362) -/

/-- STATUS, XSTATUS and body of a response. -/
structure Reply where
  st   : Nat := 0
  xs   : Nat := 0
  body : Bytes := []
  deriving DecidableEq, Repr

/-- The response bytes (R362). -/
def mailBytes (op : Nat) (tag : BitVec 16) (r : Reply) : Bytes :=
  [1#8] ++ leBytes 1 op ++ leBytes 2 tag.toNat ++ leBytes 2 r.body.length ++ leBytes 1 r.st ++ leBytes 1 r.xs ++ zeros 8 ++ r.body

/-- Bytes into the words of DBX_MB_DATA. -/
def putWords (t : Tbl Word32) (b : Bytes) : Tbl Word32 :=
  forN (cdiv b.length 4) (fun i u => tset 0#32 i (BitVec.ofNat 32 (fld b (4 * i) 4)) u) t

/-- An out-of-band response, or that of a DOE instance. -/
def sendOut (s : State) (ep : Nat) (b : Bytes) : State :=
  { s with dbx := { s.dbx with responses := s.dbx.responses ++ [{ ep, bytes := b }] } }

/-- The response reaches its endpoint: GO and BUSY clear and IRQ_MBOX.RESP is set (DBX_MB_CTRL). -/
def respond (s : State) (ep : Nat) (b : Bytes) : State :=
  if ep < 16 then setLeaf (updFn s ep (fun r => { r with mbGo := false, mbBusy := false, mbData := putWords r.mbData b })) ep 0x40024 1
  else sendOut s ep b

/-! ### PCIe configuration (R109) -/

/-- One write of a function's configuration. Values that the function does not offer are ignored. (PRESUMED, log 7.) -/
def configWrite (s : State) (e : Nat × ConfigWrite) : State :=
  if !(fnExists s e.1 && (getPort s (fnPort e.1)).up) then s else
  match e.2 with
  | .msix on masked => updFn s e.1 (writeMsix on masked)
  | .vfs n => if isPf e.1 && decide (n ≤ 7) then updPort s (fnPort e.1) (fun x => { x with vfs := n, vfsLost := max x.vfsLost x.vfs }) else s
  | .bar2 size => if size ≤ 9 then updFn s e.1 (fun r => { r with bar2 := size }) else s
  | .control relaxed mps mrrs =>
    if mps ≤ 2 && mrrs ≤ 5 then updFn s e.1 (fun r => { r with relaxed, mps, mrrs }) else s
  | .aerClear bits => updFn s e.1 (fun r => { r with aer := r.aer &&& ~~~bits })

def configWrites (s : State) (h : HostIn) : State := h.config.foldl configWrite s

/-- AER status bits of the standard: Unsupported Request and Poisoned TLP (PRESUMED, log 7). -/
def aerUnsupported : Word32 := 0x100000#32
def aerPoisoned : Word32 := 0x1000#32

def noteAer (s : State) (f : Nat) (bits : Word32) : State := if fnExists s f then updFn s f (fun r => { r with aer := r.aer ||| bits }) else s

/-- A host read that function f made for itself: poisoned data is noted in its AER status. -/
def notePoison (s : State) (f : Nat) (d : HostData) : State := if d = .poisoned then noteAer s f aerPoisoned else s

/-! ### Event counters -/

/-- Signal counter SIG_EVT: add 1, and poison it on a failure (R84). -/
def signalEvt (s : State) (e : Nat) (fail : Bool) : State :=
  if e = 0xFFFF then s
  else
    let c := getEvt s e
    setEvt s e { value := c.value + 1#32, poison := c.poison || fail }

/-- The wait on a counter is satisfied: the signed difference is at least 0 (R82). -/
def waitDone (s : State) (e : Nat) (v : Nat) : Bool :=
  e = 0xFFFF || !((getEvt s e).value - BitVec.ofNat 32 v).getLsbD 31

/-! ### Descriptor header (R73) -/

def dOpcode (d : Bytes) : Nat := fld d 0 2
/-- The opcode in base form. -/
def dBase (d : Bytes) : Nat := dOpcode d - (if bit (dOpcode d) 11 then 0x800 else 0)
def dExt (d : Bytes) : Bool := bit (dOpcode d) 11
def dClass (d : Bytes) : Nat := dOpcode d / 4096
def dVer (d : Bytes) : Nat := byteAt d 2
def dFlags (d : Bytes) : Nat := byteAt d 3
def dEqv (d : Bytes) : Bool := bit (dFlags d) 0
def dSrel (d : Bytes) : Bool := bit (dFlags d) 1
def dCmpl (d : Bytes) : Bool := bit (dFlags d) 2
def dIrq (d : Bytes) : Bool := bit (dFlags d) 3
def dPass (d : Bytes) : Bool := bit (dFlags d) 4
def dOrder (d : Bytes) : Bool := bit (dFlags d) 5
def dTag (d : Bytes) : Nat := fld d 4 2
def dWaitEvt (d : Bytes) : Nat := fld d 6 2
def dWaitVal (d : Bytes) : Nat := fld d 8 4
def dSigEvt (d : Bytes) : Nat := fld d 0xC 2
def dTimeout (d : Bytes) : Nat := byteAt d 0xE

/-- Extension fields (R77). -/
def xStep (d : Bytes) : Nat := fld d 0x40 6
def xGlayer (d : Bytes) : Nat := if dExt d then fld d 0x46 2 else 0xFFFF
def xTensor (d : Bytes) : Nat := fld d 0x48 3
def xRow0 (d : Bytes) : Nat := fld d 0x4C 4
def xCol0 (d : Bytes) : Nat := fld d 0x50 4
def xTcols (d : Bytes) : Nat := fld d 0x54 4

/-! ### Status codes (R9) -/

def stOk : Nat := 0x00
def stTimeout : Nat := 0x01
def stCheck : Nat := 0x02
def stMismatch : Nat := 0x03
def stFenced : Nat := 0x04
def stStashLost : Nat := 0x05
def stSkipped : Nat := 0x06
def stStale : Nat := 0x07
def stAborted : Nat := 0x08
def stNoRes : Nat := 0x09
def stBad : Nat := 0x0A
def stVersion : Nat := 0x0B
def stPerm : Nat := 0x0C
def stPoison : Nat := 0x0D
def stDegraded : Nat := 0x0E

/-- Only OK and DEGRADED_OK report success (R10). -/
def stFail (st : Nat) : Bool := st ≠ stOk && st ≠ stDegraded

/-! ### Fences, windows and completion -/

/-- Add to a slot's version fence (R180). -/
def fenceAdd (s : State) (layer slot : Nat) : State :=
  let v := getVer s layer
  setVer s layer (if slot = 0 then { v with fence0 := v.fence0 + 1 } else { v with fence1 := v.fence1 + 1 })

def fenceSub (s : State) (layer slot : Nat) : State :=
  let v := getVer s layer
  setVer s layer (if slot = 0 then { v with fence0 := v.fence0 - 1 } else { v with fence1 := v.fence1 - 1 })

def releaseLatches (s : State) (ls : List Latch) : State := ls.foldl (fun t l => fenceSub t l.layer l.slot) s

def releasePins (s : State) (ps : List Pin) : State := ps.foldl (fun t l => fenceSub t l.layer l.slot) s

def findOp (s : State) (id : Nat) : Option Op := s.q.ops.find? (fun o => o.id = id)

def removeOp (s : State) (id : Nat) : State := { s with q := { s.q with ops := s.q.ops.filter (fun o => o.id ≠ id) } }

def updOp (s : State) (id : Nat) (g : Op → Op) : State :=
  { s with q := { s.q with ops := listUpdate (fun o => o.id = id) g s.q.ops } }

/-- The core number of a ring bound to the network interface. -/
def netTarget : Nat := 0x3FF

/-- The 16-byte completion record (R86). (DEDUCED, log 25.) -/
def completionRecord (d : Bytes) (ring st xs info : Nat) : Bytes :=
  leBytes 2 (dTag d) ++ leBytes 1 st ++ leBytes 1 xs ++ leBytes 2 ring ++ zeros 2 ++ leBytes 8 info

/-- The descriptors dispatched before the next release: those a window must hold (R69). -/
def windowHead : List WinEntry → List WinEntry
  | [] => []
  | e :: t => e :: t.takeWhile (fun x => !dSrel x.desc)

/-- More than 256 descriptors before the next release: the oldest fall out and the window is not replayable (R69). -/
def windowTrim (w : Window) : Window :=
  let n := (windowHead w.entries).length
  if n ≤ 256 then w else { w with entries := w.entries.drop (n - 256), replayable := false }

/-- Note the completion in the core's replay window. A completing SRAM release drops what was dispatched before
it and makes the window replayable; the rebuilt SRAM is trusted again (R69, R71). -/
def windowDone (s : State) (core op st : Nat) (srel : Bool) : State :=
  if core = netTarget then s else
  updWindow s core (fun w =>
    let es := listUpdate (fun e => e.op = op) (fun e => { e with status := some st }) w.entries
    if !srel then { w with entries := es }
    else if es.any (fun e => e.op = op) then
      windowTrim { entries := es.dropWhile (fun e => e.op ≠ op), replayable := true, untrusted := false, dbeWords := [] }
    else { w with entries := es, untrusted := false })

/-- Note the completion among the ring's last fetched descriptors (R188). -/
def recentDone (s : State) (ring pos st : Nat) (ls : List Latch) : State :=
  updRing s ring (fun r =>
    { r with recent := (listUpdate (fun e => e.pos = pos) (fun e => { e with status := some st, latches := ls }) r.recent) })

/-- Step 3 and 4 of R84: write the completion record and raise the interrupt, or hold the record
(R125). `op` is the in-flight slot the record keeps while held. -/
def recordOut (s : State) (p ring : Nat) (irq : Bool) (op : Option Nat) (b : Bytes) : State :=
  let o := (getRing s ring).outRing
  if oringOpen s p o then
    let s1 := putRecord s p o b
    if irq then setOwnerLeaf s1 p (ringLeafOff 0x41000 ring) (2 ^ (ring % 32)) else s1
  else
    let s1 := match op with
      | some i => updOp s i (fun x => { x with phase := .recordHeld })
      | none => s
    holdRecord s1 p o { kind := .completion ring irq op, bytes := b }

/-! ### Sequence numbers of collectives (R233) -/

/-- A group-table entry belongs to the partition (R229). -/
def groupInPart (s : State) (p g : Nat) : Bool :=
  let r := getPart s p
  decide (64 * r.grpFirst ≤ g) && decide (g < 64 * (r.grpFirst + r.grpCount))

/-- Opcodes 0x8200 to 0x820A. -/
def isColl (d : Bytes) : Bool := decide (0x8200 ≤ dBase d) && decide (dBase d ≤ 0x820A)

/-- The spaces whose number a collective takes: its group's, or those of ordered pairs (sender, receiver). -/
def seqSpaces (g : Group) (d : Bytes) : List (Option (Nat × Nat)) :=
  let peer := fld d 0x2E 2
  match dBase d % 0x20 with
  | 8 => [some (g.myRank, peer)]
  | 9 => [some (peer, g.myRank)]
  | 10 => ((List.range g.size).filter (fun j => j ≠ g.myRank)).map (fun j => some (g.myRank, j))
  | _ => [none]

def nextSeq (g : Group) : Option (Nat × Nat) → Nat
  | none => g.next
  | some (a, b) => (tget none g.pairs (a * 2 ^ 16 + b)).getD g.seq0

def setNextSeq (g : Group) (n : Nat) : Option (Nat × Nat) → Group
  | none => { g with next := n }
  | some (a, b) => { g with pairs := tset none (a * 2 ^ 16 + b) (some n) g.pairs }

/-- Signed 32-bit difference. -/
def seqDiff (a b : Nat) : Int := sgn 32 ((a + 2 ^ 32 - b) % 2 ^ 32)

/-- Every completion consumes its SEQ: its spaces go on behind it. (DEDUCED, log 64.) -/
def consumeSeq (s : State) (p : Nat) (d : Bytes) : State :=
  let gi := fld d 0x24 2
  let g := getGroup s gi
  let n := fld d 0x28 4
  if !isColl d || !groupInPart s p gi || !g.valid then s
  else setGroup s gi ((seqSpaces g d).foldl (fun g sp => if 0 ≤ seqDiff n (nextSeq g sp) then setNextSeq g ((n + 1) % 2 ^ 32) sp else g) g)

/-- Completion of a descriptor that was refused or ended before dispatch: no in-flight slot (R84, R89).
`signal` is false where R85 says it neither waits nor signals. -/
def completeUndispatched (s : State) (p ring pos : Nat) (d : Bytes) (signal : Bool) (st xs : Nat) : State :=
  let s1 := consumeSeq (if signal then signalEvt s (dSigEvt d) true else s) p d
  let s2 := recentDone s1 ring pos st []
  recordOut s2 p ring (dIrq d) none (completionRecord d ring st xs 0)

/-- Completion of a dispatched operation (R84): signal, release its latches, write or hold its record,
free its slot. -/
def complete (s : State) (o : Op) (st xs info : Nat) : State :=
  let s1 := consumeSeq (signalEvt s (dSigEvt o.desc) (stFail st)) o.part o.desc
  let s2 := releaseLatches s1 o.latches
  let s3 := recentDone (windowDone s2 o.core o.id st (dSrel o.desc)) o.ring o.pos st o.latches
  if dCmpl o.desc || st ≠ stOk then
    let s4 := recordOut s3 o.part o.ring (dIrq o.desc) (some o.id) (completionRecord o.desc o.ring st xs info)
    match findOp s4 o.id with
    | some x => if x.phase = .recordHeld then updOp s4 o.id (fun x => { x with latches := [] }) else removeOp s4 o.id
    | none => s4
  else removeOp s3 o.id

/-- Draw `n` free bytes (DESIGN CHOICE, log 1): the contents of an undefined range. -/
def freeBytes (s : State) : Nat → Bytes
  | 0 => []
  | n + 1 => BitVec.ofNat 8 (Config.freeNat (s.free + n)) :: freeBytes s n

def drawFree (s : State) (n : Nat) : State := { s with free := s.free + n }

/-! ### SRAM (R54) -/

def sramSize : Nat := 0x180000
def sramKey (core off : Nat) : Nat := core * 2 ^ 21 + off

/-- STATE of a submission ring's status block: 3 while its partition is held (R116, R135). -/
def shownState (s : State) (p : Nat) (r : Ring) : Nat := if (getPart s p).held && r.state = 1 then 3 else r.state

/-- The submission ring's status block (R116), which cannot be written while the port is down (R135). -/
def ringStatus (s : State) (ring : Nat) : State :=
  match ringPart s ring with
  | none => s
  | some p =>
    if !partPortUp s p then s else
    let r := getRing s ring
    hostWrite s (fnPort (getPart s p).owner) (r.base + 64 * 2 ^ r.size)
      (leBytes 4 r.consumed ++ leBytes 1 (shownState s p r) ++ leBytes 1 r.error ++ [1#8] ++ zeros 57)

/-- Stop a ring by error: STATE 2, its ring-error leaf (R116, R117, R121). -/
def stopRing (s : State) (ring err : Nat) : State :=
  let s1 := ringStatus (updRing s ring (fun r => { r with state := 2, error := err })) ring
  match ringPart s ring with
  | some p => setOwnerLeaf s1 p (ringLeafOff 0x41200 ring) (2 ^ (ring % 32))
  | none => s1

end Sys2Proof.Machine
end

