-- ==== Sys2Proof/Machine/Caps.lean ====
section
/-! DEFINITION. Variants, divider codes and caps of the Kettle (R1, R317, R319 to R322). -/

namespace Sys2Proof.Machine

open Sys2Proof

/-- Variant maximum and floor codes (R320). -/
def maxCodeOf (v : Variant) : Nat :=
  match v with
  | .a => 0
  | .b => 2
  | .c => 4

def floorCodeOf (v : Variant) : Nat :=
  match v with
  | .a => 2
  | .b => 3
  | .c => 5

/-- The variant cap in units of 10 W (R1). -/
def variantCap (v : Variant) : Nat :=
  match v with
  | .a => 300
  | .b => 240
  | .c => 180

def variantField (v : Variant) : Nat :=
  match v with
  | .a => 0
  | .b => 1
  | .c => 2

/-- The supply cap of the working converters, in units of 10 W (R321). -/
def supplyCap (n : Nat) : Nat := if 3 ≤ n then 300 else if n = 2 then 200 else if n = 1 then 100 else 0

/-- The effective cap in units of 10 W (R321). The management cap is the one that the last period applied (R336). -/
def effectiveCap (s : State) : Nat :=
  min (min (variantCap s.part.variant) s.kt.hostCap)
    (min (s.kt.mgmtNow.getD (variantCap s.part.variant)) (supplyCap s.kt.converters))

/-- The core domain of a physical core (R317). -/
def domainOf (phys : Nat) : Nat := phys / 17

/-- The code of a domain at level f (R322). -/
def domainCode (f d : Nat) : Nat := if d < f % 32 then f / 32 + 1 else f / 32

/-- The fused code of a physical core (R320, DESIGN CHOICE, log 4). -/
def fuseOf (s : State) (phys : Nat) : Nat := tget (maxCodeOf s.part.variant) s.part.fuse phys

/-- The code a physical core runs at under level f (R322). -/
def codeAtLevel (s : State) (f phys : Nat) : Nat :=
  max (domainCode f (domainOf phys)) (max (fuseOf s phys) (maxCodeOf s.part.variant))

/-- The set point of a domain in mV: the highest fused voltage that one of its bound cores needs, at the faster of the
code it runs at and the code it goes to (R322, R326). -/
def domainMv (s : State) (d : Nat) : Nat :=
  (List.range 512).foldl (fun m l => match corePhys s l with
    | some x => if domainOf x = d then max m (s.part.fusedMv.getD (min (getCore s l).code (codeAtLevel s s.kt.f x)) 0) else m
    | none => m) 0

/-- Every bound core takes the code that f gives it (R320, R322, R336). -/
def applyCodes (s : State) : State :=
  forN 512 (fun l t => match corePhys t l with
    | some x => updCore t l (fun c => { c with code := codeAtLevel t t.kt.f x })
    | none => t) s

/-- f at its start (R322). -/
def startLevel (s : State) : Nat := 32 * maxCodeOf s.part.variant

/-- KT_DET_BREACH with the time in µs since skipping began (R356). -/
def raiseBreach (s : State) : State := raiseMod s 0x0803 (leBytes 4 ((s.power.tick.toNat - s.kt.skipTick) / 100))

/-- f in deterministic performance mode (R331). -/
def floorLevel (s : State) : Nat := 32 * floorCodeOf s.part.variant

end Sys2Proof.Machine
end

