-- ==== Sys2Proof/Machine/Float.lean ====
section
/-! DEFINITION. Number formats and arithmetic (02): exact values, decoding, the single rounding of a
value into a format under RNE, RTZ or SR, and FP32 operations. -/

namespace Sys2Proof.Machine

open Sys2Proof

/-- An exact value: NaN, an infinity, or (-1)^neg · m · 2^e. The sign of a zero is kept. -/
inductive Val where
  | nan
  | inf (neg : Bool)
  | fin (neg : Bool) (m : Nat) (e : Int)
  deriving DecidableEq, Repr

/-- Rounding (R39, R42): SR carries k and the top k bits of the CRG output (R43). -/
inductive Rnd where
  | rne
  | rtz
  | sr (k r : Nat)
  deriving DecidableEq, Repr

/-- m · 2^sh for a positive shift, ⌊m / 2^-sh⌋ for a negative one. -/
def shiftI (m : Nat) (sh : Int) : Nat := if 0 ≤ sh then m <<< sh.toNat else m >>> (-sh).toNat

/-- m · 2^e as a multiple of 2^q, rounded under the mode; the sign is kept elsewhere (R40, R42). -/
def roundGrid (rnd : Rnd) (m : Nat) (e q : Int) : Nat :=
  if q ≤ e then m <<< (e - q).toNat
  else
    let sh := (q - e).toNat
    let lo := m >>> sh
    let rem := m - (lo <<< sh)
    match rnd with
    | .rtz => lo
    | .rne =>
      if 2 ^ sh < 2 * rem then lo + 1
      else if 2 * rem = 2 ^ sh then (if lo % 2 = 1 then lo + 1 else lo) else lo
    | .sr k r => if rem = 0 then lo else if 2 ^ k ≤ (rem * 2 ^ k) >>> sh + r then lo + 1 else lo

/-- A binary floating format (R26): fraction bits, bias, exponent width, the code of the largest
finite magnitude, and what lies beyond (R30). -/
structure FloatFmt where
  mant : Nat
  bias : Nat
  width : Nat
  maxCode : Nat
  /-- code of infinity, if the format has one -/
  inf  : Option Nat
  /-- canonical NaN code; none where NaN narrows to +0 -/
  nan  : Option Nat
  deriving DecidableEq, Repr

def fp32Fmt : FloatFmt := { mant := 23, bias := 127, width := 32, maxCode := 0x7F7FFFFF, inf := some 0x7F800000, nan := some 0x7FC00000 }
def bf16Fmt : FloatFmt := { mant := 7, bias := 127, width := 16, maxCode := 0x7F7F, inf := some 0x7F80, nan := some 0x7FC0 }
def fp16Fmt : FloatFmt := { mant := 10, bias := 15, width := 16, maxCode := 0x7BFF, inf := some 0x7C00, nan := some 0x7E00 }
def e4m3Fmt : FloatFmt := { mant := 3, bias := 7, width := 8, maxCode := 0x7E, inf := none, nan := some 0x7F }
def e5m2Fmt : FloatFmt := { mant := 2, bias := 15, width := 8, maxCode := 0x7B, inf := some 0x7C, nan := some 0x7E }
def e3m2Fmt : FloatFmt := { mant := 2, bias := 3, width := 6, maxCode := 0x1F, inf := none, nan := none }
def e2m1Fmt : FloatFmt := { mant := 1, bias := 1, width := 4, maxCode := 0x7, inf := none, nan := none }
def sum24Fmt : FloatFmt := { mant := 15, bias := 127, width := 24, maxCode := 0x7F7FFF, inf := some 0x7F8000, nan := some 0x7FC000 }

/-- The exact value of a code (R26). -/
def decodeFloat (f : FloatFmt) (c : Nat) : Val :=
  let neg := bit c (f.width - 1)
  let mag := c % 2 ^ (f.width - 1)
  if f.maxCode < mag then
    (if f.inf = some mag then .inf neg else .nan)
  else
    let ex := mag >>> f.mant
    let fr := mag % 2 ^ f.mant
    if ex = 0 then .fin neg fr (1 - (f.bias : Int) - f.mant)
    else .fin neg (fr + 2 ^ f.mant) ((ex : Int) - f.bias - f.mant)

/-- The magnitude code of m · 2^e (m > 0) before any overflow rule. The code rises with the rounded
magnitude, so a carry moves into the next binade by itself. -/
def magCode (f : FloatFmt) (rnd : Rnd) (m : Nat) (e : Int) : Nat :=
  let top := (m.log2 : Int) + e
  let ex := max top (1 - (f.bias : Int))
  (ex + f.bias - 1).toNat * 2 ^ f.mant + roundGrid rnd m e (ex - f.mant)

/-- In TV128 equivalence mode a result is judged after rounding with no lower exponent limit (R49). -/
def eqvFlush (f : FloatFmt) (m : Nat) (e : Int) : Bool :=
  let top := (m.log2 : Int) + e
  let n := roundGrid .rne m e (top - f.mant)
  decide ((n.log2 : Int) + (top - f.mant) < 1 - (f.bias : Int))

/-- Narrow an exact value into a format, once (R30, R40). `eqv` is TV128 equivalence mode (R49). -/
def encodeFloat (f : FloatFmt) (eqv : Bool) (rnd : Rnd) : Val → Nat
  | .nan => f.nan.getD 0
  | .inf neg =>
    let s := if neg then 2 ^ (f.width - 1) else 0
    match f.inf with
    | some c => s + c
    | none => if eqv then s + f.maxCode else match f.nan with
      | some c => c
      | none => s + f.maxCode
  | .fin neg m e =>
    let s := if neg then 2 ^ (f.width - 1) else 0
    if m = 0 then s
    else if eqv && eqvFlush f m e then s
    else
      let c := magCode f rnd m e
      if c ≤ f.maxCode then s + c
      else match f.inf with
        | some i => (match rnd with
          | .rtz => s + f.maxCode
          | _ => s + i)
        | none => s + f.maxCode

/-- An FP32 pattern's exact value. -/
def vOf (a : F32) : Val := decodeFloat fp32Fmt a.toNat

/-- An FP32 operand's exact value; in equivalence mode a subnormal reads as zero of its sign. -/
def vIn (eqv : Bool) (a : F32) : Val :=
  match vOf a with
  | .fin neg m e => if eqv && decide (a.toNat % 2 ^ 31 < 2 ^ 23) then .fin neg 0 e else .fin neg m e
  | v => v

/-- Round an exact value to FP32, RNE (R40). -/
def toF32 (eqv : Bool) (v : Val) : F32 := BitVec.ofNat 32 (encodeFloat fp32Fmt eqv .rne v)

def vNeg : Val → Val
  | .nan => .nan
  | .inf n => .inf (!n)
  | .fin n m e => .fin (!n) m e

def vAbs : Val → Val
  | .nan => .nan
  | .inf _ => .inf false
  | .fin _ m e => .fin false m e

/-- Exact product (IEEE 754: an infinity times zero is NaN). -/
def vMul : Val → Val → Val
  | .nan, _ => .nan
  | _, .nan => .nan
  | .inf a, .inf b => .inf (a != b)
  | .inf a, .fin b m _ => if m = 0 then .nan else .inf (a != b)
  | .fin a m _, .inf b => if m = 0 then .nan else .inf (a != b)
  | .fin a m e, .fin b n f => .fin (a != b) (m * n) (e + f)

/-- The signed multiple of 2^q that m · 2^e is, for q ≤ e. -/
def signedAt (neg : Bool) (m : Nat) (e q : Int) : Int :=
  let v : Int := Int.ofNat (m <<< (e - q).toNat)
  if neg then -v else v

/-- Exact sum; an exact zero is +0 unless both operands are −0 (RNE). -/
def vAdd : Val → Val → Val
  | .nan, _ => .nan
  | _, .nan => .nan
  | .inf a, .inf b => if a = b then .inf a else .nan
  | .inf a, .fin _ _ _ => .inf a
  | .fin _ _ _, .inf b => .inf b
  | .fin a m e, .fin b n f =>
    if m = 0 && n = 0 then .fin (a && b) 0 e
    else if m = 0 then .fin b n f
    else if n = 0 then .fin a m e
    else
      let q := min e f
      let s := signedAt a m e q + signedAt b n f q
      if s = 0 then .fin false 0 q else .fin (decide (s < 0)) s.natAbs q

/-- The integer square root, by bits from 2^n down. -/
def isqrtFrom (v : Nat) : Nat → Nat → Nat
  | 0, r => r
  | n + 1, r =>
    let t := r + 2 ^ n
    isqrtFrom v n (if t * t ≤ v then t else r)

/-- Exact quotient to at least 60 bits with a sticky last bit, which RNE into any format of R26 rounds
as the true quotient. -/
def vDiv : Val → Val → Val
  | .nan, _ => .nan
  | _, .nan => .nan
  | .inf _, .inf _ => .nan
  | .inf a, .fin b _ _ => .inf (a != b)
  | .fin a _ _, .inf b => .fin (a != b) 0 0
  | .fin a m e, .fin b n f =>
    if n = 0 then (if m = 0 then .nan else .inf (a != b))
    else if m = 0 then .fin (a != b) 0 0
    else
      let sh := 64 + n.log2
      let p := m <<< sh
      let q := p / n
      .fin (a != b) (2 * q + (if q * n = p then 0 else 1)) (e - f - sh - 1)

/-- Square root with a sticky last bit. -/
def vSqrt : Val → Val
  | .nan => .nan
  | .inf neg => if neg then .nan else .inf false
  | .fin neg m e =>
    if m = 0 then .fin neg 0 0
    else if neg then .nan
    else
      let sh := 64 + (if (e % 2 = 0) then 0 else 1)
      let p := m <<< sh
      let r := isqrtFrom p (p.log2 / 2 + 1) 0
      .fin false (2 * r + (if r * r = p then 0 else 1)) ((e - sh) / 2 - 1)

def fAdd (eqv : Bool) (a b : F32) : F32 := toF32 eqv (vAdd (vIn eqv a) (vIn eqv b))
def fSub (eqv : Bool) (a b : F32) : F32 := toF32 eqv (vAdd (vIn eqv a) (vNeg (vIn eqv b)))
def fMul (eqv : Bool) (a b : F32) : F32 := toF32 eqv (vMul (vIn eqv a) (vIn eqv b))
def fDiv (eqv : Bool) (a b : F32) : F32 := toF32 eqv (vDiv (vIn eqv a) (vIn eqv b))
def fFma (eqv : Bool) (a b c : F32) : F32 := toF32 eqv (vAdd (vMul (vIn eqv a) (vIn eqv b)) (vIn eqv c))
def fSqrt (eqv : Bool) (a : F32) : F32 := toF32 eqv (vSqrt (vIn eqv a))
def fNeg (eqv : Bool) (a : F32) : F32 := toF32 eqv (vNeg (vIn eqv a))
def fAbs (eqv : Bool) (a : F32) : F32 := toF32 eqv (vAbs (vIn eqv a))

/-- Sign of a − b for values that are not NaN. -/
def vCmp : Val → Val → Ordering
  | .inf a, .inf b => if a = b then .eq else if a then .lt else .gt
  | .inf a, _ => if a then .lt else .gt
  | _, .inf b => if b then .gt else .lt
  | .fin a m e, .fin b n f =>
    let q := min e f
    compare (signedAt a m e q) (signedAt b n f q)
  | _, _ => .eq

def vIsNan : Val → Bool
  | .nan => true
  | _ => false

def vIsFinite : Val → Bool
  | .fin _ _ _ => true
  | _ => false

def vIsZero : Val → Bool
  | .fin _ m _ => m = 0
  | _ => false

def vSign : Val → Bool
  | .nan => false
  | .inf n => n
  | .fin n _ _ => n

/-- IEEE 754-2019 maximum: NaN if either is NaN, and −0 below +0 (R95). -/
def vMax (a b : Val) : Val :=
  if vIsNan a || vIsNan b then .nan
  else match vCmp a b with
    | .lt => b
    | .gt => a
    | .eq => if vSign a then b else a

def vMin (a b : Val) : Val :=
  if vIsNan a || vIsNan b then .nan
  else match vCmp a b with
    | .lt => a
    | .gt => b
    | .eq => if vSign a then a else b

def fMax (eqv : Bool) (a b : F32) : F32 := toF32 eqv (vMax (vIn eqv a) (vIn eqv b))
def fMin (eqv : Bool) (a b : F32) : F32 := toF32 eqv (vMin (vIn eqv a) (vIn eqv b))

def one32 : F32 := 0x3F800000#32
def zero32 : F32 := 0#32
def half32 : F32 := 0x3F000000#32
def nan32 : F32 := 0x7FC00000#32
def negInf32 : F32 := 0xFF800000#32
def posInf32 : F32 := 0x7F800000#32

/-- a > b, false where either is NaN. -/
def fGt (eqv : Bool) (a b : F32) : Bool :=
  let x := vIn eqv a
  let y := vIn eqv b
  !vIsNan x && !vIsNan y && vCmp x y == .gt

def fEq (eqv : Bool) (a b : F32) : Bool :=
  let x := vIn eqv a
  let y := vIn eqv b
  !vIsNan x && !vIsNan y && vCmp x y == .eq

/-- ⌊a⌋ (R95). -/
def vFloor : Val → Val
  | .fin neg m e =>
    if 0 ≤ e then .fin neg m e
    else
      let sh := (-e).toNat
      let q := m >>> sh
      if m = q <<< sh then .fin neg m e
      else if neg then .fin true (q + 1) 0 else .fin false q 0
  | v => v

def fFloor (eqv : Bool) (a : F32) : F32 := toF32 eqv (vFloor (vIn eqv a))

/-- An unsigned integer as FP32, RNE (R209). -/
def fOfNat (n : Nat) : F32 := toF32 false (.fin false n 0)

/-! ### Stored formats -/

/-- Bits of one stored element by format code (R26, R27); 0 for a reserved code. -/
def fmtBits : Nat → Nat
  | 0x0 => 32
  | 0x1 => 16
  | 0x2 => 16
  | 0x3 => 8
  | 0x4 => 8
  | 0x5 => 6
  | 0x6 => 4
  | 0x7 => 8
  | 0x8 => 4
  | 0x9 => 16
  | 0xA => 24
  | _ => 0

def floatFmt : Nat → Option FloatFmt
  | 0x0 => some fp32Fmt
  | 0x1 => some bf16Fmt
  | 0x2 => some fp16Fmt
  | 0x3 => some e4m3Fmt
  | 0x4 => some e5m2Fmt
  | 0x5 => some e3m2Fmt
  | 0x6 => some e2m1Fmt
  | 0xA => some sum24Fmt
  | _ => none

def codeOf (fmt : Nat) : Nat := fmt % 16
def isMx (fmt : Nat) : Bool := bit fmt 4
def isBs16 (fmt : Nat) : Bool := fmt = 9
/-- The operand needs a scale or exponent plane (R77). -/
def hasPlane (fmt : Nat) : Bool := isMx fmt || isBs16 fmt

/-- A 5-bit format field that R25 accepts. -/
def fmtOk (fmt : Nat) : Bool :=
  decide (codeOf fmt ≤ 0xA) && (!isMx fmt || [0x3, 0x4, 0x5, 0x6, 0x8].contains (codeOf fmt))

/-- An unscaled floating format other than SUM24. -/
def isFloat (fmt : Nat) : Bool := decide (fmt ≤ 6)

/-- Exact value of a stored element; `plane` is its block's scale or exponent byte (R26, R32, R34,
R35). In equivalence mode a subnormal reads as zero of its sign (R49). -/
def elemVal (eqv : Bool) (fmt bits plane : Nat) : Val :=
  let code := codeOf fmt
  if isBs16 fmt then
    (if plane = 0xFF then .nan
     else
      let s := sgn 16 bits
      .fin (decide (s < 0)) s.natAbs ((plane : Int) - 141))
  else
    let v : Val := match code with
      | 0x7 => let s := sgn 8 bits; .fin (decide (s < 0)) s.natAbs 0
      | 0x8 => let s := sgn 4 bits; .fin (decide (s < 0)) s.natAbs (if isMx fmt then -2 else 0)
      | 0xA => (match decodeFloat sum24Fmt bits with
        | .fin n m e => if (bits >>> 15) % 256 = 0 then .fin n 0 e else .fin n m e
        | v => v)
      | _ => (match floatFmt code with
        | some f => (match decodeFloat f bits with
          | .fin n m e => if eqv && (bits % 2 ^ (f.width - 1)) >>> f.mant = 0 then .fin n 0 e else .fin n m e
          | v => v)
        | none => .nan)
    if isMx fmt then
      (if plane = 0xFF then .nan else match v with
        | .fin n m e => .fin n m (e + plane - 127)
        | v => v)
    else v

/-- An element as a vector lane reads it: in FP32, rounded RNE (R35; exact for unscaled formats). A BS16 element of value
-2^128, which FP32 cannot hold, reads as minus infinity (DEDUCED, log 171). -/
def elemF32 (eqv : Bool) (fmt bits plane : Nat) : F32 := toF32 eqv (elemVal eqv fmt bits plane)

/-- Narrow to a two's-complement integer of `w` bits (R30). -/
def encodeInt (w : Nat) (rnd : Rnd) : Val → Nat
  | .nan => 0
  | .inf neg => if neg then 2 ^ (w - 1) else 2 ^ (w - 1) - 1
  | .fin neg m e =>
    let n := roundGrid rnd m e 0
    if neg then (if n ≤ 2 ^ (w - 1) then unsgn w (-(n : Int)) else 2 ^ (w - 1))
    else (if n < 2 ^ (w - 1) then n else 2 ^ (w - 1) - 1)

/-- Narrow an FP32 value into an unscaled format (R30, R34, R42). SUM24 takes FP32 subnormals to zero
of their sign. -/
def narrow (eqv : Bool) (rnd : Rnd) (code : Nat) (v : Val) : Nat :=
  match code with
  | 0x7 => encodeInt 8 rnd v
  | 0x8 => encodeInt 4 rnd v
  | 0xA => (match v with
    | .fin neg m e =>
      if m ≠ 0 && decide ((m.log2 : Int) + e < -126) then (if neg then 2 ^ 23 else 0)
      else encodeFloat sum24Fmt eqv .rne v
    | v => encodeFloat sum24Fmt eqv .rne v)
  | _ => (match floatFmt code with
    | some f => encodeFloat f eqv rnd v
    | none => 0)

/-- The exponent of the largest power of two of each scaled format (R36). -/
def emax : Nat → Int
  | 0x3 => 8
  | 0x4 => 15
  | 0x5 => 4
  | 0x6 => 2
  | _ => 0

/-- ⌊log₂⌋ of a non-zero finite magnitude. -/
def vLog2 : Val → Int
  | .fin _ m e => (m.log2 : Int) + e
  | _ => 0

/-- A block of values has a NaN or an infinity. -/
def blockBad (vs : List Val) : Bool := vs.any (fun v => !vIsFinite v)

/-- The largest magnitude of a block, as a value. -/
def blockMax (vs : List Val) : Val := vs.foldl (fun a v => vMax a (vAbs v)) (.fin false 0 0)

/-- The MX scale byte of a block (R36). -/
def mxScale (code : Nat) (vs : List Val) : Nat :=
  if blockBad vs then 0xFF
  else
    let mx := blockMax vs
    if vIsZero mx then 0
    else (max 0 (min 254 (vLog2 mx - emax code + 127))).toNat

/-- Multiply by 2^k. -/
def vScale (k : Int) : Val → Val
  | .fin n m e => .fin n m (e + k)
  | v => v

/-- Saturating narrow of a scaled element (R36): infinite results of E5M2 become ±max. -/
def narrowSat (rnd : Rnd) (code : Nat) (v : Val) : Nat :=
  match code with
  | 0x8 => encodeInt 4 rnd (vScale 2 v)
  | _ => (match floatFmt code with
    | some f =>
      let c := encodeFloat f false rnd v
      let mag := c % 2 ^ (f.width - 1)
      if f.maxCode < mag then c - mag + f.maxCode else c
    | none => 0)

/-- Encode a block in a scaled format: its scale byte and element codes (R36). `rnds` gives the rounding
of each element. -/
def encodeMx (code : Nat) (rnds : List Rnd) (vs : List Val) : Nat × List Nat :=
  let x := mxScale code vs
  if x = 0xFF then (0xFF, vs.map (fun _ => 0))
  else (x, List.zipWith (fun r v => narrowSat r code (vScale (127 - (x : Int)) v)) rnds vs)

/-- The FP32 biased-exponent field of a finite FP32 value. -/
def expField (v : Val) : Nat :=
  match v with
  | .fin _ m e => if m = 0 then 0 else ((m.log2 : Int) + e + 127).toNat
  | _ => 255

/-- One attempt at a BS16 block with exponent E: the signed significands before the range check. -/
def bs16Try (E : Nat) (rnds : List Rnd) (vs : List Val) : List Int :=
  List.zipWith (fun r v => match v with
    | .fin neg m e =>
      let n : Int := Int.ofNat (roundGrid r m (e + 141 - (E : Int)) 0)
      if neg then -n else n
    | _ => 0) rnds vs

/-- Encode a block in BS16: its exponent byte and significand codes (R33). -/
def encodeBs16 (rnds : List Rnd) (vs : List Val) : Nat × List Nat :=
  if blockBad vs then (0xFF, vs.map (fun _ => 0))
  else
    let E := (vs.map expField).foldl max 0
    let t := bs16Try E rnds vs
    if t.contains 32768 then
      (if E + 1 = 0xFF then (0xFF, vs.map (fun _ => 0)) else (E + 1, (bs16Try (E + 1) rnds vs).map (unsgn 16)))
    else (E, t.map (unsgn 16))

/-- Encode a block of FP32 values in any format: plane byte (0 where there is none) and codes. -/
def encodeBlock (eqv : Bool) (fmt : Nat) (rnds : List Rnd) (vs : List Val) : Nat × List Nat :=
  if isBs16 fmt then encodeBs16 rnds vs
  else if isMx fmt then encodeMx (codeOf fmt) rnds vs
  else (0, List.zipWith (fun r v => narrow eqv r (codeOf fmt) v) rnds vs)

/-- The number k of CRG bits a stochastic rounding into a format uses (R43). -/
def srBits (fmt : Nat) : Nat :=
  if [0x1, 0x2, 0x7, 0x9].contains (codeOf fmt) then 16 else 12

/-! ### Sums in fixed order (R41) -/

/-- The exact sum of a group of terms, with the rules for NaN and infinities (R41). -/
def exactSum (ts : List Val) : Val := ts.foldl vAdd (.fin true 0 0)

/-- A group sum: exact and rounded once; in equivalence mode terms are added one by one from +0. -/
def groupSum (eqv : Bool) (ts : List Val) : F32 :=
  if eqv then ts.foldl (fun a t => toF32 true (vAdd (vIn true a) t)) zero32
  else toF32 false (exactSum ts)

/-- Split a list into groups of n; `fuel` bounds the number of groups. -/
def groupsOf {α : Type} (n : Nat) : Nat → List α → List (List α)
  | 0, _ => []
  | fuel + 1, l => if l.isEmpty then [] else l.take n :: groupsOf n fuel (l.drop n)

/-- Accumulate over a dimension in the fixed order of R41: groups of 32, each rounded once, added in
increasing order to an accumulator that starts at +0. -/
def accumulate (eqv : Bool) (ts : List Val) : F32 :=
  ((groupsOf 32 (ts.length / 32 + 1) ts).map (groupSum eqv)).foldl (fAdd eqv) zero32

/-- A sum of FP32 terms in the order of R41 (R97). -/
def fSum (eqv : Bool) (ts : List F32) : F32 := accumulate eqv (ts.map (vIn eqv))

end Sys2Proof.Machine
end

