-- ==== Sys2Proof/Machine/Sfu.lean ====
section
/-! DEFINITION. The nodes of the special-function unit whose approximation the spec does not set out (R95): each returns
the built-in approximation's bits where these lie within the stated error of the exact value. The exact values are
formed in fixed point with 320 fraction bits. -/

namespace Sys2Proof.Machine

open Sys2Proof

/-! ### Exact values -/

/-- Fraction bits of the fixed point. -/
def fixBits : Nat := 320

/-- ln 2, π ÷ 2 and 2 ÷ √π in fixed point. -/
def fixLn2 : Nat := 0xb17217f7d1cf79abc9e3b39803f2f6af40f343267298b62d8a0d175b8baafa2be7b876206debac98
def fixHalfPi : Nat := 0x1921fb54442d18469898cc51701b839a252049c1114cf98e804177d4c76273644a29410f31c6809bb
def fixErf : Nat := 0x120dd750429b6d11ae3a914fed7fd8688281341d7587cea2e7342b06199cc416180eb39f0b24e1e22

/-- A value in fixed point, cut to the range ±`lim`. -/
def fixOf (lim : Nat) (neg : Bool) (m : Nat) (e : Int) : Int :=
  let x : Int := Int.ofNat (min (shiftI m (e + fixBits)) (lim <<< fixBits))
  if neg then -x else x

/-- Σ rⁱ ÷ i! from a term on. -/
def expTerms : Nat → Nat → Nat → Nat → Nat
  | 0, _, _, _ => 0
  | k + 1, i, r, t => t + expTerms k (i + 1) r ((t * r) >>> fixBits / (i + 1))

/-- e^x for a fixed-point x: (m, k) stands for m · 2^(k − fixBits). -/
def expFix (x : Int) : Nat × Int := (expTerms 100 0 (x % (fixLn2 : Int)).toNat (2 ^ fixBits), x / (fixLn2 : Int))

/-- e^|x| in fixed point. -/
def expAbs (x : Int) : Nat :=
  let y := expFix x.natAbs
  shiftI y.1 y.2

/-- Σ z^(2i+1) ÷ (2i+1), with z² = q, from a term on. -/
def atanhTerms : Nat → Nat → Nat → Nat → Nat
  | 0, _, _, _ => 0
  | k + 1, i, q, t => t / (2 * i + 1) + atanhTerms k (i + 1) q ((t * q) >>> fixBits)

/-- ln of m · 2^e, m > 0, in fixed point. -/
def lnFix (m : Nat) (e : Int) : Int :=
  let y := shiftI m ((fixBits : Int) - m.log2)
  let z := ((y - 2 ^ fixBits) <<< fixBits) / (y + 2 ^ fixBits)
  ((m.log2 : Int) + e) * fixLn2 + 2 * (atanhTerms 104 0 ((z * z) >>> fixBits) z : Int)

/-- x · Σ (2x²)ⁱ ÷ (3 · 5 ⋯ (2i + 1)), with 2x² = q, from a term on. -/
def erfTerms : Nat → Nat → Nat → Nat → Nat
  | 0, _, _, _ => 0
  | k + 1, i, q, t => t + erfTerms k (i + 1) q ((t * q) >>> fixBits / (2 * i + 3))

/-- The alternating series of sine and cosine, with x² = q, from a term of degree d on. -/
def trigTerms : Nat → Nat → Nat → Nat → Int
  | 0, _, _, _ => 0
  | k + 1, d, q, t => (t : Int) - trigTerms k (d + 2) q ((t * q) >>> fixBits / ((d + 1) * (d + 2)))

/-- A fixed-point number as a value. -/
def ofFix (x : Int) : Val := .fin (decide (x < 0)) x.natAbs (-(fixBits : Int))

def exactExp (neg : Bool) (m : Nat) (e : Int) : Val :=
  let y := expFix (fixOf 256 neg m e)
  .fin false y.1 (y.2 - fixBits)

/-- tanh |x| = (E − 1) ÷ (E + 1) with E = e^(2|x|). -/
def exactTanh (neg : Bool) (m : Nat) (e : Int) : Val :=
  let y := expAbs (2 * fixOf 64 neg m e)
  .fin neg (((y - 2 ^ fixBits) <<< fixBits) / (y + 2 ^ fixBits)) (-(fixBits : Int))

def exactSigmoid (neg : Bool) (m : Nat) (e : Int) : Val :=
  let y := expAbs (fixOf 256 neg m e)
  .fin false (((if neg then 2 ^ fixBits else y) <<< fixBits) / (y + 2 ^ fixBits)) (-(fixBits : Int))

def exactErf (neg : Bool) (m : Nat) (e : Int) : Val :=
  let x := (fixOf 6 false m e).toNat
  let q := (x * x) >>> fixBits
  let y := expFix (-(q : Int))
  .fin neg (fixErf * erfTerms 400 0 (2 * q) x * y.1) (y.2 - 3 * fixBits)

/-- sin(x + quarter · π ÷ 2). -/
def exactTrig (quarter : Nat) (neg : Bool) (m : Nat) (e : Int) : Val :=
  let x := fixOf 65536 neg m e
  let r := (x % (fixHalfPi : Int)).toNat
  let q := (r * r) >>> fixBits
  let k := (x / (fixHalfPi : Int) + quarter) % 4
  let y := if k % 2 = 0 then trigTerms 48 1 q r else trigTerms 48 0 q (2 ^ fixBits)
  ofFix (if k < 2 then y else -y)

/-! ### Approximations within an error -/

/-- The exponent of one FP32 ulp of a value. -/
def ulpExp (v : Val) : Int := if vIsZero v then -149 else max (vLog2 v) (-126) - 23

/-- An infinity as the next power of two beyond the FP32 range. -/
def beyondMax : Val → Val
  | .inf neg => .fin neg 1 128
  | v => v

/-- The built-in approximation's bits where they lie within n ulp of the exact value, and else that value rounded
(R95, DESIGN CHOICE, log 12). Equivalence mode flushes (R49). -/
def withinUlp (eqv : Bool) (n : Nat) (exact : Val) (pick : F32) : F32 :=
  match vAdd (beyondMax (vOf pick)) (vNeg exact) with
  | .fin _ m e =>
    if vCmp (.fin false m e) (.fin false n (ulpExp exact)) == .gt then toF32 eqv exact else toF32 eqv (vIn eqv pick)
  | _ => toF32 eqv exact

/-! ### The nodes -/

def fRsqrt (eqv : Bool) (a : F32) : F32 :=
  match vIn eqv a with
  | .nan => nan32
  | .inf neg => if neg then nan32 else zero32
  | .fin neg m e =>
    if m = 0 then (if neg then negInf32 else posInf32)
    else if neg then nan32
    else withinUlp eqv 1 (vDiv (.fin false 1 0) (vSqrt (.fin false m e))) (Config.sfuRsqrt a)

def fRecip (eqv : Bool) (a : F32) : F32 :=
  match vIn eqv a with
  | .nan => nan32
  | .inf neg => toF32 eqv (.fin neg 0 0)
  | .fin neg m e =>
    if m = 0 then (if neg then negInf32 else posInf32)
    else withinUlp eqv 1 (vDiv (.fin false 1 0) (.fin neg m e)) (Config.sfuRecip a)

def fExp (eqv : Bool) (a : F32) : F32 :=
  match vIn eqv a with
  | .nan => nan32
  | .inf neg => if neg then zero32 else posInf32
  | .fin neg m e => withinUlp eqv 2 (exactExp neg m e) (Config.sfuExp a)

def fLog (eqv : Bool) (a : F32) : F32 :=
  match vIn eqv a with
  | .nan => nan32
  | .inf neg => if neg then nan32 else posInf32
  | .fin neg m e =>
    if m = 0 then negInf32 else if neg then nan32
    else withinUlp eqv 2 (ofFix (lnFix m e)) (Config.sfuLog a)

/-- A node within n ulp, with its limits at the infinities. -/
def fWithin (n : Nat) (exact : Bool → Nat → Int → Val) (pick : F32 → F32) (atNeg atPos a : F32) : F32 :=
  match vOf a with
  | .nan => nan32
  | .inf neg => if neg then atNeg else atPos
  | .fin neg m e => withinUlp false n (exact neg m e) (pick a)

def negOne32 : F32 := 0xBF800000#32

def fTanh : F32 → F32 := fWithin 3 exactTanh Config.sfuTanh negOne32 one32
def fSigmoid : F32 → F32 := fWithin 3 exactSigmoid Config.sfuSigmoid zero32 one32
def fErf : F32 → F32 := fWithin 3 exactErf Config.sfuErf negOne32 one32

/-- SIN and COS: within 2 ulp for |A| ≤ 2^16, and beyond that some value in [−1, 1] (R95). -/
def fTrig (quarter : Nat) (pick : F32 → F32) (a : F32) : F32 :=
  if fGt false (fAbs false a) 0x47800000#32 && vIsFinite (vOf a) then
    let r := pick a
    if vIsNan (vOf r) then zero32 else fMin false one32 (fMax false negOne32 r)
  else fWithin 2 (exactTrig quarter) pick nan32 nan32 a

def fSin : F32 → F32 := fTrig 0 Config.sfuSin
def fCos : F32 → F32 := fTrig 1 Config.sfuCos

end Sys2Proof.Machine
end

