-- ==== Sys2Proof/Machine/Crg.lean ====
section
/-! DEFINITION. The counter-based rounding generator (R42 to R46) and the rounding mode of one element. -/

namespace Sys2Proof.Machine

open Sys2Proof

/-- One round of R46. -/
def crgRound (h w : BitVec 32) : BitVec 32 :=
  let x := (h ^^^ w) * 0x9E3779B1#32
  x ^^^ (x >>> 16)

/-- The CRG output (R46). -/
def crg (key : BitVec 64) (tensor elem step stream : Nat) : BitVec 32 :=
  let w0 := BitVec.ofNat 32 key.toNat
  let w1 := BitVec.ofNat 32 (key.toNat >>> 32)
  let w2 := BitVec.ofNat 32 ((stream <<< 16) ||| ((step >>> 32) % 2 ^ 16))
  let w3 := BitVec.ofNat 32 step
  let w4 := BitVec.ofNat 32 ((tensor <<< 8) ||| ((elem >>> 32) % 2 ^ 8))
  let w5 := BitVec.ofNat 32 elem
  crgRound (crgRound (crgRound (crgRound (crgRound (crgRound 0x6A09E667#32 w0) w1) w2) w3) w4) w5

/-- What a rounding point draws from (R44): the seed, tensor ID, step and stream. -/
structure CrgKey where
  seed   : BitVec 64
  tensor : Nat
  step   : Nat
  stream : Nat
  deriving DecidableEq, Repr

/-- The rounding of the element with this index under a mode code (R39, R42, R43). -/
def elemRnd (k : CrgKey) (mode fmt elem : Nat) : Rnd :=
  match mode with
  | 0 => .rne
  | 1 => .rtz
  | _ =>
    let b := srBits fmt
    .sr b ((crg k.seed k.tensor elem k.step k.stream).toNat >>> (32 - b))

end Sys2Proof.Machine
end

