-- ==== Sys2Proof/Machine/Gf.lean ====
section
/-! DEFINITION. GF(2^8) with the field polynomial 0x11D and Reed-Solomon codes whose generator roots
are α^0 to α^(2t-1), α = 2 (R150, R291): encoding, syndromes and the bounded-distance decoder. -/

namespace Sys2Proof.Machine

open Sys2Proof

/-- Multiply by α. -/
def gfX (a : Byte) : Byte := if a.getLsbD 7 then (a <<< 1) ^^^ 0x1D#8 else a <<< 1

/-- Shift-and-add product, from bit n - 1 of `b` down. -/
def gfMulFrom (a b : Byte) : Nat → Byte → Byte
  | 0, r => r
  | n + 1, r => gfMulFrom a b n (gfX r ^^^ (if b.getLsbD n then a else 0#8))

/-- Product in GF(2^8). -/
def gfMul (a b : Byte) : Byte := gfMulFrom a b 8 0#8

def gfPow (a : Byte) : Nat → Byte
  | 0 => 1#8
  | n + 1 => gfMul a (gfPow a n)

/-- α^n, for n of any size. -/
def alpha (n : Nat) : Byte := gfPow 2#8 (n % 255)

/-- The inverse of a non-zero element: a^254. -/
def gfInv (a : Byte) : Byte :=
  let a2 := gfMul a a
  let a4 := gfMul a2 a2
  let a8 := gfMul a4 a4
  let a16 := gfMul a8 a8
  let a32 := gfMul a16 a16
  let a64 := gfMul a32 a32
  let a128 := gfMul a64 a64
  gfMul a128 (gfMul a64 (gfMul a32 (gfMul a16 (gfMul a8 (gfMul a4 a2)))))

/-- Value at x of a polynomial, highest coefficient first. -/
def polyEval (x : Byte) : Byte → Bytes → Byte
  | r, [] => r
  | r, c :: cs => polyEval x (gfMul r x ^^^ c) cs

/-- The product of a polynomial (lowest coefficient first) and (x + r). -/
def polyMulRoot (r : Byte) (p : Bytes) : Bytes :=
  List.zipWith (· ^^^ ·) (0#8 :: p) (p.map (gfMul r) ++ [0#8])

/-- The generator polynomial with roots α^0 to α^(n-1), lowest coefficient first. -/
def rsGen : Nat → Bytes
  | 0 => [1#8]
  | n + 1 => polyMulRoot (alpha n) (rsGen n)

/-- One step of the division that gives the check bytes; the register is highest power first, and
`g` is the generator without its leading 1, highest power first. -/
def rsStep (g : Bytes) (reg : Bytes) (m : Byte) : Bytes :=
  let f := m ^^^ reg.headD 0#8
  List.zipWith (· ^^^ ·) (reg.drop 1 ++ [0#8]) (g.map (gfMul f))

/-- The n check bytes of a message: the message bytes are the coefficients of the highest powers,
first byte highest (R150). -/
def rsCheck (n : Nat) (msg : Bytes) : Bytes :=
  let g := ((rsGen n).reverse).drop 1
  msg.foldl (rsStep g) (zeros n)

/-- The n syndromes of a received word, highest power first. -/
def rsSyndromes (n : Nat) (w : Bytes) : Bytes := (List.range n).map (fun i => polyEval (alpha i) 0#8 w)

/-- Add c·x^k·p to q, lowest coefficient first. -/
def polyAddScaled (q p : Bytes) (c : Byte) (k : Nat) : Bytes :=
  let sh := zeros k ++ p.map (gfMul c)
  let n := max q.length sh.length
  List.zipWith (· ^^^ ·) (padTo n q) (padTo n sh)

/-- Berlekamp and Massey: the error locator from the syndromes. `c` and `b` are lowest coefficient
first, `l` the current length, `m` the shift and `bb` the last discrepancy. -/
def bmLoop (syn : Bytes) : Nat → Nat → Bytes → Bytes → Nat → Nat → Byte → Bytes × Nat
  | 0, _, c, _, l, _, _ => (c, l)
  | fuel + 1, i, c, b, l, m, bb =>
    let d := (List.range (l + 1)).foldl (fun a j => a ^^^ gfMul (c.getD j 0) (syn.getD (i - j) 0)) 0#8
    if d = 0#8 then bmLoop syn fuel (i + 1) c b l (m + 1) bb
    else
      let c' := polyAddScaled c b (gfMul d (gfInv bb)) m
      if 2 * l ≤ i then bmLoop syn fuel (i + 1) c' c (i + 1 - l) 1 d
      else bmLoop syn fuel (i + 1) c' b l (m + 1) bb

/-- Value of a polynomial with the lowest coefficient first. -/
def polyVal (p : Bytes) (x : Byte) : Byte := polyEval x 0#8 p.reverse

/-- The bounded-distance decoder of RS(n, n - r): the error vector that it subtracts from the received
word, or none where it reports an uncorrectable word. Position j of the word has power n - 1 - j. -/
def rsDecode (r : Nat) (w : Bytes) : Option Bytes :=
  let n := w.length
  let syn := rsSyndromes r w
  if syn.all (· = 0#8) then some (zeros n) else
  let (loc, l) := bmLoop syn r 0 [1#8] [1#8] 0 1 1#8
  if r < 2 * l then none else
  -- error evaluator: syndromes times locator, modulo x^r
  let om := (List.range r).map (fun k =>
    (List.range (k + 1)).foldl (fun a j => a ^^^ gfMul (loc.getD j 0) (syn.getD (k - j) 0)) 0#8)
  -- formal derivative: odd coefficients
  let dl := (List.range loc.length).map (fun k => if k % 2 = 0 then loc.getD (k + 1) 0#8 else 0#8)
  let err := (List.range n).map (fun j =>
    let pw := n - 1 - j
    let xi := alpha (255 - pw % 255)
    if polyVal loc xi = 0#8 then gfMul (alpha pw) (gfMul (polyVal om xi) (gfInv (polyVal dl xi))) else 0#8)
  let bad := err.countP (fun e => decide (e ≠ 0#8))
  let fixed := List.zipWith (· ^^^ ·) w err
  if bad = l && (rsSyndromes r fixed).all (· = 0#8) then some err else none

end Sys2Proof.Machine
end

