-- ==== Sys2Proof/Machine/Weave.lean ====
section
/-! DEFINITION. DRAM behind the Weave (06): region lookup, the Weave hash, slots, checked block reads by
class, row repair, the write-combining buffer, and version views of a layer (R140 to R170, R178). -/

namespace Sys2Proof.Machine

open Sys2Proof

/-! ### Addresses -/

def unit16 : Nat := 2 ^ 24

def inRegion (r : Region) (x : Nat) : Bool := decide (r.base * unit16 ≤ x) && decide (x < (r.base + r.size) * unit16)

/-- The enabled Ready region of partition p that holds address x (R140). -/
def regionOf (s : State) (p x : Nat) : Option Nat :=
  (findN 64 (fun i => let r := getRegion s (64 * p + i); r.enable && r.state = 2 && inRegion r x)).map (64 * p + ·)

/-- The partition size: the end of its highest enabled region (R140). -/
def partSize (s : State) (p : Nat) : Nat :=
  (List.range 64).foldl (fun m i => let r := getRegion s (64 * p + i); if r.enable then max m ((r.base + r.size) * unit16) else m) 0

/-- The 9-bit stripe hash h (R143). -/
def stripeHash (rid s : Nat) : Nat := ((s * 0x9E3779B1) % 2 ^ 32 ^^^ (rid * 0x85EBCA77) % 2 ^ 32) >>> 23

/-- The logical channel of a region offset (R143). Products are modulo 2^32; the granule numbers are
not cut (DEDUCED, log 20). -/
def weaveChannel (rid off : Nat) : Nat :=
  let g := off >>> 10
  let j := g % 512
  ((j % 16) * 32 + j / 16) ^^^ stripeHash rid (g >>> 9)

/-- The granule of a stripe that stands on a logical channel: the map of R143 is a bijection (R144). -/
def granuleOn (rid s ch : Nat) : Nat :=
  let p := ch ^^^ stripeHash rid s
  512 * s + (p % 32) * 16 + p / 32

/-- The channel slot of a data granule's stripe index (R145). -/
def dataSlot (cls base s : Nat) : Nat :=
  match cls with
  | 0 => base + 9 * (s >>> 3) + s % 8
  | 1 => base + 33 * (s >>> 5) + s % 32
  | _ => base + s

/-- The check slot of a data granule's stripe index (R145). -/
def checkSlot (cls base s : Nat) : Option Nat :=
  match cls with
  | 0 => some (base + 9 * (s >>> 3) + 8)
  | 1 => some (base + 33 * (s >>> 5) + 32)
  | _ => none

/-- Where the check bytes of block k of a granule start in its check slot (R145). -/
def checkOff (cls s k : Nat) : Nat := if cls = 0 then 128 * (s % 8) + 16 * k else 32 * (s % 32) + 4 * k

/-- The stored block index of block k of a channel slot, and what it decodes to (R146). -/
def storedIndex (q k : Nat) : Nat := 8 * q + k
def rowBlockOf (b : Nat) : Nat := b % 16
def bankOf (b : Nat) : Nat := b / 16 % 64
def rowOf (b : Nat) : Nat := b / 1024

/-- Slots per 16 MiB unit and channel (R145). -/
def slotsPerUnit (cls : Nat) : Nat :=
  match cls with
  | 0 => 36
  | 1 => 33
  | _ => 32

/-- Slots that hold regions, and the reserve above them (R147). -/
def regionSlots : Nat := 1045954
def reserveSlots : Nat := 2622

def slotKey (ch q : Nat) : Nat := ch * 2 ^ 20 + q

/-- Follow retirement entries; a reserve slot can itself be retired (R168). -/
def retiredTo (s : State) (ch : Nat) : Nat → Nat → Nat
  | 0, q => q
  | n + 1, q =>
    let t := tget 0 s.dram.retire (slotKey ch q)
    if t = 0 then q else retiredTo s ch n t

/-- Logical channel and channel slot of a region offset's data (R143, R145, R169). -/
def slotOf (s : State) (rid off : Nat) : Nat × Nat :=
  let r := getRegion s rid
  let ch := weaveChannel rid off
  (ch, retiredTo s ch reserveSlots (dataSlot r.cls r.slot (off >>> 19)))

/-- The module-wide index of the physical channel that a logical channel is bound to (R138). -/
def physOf (s : State) (ch : Nat) : Nat := ch / 32 * 34 + (getChannel s ch).phys

/-- The data granule, as region and stripe, that a channel slot was given to (R145). -/
def slotGiven (s : State) (q : Nat) : Option (Nat × Nat) :=
  s.dram.regions.findSome? (fun e =>
    let r := getRegion s e.1
    if !(r.enable && r.state = 2 && decide (r.slot ≤ q) && decide (q < r.slot + slotsPerUnit r.cls * r.size)) then none else
    let x := q - r.slot
    match r.cls with
    | 0 => if x % 9 = 8 then none else some (e.1, 8 * (x / 9) + x % 9)
    | 1 => if x % 33 = 32 then none else some (e.1, 32 * (x / 33) + x % 33)
    | _ => some (e.1, x))

/-- The slot that a channel slot stands for: a reserve slot holds a retired one (R168). -/
def slotStandsFor (s : State) (ch : Nat) : Nat → Nat → Nat
  | 0, q => q
  | n + 1, q => match s.dram.retire.find? (fun e => e.1 / 2 ^ 20 = ch && e.2 = q) with
    | some e => slotStandsFor s ch n (e.1 % 2 ^ 20)
    | none => q

/-- The data granule that a channel slot holds: region and granule. -/
def slotHolds (s : State) (ch q : Nat) : Option (Nat × Nat) :=
  (slotGiven s (slotStandsFor s ch reserveSlots q)).map (fun x => (x.1, granuleOn x.1 x.2 ch))

def blockKey (rid blk : Nat) : Nat := rid * 2 ^ 33 + blk
/-- A check block of a region, by its number on the channel. -/
def checkKey (rid n : Nat) : Nat := blockKey rid (2 ^ 32 + n)
/-- Byte i of a stored codeword: 0 to 127 data, 128 on check bytes. -/
def flipKey (rid blk i : Nat) : Nat := blockKey rid blk * 256 + i
def cellKey (rid off : Nat) : Nat := rid * 2 ^ 40 + off

/-- Check bytes stored with a block (R145). -/
def checkLen (cls : Nat) : Nat :=
  match cls with
  | 0 => 16
  | 1 => 4
  | _ => 0

/-- Upsets that strike before the command reads. -/
def dramUpsets (s : State) (m : MemIn) : State :=
  { s with dram := { s.dram with flips := m.flips.foldl (fun t e => mset t e.1 (mget t e.1 ^^^ e.2)) s.dram.flips } }

def clearFlips (s : State) (rid blk : Nat) : State :=
  { s with dram := { s.dram with flips := mclear s.dram.flips (flipKey rid blk 0) 256 } }

def setFlips (s : State) (rid blk : Nat) (b : Bytes) : State :=
  { s with dram := { s.dram with flips := mwrite s.dram.flips (flipKey rid blk 0) b } }

/-- The check bytes that belong to a difference of the data bytes: both codes are linear. -/
def checkDiff (cls : Nat) (d : Bytes) : Bytes :=
  match cls with
  | 0 => rsCheck 16 d
  | 1 => leBytes 4 (crcReg poly32 0#32 d).toNat
  | _ => []

/-- The upset pattern of a block that carries the poison pattern over data upsets d (R152). -/
def poisonFlips (cls : Nat) (d : Bytes) : Bytes := d ++ (checkDiff cls d).map (fun b => ~~~b)

/-- The block carries the poison pattern (R152). (DEDUCED, log 29.) -/
def isPoisoned (cls : Nat) (w : Bytes) : Bool :=
  checkLen cls ≠ 0 && decide (w.drop 128 = (checkDiff cls (w.take 128)).map (fun b => ~~~b))

/-! ### Stored codewords and the link (R149 to R152) -/

def lookupL (t : List (Nat × List Word32)) (k : Nat) : List Word32 :=
  match t.find? (fun e => e.1 = k) with
  | some e => e.2
  | none => []

def lookupN (t : List (Nat × Nat)) (k : Nat) : Nat :=
  match t.find? (fun e => e.1 = k) with
  | some e => e.2
  | none => 0

def xorBytes (a b : Bytes) : Bytes := List.zipWith (· ^^^ ·) a b

/-- The 128 bytes that were written to a block, its upset pattern, and the 128 bytes that it stores. -/
def blockData (s : State) (rid blk : Nat) : Bytes := mread s.dram.cells (cellKey rid (128 * blk)) 128
def blockUpsets (s : State) (rid blk : Nat) : Bytes := mread s.dram.flips (flipKey rid blk 0) (128 + checkLen (getRegion s rid).cls)
def storedData (s : State) (rid blk : Nat) : Bytes := xorBytes (blockData s rid blk) (blockUpsets s rid blk)

/-- The initial register value of a class A stored CRC; the block's number 8g + k counts within its region (R151). -/
def crcSeed (rid blk : Nat) : Word32 := 0xFFFFFFFF#32 ^^^ BitVec.ofNat 32 (rid * 2 ^ 23) ^^^ BitVec.ofNat 32 blk

/-- The check bytes of a block of a class that holds these data (R150, R151). -/
def codeCheck (cls rid blk : Nat) (d : Bytes) : Bytes :=
  match cls with
  | 0 => rsCheck 16 d
  | 1 => leBytes 4 (crc32From (crcSeed rid blk) d).toNat
  | _ => []

/-- The check bytes that a block stores. -/
def storedCheck (s : State) (rid blk : Nat) : Bytes :=
  xorBytes (codeCheck (getRegion s rid).cls rid blk (blockData s rid blk)) ((blockUpsets s rid blk).drop 128)

/-- A class A block's stored CRC matches the data it stores. -/
def crcMatches (s : State) (rid blk : Nat) : Bool :=
  (blockUpsets s rid blk).all (· = 0#8) || decide (codeCheck 1 rid blk (storedData s rid blk) = storedCheck s rid blk)

/-- A class A read finds a matching CRC, at once or at one of the two re-reads (R157). -/
def crcVerified (s : State) (m : MemIn) (rid blk : Nat) : Bool :=
  crcMatches s rid blk && decide (lookupN m.transient (blockKey rid blk) ≤ 2)

/-- The link CRC of a block at stored index b of a logical channel (R149). -/
def linkCrc (s : State) (ch b : Nat) (d : Bytes) : Word32 :=
  crc32From (0xFFFFFFFF#32 ^^^ BitVec.ofNat 32 ((getChannel s ch).phys * 2 ^ 23) ^^^ BitVec.ofNat 32 b) d

/-- Four consecutive sends of a block failed their link CRC (R149). -/
def linkFailed (crc : Word32) (got : List Word32) : Bool := decide (4 ≤ (got.takeWhile (fun x => x ≠ crc)).length)

/-- A read of a block ends its sends without success; a failed channel answers no access (R149, R165). -/
def readLost (s : State) (m : MemIn) (rid blk : Nat) : Bool :=
  let x := slotOf s rid (128 * blk)
  (getChannel s x.1).state = 3
    || linkFailed (linkCrc s x.1 (storedIndex x.2 (blk % 8)) (storedData s rid blk)) (lookupL m.linkRead (blockKey rid blk))

/-! ### Repair copies and row repair (R152, R166 to R170) -/

/-- MEM_UNCORRECTED. -/
def raiseUncorrected (s : State) (rid blk : Nat) : State :=
  raiseMod s 0x0108 (leBytes 2 (slotOf s rid (128 * blk)).1 ++ leBytes 1 (getRegion s rid).cls ++ leBytes 2 rid)

/-- One stored block is copied by a row repair (R152, R156): class W corrected, a block that cannot be corrected or
verified, or whose read fails its link CRC a fourth time, written with the poison pattern, class N as it is. A bad block
found by the copy is reported and is no further row fault: its row is the one being replaced. (DEDUCED, log 151.) -/
def repairCopy (m : MemIn) (s : State) (rid blk : Nat) : State :=
  let cls := (getRegion s rid).cls
  let w := blockUpsets s rid blk
  let bad (t : State) : State := if isPoisoned cls w then t else setFlips (raiseUncorrected t rid blk) rid blk (poisonFlips cls (w.take 128))
  match cls with
  | 0 => if readLost s m rid blk then bad s else (match rsDecode 16 w with
    | some e => setFlips s rid blk (xorBytes w e)
    | none => bad s)
  | 1 => if !readLost s m rid blk && crcVerified s m rid blk then s else bad s
  | _ => s

/-- A channel slot is copied block by block; a check slot's bytes move as they are. -/
def copySlot (m : MemIn) (s : State) (ch q : Nat) : State :=
  match slotHolds s ch q with
  | some (rid, g) => forN 8 (fun k t => repairCopy m t rid (8 * g + k)) s
  | none => s

/-- Retire one slot to the next free reserve slot, copied (R168, R170); with none left it stays in service. (DESIGN CHOICE,
log 30.) -/
def retireSlot (m : MemIn) (s0 : State) (ch q : Nat) : State :=
  let c := getChannel s0 ch
  if c.reserveFree = 0 then s0 else
  let s := copySlot m s0 ch q
  let t := regionSlots + (reserveSlots - c.reserveFree)
  let s1 := updChannel s ch (fun c => { c with reserveFree := c.reserveFree - 1, retired := c.retired + 1 })
  let s2 := { s1 with dram := { s1.dram with
      retire := tset 0 (slotKey ch q) t s1.dram.retire
      pendingRecs := s1.dram.pendingRecs ++ [.retired ch q t] } }
  let s3 := raiseMod s2 0x0106 (leBytes 2 ch ++ leBytes 4 q ++ leBytes 4 t)
  if c.reserveFree = 1 && !s3.dram.shortRaised.contains ch then
    raiseMod { s3 with dram := { s3.dram with capacity := true, shortRaised := s3.dram.shortRaised ++ [ch] } } 0x0107 (leBytes 2 ch)
  else s3

/-- Keys of the row map: a logical row of a bank of a physical channel, and the bank. -/
def rowKey (phys bank row : Nat) : Nat := phys * 2 ^ 20 + row * 64 + bank
def bankKey (phys bank : Nat) : Nat := phys * 64 + bank

/-- The physical row of a logical row (R146). -/
def physRow (s : State) (phys bank row : Nat) : Nat :=
  let t := tget 0 s.dram.rowMap (rowKey phys bank row)
  if t = 0 then row else t

/-- A spare row of the bank stands for the logical row, remapped for the n-th time (R167). Spare rows follow the 8,192
rows and are taken in order (DESIGN CHOICE, log 150). -/
def mapRow (s : State) (phys bank row n spare : Nat) : State :=
  { s with dram := { s.dram with
      rowMap := tset 0 (rowKey phys bank row) spare s.dram.rowMap
      rowCount := tset 0 (rowKey phys bank row) n s.dram.rowCount
      bankUsed := tset 0 (bankKey phys bank) (tget 0 s.dram.bankUsed (bankKey phys bank) + 1) s.dram.bankUsed
      remaps := tset 0 phys (sat 8191 (tget 0 s.dram.remaps phys + 1)) s.dram.remaps } }

/-- Fewest free spare rows in any bank of a physical channel. -/
def spareMin (s : State) (phys : Nat) : Nat := s.dram.bankUsed.foldl (fun m e => if e.1 / 64 = phys then min m (64 - e.2) else m) 64

/-- A row fault at a channel slot: the row is copied and remapped to a spare row of its bank, at most twice, or its two
slots are retired (R167, R168). -/
def rowFault (m : MemIn) (s : State) (ch q : Nat) : State :=
  let b := storedIndex q 0
  let bank := bankOf b
  let row := rowOf b
  let phys := physOf s ch
  let n := tget 0 s.dram.rowCount (rowKey phys bank row)
  let used := tget 0 s.dram.bankUsed (bankKey phys bank)
  let q0 := q - q % 2
  if n < 2 && used < 64 then
    let s1 := mapRow (copySlot m (copySlot m s ch q0) ch (q0 + 1)) phys bank row (n + 1) (8192 + used)
    let s2 := { s1 with dram := { s1.dram with pendingRecs := s1.dram.pendingRecs ++ [.rowRemap phys bank row (n + 1) (8192 + used)] } }
    raiseMod s2 0x0105 (leBytes 2 ch ++ leBytes 1 bank ++ leBytes 1 (n + 1) ++ leBytes 2 row)
  else retireSlot m (retireSlot m s ch q0) ch (q0 + 1)

/-- A channel in service is marked for repair, once (R161). -/
def markRepair (s : State) (ch : Nat) : State :=
  if (getChannel s ch).state = 3 || s.dram.repairs.contains ch then s
  else { s with dram := { s.dram with repairs := s.dram.repairs ++ [ch] } }

/-! ### Checked reads (R149 to R158) -/

/-- XSTATUS of an unreadable block of a class (R87, R159). (DEDUCED, log 26.) -/
def classXs (cls : Nat) : Nat :=
  match cls with
  | 0 => 4
  | 1 => 5
  | _ => 1

/-- Repair an unreadable block: a row fault, whose copy writes the poison pattern and reports MEM_UNCORRECTED; a block that
stays where it is, or that carries the pattern already, is reported here (R152, R166). (DESIGN CHOICE, log 27.) -/
def badBlock (m : MemIn) (s : State) (rid blk cls : Nat) (w : Bytes) : State :=
  let x := slotOf s rid (128 * blk)
  if isPoisoned cls w then raiseUncorrected s rid blk else
  let s1 := rowFault m s x.1 x.2
  if isPoisoned cls (blockUpsets s1 rid blk) then s1 else raiseUncorrected s1 rid blk

/-- Judge a block that came over the link: corrected and written back, re-read, or unreadable with its XSTATUS. A row fault
is the data slot's row, also where wrong symbols lie in the check bytes (DESIGN CHOICE, log 167). -/
def judgeBlock (s : State) (m : MemIn) (rid blk : Nat) : State × Option Nat :=
  let cls := (getRegion s rid).cls
  let x := slotOf s rid (128 * blk)
  let w := blockUpsets s rid blk
  match cls with
  | 0 =>
    if w.all (· = 0#8) then (s, none) else
    (match rsDecode 16 w with
    | some e =>
      let s1 := setFlips s rid blk (xorBytes w e)
      if 4 < e.countP (fun b => decide (b ≠ 0#8)) then (rowFault m s1 x.1 x.2, none) else (s1, none)
    | none => (badBlock m s rid blk 0 w, some 4))
  | 1 =>
    if crcVerified s m rid blk then (s, none)
    else (badBlock m s rid blk 1 w, some 5)
  | _ => (s, none)

/-- Read one block. A fourth link failure fails the access and marks the channel for repair (R149). -/
def readBlock (s : State) (m : MemIn) (rid blk : Nat) : State × Option Nat :=
  if readLost s m rid blk then (markRepair s (slotOf s rid (128 * blk)).1, some (classXs (getRegion s rid).cls))
  else judgeBlock s m rid blk

/-- Number of 128-byte blocks that a range touches. -/
def blocksIn (off len : Nat) : Nat := if len = 0 then 0 else (off + len - 1) / 128 - off / 128 + 1

/-- The pending mask of a data block in its channel's write-combining buffer. -/
def wcMask (s : State) (rid blk : Nat) : BitVec 128 :=
  match (tget [] s.dram.wc (weaveChannel rid (128 * blk))).find? (fun e => e.rid = rid && e.blk = blk && !e.check) with
  | some e => e.mask
  | none => 0#128

/-- The mask of bytes lo to hi - 1 of a block. -/
def maskOf (lo hi : Nat) : BitVec 128 := BitVec.ofNat 128 ((2 ^ (hi - lo) - 1) <<< lo)

/-- Read bytes lo to hi - 1 of a block: the stored block is read where the buffer does not hold them all (R155). -/
def readPart (s : State) (m : MemIn) (rid blk lo hi : Nat) : State × Option Nat :=
  if maskOf lo hi &&& ~~~wcMask s rid blk = 0#128 then (s, none) else readBlock s m rid blk

/-- Read the n blocks of the range off to end_ - 1 from block blk on; the first failure's XSTATUS. -/
def readBlocks (m : MemIn) (rid off end_ : Nat) : Nat → Nat → State → State × Option Nat
  | _, 0, s => (s, none)
  | blk, n + 1, s =>
    let (s1, e1) := readPart s m rid blk (off - 128 * blk) (min 128 (end_ - 128 * blk))
    let (s2, e2) := readBlocks m rid off end_ (blk + 1) n s1
    (s2, match e1 with
      | some x => some x
      | none => e2)

def readRange (s : State) (m : MemIn) (rid off len : Nat) : State × Option Nat :=
  readBlocks m rid off (off + len) (off / 128) (blocksIn off len) s

/-- The byte a read returns: a buffered byte first, then the stored byte (R155). -/
def dramByte (s : State) (rid off : Nat) : Byte :=
  let d := mget s.dram.cells (cellKey rid off)
  if (wcMask s rid (off / 128)).getLsbD (off % 128) then d
  else d ^^^ mget s.dram.flips (flipKey rid (off / 128) (off % 128))

def dramBytes (s : State) (rid off n : Nat) : Bytes := (List.range n).map (fun i => dramByte s rid (off + i))

/-! ### Writes and the write-combining buffer (R155) -/

def setWc (s : State) (ch : Nat) (l : List WcEntry) : State :=
  { s with dram := { s.dram with wc := tset [] ch l s.dram.wc } }

/-- The bytes of a block that an entry does not write become free values. -/
def freeUnmasked (s : State) (e : WcEntry) : State :=
  let k := cellKey e.rid (128 * e.blk)
  let s1 := drawFree s 128
  { s1 with dram := { s1.dram with cells := forN 128 (fun i m =>
      if e.mask.getLsbD i then m else mset m (k + i) (BitVec.ofNat 8 (Config.freeNat (s.free + i)))) s1.dram.cells } }

/-- The check entry that goes with a data block: its check block's number on the channel, and the block's check bytes in
it (R145, R155). -/
def checkEntry (s : State) (e : WcEntry) : WcEntry :=
  let cls := (getRegion s e.rid).cls
  let t := e.blk / 4096
  let o := checkOff cls t (e.blk % 8)
  { rid := e.rid, blk := if cls = 0 then t else t / 4, check := true
    mask := BitVec.ofNat 128 ((2 ^ checkLen cls - 1) <<< (o % 128)) }

/-- The 128 bytes that a read of a stored block gives after correction; none where it cannot be read, corrected or verified
(R149, R156, R157). -/
def soundData (s : State) (m : MemIn) (rid blk : Nat) : Option Bytes :=
  let cls := (getRegion s rid).cls
  let w := blockUpsets s rid blk
  if 2 ≤ cls then some (storedData s rid blk)
  else if readLost s m rid blk then none
  else if cls = 0 then (rsDecode 16 w).map (fun e => xorBytes (blockData s rid blk) (xorBytes w e))
  else if crcVerified s m rid blk then some (storedData s rid blk) else none

/-- The 128 bytes with which a data entry is sent: its own, and of a partial one the stored block's as the merge reads them,
or free ones where that read fails (R155). -/
def mergedBytes (s : State) (m : MemIn) (e : WcEntry) : Bytes :=
  let own := blockData s e.rid e.blk
  let old := if e.mask = BitVec.allOnes 128 then some own else soundData s m e.rid e.blk
  (List.range 128).map (fun i => if e.mask.getLsbD i then own.getD i 0#8 else match old with
    | some b => b.getD i 0#8
    | none => BitVec.ofNat 8 (Config.freeNat (s.free + i)))

/-- The stored index and the bytes of an entry as it would be sent. -/
def wcSent (s : State) (m : MemIn) (ch : Nat) (e : WcEntry) : Nat × Bytes :=
  if !e.check then
    let x := slotOf s e.rid (128 * e.blk)
    (storedIndex x.2 (e.blk % 8), mergedBytes s m e)
  else
    let r := getRegion s e.rid
    let t := if r.cls = 0 then e.blk else 4 * e.blk
    let q := retiredTo s ch reserveSlots ((checkSlot r.cls r.slot t).getD 0)
    let one (t' : Nat) : Bytes := (List.range 8).flatMap (fun k => storedCheck s e.rid (8 * granuleOn e.rid t' ch + k))
    (storedIndex q (checkOff r.cls t 0 / 128), if r.cls = 0 then one t else (List.range 4).flatMap (fun i => one (t + i)))

/-- Writing an entry ends its sends without success: it stays in the buffer (R149, R165). -/
def writeLost (s : State) (m : MemIn) (ch : Nat) (e : WcEntry) : Bool :=
  let x := wcSent s m ch e
  (getChannel s ch).state = 3
    || linkFailed (linkCrc s ch x.1 x.2) (lookupL m.linkWrite (if e.check then checkKey e.rid e.blk else blockKey e.rid e.blk))

def sameBlock (x e : WcEntry) : Bool := x.rid = e.rid && x.blk = e.blk && x.check = e.check

/-- An entry becomes the most recently written of its channel's buffer, or leaves it at once where its mask is full and
`done` can write it. -/
def wcEnter (s : State) (m : MemIn) (ch : Nat) (e : WcEntry) (done : State → State) : State :=
  let rest := (tget [] s.dram.wc ch).filter (fun x => !sameBlock x e)
  if e.mask ≠ BitVec.allOnes 128 then setWc s ch (rest ++ [e])
  else if writeLost s m ch e then markRepair (setWc s ch (rest ++ [e])) ch
  else done (setWc s ch rest)

/-- The check bytes of a data block that was written enter the buffer (R155). -/
def wcCheck (s : State) (m : MemIn) (ch : Nat) (e : WcEntry) : State :=
  if 2 ≤ (getRegion s e.rid).cls then s else
  let c := checkEntry s e
  let old := match (tget [] s.dram.wc ch).find? (fun x => sameBlock x c) with
    | some x => x.mask
    | none => 0#128
  wcEnter s m ch { c with mask := old ||| c.mask } id

/-- Upsets of a block whose masked bytes have been written and whose check was computed anew over all of them. -/
def mergedFlips (s : State) (e : WcEntry) : Bytes :=
  let w := blockUpsets s e.rid e.blk
  let d := (List.range 128).map (fun i => if e.mask.getLsbD i then 0#8 else w.getD i 0#8)
  d ++ checkDiff (getRegion s e.rid).cls d

/-- A data block reaches DRAM: whole, or merged with the stored block (R155). (DESIGN CHOICE, log 28.) -/
def wcStore (s : State) (m : MemIn) (e : WcEntry) : State :=
  let cls := (getRegion s e.rid).cls
  if e.mask = BitVec.allOnes 128 then clearFlips s e.rid e.blk
  else if 2 ≤ cls then setFlips s e.rid e.blk (mergedFlips s e)
  else
    match readBlock s m e.rid e.blk with
    | (s1, none) => setFlips s1 e.rid e.blk (mergedFlips s1 e)
    | (s1, some _) =>
      let s2 := if readLost s m e.rid e.blk then raiseUncorrected s1 e.rid e.blk else s1
      setFlips (clearFlips (freeUnmasked s2 e) e.rid e.blk) e.rid e.blk (poisonFlips cls (zeros 128))

/-- An entry that has left the buffer is written to DRAM; a data block's check bytes enter it. -/
def wcWrite (s : State) (m : MemIn) (ch : Nat) (e : WcEntry) : State := if e.check then s else wcCheck (wcStore s m e) m ch e

/-- Flush the entry at an index of a channel's buffer; one whose fourth send fails stays, and the channel is repaired
(R149). -/
def wcFlushAt (s : State) (m : MemIn) (ch i : Nat) : State :=
  let l := tget [] s.dram.wc ch
  match l[i]? with
  | none => s
  | some e => if writeLost s m ch e then markRepair s ch else wcWrite (setWc s ch (l.eraseIdx i)) m ch e

/-- Flush entries, least recently written first and passing over those that cannot be written, until at most n are left. -/
def wcFlushTo (m : MemIn) (ch n : Nat) : Nat → Nat → State → State
  | 0, _, s => s
  | fuel + 1, i, s =>
    let l := tget [] s.dram.wc ch
    if l.length ≤ n then s else
    match l[i]? with
    | none => s
    | some e => wcFlushTo m ch n fuel (if writeLost s m ch e then i + 1 else i) (wcFlushAt s m ch i)

/-- Bytes lo to hi - 1 of a block enter the buffer; a seventeenth block flushes the least recently written (R155). -/
def wcTouch (s : State) (m : MemIn) (rid blk lo hi : Nat) : State :=
  let ch := weaveChannel rid (128 * blk)
  let e : WcEntry := { rid, blk, mask := wcMask s rid blk ||| maskOf lo hi }
  wcFlushTo m ch 16 64 0 (wcEnter s m ch e (fun t => wcWrite t m ch e))

/-- Bytes of one block are written: its cells, and its entry in the buffer. -/
def writePart (s : State) (m : MemIn) (rid off : Nat) (b : Bytes) : State :=
  let blk := off / 128
  wcTouch { s with dram := { s.dram with cells := mwrite s.dram.cells (cellKey rid off) b } } m rid blk (off - 128 * blk) (off + b.length - 128 * blk)

/-- Write a range block by block. -/
def writeParts (m : MemIn) (rid : Nat) : Nat → Nat → Bytes → State → State
  | 0, _, _, s => s
  | n + 1, off, b, s =>
    let k := 128 - off % 128
    writeParts m rid n (off + k) (b.drop k) (writePart s m rid off (b.take k))

/-- Write bytes to a region: visible at once to every later read (R84 step 1, R155). -/
def dramWrite (s : State) (m : MemIn) (rid off : Nat) (b : Bytes) : State := writeParts m rid (blocksIn off b.length) off b s

/-! ### Slots of versioned layers and their views (R178) -/

/-- Layers of partition p: its layer blocks (R174). BLK_COUNT 0 with BLK_FIRST 0 means 64. -/
def layCountOf (r : PartRegs) : Nat := if r.layCount = 0 && r.layFirst = 0 then 64 else r.layCount
def layerInPart (s : State) (p l : Nat) : Bool :=
  let r := getPart s p
  decide (64 * r.layFirst ≤ l) && decide (l < 64 * (r.layFirst + layCountOf r))

/-- The partition's table in force describes the layer (R175). -/
def layerHeld (s : State) (p l : Nat) : Bool :=
  let r := getPart s p
  r.layInForce && decide (64 * r.forceFirst ≤ l) && decide (l < 64 * (r.forceFirst + r.forceCount))

def slotAddr (l : Layer) (slot : Nat) : Nat := if slot = 0 then l.slot0 else l.slot1

/-- The view of a versioned layer of p that holds address x: layer, view, byte within the view. -/
def viewOf (s : State) (p x : Nat) : Option (Nat × Nat × Nat) :=
  s.tr.layers.findSome? (fun e =>
    let l := e.2
    if !(l.valid && l.versioned && layerHeld s p e.1) then none
    else if l.slot0 ≤ x ∧ x < l.slot0 + l.len then some (e.1, 0, x - l.slot0)
    else if l.slot1 ≤ x ∧ x < l.slot1 + l.len then some (e.1, 1, x - l.slot1)
    else none)

/-- The slot that a view resolves to: as latched, or as it stands. -/
def viewSlot (s : State) (ls : List Latch) (layer view : Nat) : Nat :=
  match ls.find? (fun l => l.layer = layer && l.view = view) with
  | some l => l.slot
  | none => let c := (getVer s layer).cur; if view = 0 then c else 1 - c

/-- The address behind the views (R178). -/
def viewAddr (s : State) (p : Nat) (ls : List Latch) (x : Nat) : Nat :=
  match viewOf s p x with
  | some (layer, view, off) => slotAddr (getLayer s layer) (viewSlot s ls layer view) + off
  | none => x

/-- The version that a slot holds; none while it holds none or is claimed (R179). -/
def slotVersion (v : VerState) (slot : Nat) : Option Nat :=
  if slot ≠ v.cur && v.claim.isSome then none else if slot = 0 then v.ver0 else v.ver1

/-- Region and offset of a partition device address. -/
def dramLoc (s : State) (p : Nat) (ls : List Latch) (x : Nat) : Option (Nat × Nat) :=
  let a := viewAddr s p ls x
  (regionOf s p a).map (fun rid => (rid, a - (getRegion s rid).base * unit16))

/-- A range lies within one enabled Ready region of p; its ID. -/
def rangeRegion (s : State) (p x len : Nat) : Option Nat :=
  match regionOf s p x with
  | some rid => if inRegion (getRegion s rid) (x + (len - 1)) then some rid else none
  | none => none

/-- A range lies within one region of a class. -/
def inClass (s : State) (p x len cls : Nat) : Bool :=
  match rangeRegion s p x len with
  | some rid => (getRegion s rid).cls = cls
  | none => false

end Sys2Proof.Machine
end

