-- ==== Sys2Proof/Machine/Operands.lean ====
section
/-! DEFINITION. Operand references (R79), the byte ranges a tensor occupies (R27, R28, R56, R99), and reading and
writing tensors in SRAM and DRAM. -/

namespace Sys2Proof.Machine

open Sys2Proof

/-! ### References -/

/-- An operand reference (R79). -/
structure Ref where
  present : Bool
  trans   : Bool
  layout  : Nat
  fmt     : Nat
  space   : Nat
  addr    : Nat
  deriving DecidableEq, Repr

def parseRef (v : Nat) : Ref :=
  { present := bit v 50, trans := bit v 49, layout := field v 47 2, fmt := field v 42 5, space := field v 40 2, addr := field v 0 40 }

/-- The reference at an offset of a descriptor. -/
def refAt (d : Bytes) (off : Nat) : Ref := parseRef (fld d off 8)

def Ref.sram (r : Ref) : Bool := r.space = 1
def Ref.square (r : Ref) : Bool := r.layout = 1
/-- The logical core and the offset of an SRAM address (R79). -/
def Ref.core (r : Ref) : Nat := field r.addr 21 9
def Ref.off (r : Ref) : Nat := field r.addr 0 21

/-- The reference word is well formed by R79 and R25, whatever its use. -/
def refWordOk (v : Nat) : Bool :=
  let r := parseRef v
  field v 51 13 = 0 && (if r.present then decide (r.layout ≤ 1) && fmtOk r.fmt && decide (r.space ≤ 1) &&
    (!r.sram || field r.addr 30 10 = 0) else v = 0)

/-! ### Byte ranges -/

/-- `rows` stretches of `len` bytes at distance `stride`; `base` is a partition device address or an SRAM key. -/
structure Ext where
  sram   : Bool
  base   : Nat
  len    : Nat
  stride : Nat := 0
  rows   : Nat := 1
  deriving DecidableEq, Repr

/-- The stretches of an extent. -/
def Ext.parts (e : Ext) : List (Nat × Nat) := (List.range e.rows).map (fun i => (e.base + i * e.stride, e.len))

/-- A stretch (a, n) shares a byte with an extent. -/
def Ext.hits (e : Ext) (a n : Nat) : Bool :=
  if n = 0 || e.len = 0 || e.rows = 0 then false
  else if e.rows = 1 || e.stride = 0 then overlap a n e.base e.len
  else
    let j := if a < e.base + e.len then 0 else (a - (e.base + e.len)) / e.stride + 1
    decide (j < e.rows) && decide (e.base + j * e.stride < a + n)

/-- Two extents share a byte. -/
def extOverlap (x y : Ext) : Bool := x.sram = y.sram && x.parts.any (fun p => y.hits p.1 p.2)

/-- A tensor as stored: format, layout, stored rows and columns, row distance (0 dense), element plane and scale
or exponent plane. -/
structure TView where
  fmt    : Nat
  square : Bool := false
  rows   : Nat
  cols   : Nat
  stride : Nat := 0
  sram   : Bool
  base   : Nat
  planeSram : Bool := false
  planeBase : Nat := 0
  deriving DecidableEq, Repr

namespace TView

/-- Stored elements of a row of a row-major tensor: padded to whole blocks where there are blocks (R28). -/
def pitch (v : TView) : Nat := if hasPlane v.fmt then roundUp v.cols 32 else v.cols

def bits (v : TView) : Nat := fmtBits (codeOf v.fmt)

/-- Squares across, and squares in all (R56). -/
def sqCols (v : TView) : Nat := cdiv v.cols 32
def squares (v : TView) : Nat := cdiv v.rows 32 * v.sqCols

/-- Bytes of one stored row. -/
def rowBytes (v : TView) : Nat := cdiv (v.pitch * v.bits) 8

/-- The element plane's extent; a last partial group of E3M2 elements takes ⌈6n ÷ 8⌉ bytes (DESIGN CHOICE, log 142). -/
def elemExt (v : TView) : Ext :=
  if v.square then { sram := v.sram, base := v.base, len := v.squares * 128 * v.bits }
  else if v.stride = 0 then { sram := v.sram, base := v.base, len := cdiv (v.rows * v.pitch * v.bits) 8 }
  else { sram := v.sram, base := v.base, len := v.rowBytes, stride := v.stride, rows := v.rows }

/-- Bytes of the scale or exponent plane: one per block, and 32 per square (R27, R56). -/
def planeLen (v : TView) : Nat := if v.square then v.squares * 32 else v.rows * cdiv v.cols 32

def planeExt (v : TView) : Ext := { sram := v.planeSram, base := v.planeBase, len := v.planeLen }

def exts (v : TView) : List Ext := if hasPlane v.fmt then [v.elemExt, v.planeExt] else [v.elemExt]

def bytes (v : TView) : Nat := v.elemExt.len * v.elemExt.rows + (if hasPlane v.fmt then v.planeLen else 0)

/-- Bit position of the stored element (r, c) from the element plane's first byte. -/
def bitPos (v : TView) (r c : Nat) : Nat :=
  if v.square then (((r / 32) * v.sqCols + c / 32) * 1024 + (r % 32) * 32 + c % 32) * v.bits
  else if v.stride = 0 then (r * v.pitch + c) * v.bits
  else 8 * (r * v.stride) + c * v.bits

/-- Position of the block byte of the stored element (r, c). -/
def planePos (v : TView) (r c : Nat) : Nat :=
  if v.square then ((r / 32) * v.sqCols + c / 32) * 32 + r % 32
  else r * cdiv v.cols 32 + c / 32

end TView

/-- The view of a rows × cols operand that a reference names; TRANS stores the transpose (R79). (DEDUCED, log 34.) -/
def viewFor (r plane : Ref) (rows cols stride : Nat) : TView :=
  { fmt := r.fmt, square := r.square, rows := if r.trans then cols else rows, cols := if r.trans then rows else cols
    stride, sram := r.sram, base := r.addr, planeSram := plane.sram, planeBase := plane.addr }

/-! ### Where bytes stand -/

/-- The setting of an execution: partition, latched slots, the DRAM's behaviour, the core whose SRAM a replay
rebuilds (R70), and the places of a re-execution's outputs (R190): (SRAM?, base, length, buffer address). -/
structure ExecCtx where
  part    : Nat
  latches : List Latch := []
  mem     : MemIn := {}
  only    : Option Nat := none
  places  : List (Bool × Nat × Nat × Nat) := []
  deriving DecidableEq, Repr

inductive Place where
  | sram (key : Nat)
  | dram (rid off : Nat)
  | nowhere
  deriving DecidableEq, Repr

def Place.shift (n : Nat) : Place → Place
  | .sram k => .sram (k + n)
  | .dram r o => .dram r (o + n)
  | .nowhere => .nowhere

/-- Where a byte of an operand stands: a re-execution place, SRAM, or DRAM behind the views (R178, R190). -/
def placeOf (s : State) (c : ExecCtx) (sram : Bool) (a : Nat) : Place :=
  match c.places.find? (fun x => x.1 = sram && decide (x.2.1 ≤ a) && decide (a < x.2.1 + x.2.2.1)) with
  | some x =>
    let y := x.2.2.2 + (a - x.2.1)
    (match regionOf s c.part y with
    | some rid => .dram rid (y - (getRegion s rid).base * unit16)
    | none => .nowhere)
  | none =>
    if sram then .sram a
    else match dramLoc s c.part c.latches a with
      | some (rid, off) => .dram rid off
      | none => .nowhere

/-- The places of a range, in stretches that stand together. -/
def placesOf (s : State) (c : ExecCtx) (sram : Bool) : Nat → Nat → List (Place × Nat)
  | _, 0 => []
  | a, n + 1 =>
    let p := placeOf s c sram a
    match placesOf s c sram (a + 1) n with
    | [] => [(p, 1)]
    | (q, m) :: t => if q = p.shift 1 then (p, m + 1) :: t else (p, 1) :: (q, m) :: t

/-- The bytes at a place, unchecked. -/
def placeBytes (s : State) (p : Place) (n : Nat) : Bytes :=
  match p with
  | .sram k => mread s.cores.sram k n
  | .dram rid off => dramBytes s rid off n
  | .nowhere => zeros n

/-- The bytes of a range, unchecked. -/
def devBytes (s : State) (c : ExecCtx) (sram : Bool) (a n : Nat) : Bytes :=
  (placesOf s c sram a n).flatMap (fun x => placeBytes s x.1 x.2)

/-- Check the DRAM blocks of a range, with their repairs; the first failure's XSTATUS (R149 to R158). -/
def checkRange (s : State) (c : ExecCtx) (sram : Bool) (a n : Nat) : State × Option Nat :=
  (placesOf s c sram a n).foldl (fun t x => match x.1 with
    | .dram rid off =>
      let (s1, e) := readRange t.1 c.mem rid off x.2
      (s1, t.2.or e)
    | _ => t) (s, none)

/-- A range can be read as things stand. -/
def readable (s : State) (c : ExecCtx) (sram : Bool) (a n : Nat) : Bool := (checkRange s c sram a n).2.isNone

def checkExt (c : ExecCtx) (t : State × Option Nat) (e : Ext) : State × Option Nat :=
  e.parts.foldl (fun t p =>
    let (s1, x) := checkRange t.1 c e.sram p.1 p.2
    (s1, t.2.or x)) t

def checkExts (s : State) (c : ExecCtx) (es : List Ext) : State × Option Nat := es.foldl (checkExt c) (s, none)

/-- Write bytes at a place. A replay writes only the SRAM it rebuilds (R70). -/
def placeWrite (s : State) (c : ExecCtx) (p : Place) (b : Bytes) : State :=
  match p with
  | .sram k =>
    if c.only.isNone || c.only = some (k / 2 ^ 21) then { s with cores := { s.cores with sram := mwrite s.cores.sram k b } } else s
  | .dram rid off => if c.only.isNone then dramWrite s c.mem rid off b else s
  | .nowhere => s

/-- Write bytes to a range. -/
def devWrite (s : State) (c : ExecCtx) (sram : Bool) (a : Nat) (b : Bytes) : State :=
  ((placesOf s c sram a b.length).foldl (fun t x => (placeWrite t.1 c x.1 (t.2.take x.2), t.2.drop x.2)) (s, b)).1

/-- Leave an extent undefined: free bytes (R89). -/
def freeExt (c : ExecCtx) (s : State) (e : Ext) : State :=
  e.parts.foldl (fun t p => devWrite (drawFree t p.2) c e.sram p.1 (freeBytes t p.2)) s

def freeExts (s : State) (c : ExecCtx) (es : List Ext) : State := es.foldl (freeExt c) s

/-! ### Elements -/

/-- The stored code of element (r, c). -/
def elemCode (s : State) (c : ExecCtx) (v : TView) (r col : Nat) : Nat :=
  let b := v.bitPos r col
  field (le (devBytes s c v.sram (v.base + b / 8) ((b + v.bits - 1) / 8 - b / 8 + 1))) (b % 8) v.bits

/-- The scale or exponent byte of element (r, c); 0 where there is no plane. -/
def elemPlane (s : State) (c : ExecCtx) (v : TView) (r col : Nat) : Nat :=
  if hasPlane v.fmt then le (devBytes s c v.planeSram (v.planeBase + v.planePos r col) 1) else 0

/-- The exact value of the stored element (r, c). -/
def elemAt (s : State) (c : ExecCtx) (eqv : Bool) (v : TView) (r col : Nat) : Val :=
  elemVal eqv v.fmt (elemCode s c v r col) (elemPlane s c v r col)

/-- The logical element (r, c) of an operand that a reference may store transposed. -/
def opndVal (s : State) (c : ExecCtx) (eqv trans : Bool) (v : TView) (r col : Nat) : Val :=
  if trans then elemAt s c eqv v col r else elemAt s c eqv v r col

/-- The same, as a vector lane reads it (R35). -/
def opndF32 (s : State) (c : ExecCtx) (eqv trans : Bool) (v : TView) (r col : Nat) : F32 :=
  toF32 eqv (opndVal s c eqv trans v r col)

/-! ### Writing a tensor -/

/-- Encoded blocks of 32 of one stored row: block byte and codes. -/
abbrev RowCodes := List (Nat × List Nat)

/-- Encode row r: padding elements are zero and are not rounded (R28, R45). -/
def encodeRow (eqv : Bool) (v : TView) (rnd : Nat → Nat → Rnd) (val : Nat → Nat → Val) (r : Nat) : RowCodes :=
  (List.range (cdiv v.cols 32)).map (fun b =>
    let cs := (List.range 32).map (fun i => 32 * b + i)
    encodeBlock eqv v.fmt (cs.map (fun c => if c < v.cols then rnd r c else .rtz))
      (cs.map (fun c => if c < v.cols then val r c else .fin false 0 0)))

def encodeRows (eqv : Bool) (v : TView) (rnd : Nat → Nat → Rnd) (val : Nat → Nat → Val) : List RowCodes :=
  (List.range v.rows).map (encodeRow eqv v rnd val)

/-- The code of element (r, c) among encoded rows; padding is 0. -/
def codeAt (v : TView) (rows : List RowCodes) (r c : Nat) : Nat :=
  if v.rows ≤ r || v.cols ≤ c then 0 else (((rows.getD r []).getD (c / 32) (0, [])).2).getD (c % 32) 0

def planeAt (rows : List RowCodes) (r b : Nat) : Nat := ((rows.getD r []).getD b (0, [])).1

/-- The elements of a stretch of storage in order. -/
def storageOrder (v : TView) : List (Nat × List (Nat × Nat)) :=
  let row (r : Nat) : List (Nat × Nat) := (List.range v.pitch).map (fun c => (r, c))
  if v.square then
    [(0, (List.range v.squares).flatMap (fun q => (List.range 1024).map (fun i =>
      (32 * (q / v.sqCols) + i / 32, 32 * (q % v.sqCols) + i % 32))))]
  else if v.stride = 0 then [(0, (List.range v.rows).flatMap row)]
  else (List.range v.rows).map (fun r => (r * v.stride, row r))

/-- Codes packed least significant first (R27). A last E3M2 group of fewer than 4 elements takes only the bytes its
elements reach (DESIGN CHOICE, log 142). -/
def packCodes (bits : Nat) (l : List Nat) : Nat := l.foldr (fun c acc => c + acc * 2 ^ bits) 0

/-- Bytes of packed codes; bits of the last byte that no element fills keep the byte's old value (DESIGN CHOICE, log 142). -/
def packedBytes (bits : Nat) (l : List Nat) (old : Nat) : Bytes :=
  let n := bits * l.length
  let k := n % 8
  leBytes (cdiv n 8) (packCodes bits l + (if k = 0 then 0 else (old >>> k) <<< n))

/-- Write encoded rows to the element plane and the scale or exponent plane, in increasing order: of rows that a small
DSTRIDE makes overlap, the later one stands (DESIGN CHOICE, log 145). -/
def writeTensor (s : State) (c : ExecCtx) (v : TView) (rows : List RowCodes) : State :=
  let s1 := (storageOrder v).foldl (fun t seg =>
    let n := v.bits * seg.2.length
    let old := if n % 8 = 0 then 0 else le (devBytes t c v.sram (v.base + seg.1 + n / 8) 1)
    devWrite t c v.sram (v.base + seg.1) (packedBytes v.bits (seg.2.map (fun x => codeAt v rows x.1 x.2)) old)) s
  if hasPlane v.fmt then
    let order := if v.square then
        (List.range v.squares).flatMap (fun q => (List.range 32).map (fun i => (32 * (q / v.sqCols) + i, q % v.sqCols)))
      else (List.range v.rows).flatMap (fun r => (List.range (cdiv v.cols 32)).map (fun b => (r, b)))
    devWrite s1 c v.planeSram v.planeBase (order.map (fun x => BitVec.ofNat 8 (planeAt rows x.1 x.2)))
  else s1

end Sys2Proof.Machine
end

