-- ==== Sys2Proof/Machine/Plan.lean ====
section
/-! DEFINITION. What a compute, movement or stash descriptor declares: the checks of its fields and the operands it
uses (R57, R58, R77, R78, R90 to R103, R184, R185, R400, R404). A check is a pair of the XSTATUS offset and whether
it fails. -/

namespace Sys2Proof.Machine

open Sys2Proof

abbrev Chk := List (Nat × Bool)

/-- A list of checks. -/
def chks (l : List (Nat × Bool)) : Chk := l

/-- The least offset among the failing checks (R87: the first offending field; DEDUCED, log 22). -/
def firstBad (l : Chk) : Option Nat :=
  l.foldl (fun m x => if !x.2 then m else match m with
    | none => some x.1
    | some y => some (min x.1 y)) none

/-- An operand a descriptor uses: where its reference and its plane's reference stand, and the stored tensor. -/
structure Use where
  off      : Nat
  planeOff : Nat
  out      : Bool
  trans    : Bool
  view     : TView
  deriving DecidableEq, Repr

structure Plan where
  bad  : Chk
  uses : List Use
  deriving DecidableEq, Repr

/-- What the catalogue says of an opcode (R90): extended form 0 no, 1 allowed, 2 required; target 0 any, 1 core,
2 network. -/
structure OpInfo where
  ext    : Nat
  eqv    : Bool
  srel   : Bool
  since2 : Bool
  target : Nat
  deriving DecidableEq, Repr

def opInfo (op : Nat) : Option OpInfo :=
  if op = 0x0000 || op = 0x0001 || op = 0x0002 then some ⟨0, false, true, false, 0⟩
  else if op = 0x0003 then some ⟨0, false, false, false, 0⟩
  else if op = 0x1040 || op = 0x2080 then some ⟨1, true, true, false, 1⟩
  else if 0x30C0 ≤ op && op ≤ 0x30C5 then some ⟨1, true, true, false, 1⟩
  else if 0x4100 ≤ op && op ≤ 0x4105 then some ⟨1, true, true, false, 1⟩
  else if op = 0x4106 || op = 0x4107 then some ⟨0, false, true, false, 1⟩
  else if op = 0x5140 || op = 0x5142 then some ⟨2, false, true, false, 1⟩
  else if op = 0x5141 then some ⟨2, false, true, true, 1⟩
  else if op = 0x6180 || op = 0x6182 then some ⟨0, false, true, false, 1⟩
  else if op = 0x6181 then some ⟨1, false, true, false, 1⟩
  else if 0x71C0 ≤ op && op ≤ 0x71C2 then some ⟨0, false, false, false, 2⟩
  else if 0x8200 ≤ op && op ≤ 0x8209 then some ⟨1, true, false, false, 2⟩
  else if op = 0x820A then some ⟨1, true, false, true, 2⟩
  else if op = 0x820B then some ⟨0, false, false, false, 2⟩
  else if 0x9240 ≤ op && op ≤ 0x9243 then some ⟨0, false, false, false, 2⟩
  else none

/-! ### Checks of single fields -/

/-- A tensor reference that must stand at `off`. -/
def needRef (d : Bytes) (off : Nat) : Chk := [(off, !refWordOk (fld d off 8)), (off, !(refAt d off).present)]

/-- A reference that may be absent. -/
def mayRef (d : Bytes) (off : Nat) : Chk := [(off, !refWordOk (fld d off 8))]

/-- A field that must be 0 (R400). -/
def mustZero (d : Bytes) (off size : Nat) : Chk := [(off, !zeroAt d off size)]

/-- A count that must be at least 1 (R400). -/
def nonZero (d : Bytes) (off size : Nat) : Chk := [(off, zeroAt d off size)]

/-- The format of a present reference is in a list of 5-bit codes. -/
def fmtIn (d : Bytes) (off : Nat) (l : List Nat) : Chk :=
  [(off, (refAt d off).present && !l.contains (refAt d off).fmt)]

def unscaledFmts : List Nat := [0x0, 0x1, 0x2, 0x3, 0x4, 0x5, 0x6, 0x7, 0x8]
def mxFmts : List Nat := [0x13, 0x14, 0x15, 0x16, 0x18]
def floatFmts : List Nat := [0x0, 0x1, 0x2, 0x3, 0x4, 0x5, 0x6]

/-- Formats of TV128 equivalence mode (R49). -/
def eqvFmts : List Nat := [0x0, 0x1, 0x2, 0x3, 0x4, 0x7]

def eqvRefs (d : Bytes) (offs : List Nat) : Chk :=
  if dEqv d then offs.flatMap (fun o => fmtIn d o eqvFmts) else []

/-- The rounding field at `off` for an output of a format (R39, R49, R78). (DEDUCED, log 36.) (DEDUCED, log 38.) -/
def rndChk (d : Bytes) (off mode fmt : Nat) : Chk :=
  [(off, mode = 3 || (mode ≠ 0 && (fmt = 0x0 || fmt = 0xA || dEqv d)) || (mode = 2 && !dExt d))]

/-- PLANEn as a reference. -/
def planeRef (d : Bytes) (n : Nat) : Ref := if dExt d then refAt d (0x58 + 8 * n) else parseRef 0

/-- The plane references (R77), and scaled or BS16 operands in base form (R78). `refs` gives the offsets of body
references 0 to 3, none for a parameter word. -/
def planeChk (d : Bytes) (refs : List (Option Nat)) : Chk :=
  (List.range 4).flatMap (fun n =>
    let scaled := match refs.getD n none with
      | some off => (refAt d off).present && hasPlane (refAt d off).fmt
      | none => false
    let po := 0x58 + 8 * n
    let r := refAt d po
    if !dExt d then (match refs.getD n none with
      | some off => [(off, scaled)]
      | none => [])
    else if scaled then [(po, !(refWordOk (fld d po 8) && r.present && r.fmt = 0 && r.layout = 0 && !r.trans))]
    else [(po, !zeroAt d po 8)])

/-- Reserved fields of the extension (R77). -/
def extChk (d : Bytes) : Chk := if dExt d then mustZero d 0x4B 1 ++ mustZero d 0x78 8 else []

/-- Body reference n at `off` used with a logical shape. -/
def useOf (d : Bytes) (off n : Nat) (out : Bool) (rows cols stride : Nat) : List Use :=
  let r := refAt d off
  if !r.present then [] else
  [{ off, planeOff := 0x58 + 8 * n, out, trans := r.trans, view := viewFor r (planeRef d n) rows cols stride }]

/-! ### GEMM (R57, R58, R60, R91) -/

/-- A pair of A and B formats of R58: both floats or both integers. -/
def gemmPair (a b : Nat) : Bool :=
  (floatFmts.contains (codeOf a) && floatFmts.contains (codeOf b))
    || ((codeOf a = 7 || codeOf a = 8) && (codeOf b = 7 || codeOf b = 8))

/-- Square layout and alignment of a matrix operand (R57). -/
def gemmRef (d : Bytes) (off : Nat) : Chk :=
  let r := refAt d off
  [(off, r.present && (r.layout ≠ 1 || (r.addr % (if r.sram then 32 else 128) ≠ 0)))]

def gemmOut : List Nat := [0x0, 0x1, 0x2, 0x3, 0x4, 0x13, 0x14]

def planGemm (d : Bytes) : Plan :=
  let a := refAt d 0x10
  let b := refAt d 0x18
  let c := refAt d 0x20
  let dd := refAt d 0x28
  let m := fld d 0x30 2
  let n := fld d 0x32 2
  let k := fld d 0x34 4
  let ctrl := fld d 0x38 2
  let acc := bit ctrl 4
  let aOk := codeOf a.fmt ≤ 8
  { bad := needRef d 0x10 ++ needRef d 0x18 ++ mayRef d 0x20 ++ needRef d 0x28
      ++ [0x10, 0x18, 0x20, 0x28].flatMap (gemmRef d)
      ++ chks [(0x10, !aOk), (0x18, aOk && !gemmPair a.fmt b.fmt),
          (0x10, isMx a.fmt && a.trans), (0x18, isMx b.fmt && !b.trans),
          (0x20, c.present != acc)]
      ++ fmtIn d 0x20 gemmOut ++ fmtIn d 0x28 gemmOut ++ eqvRefs d [0x10, 0x18, 0x20, 0x28]
      ++ nonZero d 0x30 2 ++ nonZero d 0x32 2 ++ chks [(0x34, k = 0 || decide (16777216 < k))]
      ++ chks [(0x38, field ctrl 5 11 ≠ 0 || field ctrl 2 2 = 3 || (field ctrl 2 2 = 2 && decide (31 < min m n)))]
      ++ rndChk d 0x38 (field ctrl 0 2) dd.fmt ++ mustZero d 0x3A 6
      ++ planeChk d [some 0x10, some 0x18, some 0x20, some 0x28]
    uses := useOf d 0x10 0 false m k 0 ++ useOf d 0x18 1 false k n 0 ++ useOf d 0x20 2 false m n 0
      ++ useOf d 0x28 3 true m n 0 }

/-! ### EXPR (R92 to R94, R404) -/

/-- A node (R93). -/
structure Node where
  op  : Nat
  a   : Nat
  b   : Nat
  c   : Nat
  res : Nat
  imm : Nat
  deriving DecidableEq, Repr

def parseNode (v : Nat) : Node :=
  { op := field v 0 8, a := field v 8 4, b := field v 12 4, c := field v 16 4, res := field v 20 12, imm := field v 32 32 }

def parseNodes : Nat → Bytes → List Node
  | 0, _ => []
  | n + 1, b => parseNode (fld b 0 8) :: parseNodes n (b.drop 8)

/-- The number of sources of a node operation; none if the node set has no such node (R95). -/
def nodeArity (op : Nat) : Option Nat :=
  if op = 0x01 || op = 0x02 then some 0
  else if [0x10, 0x11, 0x12, 0x13, 0x15, 0x16, 0x1A, 0x1B].contains op then some 2
  else if op = 0x14 || op = 0x19 then some 3
  else if [0x17, 0x18, 0x1C, 0x1D, 0x20, 0x21, 0x22, 0x23, 0x24, 0x25, 0x26, 0x27, 0x28, 0x29].contains op then some 1
  else none

/-- A node breaks R93, R94 or, in equivalence mode, R95. `here` says which leaves are present. Every such node is reported
with XSTATUS 0x80 plus its index, also for what R94 does not name (DESIGN CHOICE, log 143). -/
def nodeBad (eqv : Bool) (here : Nat → Bool) (i : Nat) (n : Node) : Bool :=
  match nodeArity n.op with
  | none => true
  | some k =>
    n.res ≠ 0 || (1 ≤ k && i ≤ n.a) || (2 ≤ k && i ≤ n.b) || (3 ≤ k && i ≤ n.c)
      || (k = 0 && n.a ≠ 0) || (k ≤ 1 && n.b ≠ 0) || (k ≤ 2 && n.c ≠ 0)
      || (n.op ≠ 0x01 && n.op ≠ 0x02 && n.imm ≠ 0)
      || (n.op = 0x01 && (field n.imm 4 28 ≠ 0 || field n.imm 0 2 = 3 || !here (field n.imm 0 2)))
      || (eqv && 0x25 ≤ n.op)

/-- Broadcast modes in which a program reads input k. -/
def leafModes (ns : List Node) (k : Nat) : List Nat :=
  (List.range 4).filter (fun m => ns.any (fun n => n.op = 0x01 && field n.imm 0 2 = k && field n.imm 2 2 = m))

/-- Logical shape of an EXPR leaf in a broadcast mode, or of the output (mode 0). (DEDUCED, log 33.) With ROWLEN = 0 an
operand is one row of COUNT elements, also to its blocks (DESIGN CHOICE, log 144). -/
def exprShape (count w mode : Nat) : Nat × Nat :=
  match mode with
  | 0 => if w = 0 then (1, count) else (count / w, w)
  | 1 => (1, w)
  | 2 => (1, count / w)
  | _ => (1, 1)

/-- EXPR's plan; the program is none while it has not been read. -/
def planExpr (d : Bytes) (prog : Option (List Node)) : Plan :=
  let out := refAt d 0x30
  let count := fld d 0x38 4
  let w := fld d 0x3C 2
  let ctrl := byteAt d 0x3E
  let nodes := byteAt d 0x3F
  let p := refAt d 0x10
  let inFmts := unscaledFmts ++ mxFmts ++ [0x9]
  let ins := [0x18, 0x20, 0x28]
  let ns := prog.getD []
  let oShape := exprShape count w 0
  { bad := needRef d 0x10 ++ chks [(0x10, p.fmt ≠ 0 || p.layout ≠ 0 || p.addr % 8 ≠ 0)]
      ++ ins.flatMap (fun o => mayRef d o ++ fmtIn d o inFmts) ++ needRef d 0x30 ++ fmtIn d 0x30 inFmts
      ++ eqvRefs d [0x18, 0x20, 0x28, 0x30] ++ nonZero d 0x38 4
      ++ chks [(0x38, w ≠ 0 && count % w ≠ 0),
          (0x3C, w = 0 && (out.layout ≠ 0 || ins.any (fun o => (refAt d o).layout ≠ 0)
            || (List.range 3).any (fun k => (leafModes ns k).any (fun m => m ≠ 0)))),
          (0x3E, field ctrl 2 6 ≠ 0), (0x3F, nodes = 0 || decide (16 < nodes)),
          (0x50, dExt d && w ≠ 0 && decide (xTcols d < xCol0 d + w))]
      ++ rndChk d 0x3E (field ctrl 0 2) out.fmt ++ planeChk d [some 0x18, some 0x20, some 0x28, some 0x30]
      ++ (List.range 3).flatMap (fun k => (leafModes ns k).map (fun m =>
          (0x18 + 8 * k, decide ((refAt d (0x18 + 8 * k)).layout ≠ (if m = 0 then out.layout else 0)))))
      ++ (List.range ns.length).map (fun i =>
          (0x80 + i, nodeBad (dEqv d) (fun k => (refAt d (0x18 + 8 * k)).present) i (ns.getD i (parseNode 0))))
    uses :=
      [{ off := 0x10, planeOff := 0x10, out := false, trans := false
         view := { fmt := 7, rows := 1, cols := 8 * nodes, sram := p.sram, base := p.addr } }]
      ++ (List.range 3).flatMap (fun k => (leafModes ns k).flatMap (fun m =>
          let sh := exprShape count w m
          useOf d (0x18 + 8 * k) k false sh.1 sh.2 0))
      ++ useOf d 0x30 3 true oShape.1 oShape.2 0 }

/-! ### Class 0x3 (R97) -/

/-- A flat vector of n elements, in either layout a single row; so is OUT1 of SOFTMAX_FWD, whose shape in square layout the
spec does not give (DESIGN CHOICE, log 172). -/
def vecUse (d : Bytes) (off n : Nat) (out : Bool) (len : Nat) : List Use := useOf d off n out 1 len 0

/-- The operands and checks of class 0x3 (R97, R98). (DEDUCED, log 39.) -/
def planReduce (d : Bytes) : Plan :=
  let op := dBase d
  let rows := fld d 0x38 3
  let cols := fld d 0x3C 3
  let eps := byteAt d 0x3B
  let ctrl := byteAt d 0x3F
  let fn := field ctrl 2 3
  let inF := unscaledFmts ++ mxFmts
  let norm := op = 0x30C4 || op = 0x30C5
  let refs := if op = 0x30C2 then [some 0x10, none, some 0x20, some 0x28]
    else if op = 0x30C3 then [some 0x10, some 0x18, none, some 0x28] else [some 0x10, some 0x18, some 0x20, some 0x28]
  let red := op = 0x30C0 || op = 0x30C1
  { bad := needRef d 0x10 ++ fmtIn d 0x10 inF ++ needRef d 0x28 ++ fmtIn d 0x28 unscaledFmts
      ++ nonZero d 0x38 3 ++ nonZero d 0x3C 3
      ++ chks [(0x3B, if norm then eps = 0 || decide (63 < eps) else eps ≠ 0),
          (0x3F, field ctrl 6 2 ≠ 0 || (bit ctrl 5 && op ≠ 0x30C2)
            || (if red then decide (4 < fn) else if norm then decide (1 < fn) else fn ≠ 0))]
      ++ rndChk d 0x3F (field ctrl 0 2) (refAt d 0x28).fmt
      ++ (if red then mustZero d 0x18 8 ++ mustZero d 0x20 8 ++ mustZero d 0x30 8
          else if op = 0x30C2 then mustZero d 0x20 8 ++ mayRef d 0x30 ++ fmtIn d 0x30 [0x0]
          else if op = 0x30C3 then needRef d 0x18 ++ fmtIn d 0x18 inF ++ mustZero d 0x30 8
          else if op = 0x30C4 then mayRef d 0x18 ++ fmtIn d 0x18 inF ++ mayRef d 0x20 ++ fmtIn d 0x20 inF
            ++ needRef d 0x30 ++ fmtIn d 0x30 [0x0]
          else needRef d 0x18 ++ fmtIn d 0x18 inF ++ mayRef d 0x20 ++ fmtIn d 0x20 inF ++ needRef d 0x30 ++ fmtIn d 0x30 [0x0])
      ++ eqvRefs d ([0x10, 0x28] ++ (if op = 0x30C3 || norm then [0x18] else []) ++ (if norm then [0x20] else []))
      ++ planeChk d refs
    uses := useOf d 0x10 0 false rows cols 0
      ++ (if red then useOf d 0x28 3 true (if op = 0x30C0 then rows else 1) (if op = 0x30C0 then 1 else cols) 0
          else useOf d 0x28 3 true rows cols 0)
      ++ (if op = 0x30C2 then vecUse d 0x30 4 true rows
          else if op = 0x30C3 then useOf d 0x18 1 false rows cols 0
          else if op = 0x30C4 then vecUse d 0x18 1 false cols ++ vecUse d 0x20 2 false cols ++ useOf d 0x30 4 true rows 2 0
          else if op = 0x30C5 then useOf d 0x18 1 false rows cols 0 ++ vecUse d 0x20 2 false cols ++ useOf d 0x30 4 false rows 2 0
          else []) }

/-! ### Class 0x4 (R99) -/

/-- A use of raw bytes. -/
def rawUse (r : Ref) (off : Nat) (out : Bool) (rows cols stride : Nat) : List Use :=
  [{ off, planeOff := off, out, trans := false
     view := { fmt := 7, rows, cols, stride, sram := r.sram, base := r.addr } }]

def planMove (d : Bytes) : Plan :=
  let op := dBase d
  let src := refAt d 0x10
  let dst := refAt d 0x18
  let aux := refAt d 0x20
  let rows := fld d 0x28 4
  let cols := fld d 0x2C 4
  let ss := fld d 0x30 4
  let ds := fld d 0x34 4
  let trows := fld d 0x38 4
  let ctrl := fld d 0x3C 2
  let rnd := field ctrl 0 2
  let host := op = 0x4106 || op = 0x4107
  let idx := op = 0x4104 || op = 0x4105
  let common := nonZero d 0x28 4 ++ nonZero d 0x2C 4 ++ chks [(0x3C, field ctrl 2 14 ≠ 0)] ++ mustZero d 0x3E 2
    ++ (if idx then needRef d 0x20 ++ chks [(0x20, aux.fmt ≠ 0 || aux.layout ≠ 0 || aux.trans)] ++ nonZero d 0x38 4
        else mustZero d 0x20 8 ++ mustZero d 0x38 4)
  if host then
    let off := if op = 0x4106 then 0x18 else 0x10
    let r := refAt d off
    { bad := common ++ needRef d off ++ chks [(off, r.fmt ≠ 0 || r.layout ≠ 0), (0x3C, rnd ≠ 0)]
      uses := if r.present then rawUse r off (op = 0x4106) rows cols (if op = 0x4106 then ds else ss) else [] }
  else
    let free := op = 0x4102 || op = 0x4103
    let srcF := if free then unscaledFmts ++ mxFmts ++ [0x9, 0xA]
      else if op = 0x4100 then unscaledFmts ++ mxFmts ++ [0x9] else if op = 0x4105 then floatFmts else unscaledFmts
    let dstF := if op = 0x4102 then unscaledFmts ++ mxFmts ++ [0x9, 0xA] else if op = 0x4103 then [0x0]
      else if op = 0x4105 then [0x0, 0x1, 0x2] else srcF
    let sh : (Nat × Nat) × (Nat × Nat) := if op = 0x4101 then ((cols, rows), (rows, cols))
      else if op = 0x4104 then ((trows, cols), (rows, cols)) else if op = 0x4105 then ((rows, cols), (trows, cols))
      else ((rows, cols), (rows, cols))
    { bad := common ++ needRef d 0x10 ++ fmtIn d 0x10 srcF ++ needRef d 0x18 ++ fmtIn d 0x18 dstF
        ++ chks [(0x18, (op = 0x4100 || op = 0x4101 || op = 0x4104) && src.fmt ≠ dst.fmt),
            (0x10, op = 0x4100 && hasPlane src.fmt && src.trans), (0x18, op = 0x4100 && hasPlane dst.fmt && dst.trans),
            (0x30, ss ≠ 0 && src.layout ≠ 0), (0x34, ds ≠ 0 && dst.layout ≠ 0),
            (0x3C, !(op = 0x4102 || op = 0x4105) && rnd ≠ 0)]
        ++ (if op = 0x4102 || op = 0x4105 then rndChk d 0x3C rnd dst.fmt else [])
        ++ eqvRefs d [0x10, 0x18] ++ planeChk d [some 0x10, some 0x18]
      uses := useOf d 0x10 0 false sh.1.1 sh.1.2 ss
        ++ (if idx then rawUse aux 0x20 false 1 (4 * rows) 0 else [])
        ++ useOf d 0x18 1 true sh.2.1 sh.2.2 ds }

/-! ### RNG (R102) -/

def planRng (d : Bytes) : Plan :=
  let out := refAt d 0x10
  let count := fld d 0x18 4
  let ctrl := byteAt d 0x1C
  let w := xTcols d
  let sq := out.layout = 1
  { bad := needRef d 0x10 ++ fmtIn d 0x10 (floatFmts ++ [0x7]) ++ nonZero d 0x18 4 ++ chks [(0x1C, ctrl ≠ 0)] ++ mustZero d 0x1D 3
      ++ mustZero d 0x28 24
      ++ chks [(0x20, dBase d = 0x5142 && vIsNan (vOf (BitVec.ofNat 32 (fld d 0x20 4)))),
          (0x50, sq && xCol0 d ≠ 0), (0x54, sq && w = 0), (0x18, sq && w ≠ 0 && count % w ≠ 0)]
      ++ planeChk d [some 0x10]
    uses := if sq then useOf d 0x10 0 true (count / w) w 0 else useOf d 0x10 0 true 1 count 0 }

/-! ### Caddy (R103, R184 to R186) -/

def up128 (n : Nat) : Nat := roundUp n 128

/-- Source formats a codec accepts (R184); none for a reserved codec. (DEDUCED, log 59.) -/
def codecFmts (codec : Nat) : Option (List Nat) :=
  match codec with
  | 0 => some unscaledFmts
  | 1 => some [0x0]
  | 2 => some [0x0, 0x1, 0x2]
  | 3 => some [0x0, 0x1, 0x2]
  | 4 => some [0x0, 0x1, 0x2, 0x3, 0x4, 0x7]
  | 5 => some [0x0, 0x1, 0x2, 0x3, 0x4, 0x7]
  | _ => none

/-- S: the stored bytes of n elements at most (R184). -/
def stashBytes (codec fmt n : Nat) : Nat :=
  match codec with
  | 0 => up128 (cdiv (n * fmtBits (codeOf fmt)) 8)
  | 1 => up128 (2 * n)
  | 2 => up128 (32 * cdiv n 32) + up128 (cdiv n 32)
  | 3 => up128 (32 * cdiv n 32) + up128 (cdiv n 32)
  | 4 => cdiv n 1024 * (128 + 1024 * (fmtBits (codeOf fmt) / 8))
  | _ => up128 (cdiv n 8)

/-- STASH_PUT. TRANS = 1 on DST is refused with DST's other fields (R185; DESIGN CHOICE, log 175). -/
def planPut (d : Bytes) : Plan :=
  let src := refAt d 0x10
  let dst := refAt d 0x18
  let n := fld d 0x20 4
  let codec := byteAt d 0x2A
  let span := (fld d 0x30 4 + 2 ^ 32 - fld d 0x2C 4) % 2 ^ 32
  { bad := needRef d 0x10 ++ needRef d 0x18
      ++ chks [(0x18, dst.fmt ≠ 0 || dst.layout ≠ 0 || dst.trans || dst.sram || dst.addr % 128 ≠ 0)] ++ nonZero d 0x20 4
      ++ chks [(0x20, src.layout = 1 && n % 1024 ≠ 0),
          (0x2A, match codecFmts codec with
            | some l => !l.contains src.fmt
            | none => true),
          (0x30, decide (63 < span))]
      ++ mustZero d 0x2B 1 ++ mustZero d 0x34 12
    uses := [{ off := 0x10, planeOff := 0x10, out := false, trans := false
               view := { fmt := src.fmt, rows := 1, cols := n, sram := src.sram, base := src.addr } },
             { off := 0x18, planeOff := 0x18, out := true, trans := false
               view := { fmt := 7, rows := 1, cols := stashBytes codec src.fmt n, sram := false, base := dst.addr } }] }

/-- STASH_GET before the entry is looked up: the reference, its format field and its base address, and PLANE0's (R186
step 1). Which formats suit is a matter of the entry (R186 step 3). -/
def planGet (d : Bytes) : Plan :=
  let r := refAt d 0x10
  { bad := needRef d 0x10 ++ mustZero d 0x1C 36 ++ planeChk d [some 0x10]
    uses := if r.present then rawUse r 0x10 true 1 1 0 ++ (if hasPlane r.fmt then rawUse (planeRef d 0) 0x58 true 1 1 0 else [])
      else [] }

def planFree (d : Bytes) : Plan := { bad := mustZero d 0x14 44, uses := [] }

/-! ### Management (R107) -/

def planEvt (d : Bytes) : Plan := { bad := mustZero d 0x12 2 ++ mustZero d 0x18 40, uses := [] }

/-- TIMESTAMP: SPACE 0b10 names a host address. SUM24, scaled formats and BS16 are refused (R34, R37, R78). -/
def tsHost (d : Bytes) : Bool := (refAt d 0x10).space = 2

def planTimestamp (d : Bytes) : Plan :=
  let r := refAt d 0x10
  let v := fld d 0x10 8
  { bad := [(0x10, !r.present || field v 51 13 ≠ 0 || r.space = 3 || decide (1 < r.layout) || !fmtOk r.fmt
        || r.fmt = 0xA || hasPlane r.fmt || (r.space = 1 && field r.addr 30 10 ≠ 0))] ++ mustZero d 0x18 40
    uses := if tsHost d then [] else rawUse r 0x10 true 1 8 0 }

/-- The plan of a descriptor of classes 0x0 to 0x6; `prog` is EXPR's program once it has been read. (DEDUCED, log 40.) -/
def planOf (d : Bytes) (prog : Option (List Node)) : Plan :=
  let op := dBase d
  if op = 0x0000 then { bad := mustZero d 0x10 48, uses := [] }
  else if op = 0x0001 || op = 0x0002 then planEvt d
  else if op = 0x0003 then planTimestamp d
  else if op = 0x1040 then planGemm d
  else if op = 0x2080 then planExpr d prog
  else if dClass d = 3 then planReduce d
  else if dClass d = 4 then planMove d
  else if dClass d = 5 then planRng d
  else if op = 0x6180 then planPut d
  else if op = 0x6181 then planGet d
  else if op = 0x6182 then planFree d
  else { bad := [], uses := [] }

end Sys2Proof.Machine
end

