-- ==== Sys2Proof/Machine/NetPlan.lean ====
section
/-! DEFINITION. What a network descriptor declares (classes 0x7 to 0x9): the checks of its fields and the operands
it uses (R104 to R106, R202, R229, R236, R237, R280, R281, R286). -/

namespace Sys2Proof.Machine

open Sys2Proof

/-- A multicast ID or shard entry belongs to the partition (R202, R229). -/
def mcastInPart (s : State) (p m : Nat) : Bool :=
  let r := getPart s p
  decide (16 * r.mcFirst ≤ m) && decide (m < 16 * (r.mcFirst + r.mcCount))

def shardInPart (s : State) (p e : Nat) : Bool :=
  let r := getPart s p
  decide (256 * r.shFirst ≤ e) && decide (e < 256 * (r.shFirst + r.shCount))

/-- The reference of a set-up opcode's source: SUM24, scaled formats and BS16 are refused (R34, R37, R78). -/
def setRef (d : Bytes) : Chk :=
  let r := refAt d 0x10
  needRef d 0x10 ++ chks [(0x10, r.present && (r.fmt = 0xA || hasPlane r.fmt))]

/-- A raw source of n bytes that a set-up opcode reads. -/
def setSrc (d : Bytes) (n : Nat) : List Use :=
  if (refAt d 0x10).present then rawUse (refAt d 0x10) 0x10 false 1 n 0 else []

/-! ### Collective fields (R105, R236) -/

def cOp (d : Bytes) : Nat := dBase d % 0x20
def cCount (d : Bytes) : Nat := fld d 0x20 4
def cGroup (d : Bytes) : Nat := fld d 0x24 2
def cRoot (d : Bytes) : Nat := fld d 0x26 2
def cSeq (d : Bytes) : Nat := fld d 0x28 4
def cRedop (d : Bytes) : Nat := byteAt d 0x2C
def cRnd (d : Bytes) : Nat := field (byteAt d 0x2D) 0 2
def cVc (d : Bytes) : Nat := field (byteAt d 0x2D) 4 4
def cPeer (d : Bytes) : Nat := fld d 0x2E 2
def cStep (d : Bytes) : Nat := fld d 0x30 6
def cMcast (d : Bytes) : Nat := fld d 0x36 2

/-- ALL_REDUCE, REDUCE_SCATTER and REDUCE combine. -/
def isReduction (k : Nat) : Bool := k = 0 || k = 1 || k = 4
/-- BARRIER and STEP_VOTE carry records. -/
def isRecordOp (k : Nat) : Bool := k = 6 || k = 7
/-- SEND, RECV and MCAST_PUT number their pairs (R233). -/
def isPairOp (k : Nat) : Bool := k = 8 || k = 9 || k = 10

/-- Wire format of node values: SUM24 (FP32 under EQV), or the source format for max and min. -/
def nodeFmt (d : Bytes) : Nat := if cRedop d = 0 then (if dEqv d then 0x0 else 0xA) else (refAt d 0x10).fmt

def blockBytes (fmt : Nat) : Nat := 4 * fmtBits (codeOf fmt) + (if hasPlane fmt then 1 else 0)
/-- Elements of a full chunk (R246). -/
def chunkElems (fmt : Nat) : Nat := 32 * (32768 / blockBytes fmt)

/-- Where SRC must stand on a member: 0 never, 1 always, 2 at ROOT, 3 elsewhere than at ROOT, 4 may. -/
def srcRule (k : Nat) : Nat := if k = 6 || k = 7 || k = 9 then 0 else if k = 3 then 2 else 1
def dstRule (k : Nat) : Nat :=
  if k = 6 || k = 7 || k = 8 || k = 10 then 0 else if k = 1 then 4 else if k = 3 then 3 else if k = 4 then 2 else 1

def redFmts (scaled : Bool) : List Nat := [0x0, 0x1, 0x2, 0x3, 0x4, 0xA] ++ (if scaled then [0x13, 0x14] else [])
def anyFmts : List Nat := unscaledFmts ++ mxFmts ++ [0x9, 0xA]

/-- Checks of a collective that its group does not enter. -/
def collBad (d : Bytes) : Chk :=
  let k := cOp d
  let src := refAt d 0x10
  let dst := refAt d 0x18
  let red := isReduction k
  mayRef d 0x10 ++ mayRef d 0x18
    ++ chks [(0x10, srcRule k = 0 && src.present || srcRule k = 1 && !src.present),
        (0x18, dstRule k = 0 && dst.present || dstRule k = 1 && !dst.present)]
    ++ (if red then fmtIn d 0x10 (redFmts (cRedop d = 0)) ++ fmtIn d 0x18 (redFmts true)
        else fmtIn d 0x10 anyFmts ++ fmtIn d 0x18 anyFmts
          ++ chks [(0x18, src.present && dst.present && src.fmt ≠ dst.fmt)])
    ++ chks [(0x20, if k = 6 then cCount d ≠ 0 else if k = 7 then decide (8192 < cCount d) else cCount d = 0),
        (0x20, red && cCount d % 32 ≠ 0 && ((src.present && isMx src.fmt) || (dst.present && isMx dst.fmt))),
        (0x26, !(k = 3 || k = 4) && cRoot d ≠ 0),
        (0x2C, if red then decide (2 < cRedop d) else cRedop d ≠ 0),
        (0x2D, if isRecordOp k then cVc d ≠ 0 else !(cVc d = 1 || cVc d = 2)),
        (0x2D, field (byteAt d 0x2D) 2 2 ≠ 0 || (!red && cRnd d ≠ 0) || (k = 1 && !dst.present && cRnd d ≠ 0)),
        (0x2E, !(k = 8 || k = 9) && cPeer d ≠ 0),
        (0x36, if k = 10 then decide (1023 < cMcast d) else cMcast d ≠ 0)]
    ++ (if red then rndChk d 0x2D (cRnd d) (if dst.present then dst.fmt else 0x1) else [])
    ++ mustZero d 0x38 8 ++ eqvRefs d [0x10, 0x18] ++ planeChk d [some 0x10, some 0x18]

/-- Rows and columns of SRC and DST for a group of P members (R236). -/
def collShape (k p count : Nat) (isDst : Bool) : Nat × Nat :=
  if (k = 5) || (k = 1 && !isDst) || (k = 2 && isDst) then (p, count) else (1, count)

/-- A collective operand: a flat vector, or one row per member; LAYOUT square is accepted and does not enter (DESIGN CHOICE,
log 146). -/
def collUse (d : Bytes) (off n : Nat) (out : Bool) (sh : Nat × Nat) : List Use :=
  (useOf d off n out sh.1 sh.2 0).map (fun u => { u with trans := false, view := { u.view with square := false, rows := sh.1, cols := sh.2 } })

/-- Checks that need the group: ranks, and operands at ROOT only (R236). -/
def collGroupBad (s : State) (d : Bytes) : Chk :=
  let k := cOp d
  let g := getGroup s (cGroup d)
  let atRoot := g.myRank = cRoot d
  let wrong (rule : Nat) (present : Bool) : Bool :=
    (rule = 2 && (present != atRoot)) || (rule = 3 && (present == atRoot))
  if !g.valid then [] else
  chks [(0x10, wrong (srcRule k) (refAt d 0x10).present), (0x18, wrong (dstRule k) (refAt d 0x18).present),
    (0x26, (k = 3 || k = 4) && decide (g.size ≤ cRoot d)),
    (0x2E, (k = 8 || k = 9) && (decide (g.size ≤ cPeer d) || cPeer d = g.myRank))]

/-- Operands of a collective; where GROUP names no valid entry, one row of those that have a row per member (DESIGN CHOICE,
log 161). -/
def collUses (s : State) (d : Bytes) : List Use :=
  let k := cOp d
  let g := getGroup s (cGroup d)
  let n := if g.valid then g.size else 1
  collUse d 0x10 0 false (collShape k n (cCount d) false) ++ collUse d 0x18 1 true (collShape k n (cCount d) true)

/-! ### Statistics entries (R194) -/

/-- Two members' entries, or two armings', combined. -/
def addStat (x y : StatEntry) : StatEntry :=
  { amax := if x.amax.toNat < y.amax.toNat then y.amax else x.amax, su := fAdd false x.su y.su, sw := fAdd false x.sw y.sw
    nz := x.nz + y.nz, nf := x.nf + y.nf, ufE5m2 := x.ufE5m2 + y.ufE5m2, ufMx := x.ufMx + y.ufMx }

/-! ### Plans -/

/-- The EPOCH field is newer than the current epoch (R277, R286). -/
def epochNewer (cur e : Nat) : Bool :=
  let x := (e + 2 ^ 16 - cur) % 2 ^ 16
  decide (1 ≤ x) && decide (x ≤ 32767)

/-- Role of a port in a plan image (R258). -/
def planRole (img : Bytes) (port : Nat) : Nat := field (byteAt img (0x14 + port)) 0 3

def roleUsed (img : Option Bytes) (port : Nat) : Bool :=
  match img with
  | some b => planRole b port ≠ 7
  | none => false

/-- Checks made when a descriptor of classes 0x7 to 0x9 stands at its ring's head. -/
def netBad (d : Bytes) : Chk :=
  let op := dBase d
  if op = 0x71C0 then
    chks [(0x1E, fld d 0x1E 2 = 0 || decide (8192 < fld d 0x1E 2)), (0x20, decide (1023 < fld d 0x20 2) && fld d 0x20 2 ≠ 0xFFFF)]
      ++ mustZero d 0x22 30
  else if op = 0x71C1 || op = 0x820B then setRef d ++ nonZero d 0x1A 2 ++ mustZero d 0x1C 36
  else if op = 0x71C2 then
    setRef d ++ chks [(0x18, decide (15 < byteAt d 0x18)), (0x19, byteAt d 0x19 = 0 || decide (16 < byteAt d 0x18 + byteAt d 0x19))]
      ++ mustZero d 0x1A 38
  else if op = 0x9240 then setRef d ++ nonZero d 0x18 4 ++ mustZero d 0x1C 36
  else if op = 0x9241 then mustZero d 0x12 46
  else if op = 0x9242 then mustZero d 0x14 4 ++ chks [(0x18, field (fld d 0x18 8) 40 24 ≠ 0)] ++ mustZero d 0x20 32
  else if op = 0x9243 then
    chks [(0x10, decide (1023 < fld d 0x10 2)), (0x12, field (fld d 0x12 2) 12 4 ≠ 0), (0x14, field (byteAt d 0x14) 1 7 ≠ 0)]
      ++ mustZero d 0x15 43
  else if dClass d = 8 then collBad d
  else []

/-- Operands of classes 0x7 to 0x9 known at the head. (DEDUCED, log 43.) -/
def netUses (d : Bytes) : List Use :=
  let op := dBase d
  if op = 0x71C1 || op = 0x820B then setSrc d (64 * fld d 0x1A 2)
  else if op = 0x71C2 then setSrc d (64 * byteAt d 0x19)
  else if op = 0x9240 then setSrc d (fld d 0x18 4)
  else if op = 0x9242 && fld d 0x12 2 ≤ 256 then
    [{ off := 0x18, planeOff := 0x18, out := false, trans := false
       view := { fmt := 7, rows := 1, cols := 4 * fld d 0x12 2, sram := false, base := field (fld d 0x18 8) 0 40 } }]
  else []

/-- Checks of classes 0x7 to 0x9 that depend on tables or the epoch, made once the wait is satisfied. -/
def netLateBad (s : State) (d : Bytes) : Chk :=
  let op := dBase d
  if op = 0x9241 || op = 0x9242 then chks [(0x10, !epochNewer s.fab.epoch (fld d 0x10 2))]
  else if op = 0x9243 then
    chks [(0x12, anyN 12 (fun i => bit (fld d 0x12 2) i && !roleUsed s.fab.active i))]
  else if dClass d = 8 && op ≠ 0x820B then collGroupBad s d
  else []

/-- Rights to tables (R202, R229, R281). -/
def netPerm (s : State) (p : Nat) (d : Bytes) : Chk :=
  let op := dBase d
  let range (inP : Nat → Bool) (first count off : Nat) : Chk := chks [(off, !inP first || !inP (first + (count - 1)))]
  if op = 0x71C0 then
    chks [(0x16, !groupInPart s p (fld d 0x16 2))] ++ range (shardInPart s p) (fld d 0x1C 2) (fld d 0x1E 2) 0x1C
      ++ chks [(0x20, fld d 0x20 2 ≠ 0xFFFF && !mcastInPart s p (fld d 0x20 2))]
  else if op = 0x71C1 then range (shardInPart s p) (fld d 0x18 2) (fld d 0x1A 2) 0x18
  else if op = 0x820B then range (groupInPart s p) (fld d 0x18 2) (fld d 0x1A 2) 0x18
  else if op = 0x9240 || op = 0x9241 || op = 0x9242 then chks [(0x00, s.fabOwner ≠ some p)]
  else if op = 0x9243 then chks [(0x10, !mcastInPart s p (fld d 0x10 2))]
  else if dClass d = 8 then
    chks [(0x24, !groupInPart s p (cGroup d)), (0x36, cOp d = 10 && !mcastInPart s p (cMcast d))]
  else []

end Sys2Proof.Machine
end

