-- ==== Sys2Proof/Machine/Validate.lean ====
section
/-! DEFINITION. The checks that refuse a descriptor, in the order of R11: VERSION, BAD_DESCRIPTOR, PERMISSION and
NO_RESOURCE (R14, R15, R52, R54, R73 to R81, R85, R140, R174, R178), and the latching of views (R17, R178, R180). -/

namespace Sys2Proof.Machine

open Sys2Proof

/-! ### Ranges of partition device addresses -/

/-- Regions of p that pass a test and share a byte with a range: (class, shared bytes). -/
def regionsWhere (s : State) (t : Region → Bool) (p x len : Nat) : List (Nat × Nat) :=
  (List.range 64).filterMap (fun i =>
    let r := getRegion s (64 * p + i)
    let lo := r.base * unit16
    let hi := (r.base + r.size) * unit16
    if t r && overlap x len lo (hi - lo) then some (r.cls, min (x + len) hi - max x lo) else none)

/-- The enabled Ready ones (R140). -/
def regionsHit (s : State) (p x len : Nat) : List (Nat × Nat) := regionsWhere s (fun r => r.enable && r.state = 2) p x len

/-- Every byte of the range lies in such a region (R14, R140). -/
def covered (s : State) (p x len : Nat) : Bool := ((regionsHit s p x len).map (·.2)).sum = len

/-- The stretches of an operand meet enabled regions of two classes, Ready or not (R11, R15). -/
def mixedClass (s : State) (p : Nat) (parts : List (Nat × Nat)) : Bool :=
  match parts.flatMap (fun x => regionsWhere s (fun r => r.enable) p x.1 x.2) with
  | [] => false
  | (c, _) :: t => t.any (fun y => y.1 ≠ c)

/-- How a range lies to the views of p's versioned layers (R178): the views it shares a byte with, and whether it lies
within. -/
def viewsHit (s : State) (p x len : Nat) : List (Nat × Nat × Bool) :=
  s.tr.layers.flatMap (fun e =>
    let l := e.2
    if !(l.valid && l.versioned && layerHeld s p e.1) then [] else
    let one (view lo : Nat) : List (Nat × Nat × Bool) :=
      if overlap x len lo l.len then [(e.1, view, decide (lo ≤ x) && decide (x + len ≤ lo + l.len))] else []
    one 0 l.slot0 ++ one 1 l.slot1)

/-- Views that the stretches of an extent touch. -/
def extViews (s : State) (p : Nat) (e : Ext) : List (Nat × Nat × Bool) :=
  if e.sram then [] else e.parts.flatMap (fun x => viewsHit s p x.1 x.2)

/-- The extent lies neither wholly inside one view nor wholly outside both (R178). -/
def viewSplit (s : State) (p : Nat) (e : Ext) : Bool :=
  let vs := extViews s p e
  match vs with
  | [] => false
  | (l, v, _) :: _ => vs.any (fun x => !x.2.2 || x.1 ≠ l || x.2.1 ≠ v) || decide (vs.length ≠ e.parts.length)

/-! ### Operand checks -/

def extEnd (e : Ext) : Nat := if e.rows = 0 then 0 else (e.rows - 1) * e.stride + e.len

/-- SRAM of another core may be named: anywhere by collectives and set-up opcodes (R237), on one operand by COPY,
HOST_READ and HOST_WRITE (R80). -/
def otherCoreOk (d : Bytes) : Bool := dClass d ≥ 7 || dBase d = 0x4100 || dBase d = 0x4106 || dBase d = 0x4107

def coreInPart (s : State) (p c : Nat) : Bool := (getPart s p).cores.getLsbD c

/-- Checks of one extent: (fails as BAD_DESCRIPTOR, fails as PERMISSION). -/
def extCheck (s : State) (p core : Nat) (d : Bytes) (out : Bool) (e : Ext) : Bool × Bool :=
  if e.sram then
    let c := e.base / 2 ^ 21
    (decide (sramSize < e.base % 2 ^ 21 + extEnd e) || (c ≠ core && !otherCoreOk d), !coreInPart s p c)
  else
    let ps := e.parts.filter (fun x => x.2 ≠ 0)
    (mixedClass s p ps || viewSplit s p e,
     ps.any (fun x => !covered s p x.1 x.2) || (out && !(extViews s p e).isEmpty))

/-- Offsets and extents of a use: the element plane, and the scale or exponent plane. -/
def useExts (u : Use) : List (Nat × Ext) :=
  (u.off, u.view.elemExt) :: (if hasPlane u.view.fmt then [(u.planeOff, u.view.planeExt)] else [])

def inExts (us : List Use) : List Ext := (us.filter (fun u => !u.out)).flatMap (fun u => u.view.exts)
def outExts (us : List Use) : List Ext := (us.filter (fun u => u.out)).flatMap (fun u => u.view.exts)

/-- The offset of an operand's first plane that lies in the SRAM of a core other than the ring's. -/
def elsewhere (core : Nat) (u : Use) : Option Nat := ((useExts u).find? (fun x => x.2.sram && x.2.base / 2 ^ 21 ≠ core)).map (·.1)

/-- BAD_DESCRIPTOR and PERMISSION checks of a descriptor's operands. -/
def useChecks (s : State) (p core : Nat) (d : Bytes) (us : List Use) : Chk × Chk :=
  let all := us.flatMap (fun u => (useExts u).map (fun x => (x.1, extCheck s p core d u.out x.2)))
  let second := if dClass d = 4 then chks (((us.filterMap (elsewhere core)).drop 1).map (fun o => (o, true))) else []
  let lap := if 1 ≤ dClass d && dClass d ≤ 5 then
      (us.filter (fun u => u.out)).map (fun u => (u.off, u.view.exts.any (fun x => (inExts us).any (extOverlap x))))
    else if dClass d = 8 && !(dBase d = 0x8200 && fld d 0x10 8 = fld d 0x18 8) then
      (us.filter (fun u => u.out)).map (fun u => (u.off, u.view.exts.any (fun x => (inExts us).any (extOverlap x))))
    else []
  (all.map (fun x => (x.1, x.2.1)) ++ second ++ lap, all.map (fun x => (x.1, x.2.2)))

/-- STASH_PUT's reservation lies in one class A region (R103, R185). -/
def putClass (s : State) (p : Nat) (us : List Use) : Chk :=
  us.flatMap (fun u => if u.out then chks [(u.off, !inClass s p u.view.base u.view.cols 1)] else [])

/-! ### Header checks (R73 to R76, R80) -/

/-- A timeout code that R76 refuses. -/
def timeoutBad (c : Nat) : Bool := c % 64 = 0 && c / 64 ≠ 0

/-- Header and extension. `lastSlot`: an extended descriptor whose first slot is its ring's last. -/
def headBad (d : Bytes) (core : Nat) (lastSlot : Bool) : Chk :=
  let op := dBase d
  match opInfo op with
  | none => chks [(0x00, true)]
  | some i =>
    chks [(0x00, (dExt d && i.ext = 0) || (!dExt d && i.ext = 2) || lastSlot
        || (i.target = 1 && core = netTarget) || (i.target = 2 && core ≠ netTarget)),
      (0x03, field (dFlags d) 6 2 ≠ 0 || (dVer d = 1 && (dOrder d || dPass d)) || (dEqv d && !i.eqv) || (dSrel d && !i.srel)),
      (0x0E, timeoutBad (dTimeout d)), (0x0F, byteAt d 0xF ≠ 0)] ++ extChk d

/-- Plan of a descriptor at the head of its ring: EXPR's program is not read yet. -/
def headPlan (d : Bytes) : Plan :=
  if 7 ≤ dClass d then { bad := netBad d, uses := netUses d } else planOf d none

/-! ### Checks once the wait is satisfied -/

/-- EXPR's program as it stands in memory; none where a block of it cannot be read. -/
def readProgram (s : State) (c : ExecCtx) (d : Bytes) : Option (List Node) :=
  let r := refAt d 0x10
  let n := byteAt d 0x3F
  match (checkRange s c r.sram r.addr (8 * n)).2 with
  | some _ => none
  | none => some (parseNodes n (devBytes s c r.sram r.addr (8 * n)))

/-- A flat tensor of n elements. -/
def flatView (fmt n : Nat) (sram : Bool) (base : Nat) : TView := { fmt, rows := 1, cols := n, sram, base }

/-- DST's view of a STASH_GET: exactly COUNT elements (R186). -/
def getView (d : Bytes) (e : Stash) : TView :=
  let r := refAt d 0x10
  let p := planeRef d 0
  { flatView r.fmt e.count r.sram r.addr with planeSram := p.sram, planeBase := p.addr }

/-- STASH_GET's output: its extent is the entry's (R186). -/
def getUses (s : State) (p : Nat) (d : Bytes) : List Use :=
  match getStash s p (fld d 0x18 4) with
  | some e => [{ off := 0x10, planeOff := 0x58, out := true, trans := false, view := getView d e }]
  | none => []

/-- The operands a dispatched descriptor uses. -/
def usesOf (s : State) (p : Nat) (d : Bytes) : List Use :=
  if dBase d = 0x6181 then getUses s p d else
  if dBase d = 0x2080 then (planExpr d (readProgram s { part := p } d)).uses
  else if dClass d = 8 && dBase d ≠ 0x820B then collUses s d
  else if 7 ≤ dClass d then netUses d else (planOf d none).uses

/-- Checks that depend on EXPR's program, the group table, the roles or the epoch. -/
def lateChecks (s : State) (p core : Nat) (d : Bytes) : Chk × Chk :=
  if !(dBase d = 0x2080 || 7 ≤ dClass d) then ([], []) else
  let own := if dBase d = 0x2080 then (planExpr d (readProgram s { part := p } d)).bad else netLateBad s d
  let uc := useChecks s p core d (usesOf s p d)
  (own ++ uc.1, uc.2)

/-- The least offset at which they find BAD_DESCRIPTOR. -/
def lateBad (s : State) (p core : Nat) (d : Bytes) : Option Nat := firstBad (lateChecks s p core d).1

/-- The refusal they cause. -/
def lateRefusal (s : State) (p core : Nat) (d : Bytes) : Option (Nat × Nat) :=
  match lateBad s p core d with
  | some x => some (stBad, x)
  | none => (firstBad (lateChecks s p core d).2).map (fun x => (stPerm, x))

/-- Region and range checks are made only of operands whose references are well formed. (DEDUCED, log 18.) (DEDUCED, log 41.) -/
def headRefusal (s : State) (p core : Nat) (d : Bytes) (lastSlot : Bool) : Option (Nat × Nat) :=
  let op := dBase d
  let major := (getFn s (getPart s p).owner).drvMajor
  let pl := headPlan d
  let known := (opInfo op).isSome && !lastSlot
  let uc := if known then useChecks s p core d pl.uses else ([], [])
  let bad := headBad d core lastSlot ++ (if known then pl.bad ++ uc.1 ++ (if op = 0x6180 then putClass s p pl.uses else []) else [])
  let perm := chks [(0x06, !evtInPart s p (dWaitEvt d)), (0x0C, !evtInPart s p (dSigEvt d)),
      (0x46, dExt d && xGlayer d ≠ 0xFFFF && !layerInPart s p (xGlayer d)),
      (0x10, (op = 0x0001 || op = 0x0002) && !evtInPart s p (fld d 0x10 2)),
      (0x28, op = 0x6180 && ringPart s (fld d 0x28 2) ≠ some p),
      (0x00, core ≠ netTarget && dClass d ≠ 0 && !coreInPart s p core)] ++ uc.2 ++ netPerm s p d
  let want := if major = 1 then 1 else 2
  if dVer d ≠ want then some (stVersion, 0x02)
  else if dVer d = 1 && (match opInfo op with
    | some i => i.since2
    | none => false) then some (stVersion, 0x00)
  else match firstBad bad with
    | some x => some (stBad, x)
    | none =>
      let res := if (getPart s p).quota = 0 then some (stNoRes, 0x01)
        else if core ≠ netTarget && (corePhys s core).isNone then some (stNoRes, 0x02)
        else if dClass d = 6 && (getPart s p).cdState ≠ 1 then some (stNoRes, 0x03)
        else none
      match ((firstBad perm).map (fun x => (stPerm, x))).or res with
      | none => none
      | some r =>
        -- R11: a BAD_DESCRIPTOR that only the later checks find is reported before these two
        if dBase d = 0x2080 && perm.contains (0x10, true) then some r
        else match lateBad s p core d with
          | some x => some (stBad, x)
          | none => some r

/-! ### Views and the governed format -/

/-- The views that the inputs of a descriptor name. -/
def viewsNamed (s : State) (p : Nat) (us : List Use) : List (Nat × Nat) :=
  ((inExts us).flatMap (extViews s p)).foldl (fun acc x => if acc.contains (x.1, x.2.1) then acc else acc ++ [(x.1, x.2.1)]) []

/-- The slots the views resolve to, if each holds a version (R178, R179). (DESIGN CHOICE, log 23.) -/
def latchesFor (s : State) (p : Nat) (us : List Use) : Option (List Latch) :=
  (viewsNamed s p us).foldl (fun acc x => match acc with
    | none => none
    | some l =>
      let slot := viewSlot s [] x.1 x.2
      match slotVersion (getVer s x.1) slot with
      | some v => some (l ++ [{ layer := x.1, view := x.2, slot, version := v }])
      | none => none) (some [])

/-- Take one fence reference for each latched view (R180). -/
def holdLatches (s : State) (ls : List Latch) : State := ls.foldl (fun t l => fenceAdd t l.layer l.slot) s

/-- Offset of output 0's reference. -/
def out0Off (d : Bytes) : Nat :=
  let op := dBase d
  if op = 0x1040 then 0x28 else if op = 0x2080 then 0x30 else if dClass d = 3 then 0x28
  else if dClass d = 4 || dClass d = 8 then 0x18 else 0x10

/-- The format field of a governor rank (R195). -/
def rankFmt (r : Nat) : Nat := if r = 0 then 0x04 else if r = 1 then 0x13 else 0x01

/-- R197: 0 go on, 1 wait for the step's format, 2 refuse. -/
def enforceState (s : State) (p : Nat) (d : Bytes) : Nat :=
  let l := xGlayer d
  let e := getLayer s l
  let out := refAt d (out0Off d)
  if l = 0xFFFF || !out.present || !layerHeld s p l || !(e.valid && e.governed && e.enforce) then 0
  else
    let g := getGov s l
    let first := match g.first with
      | some f => f
      | none => xStep d
    if g.first.isSome && decide (g.setFor < xStep d) && decide (first < xStep d) then 1
    else if out.fmt = rankFmt g.rank then 0 else 2

end Sys2Proof.Machine
end

