-- ==== Sys2Proof/Machine/Queue.lean ====
section
/-! DEFINITION. The queue engine: fetch, dispatch, held records and sweeps (R82 to R85, R116 to R126), and what every
operation row shares: finding its operation, starting it, and completing it. -/

namespace Sys2Proof.Machine

open Sys2Proof

/-! ### Fetch (R73, R116, R117) -/

/-- The function fetches: it is in D0, its port is up and its partition is not held; the module is Ready. -/
def fnRuns (s : State) (f : Nat) : Bool :=
  s.power.ready && !s.power.resetting && !(getFn s f).d3hot && (getPort s (fnPort f)).up

/-- Slots ready (R117). -/
def readySlots (r : Ring) : Nat := (r.producer + 2 ^ 32 - r.consumed) % 2 ^ 32

/-- A descriptor of n slots enters the ring's list; CONSUMED passes it (R116, R118). -/
def takeDescriptor (s : State) (ring n : Nat) (b : Bytes) : State :=
  ringStatus (updRing s ring (fun r =>
    let c := (r.consumed + n) % 2 ^ 32
    let kept : List Recent := r.recent ++ [{ pos := r.consumed, bytes := b }]
    { r with consumed := c, waiting := r.waiting ++ [{ pos := r.consumed, bytes := b }],
             recent := List.filter (fun e => decide ((c + 2 ^ 32 - e.pos) % 2 ^ 32 ≤ 256)) kept })) ring

/-- A ring with slots to fetch: enabled, running, its function fetching, a producer index ahead of CONSUMED. -/
def ringReady (s : State) (p : Nat) (r : Ring) : Bool :=
  r.enable && r.state = 1 && partReachable s p && fnRuns s (getPart s p).owner && decide (readySlots r ≠ 0)

/-- The ready rings of a partition, in rising order. -/
def readyRings (s : State) (p : Nat) : List Nat :=
  (s.q.rings.filter (fun e => ringPart s e.1 = some p && ringReady s p (getRing s e.1))).map (·.1)

/-- The first number of a rising list from `start` on, or else its first. -/
def firstFrom (start : Nat) (l : List Nat) : Option Nat := (l.find? (fun x => decide (start ≤ x))).or l.head?

/-- The partition and ring that the queue engine serves next: round-robin across the partitions with ready rings, and
within one across its ready rings (R119). (DESIGN CHOICE, log 137: where the rounds start.) -/
def fetchTurn (s : State) : Option (Nat × Nat) :=
  match firstFrom s.q.nextPart ((List.range 8).filter (fun p => !(readyRings s p).isEmpty)) with
  | some p => (firstFrom (tget 0 s.q.nextRing p) (readyRings s p)).map (fun r => (p, r))
  | none => none

/-- The ring has been served: the next fetch is looked for behind it. -/
def servedRing (s : State) (p ring : Nat) : State :=
  { s with q := { s.q with nextPart := p + 1, nextRing := tset 0 p (ring + 1) s.q.nextRing } }

/-- A host read of a ring that failed stops it with ERROR 2 (R116); poisoned data is noted in the AER status. -/
def fetchFailed (s : State) (f ring : Nat) (d : HostData) : State := stopRing (notePoison s f d) ring 2

/-- The producer index is more than 2^SIZE ahead of CONSUMED (R117). -/
def overrun (r : Ring) : Bool := decide (2 ^ r.size < readySlots r)

/-- The ring's turn: one descriptor of it is read (R73, R116, R117). -/
def serveRing (s : State) (p ring : Nat) (host : HostIn) : State :=
  let r := getRing s ring
  let f := (getPart s p).owner
  let ready := readySlots r
  let slot := r.consumed % 2 ^ r.size
  let at_ := r.base + 64 * slot
  if overrun r then stopRing s ring 1
  else match hostRead s host (fnPort f) at_ 64 with
    | .data b =>
      if !dExt b || slot + 1 = 2 ^ r.size then takeDescriptor s ring 1 b
      else if ready < 2 then s
      else (match hostRead s host (fnPort f) (at_ + 64) 64 with
        | .data b2 => takeDescriptor s ring 2 (b ++ b2)
        | d => fetchFailed s f ring d)
    | d => fetchFailed s f ring d

/-- DESCRIPTOR_FETCH (R116, R119): a ring whose turn it is not fetches nothing. -/
def execDescriptorFetch (ring : Nat) (host : HostIn) (s0 : State) : Out :=
  let s := hostStores s0 host
  .next (match fetchTurn s with
    | some (p, k) => if k = ring then serveRing (servedRing s p ring) p ring host else s
    | none => s)

/-! ### Dispatch -/

/-- WAIT_EVT and SIG_EVT lie in the partition's range (R85). -/
def evtsOk (s : State) (p : Nat) (d : Bytes) : Bool := evtInPart s p (dWaitEvt d) && evtInPart s p (dSigEvt d)

/-- The kind of R53 that an opcode class belongs to; 0 none. -/
def coreKind (d : Bytes) : Nat :=
  let c := dClass d
  if c = 1 then 1 else if c = 2 || c = 3 || c = 5 then 2 else if c = 4 || c = 6 then 3 else 0

def sramExts (es : List Ext) : List Ext := es.filter (fun e => e.sram)

def anyOverlap (xs ys : List Ext) : Bool := xs.any (fun x => ys.any (extOverlap x))

/-- R53 lets a descriptor start beside a running operation of its core. -/
def mayStartBeside (s : State) (d : Bytes) (us : List Use) (o : Op) : Bool :=
  let vs := usesOf s o.part o.desc
  !((coreKind d ≠ 0 && coreKind d = coreKind o.desc)
    || anyOverlap (sramExts (outExts us)) (sramExts (inExts vs ++ outExts vs))
    || anyOverlap (sramExts (inExts us)) (sramExts (outExts vs)))

/-- R53 for every operation running on the core. -/
def r53Free (s : State) (p core : Nat) (d : Bytes) : Bool :=
  core = netTarget ||
    s.q.ops.all (fun o => o.core ≠ core || o.phase = .recordHeld || mayStartBeside s d (usesOf s p d) o)

/-- Operations that hold a slot of the partition (R126). -/
def partOps (s : State) (p : Nat) : Nat := s.q.ops.countP (fun o => o.part = p)

/-- Every earlier descriptor of the ring has completed (R82): a held record's operation has. -/
def ringDone (s : State) (ring : Nat) : Bool := s.q.ops.all (fun o => o.ring ≠ ring || o.phase = .recordHeld)

inductive Start where
  | go (s : State) (o : Op)
  | wait
  | refuse (xs : Nat)

/-- The ring's list of recent descriptors notes the slots that an operation has latched (R103, R181). -/
def noteLatches (s : State) (o : Op) (ls : List Latch) : State :=
  updRing s o.ring (fun r => { r with recent := listUpdate (fun e => e.pos = o.pos) (fun e => { e with latches := ls }) r.recent })

/-- Start an operation: it is checked against its step's format and latches the views it names, or waits for one of
the two (R17, R178, R179, R197). -/
def tryStart (s : State) (o : Op) : Start :=
  if o.started then .go s o else
  match enforceState s o.part o.desc with
  | 1 => .wait
  | 2 => .refuse (out0Off o.desc)
  | _ =>
    match latchesFor s o.part (usesOf s o.part o.desc) with
    | none => .wait
    | some ls =>
      let skip := decide (s.kt.depth ≠ 0)
      .go (updOp (noteLatches (holdLatches s ls) o ls) o.id (fun x => { x with started := true, skipped := skip, latches := ls }))
        { o with started := true, skipped := skip, latches := ls }

/-- The operation enters the core's replay window (R69). -/
def windowAdd (s : State) (o : Op) : State :=
  if o.core = netTarget then s else
  updWindow s o.core (fun w => windowTrim { w with
    entries := w.entries ++ [{ op := o.id, part := o.part, ring := o.ring, pos := o.pos, desc := o.desc }] })

/-- The window keeps the slots an operation latched (R70). -/
def windowLatch (s : State) (core id : Nat) (ls : List Latch) : State :=
  if core = netTarget then s else
  updWindow s core (fun w => { w with entries := listUpdate (fun e => e.op = id) (fun e => { e with latches := ls }) w.entries })

/-- Start an operation if nothing makes it wait or refuses it. -/
def startNow (s : State) (o : Op) : State :=
  match tryStart s o with
  | .go s1 o1 => windowLatch s1 o1.core o1.id o1.latches
  | _ => s

/-- The head descriptor becomes an operation: it takes an in-flight slot. -/
def dispatchOp (s : State) (p ring core : Nat) (f : Fetched) : State :=
  let o : Op := { id := s.q.opSeq, seq := s.q.opSeq, part := p, ring, core, pos := f.pos, desc := f.bytes }
  startNow (windowAdd { s with q := { s.q with ops := s.q.ops ++ [o], opSeq := s.q.opSeq + 1 } } o) o

def popWaiting (s : State) (ring : Nat) : State := updRing s ring (fun r => { r with waiting := r.waiting.drop 1 })

/-- A descriptor of two slots whose first slot was the ring's last (R73). -/
def wrapsRing (b : Bytes) : Bool := dExt b && decide (b.length = 64)

/-- DISPATCH (R82 to R85, R53, R126). (DEDUCED, log 19.) (DEDUCED, log 44.) -/
def execDispatch (ring : Nat) (s : State) : Out :=
  match ringPart s ring with
  | none => .next s
  | some p =>
    let r := getRing s ring
    match r.waiting with
    | [] => .next s
    | f :: _ =>
      let d := f.bytes
      let core := r.target
      let refuse (st xs : Nat) : State := completeUndispatched (popWaiting s ring) p ring f.pos d (evtsOk s p d) st xs
      match headRefusal s p core d (wrapsRing d) with
      | some (st, xs) => .next (refuse st xs)
      | none =>
        if !waitDone s (dWaitEvt d) (dWaitVal d) then .next s
        else match lateRefusal s p core d with
          | some (st, xs) => .next (refuse st xs)
          | none =>
            if dWaitEvt d ≠ 0xFFFF && (getEvt s (dWaitEvt d)).poison && !dPass d then .next (refuse stPoison 1)
            else if (dOrder d && !ringDone s ring) || decide ((getPart s p).quota ≤ partOps s p)
                || (core ≠ netTarget && (getCore s core).stopped) || !r53Free s p core d then .next s
            else .next (dispatchOp (popWaiting s ring) p ring core f)

/-! ### What operation rows share -/

/-- The clocks an operation took and its non-finite count (R86). (DESIGN CHOICE, log 24.) -/
def infoOf (cycles : Word32) (nonfinite : Nat) : Nat := cycles.toNat * 2 ^ 32 + sat 0xFFFFFFFF nonfinite

/-- An operation's core ran slower than its variant's floor (R330): at a code above the floor code, which no switch
changes while it runs, or with its clocks skipped by the limiter, where they were so for more than 10 µs in total. -/
def ranSlow (s : State) (o : Op) (env : Env) : Bool :=
  decide (o.core ≠ netTarget) && (decide (floorCodeOf s.part.variant < (getCore s o.core).code) || o.skipped && env.slow)

/-- DEGRADED_OK bits 1 and 2 (R87, R330, R164). -/
def degradeBits (s : State) (o : Op) (env : Env) : Nat := (if ranSlow s o env then 2 else 0) + (if env.stalled then 4 else 0)

/-- Success: OK, or DEGRADED_OK with its bits. -/
def finishOk (s : State) (o : Op) (env : Env) (more info : Nat) : State :=
  let x := degradeBits s o env + more
  if x = 0 then complete s o stOk 0 info else complete s o stDegraded x info

/-- The setting in which an operation executes. -/
def ctxOf (o : Op) (env : Env) : ExecCtx := { part := o.part, latches := o.latches, mem := env.mem }

/-- The execution time of an operation that no clock count comes with: a free value (R86, DESIGN CHOICE, log 24). -/
def freeClocks (s : State) : Word32 := BitVec.ofNat 32 (Config.freeNat s.free)

/-- INFO of an operation that failed while it executed: its time, for classes 0x1 to 0x6 (R86). For a STASH_PUT the spec
does not say which INFO a failure carries: the time too (DESIGN CHOICE, log 168). -/
def failInfo (d : Bytes) (cycles : Word32) : Nat := if 1 ≤ dClass d && dClass d ≤ 6 then infoOf cycles 0 else 0

/-- Host bytes of the rows of a host operand: (address, length). -/
def hostRows (d : Bytes) (hostAt strideAt : Nat) : List (Nat × Nat) :=
  let cols := fld d 0x2C 4
  let st := fld d strideAt 4
  (List.range (fld d 0x28 4)).map (fun r => (fld d hostAt 8 + r * (if st = 0 then cols else st), cols))

def ownerPort (s : State) (p : Nat) : Nat := fnPort (getPart s p).owner

/-- Leave the host rows undefined (R89). -/
def freeHostRows (s : State) (port : Nat) (rs : List (Nat × Nat)) : State :=
  rs.foldl (fun t r => hostWrite (drawFree t r.2) port r.1 (freeBytes t r.2)) s

/-- The host memory that a descriptor writes: HOST_WRITE's rows, and a TIMESTAMP's in host memory. -/
def hostOuts (d : Bytes) : List (Nat × Nat) :=
  if dBase d = 0x4107 then hostRows d 0x18 0x34 else if dBase d = 0x0003 && tsHost d then [((refAt d 0x10).addr, 8)] else []

/-- The declared outputs of an operation that failed after it began are undefined (R89). -/
def freeOuts (s : State) (o : Op) (env : Env) : State :=
  freeHostRows (freeExts s (ctxOf o env) (outExts (usesOf s o.part o.desc))) (ownerPort s o.part) (hostOuts o.desc)

/-- A STASH_FREE that executes releases its entry's pins whatever STATUS it reports (R181). (DEDUCED, log 147.) -/
def freePins (s : State) (o : Op) : State :=
  if dBase o.desc ≠ 0x6182 then s else
  match getStash s o.part (fld o.desc 0x10 4) with
  | some e => setStash (releasePins s e.pins) o.part (fld o.desc 0x10 4) (some { e with pins := [] })
  | none => s

/-- A failure after the operation began: its outputs are undefined (R89). -/
def failRun (s : State) (o : Op) (env : Env) (st xs : Nat) : State :=
  complete (freePins (freeOuts s o env) o) o st xs (failInfo o.desc env.cycles)

/-- The same by a command that brings no clock count. -/
def failTimed (s : State) (o : Op) (st xs : Nat) : State := failRun (drawFree s 1) o { cycles := freeClocks s } st xs

/-- Single-bit errors in the SRAM of a core are corrected and counted (R55). -/
def countSbe (s : State) (core n : Nat) : State :=
  if core = netTarget then s
  else { s with cores := { s.cores with sbe := tset 0 core (tget 0 s.cores.sbe core + n) s.cores.sbe } }

/-- The core whose SRAM an operation reads: its own, or that of a network operation's first operand in SRAM. -/
def sbeCore (s : State) (o : Op) : Nat :=
  if o.core ≠ netTarget then o.core
  else match (inExts (usesOf s o.part o.desc)).find? (fun e => e.sram) with
    | some e => e.base / 2 ^ 21
    | none => netTarget

/-- Host stores and DRAM upsets come before the operation reads. -/
def envIn (s : State) (env : Env) : State := dramUpsets (hostStores s env.host) env.mem

/-- The operation an operation row executes: dispatched, of this opcode, running. (DESIGN CHOICE, log 17.) -/
def opRunning (s : State) (id op : Nat) : Option Op :=
  match findOp s id with
  | some o => if o.phase = .running && dBase o.desc = op then some o else none
  | none => none

/-- The core's rebuilt SRAM is not trusted: until a release completes, its operations, that release included, end
CHECK_UNRECOVERED (R71). (DEDUCED, log 42.) -/
def coreDistrusted (s : State) (o : Op) : Bool := o.core ≠ netTarget && (getWindow s o.core).untrusted

/-- Run an operation of an opcode. Naming no running operation of it changes nothing else; one that must still wait
stays. -/
def runOp (s0 : State) (id op : Nat) (env : Env) (body : State → Op → State) : Out :=
  let s := envIn s0 env
  match opRunning s id op with
  | none => .next s
  | some o =>
    if coreDistrusted s o then .next (failRun s o env stCheck 2)
    else match tryStart s o with
      | .wait => .next s
      | .refuse xs => .next (complete s o stBad xs 0)
      | .go s1 o1 => .next (body (countSbe (windowLatch s1 o1.core o1.id o1.latches) (sbeCore s1 o1) env.sbe) o1)

/-- Read a computation's inputs: its body runs on readable inputs; an unreadable one fails the operation (R159). -/
def withInputs (s : State) (o : Op) (env : Env) (body : State → State) : State :=
  match checkExts s (ctxOf o env) (inExts (usesOf s o.part o.desc)) with
  | (s1, none) => body s1
  | (s1, some xs) => failRun s1 o env stCheck xs

/-! ### Held records (R125) -/

/-- HELD_RECORD_RELEASE: the oldest held record is written once its ring is enabled and has room. -/
def execHeldRecordRelease (oring : Nat) (s : State) : Out :=
  match oringPart s oring with
  | none => .next s
  | some p =>
    let x := getORing s oring
    match x.held with
    | [] => .next s
    | h :: t =>
      if !(x.enable && !oringFull x && partReachable s p) then .next s
      else
        let s1 := putRecord (setORing s oring { x with held := t }) p oring h.bytes
        .next (match h.kind with
          | .completion ring irq op =>
            let s2 := match op with
              | some i => removeOp s1 i
              | none => s1
            if irq then setOwnerLeaf s2 p (ringLeafOff 0x41000 ring) (2 ^ (ring % 32)) else s2
          | .event => setOwnerLeaf s1 p 0x40020 1
          | .statistics => setOwnerLeaf s1 p 0x40020 2)

/-! ### Doorbell sweeps (R120 to R122) -/

/-- Read the doorbell slot of a ring: its 64-byte line as one request. -/
def slotData (s : State) (h : HostIn) (port base slot : Nat) : HostData := hostRead s h port (base + 64 * (slot / 16)) 64

/-- The index that the slot holds, where its line could be read. -/
def slotRead (s : State) (h : HostIn) (port base slot : Nat) : Option Nat :=
  match slotData s h port base slot with
  | .data b => some (fld b (4 * (slot % 16)) 4)
  | _ => none

/-- Enabled submission rings and output rings of partition p. -/
def enabledRings (s : State) (p : Nat) : List (Nat × Ring) :=
  (s.q.rings.map (fun e => (e.1, getRing s e.1))).filter (fun e => e.2.enable && ringPart s e.1 = some p)
def enabledORings (s : State) (p : Nat) : List (Nat × ORing) :=
  (s.q.orings.map (fun e => (e.1, getORing s e.1))).filter (fun e => e.2.enable && oringPart s e.1 = some p)

/-- A producer index read for a ring: it is taken, and where it lies more than 2^SIZE ahead of CONSUMED the running ring
stops with ERROR 1 (R117). -/
def takeIndex (s : State) (ring v : Nat) : State :=
  let s1 := updRing s ring (fun r => { r with producer := v })
  if (getRing s ring).state = 1 && overrun (getRing s1 ring) then stopRing s1 ring 1 else s1

/-- Sweep one page: indices that could be read are taken; a failed read counts against the page; the third failure in
a row stops the rings whose producer index lies there (R121). Poisoned lines are noted in the AER status. (DEDUCED, log 51.) -/
def sweepPage (s : State) (h : HostIn) (f p page : Nat) : State :=
  let pg := tget {} (getFn s f).pages page
  let rs := (enabledRings s p).filter (fun e => e.2.dbPage = page)
  let os := (enabledORings s p).filter (fun e => e.2.dbPage = page)
  let slots := rs.map (fun e => e.2.dbSlot) ++ os.map (fun e => e.2.dbSlot)
  let readS (slot : Nat) : Option Nat := slotRead s h (fnPort f) pg.addr slot
  let failed := slots.any (fun x => (readS x).isNone)
  let s0 := if slots.any (fun x => decide (slotData s h (fnPort f) pg.addr x = .poisoned)) then noteAer s f aerPoisoned else s
  let s1 := rs.foldl (fun t e => match readS e.2.dbSlot with
    | some v => takeIndex t e.1 v
    | none => t) s0
  let s2 := os.foldl (fun t e => match readS e.2.dbSlot with
    | some v => updORing t e.1 (fun r => { r with consumer := v })
    | none => t) s1
  let setFails (t : State) (n : Nat) : State :=
    updFn t f (fun r => { r with pages := tset {} page { pg with fails := n } r.pages })
  if slots.isEmpty then s
  else if !failed then setFails s2 0
  else if pg.fails < 2 then setFails s2 (pg.fails + 1)
  else rs.foldl (fun t e => if (getRing t e.1).state = 1 then stopRing t e.1 2 else t) (setFails s2 0)

/-- Sweep the pages of a mask. -/
def sweep (s : State) (h : HostIn) (f mask : Nat) : State :=
  match ownedPart s f with
  | none => s
  | some p =>
    if !(fnRuns s f && partReachable s p) then s
    else forN 8 (fun page t => if bit mask page && (tget {} (getFn t f).pages page).valid then sweepPage t h f p page else t) s

/-- DOORBELL_SWEEP (R121). The host's configuration writes come before it (log 162). -/
def execDoorbellSweep (fn : Nat) (host : HostIn) (s : State) : Out :=
  .next (sweep (configWrites (hostStores s host) host) host fn 0xFF)

end Sys2Proof.Machine
end

