-- ==== Sys2Proof/Machine/Fab.lean ====
section
/-! DEFINITION. The fabric's shared operations: the plan image (R258), coordinates and routes (R254 to R257, R265,
R266), banks (R278), packets and their injection (R261 to R263, R267), discards (R264, R280, R285). -/

namespace Sys2Proof.Machine

open Sys2Proof

/-! ### Plan images (R258) -/

def planMyCoord (img : Bytes) : Nat := field (fld img 0x0C 4) 0 18
def planOrigin (img : Bytes) : Nat := field (fld img 0x08 4) 0 18
def planLen (img : Bytes) (ax : Nat) : Nat := byteAt img (0x10 + ax)
def planOrderDef (img : Bytes) : Nat := field (byteAt img 0x13) 0 4
def planWeight (img : Bytes) (v : Nat) : Nat := byteAt img (0x1F + v)
def planDrain (img : Bytes) : Nat := fld img 0x24 2
def planHash (img : Bytes) : Nat := fld img 0x28 8
def nLaunch (img : Bytes) : Nat := fld img 0x30 2
def nExpress (img : Bytes) : Nat := fld img 0x32 2
def nAbsent (img : Bytes) : Nat := fld img 0x34 2
def nOrder (img : Bytes) : Nat := fld img 0x36 2
def expressOff (img : Bytes) : Nat := 64 + 8 * nLaunch img
def absentOff (img : Bytes) : Nat := expressOff img + 8 * nExpress img
def orderOff (img : Bytes) : Nat := absentOff img + 4 * nAbsent img

/-- Fields of a table of n entries of k bytes from `off`. -/
def tableOf (img : Bytes) (off k n : Nat) : List Nat := (List.range n).map (fun i => fld img (off + k * i) k)

structure Launch where
  xid  : Nat
  port : Nat
  hlen : Nat
  hops : List Nat
  deriving DecidableEq, Repr

def parseLaunch (v : Nat) : Launch :=
  { xid := field v 52 12, port := field v 48 4, hlen := field v 45 3
    hops := (List.range (field v 45 3)).map (fun i => field v (30 + 3 * i) 3) }

def launches (img : Bytes) : List Launch := (tableOf img 64 8 (nLaunch img)).map parseLaunch

structure Express where
  xid  : Nat
  inp  : Nat
  out  : Nat
  deriving DecidableEq, Repr

def parseExpress (v : Nat) : Express := { xid := field v 52 12, inp := field v 48 4, out := field v 44 4 }

def expresses (img : Bytes) : List Express := (tableOf img (expressOff img) 8 (nExpress img)).map parseExpress
def absences (img : Bytes) : List Nat := (tableOf img (absentOff img) 4 (nAbsent img)).map (fun w => field w 0 18)

/-! ### Coordinates (R254 to R257) -/

/-- The coordinate on an axis: 0 x, 1 y, 2 z. -/
def coordAx (c ax : Nat) : Nat := field c (6 * ax) 6

def inBlock (img : Bytes) (c : Nat) : Bool :=
  decide (c < 2 ^ 18) && allN 3 (fun ax => decide (coordAx (planOrigin img) ax ≤ coordAx c ax)
    && decide (coordAx c ax < coordAx (planOrigin img) ax + planLen img ax))

def spanned (img : Bytes) (ax : Nat) : Bool := decide (2 ≤ planLen img ax)

/-- The axis of a role, and its opposite role (R257). -/
def roleAxis (r : Nat) : Nat := r / 2
def roleOpp (r : Nat) : Nat := if r % 2 = 0 then r + 1 else r - 1

/-- The coordinate one step away in the direction of a role, wrapped (R255). -/
def stepCoord (img : Bytes) (c role : Nat) : Nat :=
  let ax := roleAxis role
  let o := coordAx (planOrigin img) ax
  let l := planLen img ax
  let x := coordAx c ax - o
  let y := if l = 0 then 0 else if role % 2 = 0 then (x + 1) % l else (x + l - 1) % l
  putField c (6 * ax) 6 (o + y)

/-- Hops on one axis: role code and count (R256). -/
def axisHops (img : Bytes) (a b ax : Nat) : List Nat :=
  let l := planLen img ax
  let o := coordAx (planOrigin img) ax
  let x := coordAx a ax
  let d := if l = 0 then 0 else (coordAx b ax + l - x % l) % l
  if d = 0 then []
  else if d < l - d || (d = l - d && (x - o) % 2 = 0) then List.replicate d (2 * ax)
  else List.replicate (l - d) (2 * ax + 1)

/-- Role codes of a route in XYZ (false) or ZYX order (R265). -/
def route (img : Bytes) (a b : Nat) (zyx : Bool) : List Nat :=
  (if zyx then [2, 1, 0] else [0, 1, 2]).flatMap (axisHops img a b)

/-! ### Segments (R266) -/

/-- The longest launch entry that is a prefix of the hops. -/
def bestLaunch (img : Bytes) (hops : List Nat) : Option Launch :=
  (launches img).foldl (fun best e =>
    if decide (e.hlen ≤ min 5 hops.length) && decide (hops.take e.hlen = e.hops) &&
        (match best with
        | none => true
        | some b => decide (b.hlen < e.hlen)) then some e else best) none

def portsOf (img : Bytes) (role : Nat) : List Nat := (List.range 12).filter (fun p => planRole img p = role)

def coordSum (c : Nat) : Nat := coordAx c 0 + coordAx c 1 + coordAx c 2

/-- Port, express ID and hops of the next segment. -/
structure Next where
  port : Nat
  xid  : Nat
  hops : List Nat
  deriving DecidableEq, Repr

def nextSeg (img : Bytes) (here dst : Nat) (hops : List Nat) : Option Next :=
  match hops with
  | [] => none
  | r :: _ =>
    match bestLaunch img hops with
    | some e => some { port := e.port, xid := e.xid, hops := e.hops }
    | none =>
      let n := portsOf img r
      if n.isEmpty then none
      else some { port := n.getD ((coordSum here + coordSum dst) % n.length) 0, xid := 0, hops := [r] }

/-- Where a walk along hops ends. -/
def walk (img : Bytes) (c : Nat) (hops : List Nat) : Nat := hops.foldl (stepCoord img) c

/-! ### Banks (R278) -/

def bankFor (s : State) (epoch : Nat) : Option Bytes :=
  if epoch = s.fab.epoch then s.fab.active
  else if epoch = s.fab.prevEpoch && s.fab.prevKept then s.fab.previous
  else if epochNewer s.fab.epoch epoch then s.fab.staged.or s.fab.active
  else none

/-- The packet's epoch is older than the banks kept (R264, R278). -/
def epochOld (s : State) (epoch : Nat) : Bool :=
  !(epoch = s.fab.epoch || (epoch = s.fab.prevEpoch && s.fab.prevKept) || epochNewer s.fab.epoch epoch)

/-! ### Lanes of segments (R304 to R306) -/

/-- The port can use the lane now. -/
def laneUsable (s : State) (port w : Nat) : Bool :=
  let x := getLane s port w
  !(x.drained || x.keptOff || x.resweep || x.retired)

/-- Lanes on which a segment launched here runs, of a mask that its terminator reported. -/
def txLanes (s : State) (g : SegId) (mask : BitVec 8) : List Nat :=
  (List.range 8).filter (fun w => mask.getLsbD w && !(getSeg s g).out.getLsbD w && laneUsable s g.port w)

def tx16 (s : State) (g : SegId) : List Nat := txLanes s g (getSeg s g).mask16

/-- Lanes this module reports for a segment that ends at a port: key of its lanes. -/
def rxLane (g : SegId) : Nat := g.port + 12 * g.xid

/-- A segment launched here, or one that ends here, holds 8 lanes in DP-16QAM (R306). -/
def segFullTx (s : State) (g : SegId) : Bool := (tx16 s g).length = 8
def segFullRx (s : State) (g : SegId) : Bool := allN 8 (fun w => (getLane s (rxLane g) w).mode = 2 && laneUsable s g.port w)

/-! ### Topology agreement (R283) -/

/-- The coordinate that a plan expects beyond a port. -/
def expectedCoord (img : Bytes) (port : Nat) : Nat := stepCoord img (planMyCoord img) (planRole img port)

/-- A neighbour's record agrees with a plan on a port. (DEDUCED, log 91.) -/
def nbrAgrees (img : Bytes) (port : Nat) (n : Nbr) : Bool :=
  n.seen && n.coord = expectedCoord img port && n.role = roleOpp (planRole img port)
    && (n.hashAct.toNat = planHash img || n.hashStg.toNat = planHash img)

/-- The plan tolerates the absence of the port's neighbour. (DESIGN CHOICE, log 89.) -/
def tolerated (img : Bytes) (port : Nat) : Bool := (absences img).contains (expectedCoord img port)

/-- Every port with a used role is agreed or tolerated. -/
def planAgreed (s : State) (img : Bytes) : Bool :=
  allN 12 (fun p => planRole img p = 7 || nbrAgrees img p (tget {} s.fab.nbrs p) || tolerated img p)

/-! ### Discards -/

/-- Count a discard of a kind (0 HDR, 1 MSG, 2 EXPRESS, 3 ROUTE) and raise FAB_DISCARD at most once a millisecond for
each kind (R283, R354): 100,000 ticks (R318). (DEDUCED, log 135.) -/
def discard (s : State) (kind : Nat) : State :=
  let f := s.fab
  let old := match kind with
    | 0 => f.discHdr
    | 1 => f.discMsg
    | 2 => f.discExp
    | _ => f.discRoute
  let n := sat 255 (old + 1)
  let f1 := match kind with
    | 0 => { f with discHdr := n }
    | 1 => { f with discMsg := n }
    | 2 => { f with discExp := n }
    | _ => { f with discRoute := n }
  let last := tget 0 f.discTick kind
  let t := s.power.tick.toNat
  if last = 0 || last - 1 + 100000 ≤ t then
    raiseMod { s with fab := { f1 with discTick := tset 0 kind (t + 1) f.discTick } } 0x0405 (leBytes 1 kind ++ leBytes 4 n)
  else { s with fab := f1 }

/-! ### Packets (R261, R262) -/

def pktVc (p : Bytes) : Nat := field (byteAt p 1) 0 2
def pktZyx (p : Bytes) : Bool := bit (byteAt p 1) 2
def pktMcast (p : Bytes) : Bool := bit (byteAt p 1) 3
def pktFirst (p : Bytes) : Bool := bit (byteAt p 1) 4
def pktLast (p : Bytes) : Bool := bit (byteAt p 1) 5
def pktEpoch (p : Bytes) : Nat := fld p 2 2
def pktDst (p : Bytes) : Nat := if pktMcast p then field (fld p 4 4) 0 10 else field (fld p 4 4) 0 18
def pktSrc (p : Bytes) : Nat := field (fld p 8 4) 0 18
def pktLen (p : Bytes) : Nat := fld p 0x0C 2
def pktKind (p : Bytes) : Nat := byteAt p 0x0E
def pktFrag (p : Bytes) : Nat := byteAt p 0x0F
def pktMsg (p : Bytes) : Nat := fld p 0x10 4
def pktHops (p : Bytes) : Nat := byteAt p 0x14

/-- A header with its HCRC. (DEDUCED, log 87.) -/
def mkHeader (vc : Nat) (zyx mcast first last : Bool) (epoch dst src len kind frag msg hops : Nat) : Bytes :=
  let b2 (b : Bool) (i : Nat) : Nat := if b then 2 ^ i else 0
  let h := [1#8] ++ leBytes 1 (vc + b2 zyx 2 + b2 mcast 3 + b2 first 4 + b2 last 5) ++ leBytes 2 epoch ++ leBytes 4 dst
    ++ leBytes 4 src ++ leBytes 2 len ++ leBytes 1 kind ++ leBytes 1 frag ++ leBytes 4 msg ++ leBytes 1 hops ++ zeros 7
  h ++ leBytes 4 (crc32c h).toNat

/-- The packet with HOPS raised and HCRC recomputed (R261). -/
def hopPacket (p : Bytes) : Bytes :=
  let h := p.take 0x14 ++ leBytes 1 (pktHops p + 1) ++ (p.drop 0x15).take 7
  h ++ leBytes 4 (crc32c h).toNat ++ p.drop 32

/-- A route-fault notice with a reserved bit set (R7, R285). -/
def noticeBad (p : Bytes) : Bool := pktKind p = 4 && field (fld p 32 4) 21 11 ≠ 0

/-- R264. -/
def malformed (s : State) (p : Bytes) : Bool :=
  p.length < 32 || fld p 0x1C 4 ≠ (crc32c (p.take 0x1C)).toNat || byteAt p 0 ≠ 1 || field (byteAt p 1) 6 2 ≠ 0
    || fld p 4 4 / 2 ^ (if pktMcast p then 10 else 18) ≠ 0 || field (fld p 8 4) 18 14 ≠ 0 || pktKind p = 0 || 4 < pktKind p
    || !zeroAt p 0x15 7 || 4096 < pktLen p || (pktVc p = 0 && 224 < pktLen p) || 63 < pktHops p + 1
    || p.length ≠ 32 + pktLen p || noticeBad p || epochOld s (pktEpoch p)

/-- Credits a packet of n bytes takes (R267). -/
def creditsOf (n : Nat) : Nat := cdiv n 256

def vcKey (port xid vc : Nat) : Nat := (port * 4096 + xid) * 4 + vc

/-! ### Tag frames (R271, R294) -/

/-- A tag frame with its CRC-8. `relay` is bits 21:8. -/
def mkTag (kind xid vc rem flits epoch relay : Nat) : BitVec 64 :=
  let t := BitVec.ofNat 64 (kind * 2 ^ 60 + xid * 2 ^ 48 + vc * 2 ^ 46 + rem * 2 ^ 43 + flits * 2 ^ 38 + epoch * 2 ^ 22 + relay * 2 ^ 8)
  t ^^^ (tagCrc t).setWidth 64

/-- A relay frame: RTYPE and bits 18:8. -/
def relayTag (xid epoch rtype content : Nat) : BitVec 64 := mkTag 3 xid 0 0 0 epoch (rtype * 2 ^ 11 + content)

/-- The port that the crossbar pairs with a port while it is unpowered, in reset or without a plan (R257, R284). -/
def acrossPort (port : Nat) : Nat := (port + 6) % 12

/-- Optics are up: bring-up has passed step 10 (R298, R337). -/
def opticsUp (s : State) : Bool := s.power.phase = .bootWait || s.power.phase = .ready

/-- Light of a segment that comes in on a port passes straight on, unread: no plan is active, and it is express light or
the optics are down (R284, R294, R301). (DEDUCED, log 153.) -/
def straight (s : State) (xid : Nat) : Bool := s.fab.active.isNone && (decide (xid ≠ 0) || !opticsUp s)

def putWire (s : State) (w : Wire) : State := { s with links := { s.links with wire := s.links.wire ++ [w] } }

/-- Send a tag frame on a port; a port in OFF, or whose tag emitter failed, sends none (R298, R314). -/
def sendTag (s : State) (port : Nat) (t : BitVec 64) : State :=
  if (getLink s port).emitterFailed || (getLink s port).state = .off then s else
  putWire s (.tag port t)

def tagKind (t : BitVec 64) : Nat := field t.toNat 60 4

/-- A tag frame whose CRC-8 holds and whose reserved bits 21:8 are 0 (R7, R271). (DEDUCED, log 154.) -/
def tagOk (t : BitVec 64) : Bool := t.setWidth 8 = tagCrc t && (tagKind t = 3 || field t.toNat 8 14 = 0)
def tagXid (t : BitVec 64) : Nat := field t.toNat 48 12
def tagVc (t : BitVec 64) : Nat := field t.toNat 46 2
def tagRem (t : BitVec 64) : Nat := field t.toNat 43 3
def tagFlits (t : BitVec 64) : Nat := field t.toNat 38 5
def tagEpoch (t : BitVec 64) : Nat := field t.toNat 22 16
def tagRtype (t : BitVec 64) : Nat := field t.toNat 19 3
def tagContent (t : BitVec 64) : Nat := field t.toNat 8 11

/-- The busy frame of a refused payload, with the EPOCH of its packet (R271, R272). -/
def busyTag (xid vc epoch : Nat) : BitVec 64 := mkTag 2 xid vc 0 0 epoch 0

def getSwitch (s : State) (port : Nat) : Switch := tget .free s.fab.switches port
def setSwitch (s : State) (port : Nat) (x : Switch) : State := { s with fab := { s.fab with switches := tset .free port x s.fab.switches } }

/-- A reservation that has not begun is cancelled: its payload is absorbed and its launcher gets busy (R272). -/
def cancelReserved (s : State) (port : Nat) : State :=
  match getSwitch s port with
  | .reserved xid vc inp epoch => if vc = 0 then s else sendTag (discard (setSwitch s port .free) 2) inp (busyTag xid vc epoch)
  | _ => s

/-- A packet waits at a transmitter; a local VC0 packet cancels a lower reservation of its port (R272). -/
def enqueue (s : State) (port xid vc : Nat) (q : QPacket) : State :=
  let k := vcKey port xid vc
  let s1 := { s with fab := { s.fab with txq := tset [] k (tget [] s.fab.txq k ++ [q]) s.fab.txq } }
  if vc = 0 then cancelReserved s1 port else s1

/-- This module's coordinate in the active plan. -/
def myCoord (s : State) : Nat := match s.fab.active with
  | some img => planMyCoord img
  | none => 0x3FFFF

/-- The port's link or the express segment is down (R285, R304). -/
def segDown (s : State) (port xid : Nat) : Bool := (getSeg s { port, xid := 0 }).down || (getSeg s { port, xid }).down

/-- The order of packets to a destination on a VC: ORDERDEF, reversed by an order word and by a reversal in force
(R265). -/
def orderZyx (s : State) (img : Bytes) (dst vc : Nat) : Bool :=
  let w := (tableOf img (orderOff img) 4 (nOrder img)).any (fun x => field x 0 18 = dst && bit x (18 + vc))
  (bit (planOrderDef img) vc != w) != s.fab.reversals.contains (dst * 4 + vc)

/-- Record a pending reversal at the source, once for each pair between two commits, and raise FAB_ROUTE_FAULT (R285). -/
def routeFault (s : State) (dst vc : Nat) (zyx : Bool) : State :=
  let k := dst * 4 + vc
  let s1 := raiseMod s 0x0404 (leBytes 4 dst ++ leBytes 1 vc ++ leBytes 1 (if zyx then 1 else 0))
  if s1.fab.reversed.contains k then s1
  else { s1 with fab := { s1.fab with pendRev := s1.fab.pendRev ++ [k], reversed := s1.fab.reversed ++ [k] } }

/-- A packet of (src, dst, VC) met a lost link: the source gets one notice in an epoch, on VC3; this module's own
packets are noted directly (R285). -/
def lostNotice (s : State) (src dst vc : Nat) (zyx : Bool) : State :=
  if s.fab.notices.contains (src, dst, vc) then s
  else
    let s1 := { s with fab := { s.fab with notices := s.fab.notices ++ [(src, dst, vc)] } }
    if src = myCoord s then routeFault s1 dst vc zyx
    else
      let m : OutMsg := { vc := 3, kind := 4, mcast := false, dst := src
                          bytes := leBytes 4 (dst + vc * 2 ^ 18 + (if zyx then 2 ^ 20 else 0)) }
      { s1 with fab := { s1.fab with outbox := s1.fab.outbox ++ [m] } }

/-- Message payloads cut into packets of 4,096 bytes at most. -/
def cutPayload (b : Bytes) : List Bytes := if b.isEmpty then [[]] else groupsOf 4096 (b.length / 4096 + 1) b

/-- The packets of a message from this module. -/
def packetsOf (s : State) (m : OutMsg) (zyx : Bool) (msg : Nat) : List Bytes :=
  let ps := cutPayload m.bytes
  let n := ps.length
  (List.range n).map (fun i =>
    let b := ps.getD i []
    mkHeader m.vc zyx m.mcast (i = 0) (i + 1 = n) s.fab.epoch m.dst (myCoord s) b.length m.kind i msg 0 ++ b)

/-- Put one fragment to its message (R262). A message is discarded, and counted, once: a fragment of it is missing or
repeated, or a fragment of another message, discarded or not, comes between. (DEDUCED, log 160.) -/
def assemble (s : State) (p : Bytes) : State :=
  let dst := pktDst p + (if pktMcast p then 2 ^ 18 else 0)
  let msg := pktMsg p
  let same (r : Reasm) : Bool := r.src = pktSrc p && r.dst = dst && r.vc = pktVc p
  let r := (s.fab.reasm.find? same).getD { src := pktSrc p, dst, vc := pktVc p }
  let put (t : State) (x : Reasm) : State :=
    let l := t.fab.reasm.filter (fun y => !same y)
    { t with fab := { t.fab with reasm := if x.next = 0 && x.dead.isEmpty then l else l ++ [x] } }
  let idle (x : Reasm) : Reasm := { x with msg := 0, next := 0, bytes := [] }
  let bury (t : State) (x : Reasm) : State :=
    put (discard t 1) { idle x with dead := if pktLast p then x.dead else x.dead ++ [msg] }
  let take (t : State) (x : Reasm) (b : Bytes) : State :=
    if pktLast p then
      let t1 := put t (idle x)
      { t1 with fab := { t1.fab with delivered := t1.fab.delivered ++ [{ vc := pktVc p, kind := pktKind p, src := pktSrc p, bytes := b }] } }
    else put t { x with msg, next := x.next + 1, bytes := b }
  if r.dead.contains msg then
    let s1 := if r.next = 0 then s else discard s 1
    let r1 := if r.next = 0 then r else { idle r with dead := r.dead ++ [r.msg] }
    put s1 { r1 with dead := if pktLast p then r1.dead.filter (fun m => m ≠ msg) else r1.dead }
  else if r.next ≠ 0 && r.msg = msg then
    if pktFrag p = r.next % 256 && !pktFirst p then take s r (r.bytes ++ p.drop 32) else bury s r
  else
    let broken := decide (r.next ≠ 0)
    let s1 := if broken then discard s 1 else s
    let r1 := if broken then { idle r with dead := r.dead ++ [r.msg] } else r
    if pktFirst p && pktFrag p = 0 then take s1 r1 (p.drop 32) else bury s1 r1

/-- Send a unicast packet onward from an electronic point that it reached on axis `fromAx` (none at its source):
dropped at a fence or a lost link, else queued with the credits it needs (R266, R267, R280, R285). The second state
is reached where a lost link needs a route-fault notice. -/
inductive Onward where
  | here
  | sent (s : State)
  | dropped (s : State)
  | lost (s : State)

def onward (s : State) (img : Bytes) (p : Bytes) (fromAx : Option Nat) (via : Option SegId) (op : Option Nat) : Onward :=
  let here := planMyCoord img
  let dst := pktDst p
  match nextSeg img here dst (route img here dst (pktZyx p)) with
  | none => if here = dst then .here else .dropped (discard s 3)
  | some n =>
    if s.fab.fence.contains dst && walk img here n.hops = dst then .dropped (discard s 3)
    else if segDown s n.port n.xid then .lost (discard s 3)
    else
      let ax := roleAxis (n.hops.getLastD 0)
      .sent (enqueue s n.port n.xid (pktVc p) { bytes := p, need := if fromAx = some ax then 1 else 2, via, op })

/-- Ports on which a multicast packet goes on: a copy to a fenced neighbour or a lost link is dropped (R276, R279). -/
def mcastPorts (s : State) (img : Bytes) (id : Nat) : List Nat × List Nat :=
  let e := tget {} s.fab.mcast id
  let all := (List.range 12).filter (fun port => e.ports.getLsbD port)
  let drop (port : Nat) : Bool := s.fab.fence.contains (stepCoord img (planMyCoord img) (planRole img port)) || segDown s port 0
  (all.filter (fun p => !drop p), all.filter drop)

/-- Multicast copies of a packet to the ports of its entry. -/
def mcastOut (s : State) (img : Bytes) (p : Bytes) (fromAx : Option Nat) (via : Option SegId) (op : Option Nat) : State :=
  let (go, lost) := mcastPorts s img (pktDst p)
  let e := tget {} s.fab.mcast (pktDst p)
  let s1 := if e.ports = 0#12 && !e.loc then discard s 3 else lost.foldl (fun t _ => discard t 3) s
  go.foldl (fun t port => enqueue t port 0 (pktVc p)
    { bytes := p, need := if fromAx = some (roleAxis (planRole img port)) then 1 else 2, via := if go.head? = some port then via else none, ports := go, op }) s1

/-- Inject one message (R262, R266, R276). One for this module itself is delivered locally. A multicast has no
destination that an order word or a reversal names (R265). -/
def injectOne (s : State) (img : Bytes) (m : OutMsg) : State :=
  let zyx := if m.mcast then bit (planOrderDef img) m.vc else orderZyx s img m.dst m.vc
  let k := ((if m.mcast then 2 ^ 18 else 0) + m.dst) * 4 + m.vc
  let msg := tget 0 s.fab.msgCount k
  let s1 := { s with fab := { s.fab with msgCount := tset 0 k ((msg + 1) % 2 ^ 32) s.fab.msgCount } }
  (packetsOf s m zyx msg).foldl (fun t p =>
    if m.mcast then mcastOut t img p none none m.op
    else match onward t img p none none m.op with
      | .here => assemble t p
      | .sent t1 => t1
      | .dropped t1 => t1
      | .lost t1 => lostNotice t1 (myCoord t1) m.dst m.vc zyx) s1

/-- An epoch change holds injection (R279 steps 2 and 3). -/
def draining (s : State) : Bool := match s.fab.change with
  | some c => c.draining
  | none => false

/-- Inject every waiting message, unless no plan is active or an epoch change holds injection. -/
def inject (s : State) : State :=
  match s.fab.active with
  | none => s
  | some img =>
    if draining s then s
    else s.fab.outbox.foldl (fun t m => injectOne t img m) { s with fab := { s.fab with outbox := [] } }

/-- Send a message. -/
def sendMsg (s : State) (m : OutMsg) : State :=
  inject { s with fab := { s.fab with outbox := s.fab.outbox ++ [m] } }

end Sys2Proof.Machine
end

