-- ==== Sys2Proof/Machine/Flit.lean ====
section
/-! DEFINITION. Flits on a segment: control words, the slot code, transmission and replay (R290 to R297), and express
bursts (R271, R293). -/

namespace Sys2Proof.Machine

open Sys2Proof

/-! ### The slot of a flit (R290 to R292) -/

/-- CRC-32 of a flit: XID and SEQ enter the initial value (R292). -/
def flitCrc (xid seq hi : Nat) (body : Bytes) : Nat :=
  (crc32From (0xFFFFFFFF#32 ^^^ BitVec.ofNat 32 (xid * 2 ^ 16) ^^^ BitVec.ofNat 32 seq) (leBytes 4 hi ++ body)).toNat

/-- Control bits 63:32. -/
def flitHi (ftype vc poff seq : Nat) : Nat := ftype * 2 ^ 29 + vc * 2 ^ 27 + poff * 2 ^ 18 + seq * 2 ^ 7

/-- The 264 information bytes of a flit. -/
def flitInfo (xid ftype vc poff seq : Nat) (body : Bytes) : Bytes :=
  let hi := flitHi ftype vc poff seq
  leBytes 4 (flitCrc xid seq hi body) ++ leBytes 4 hi ++ body

/-- Bytes of even, and of odd, index. -/
def evens : Bytes → Bytes
  | [] => []
  | [a] => [a]
  | a :: _ :: t => a :: evens t

def odds : Bytes → Bytes
  | [] => []
  | [_] => []
  | _ :: b :: t => b :: odds t

/-- Bytes taken in turn from two lists, the first one first. -/
def weave2 : Bytes → Bytes → Bytes
  | [], ys => ys
  | a :: xs, [] => a :: xs
  | a :: xs, b :: ys => a :: b :: weave2 xs ys

/-- The 307 coded bytes of a slot (R290, R291). -/
def encodeSlot (info : Bytes) : Bytes :=
  let m0 := evens info
  let m1 := odds info
  weave2 (m0 ++ rsCheck 22 m0) (m1 ++ rsCheck 21 m1)

/-- Decode a slot: its 264 information bytes, or none where it is uncorrectable. -/
def decodeSlot (slot : Bytes) : Option Bytes :=
  if slot.length ≠ 307 then none
  else match rsDecode 22 (evens slot), rsDecode 21 (odds slot) with
    | some e0, some e1 =>
      let fix (w e : Bytes) : Bytes := (List.zipWith (· ^^^ ·) w e).take 132
      some (weave2 (fix (evens slot) e0) (fix (odds slot) e1))
    | _, _ => none

/-! ### Frames and symbols (R289, R290) -/

/-- The marker of a lane's frames: 0b10110 and the lane index (R290). -/
def laneMarker (w : Nat) : Byte := BitVec.ofNat 8 (0xB0 + w % 8)

/-- One bit of the scrambling sequence of x³¹ + x²⁸ + 1, and the register after it. (DESIGN CHOICE, log 155.) -/
def scrambleBit (r : BitVec 31) : Bool × BitVec 31 :=
  let b := r.getLsbD 30
  (b, (r <<< 1) ||| (if b != r.getLsbD 27 then 1#31 else 0#31))

/-- Eight bits of the sequence, least significant bit first. -/
def scrambleByte (r : BitVec 31) : Byte × BitVec 31 :=
  (List.range 8).foldl (fun t i =>
    let (b, r1) := scrambleBit t.2
    (t.1 ||| (if b then BitVec.ofNat 8 (2 ^ i) else 0#8), r1)) (0#8, r)

/-- Bytes scrambled, or descrambled, from a register. -/
def scramble : BitVec 31 → Bytes → Bytes
  | _, [] => []
  | r, b :: t =>
    let (k, r1) := scrambleByte r
    (b ^^^ k) :: scramble r1 t

/-- The register after n bytes of the sequence. -/
def scrambleSkip : Nat → BitVec 31 → BitVec 31
  | 0, r => r
  | n + 1, r => scrambleSkip n (scrambleByte r).2

/-- The register where slot j of a frame begins, at bit 8 + 2,456 · j: ones at bit 8 (R290). -/
def slotRegister (j : Nat) : BitVec 31 := scrambleSkip (307 * j) (BitVec.allOnes 31)

/-- The level of a quadrature: two bits by the Gray code in DP-16QAM, one bit in DP-QPSK (R289). -/
def quadLevel : List Bool → Int
  | [false, false] => -3
  | [false, true] => -1
  | [true, true] => 1
  | [true, false] => 3
  | [false] => -1
  | _ => 1

/-- The bits of a level: of the nearest one that the mode has. -/
def levelBits (mode : Nat) (l : Int) : List Bool :=
  if mode = 1 then [decide (0 < l)]
  else if l < -2 then [false, false] else if l < 0 then [false, true] else if l < 2 then [true, true] else [true, false]

/-- Bytes of a frame as symbols in a mode, each byte least significant bit first (R289, R290). -/
def frameSymbols (mode : Nat) (frame : Bytes) : List (List Int) :=
  frame.flatMap (fun b =>
    (List.range (2 / mode)).map (fun h => (List.range 4).map (fun q =>
      quadLevel ((List.range mode).map (fun i => b.getLsbD (4 * h + mode * q + i))))))

/-- The byte of eight bits, the least significant one first. -/
def bitsByte (l : List Bool) : Byte := BitVec.ofNat 8 (l.foldr (fun b v => 2 * v + (if b then 1 else 0)) 0)

/-- The bytes that symbols spell. -/
def symbolBytes (x : Light) : Bytes :=
  (groupsOf (2 / x.mode) (x.symbols.length / (2 / x.mode)) x.symbols).map (fun g => bitsByte (g.flatMap (fun y => y.flatMap (levelBits x.mode))))

/-- The light of slot `index` of a frame of lane w: the coded slot scrambled, the marker before slot 0 not (R290). -/
def slotLight (mode w index : Nat) (slot : Bytes) : Light :=
  { mode, symbols := frameSymbols mode ((if index = 0 then [laneMarker w] else []) ++ scramble (slotRegister index) slot) }

/-- The coded slot that the light of slot `index` carries. -/
def lightSlot (index : Nat) (x : Light) : Bytes :=
  scramble (slotRegister index) (if index = 0 then (symbolBytes x).drop 1 else symbolBytes x)

/-! ### Lanes and bursts -/

/-- The segment's lane set (R305). -/
def laneSet (s : State) (g : SegId) : List Nat := txLanes s g ((getSeg s g).mask16 ||| (getSeg s g).maskQ)

/-- The lane of a flit: lanes of the set in turn. -/
def pickLane (s : State) (g : SegId) (n : Nat) : Nat :=
  let l := laneSet s g
  l.getD (n % l.length) 0

/-- The launch entry of a segment launched here. -/
def launchOf (s : State) (epoch : Nat) (g : SegId) : Option Launch :=
  match bankFor s epoch with
  | some img => (launches img).find? (fun e => e.xid = g.xid && e.port = g.port && decide (2 ≤ e.hlen))
  | none => none

/-- The mode of a lane by the masks last reported. -/
def txMode (x : Seg) (w : Nat) : Nat := if x.mask16.getLsbD w then 2 else if x.maskQ.getLsbD w then 1 else 0

/-- A flit in the next slot of a lane's frame, in the lane's mode; a lane without one, as lane 0 in PROBE, is in DP-QPSK
(R290, R295, R298). (DESIGN CHOICE, log 155.) -/
def putFlit (s : State) (g : SegId) (lane : Nat) (info : Bytes) : State :=
  let k := g.port * 8 + lane
  let j := tget 0 s.links.frames k
  putWire { s with links := { s.links with frames := tset 0 k ((j + 1) % 5) s.links.frames } }
    (.flit g.port g.xid lane j (slotLight (max 1 (txMode (getSeg s g) lane)) lane j (encodeSlot info)))

/-- A chunk of these operations leaves on a segment: below full rate their collectives note it (R306). -/
def noteSlow (s : State) (g : SegId) (ops : List Nat) : State :=
  if segFullTx s g then s
  else { s with pl := { s.pl with ctxs := s.pl.ctxs.map (fun x => if ops.contains x.op then { x with degraded := true } else x) } }

/-- A data flit of the segment on its lane. -/
def wireFlit (s : State) (g : SegId) (k : KeptFlit) : State :=
  putFlit (noteSlow s g k.ops) g k.lane (flitInfo g.xid 1 k.vc k.poff k.seq k.body)

/-- Runs of flits of one VC and one epoch. -/
def flitRuns : List KeptFlit → List (List KeptFlit)
  | [] => []
  | k :: t => match flitRuns t with
    | (a :: b) :: l => if k.vc = a.vc && k.epoch = a.epoch then (k :: a :: b) :: l else [k] :: (a :: b) :: l
    | l => [k] :: l

/-- The launcher can send on a segment: the port is UP, express light neither has it reserved nor passes, and the
segment's lane set has held MIN_WL lanes since it came up (R272, R298, R300, R304). -/
def portSends (s : State) (g : SegId) : Bool :=
  decide ((getLink s g.port).state = .up) && decide (getSwitch s g.port = .free) && (getSeg s g).ready && !(laneSet s g).isEmpty

/-- Put flits on the wire. On an express segment they travel in bursts of at most 16 behind an announce of their VC and
EPOCH and are followed by END (R271, R293). -/
def sendBursts (s : State) (g : SegId) (ks : List KeptFlit) : State :=
  if g.xid = 0 then ks.foldl (fun t k => wireFlit t g k) s
  else
    ((flitRuns ks).flatMap (fun r => groupsOf 16 (r.length / 16 + 1) r)).foldl (fun t b => match b with
      | [] => t
      | k :: _ =>
        let rem := match launchOf s k.epoch g with
          | some e => e.hlen - 1
          | none => 0
        let t1 := sendTag t g.port (mkTag 1 g.xid k.vc rem b.length k.epoch 0)
        sendTag (b.foldl (fun u x => wireFlit u g x) t1) g.port (relayTag g.xid s.fab.epoch 3 0)) s

/-! ### What can start on a port (R267, R268, R272) -/

/-- Segments launched on a port. -/
def portSegs (s : State) (port : Nat) : List SegId :=
  { port, xid := 0 } :: (s.links.segs.filter (fun e => e.1 / 4096 = port && e.1 % 4096 ≠ 0)).map (fun e => ⟨port, e.1 % 4096⟩)

/-- Unacknowledged flits of a port (R297). -/
def portKept (s : State) (port : Nat) : Nat :=
  ((s.links.segs.filter (fun e => e.1 / 4096 = port)).map (fun e => e.2.kept.length)).sum

/-- The segment and its port have room for n more unacknowledged flits (R295, R297). -/
def roomFor (s : State) (g : SegId) (n : Nat) : Bool :=
  decide ((getSeg s g).kept.length + n ≤ 1023) && decide (portKept s g.port + n ≤ 2048)

/-- Credits of a VC's buffer. -/
def vcCredits (vc : Nat) : Nat := [8, 1024, 768, 64].getD vc 0

def hasCredits (s : State) (k : Nat) (q : QPacket) : Bool :=
  decide (tget 0 s.fab.spent k + q.need * creditsOf q.bytes.length ≤ vcCredits (k % 4))

/-- The head of a segment's queue can start: the launcher can send, the segment is up, has room and credits, none of the
VC's payloads was refused, and the other copies of a multicast have credits. -/
def headReady (s : State) (g : SegId) (vc : Nat) : Option QPacket :=
  let k := vcKey g.port g.xid vc
  match tget [] s.fab.txq k with
  | [] => none
  | q :: _ =>
    let copies := q.ports.all (fun port =>
      let kp := vcKey port 0 vc
      match (tget [] s.fab.txq kp).find? (fun x => x.bytes = q.bytes) with
      | some x => hasCredits s kp x
      | none => true)
    if portSends s g && !segDown s g.port g.xid && !s.fab.busy.contains k && hasCredits s k q
        && roomFor s g (q.bytes.length / 256 + 2) && copies then some q else none

/-- A VC0 packet of the port can start (R268, R272). -/
def vc0Ready (s : State) (port : Nat) : Bool := (portSegs s port).any (fun g => (headReady s g 0).isSome)

/-- Flits of a VC may leave on a port now: VC0 has strict priority (R268). -/
def vcMay (s : State) (port vc : Nat) : Bool := vc = 0 || !vc0Ready s port

/-- Send flits of a segment, or keep them due until the port can (R272) and no VC0 packet is ahead of them (R268). -/
def sendFlits (s : State) (g : SegId) (ks : List KeptFlit) : State :=
  let now := if portSends s g then ks.filter (fun k => vcMay s g.port k.vc) else []
  let later := (ks.filter (fun k => !now.contains k)).map (·.seq)
  sendBursts (if later.isEmpty then s else updSeg s g (fun x => { x with due := x.due ++ later.filter (fun q => !x.due.contains q) })) g now

/-- A flit on one of the lanes that remain; its replays are counted anew (R304, R314). -/
def relane (s : State) (g : SegId) (k : KeptFlit) : KeptFlit :=
  if (laneSet s g).contains k.lane then k else { k with lane := pickLane s g k.seq, replays := 0 }

/-- Send what is due on a segment and may leave now. -/
def sendDueFlits (s : State) (g : SegId) : State :=
  let x := getSeg s g
  if x.due.isEmpty || !portSends s g then s
  else
    let ks := x.kept.map (fun k => if x.due.contains k.seq then relane s g k else k)
    let now := ks.filter (fun k => x.due.contains k.seq && vcMay s g.port k.vc)
    sendBursts (setSeg s g { x with kept := ks, due := x.due.filter (fun q => !now.any (fun k => k.seq = q)) }) g now

/-! ### A packet into flits (R292) -/

/-- Bodies of 256 bytes with the place of the first header that starts in each; what is left. -/
def cutBodies : Nat → Bytes → List Nat → List (Bytes × Nat) × Tail
  | 0, b, starts => ([], { bytes := b, poff := starts.headD 256 })
  | n + 1, b, starts =>
    if b.length < 256 then ([], { bytes := b, poff := starts.headD 256 })
    else
      let rest := (starts.filter (fun x => 256 ≤ x)).map (fun x => x - 256)
      let (l, t) := cutBodies n (b.drop 256) rest
      ((b.take 256, min 256 (starts.headD 256)) :: l, t)

/-- Flits of a packet appended to its VC's stream; `flush` fills the last body with zeros (DESIGN CHOICE, log 60). Each
flit names the collectives' operations whose bytes it holds. -/
def packetFlits (t : Tail) (p : Bytes) (ops : List Nat) (flush : Bool) : List (Bytes × Nat × List Nat) × Tail :=
  let b := t.bytes ++ p
  let starts := (if t.poff < 256 then [t.poff] else []) ++ [t.bytes.length]
  let (l, r) := cutBodies (b.length / 256 + 1) b starts
  let all := if flush && !r.bytes.isEmpty then l ++ [(padTo 256 r.bytes, min 256 r.poff)] else l
  let named := (List.range all.length).map (fun i =>
    let x := all.getD i ([], 256)
    (x.1, x.2, if i = 0 then t.ops ++ ops else ops))
  (named, if flush || r.bytes.isEmpty then {} else { r with ops := if all.isEmpty then t.ops ++ ops else ops })

/-- Give flits their SEQ and lane and keep them until acknowledged (R295, R297). -/
def keepFlits (s : State) (g : SegId) (vc epoch : Nat) : List (Bytes × Nat × List Nat) → State × List KeptFlit
  | [] => (s, [])
  | (b, poff, ops) :: t =>
    let x := getSeg s g
    let k : KeptFlit := { seq := x.nextSeq, lane := pickLane s g x.nextSeq, vc, body := b, poff, epoch, ops }
    let (s1, ks) := keepFlits (setSeg s g { x with nextSeq := (x.nextSeq + 1) % 2048, kept := x.kept ++ [k] }) g vc epoch t
    (s1, k :: ks)

/-- Send at most n flits of the packet under way on a segment's VC; the others stay behind a VC0 packet (R268). -/
def sendCut (s : State) (g : SegId) (vc n : Nat) : State :=
  let k := vcKey g.port g.xid vc
  let c := tget {} s.fab.cut k
  let later := c.flits.drop n
  let c1 : CutPacket := if later.isEmpty then {} else { c with flits := later }
  let (s1, ks) := keepFlits { s with fab := { s.fab with cut := tset {} k c1 s.fab.cut } } g vc c.epoch (c.flits.take n)
  sendFlits s1 g ks

/-- Launch one packet on a segment: its first n flits, at least one. -/
def launchPacket (s : State) (g : SegId) (vc : Nat) (q : QPacket) (flush : Bool) (n : Nat) : State :=
  let p := q.bytes
  let (flits, t) := packetFlits (tget {} (getSeg s g).tail vc) p q.op.toList flush
  let s1 := updSeg s g (fun x => { x with tail := tset {} vc t x.tail })
  sendCut { s1 with fab := { s1.fab with cut := tset {} (vcKey g.port g.xid vc) { epoch := pktEpoch p, flits } s1.fab.cut } } g vc (max 1 n)

/-! ### Replays (R296, R304) -/

/-- The segment's flits on a lane are sent again on the lanes that remain; such a send is no replay (R304 step 2,
R314). -/
def moveFlits (s : State) (g : SegId) (lane : Nat) : State :=
  let x := getSeg s g
  let hit := (x.kept.filter (fun k => k.lane = lane)).map (fun k => { relane s g k with replays := 0 })
  sendFlits (setSeg s g { x with kept := x.kept.map (fun k => if k.lane = lane then { relane s g k with replays := 0 } else k) }) g hit

/-- Send what is due on every segment of a port. -/
def sendDuePort (s : State) (port : Nat) : State := (portSegs s port).foldl sendDueFlits s

end Sys2Proof.Machine
end

