-- ==== Sys2Proof/Machine/Ports.lean ====
section
/-! DEFINITION. Port states (R298 to R301), lane drops and segments going down (R304), and the light of the laser bank
(R309 to R312). -/

namespace Sys2Proof.Machine

open Sys2Proof

/-! ### Lanes reported by a terminator (R294, R302) -/

/-- The lanes in a mode on a segment that ends here, of those the port can use. -/
def rxMask (s : State) (g : SegId) (mode : Nat) : Nat :=
  sumN 8 (fun w => if (getLane s (rxLane g) w).mode = mode && laneUsable s g.port w then 2 ^ w else 0)

/-- Report a segment's lanes to its launcher: both sets (R294, R302, R304). A lane in both runs DP-16QAM (R305), so the
set that a lane joins goes first: 0 (DP-16QAM), or 1 where a lane goes down to DP-QPSK. -/
def sendLanes (s : State) (first : Nat) (g : SegId) : State :=
  let f (set : Nat) : BitVec 64 := relayTag g.xid s.fab.epoch 5 (set * 2 ^ 10 + rxMask s g (2 - set))
  sendTag (sendTag s g.port (f first)) g.port (f (1 - first))

/-- Express segments of the active plan that end at a port. -/
def endSegs (s : State) (port : Nat) : List SegId :=
  match s.fab.active with
  | some img => ((expresses img).filter (fun e => e.inp = port && e.out = 15)).map (fun e => ⟨port, e.xid⟩)
  | none => []

/-- Change a lane of a port on its neighbour link; on the express segments that end at the port the lane takes the same
mode and counts. -/
def updPortLane (s : State) (port w : Nat) (f : Lane → Lane) : State :=
  (endSegs s port).foldl (fun t g => updLane t (rxLane g) w (fun l =>
    { l with mode := (f l).mode, up16 := (f l).up16, upQ := (f l).upQ, down := (f l).down })) (updLane s port w f)

/-! ### Port states -/

/-- The plan that classes the ports: the active one, or the staged one where none is active. -/
def trainPlan (s : State) : Option Bytes := s.fab.active.or s.fab.staged

/-- The port's neighbour agrees with the active or the staged plan (R283, DEDUCED, log 62). -/
def portAgreed (s : State) (port : Nat) : Bool :=
  let ok (b : Option Bytes) : Bool := match b with
    | some img => planRole img port ≠ 7 && nbrAgrees img port (tget {} s.fab.nbrs port)
    | none => false
  ok s.fab.active || ok s.fab.staged

/-- Express light through a port ends: a payload bound for it is absorbed and counted (R293, R314); one that came in on
it is gone. -/
def cutExpress (s : State) (port : Nat) : State :=
  let s1 := match getSwitch s port with
    | .free => s
    | _ => discard (setSwitch s port .free) 2
  let s2 := forN 12 (fun p t =>
    let from_ (i : Nat) : State := if i = port then setSwitch t p .free else t
    match getSwitch t p with
    | .free => t
    | .reserved _ _ i _ => from_ i
    | .carrying _ _ i _ => from_ i) s1
  { s2 with fab := { s2.fab with incoming := s2.fab.incoming.filter (fun e => e.1 / 4096 ≠ port) } }

/-- A port at Class 1 power again: PROBE, its lanes and their reports gone, also those of the express segments that end
at it (R298, R301). A port that was UP has lost its link: its neighbour link is down. -/
def toProbe (s : State) (port : Nat) : State :=
  let up := (getLink s port).state = .up
  let s1 := updLink (cutExpress s port) port (fun x => { x with state := .probe, locked := 0#8 })
  let s2 := forN 8 (fun w t => updPortLane t port w (fun l => { l with mode := 0, up16 := 0, upQ := 0, down := 0 })) s1
  (endSegs s2 port).foldl (fun t g => sendLanes t 0 g) ((portSegs s2 port).foldl (fun t g => updSeg t g (fun x =>
    { x with mask16 := 0#8, maskQ := 0#8, out := 0#8, ready := false, down := x.down || (up && g.xid = 0) })) s2)

/-- PROBE is left once the loop is closed, the versions agree and the port is agreed (R298). Lanes kept off by a second
wrong lock may be used again (R308). (DEDUCED, log 97.) -/
def tryRamp (s : State) (port : Nat) : State :=
  let x := getLink s port
  if x.state = .probe && x.loop && x.verOk && portAgreed s port then
    forN 8 (fun w t => updLane t port w (fun l => { l with keptOff := false }))
      (updLink s port (fun x => { x with state := .ramp, locked := 0#8 }))
  else s

/-- A port whose neighbour has stopped agreeing returns to PROBE; one whose neighbour agrees may leave it (R298). -/
def judgePort (s : State) (port : Nat) : State :=
  if portAgreed s port then tryRamp s port
  else match (getLink s port).state with
    | .off => s
    | .probe => s
    | _ => toProbe s port

/-- A port leaves OFF while a plan gives it a used role or no plan is held, and returns to OFF where its role becomes
unused (R298). -/
def settlePort (port : Nat) (s : State) : State :=
  let used := match s.fab.active, s.fab.staged with
    | none, none => true
    | a, b => roleUsed a port || roleUsed b port
  let st := (getLink s port).state
  if used then (if st = .off then updLink s port (fun x => { x with state := .probe }) else judgePort s port)
  else if st = .off then s
  else updLink (toProbe s port) port (fun x => { x with state := .off, loop := false, heard := false })

def settlePorts (s : State) : State := forN 12 settlePort s

/-- The loop opens: OPT_OPEN_FIBRE, Class 1 power and PROBE (R301). -/
def openLoop (s : State) (port : Nat) : State :=
  if !(getLink s port).loop then s
  else toProbe (updLink (raiseMod s 0x0301 (leBytes 1 port)) port (fun x => { x with loop := false })) port

/-- A valid tag frame is heard (R301). -/
def hear (s : State) (port : Nat) (t : BitVec 64) : State :=
  if tagOk t && (getLink s port).state ≠ .off then updLink s port (fun x => { x with heard := true }) else s

/-- A tag frame comes in on a port: it passes straight on, unread, or it is heard and read (R284, R294). -/
def onTag (s : State) (port : Nat) (tag : BitVec 64) (read : State → State) : Out :=
  .next (if straight s (tagXid tag) then putWire s (.tag (acrossPort port) tag) else read (hear s port tag))

/-- A port's tag emitter has failed: its loop opens, it stays in PROBE, and its link is down (R314). -/
def emitterFails (s : State) (port : Nat) : State :=
  let s1 := openLoop (updLink s port (fun x => { x with emitterFailed := true })) port
  let s2 := match (getLink s1 port).state with
    | .off => s1
    | .probe => s1
    | _ => toProbe s1 port
  updSeg (raiseMod s2 0x0202 (leBytes 1 port ++ leBytes 2 0)) ⟨port, 0⟩ (fun x => { x with down := true })

/-! ### Topology (R283) -/

/-- AGREED of every port follows the active plan (R283). -/
def judgeNbrs (s : State) : State :=
  forN 12 (fun p t =>
    let n := tget {} t.fab.nbrs p
    let ok := match t.fab.active with
      | some img => planRole img p ≠ 7 && nbrAgrees img p n
      | none => false
    { t with fab := { t.fab with nbrs := tset {} p { n with agreed := ok } t.fab.nbrs } }) s

/-- Set and clear MISSING and EXTRA of a port. -/
def markPort (s : State) (port : Nat) (missing extra : Bool) : State :=
  let m := BitVec.ofNat 12 (2 ^ port)
  let put (b : Bool) (v : BitVec 12) : BitVec 12 := if b then v ||| m else v &&& ~~~m
  { s with fab := { s.fab with missing := put missing s.fab.missing, extra := put extra s.fab.extra } }

/-- Class a port and report a change (R283, R356). -/
def classPort (s : State) (port : Nat) : State :=
  let n := tget {} s.fab.nbrs port
  let m := BitVec.ofNat 12 (2 ^ port)
  match trainPlan s with
  | none => markPort s port false false
  | some img =>
    if planRole img port = 7 then
      markPort (if n.seen && s.fab.extra &&& m = 0#12 then raiseMod s 0x0402 (leBytes 1 port ++ leBytes 4 n.coord) else s) port false n.seen
    else
      let bad := !nbrAgrees img port n
      let tol := if tolerated img port then 1 else 0
      markPort (if bad && s.fab.missing &&& m = 0#12 then
        raiseMod s 0x0401 (leBytes 1 port ++ leBytes 1 tol ++ leBytes 4 (expectedCoord img port)) else s) port bad false

/-- Class a port anew for a plan. A used port without a record is missing no sooner than the record is overdue
(R283: 1 s). (DEDUCED, log 156.) -/
def reclassPort (port : Nat) (s : State) : State :=
  if (tget {} s.fab.nbrs port).seen || !roleUsed (trainPlan s) port then classPort s port
  else markPort s port (s.fab.missing.getLsbD port) false

/-- A plan was staged or has become active: AGREED, the classes of the ports and their states follow it. -/
def newPlan (s : State) : State := settlePorts (forN 12 reclassPort (judgeNbrs s))

/-! ### Lanes of segments (R303 to R305) -/

/-- A segment is down: HX_LINK_DOWN; for a neighbour link its port returns to PROBE (R304). (DEDUCED, log 98.) -/
def segGoesDown (s : State) (g : SegId) : State :=
  let s1 := updSeg (raiseMod s 0x0202 (leBytes 1 g.port ++ leBytes 2 g.xid)) g (fun x => { x with down := true, ready := false })
  if g.xid = 0 then toProbe s1 g.port else s1

/-- After a lane change: a segment that ran and falls below MIN_WL goes down; one whose lane set holds MIN_WL lanes comes
up (R298, R304). Flits due go out. -/
def checkLanes (s : State) (g : SegId) : State :=
  let x := getSeg s g
  if (getLink s g.port).state ≠ .up then s
  else if (laneSet s g).length < s.links.minWl then
    if !x.down && x.ready then segGoesDown s g else s
  else sendDueFlits (updSeg s g (fun y => { y with ready := true, down := false })) g

/-- HX_LANE_DROP. -/
def laneDropEvent (s : State) (g : SegId) (lane mode : Nat) : State :=
  raiseMod s 0x0203 (leBytes 1 g.port ++ leBytes 2 g.xid ++ leBytes 1 lane ++ leBytes 1 mode)

/-- The launcher takes a lane out of a segment and moves its flits (R304). (DEDUCED, log 96.) -/
def dropLane (s : State) (g : SegId) (lane : Nat) : State :=
  if !(laneSet s g).contains lane then s
  else
    let s1 := updSeg (laneDropEvent s g lane 0) g (fun x => { x with out := x.out ||| BitVec.ofNat 8 (2 ^ lane) })
    checkLanes (moveFlits s1 g lane) g

/-- A drain, re-sweep or retirement takes a lane out of every segment that the port launches or terminates (R305). -/
def dropPortLane (s : State) (port lane : Nat) (mark : Lane → Lane) : State :=
  let s1 := (portSegs s port).foldl (fun t g => dropLane t g lane) s
  let s2 := updPortLane s1 port lane mark
  ((⟨port, 0⟩ : SegId) :: endSegs s2 port).foldl (fun t g => sendLanes t 0 g) s2

/-- A lane is back in the segments launched on a port. -/
def returnPortLane (s : State) (port lane : Nat) : State :=
  (portSegs s port).foldl (fun t g =>
    checkLanes (updSeg t g (fun x => { x with out := x.out &&& ~~~(BitVec.ofNat 8 (2 ^ lane)) })) g) s

/-! ### The laser bank -/

/-- Ports of a laser group: 0 to 5 for A, 6 to 11 for B (R309). -/
def groupPorts (grp : Nat) : List Nat := (List.range 6).map (· + 6 * grp)

/-- The three lasers of a wavelength. -/
def wavelengthLasers (w : Nat) : List Nat := [3 * w, 3 * w + 1, 3 * w + 2]

/-- The wavelength's spare, if it is free: not in use for another changeover. -/
def freeSpare (s : State) (w : Nat) : Option Nat :=
  let busy := (wavelengthLasers w).any (fun i => match (getLaser s i).change with
    | .none => false
    | .undecided => false
    | _ => true)
  if busy then none else (wavelengthLasers w).find? (fun i => (getLaser s i).role = 2)

/-- The lanes of a wavelength drain on a group's six ports, in both directions (R310 step 3). -/
def drainGroup (s : State) (w grp : Nat) : State :=
  (groupPorts grp).foldl (fun t p => dropPortLane t p w (fun l => { l with drained := true, up16 := 0, upQ := 0, down := 0 })) s

/-- A record for the configuration flash (R312). -/
def queueRecord (s : State) (r : RepairRec) : State :=
  { s with dram := { s.dram with pendingRecs := s.dram.pendingRecs ++ [r] } }

/-- A record replaces an earlier one of its name. -/
def sameRecord (a b : RepairRec) : Bool :=
  match a, b with
  | .coreMap _, .coreMap _ => true
  | .lateFailure x _, .lateFailure y _ => x = y
  | .laserRole x _, .laserRole y _ => x = y
  | .bootPlan _ _, .bootPlan _ _ => true
  | .alertMask _, .alertMask _ => true
  | _, _ => decide (a = b)

/-- What a record changes in the tables that the flash holds. -/
def applyRecord (s : State) (r : RepairRec) : State :=
  match r with
  | .coreMap m => { s with cores := { s.cores with recorded := some m } }
  | .lateFailure x n => { s with cores := { s.cores with late := tset 0 x n s.cores.late } }
  | .laserRole i role => { s with links := { s.links with flashRoles := tset (i % 3) i role s.links.flashRoles } }
  | .wavelengthRetired w g =>
    if s.links.flashRetired.contains (w, g) then s else { s with links := { s.links with flashRetired := s.links.flashRetired ++ [(w, g)] } }
  | .bootPlan image wait => { s with fab := { s.fab with bootPlan := image, bootWait := wait } }
  | .alertMask mask => { s with dbx := { s.dbx with alertMask := mask } }
  | _ => s

/-- A record as numbers, kind first. The spec gives no layout (DESIGN CHOICE, log 177). -/
def mapNats (m : Tbl (Option Nat)) : List Nat := m.flatMap (fun e => [e.1, e.2.getD 0x3FF])
def recNats (r : RepairRec) : List Nat :=
  match r with
  | .rowRemap a b c d e => [1, a, b, c, d, e]
  | .retired a b c => [2, a, b, c]
  | .channelFailed a => [3, a]
  | .physFailed a => [4, a]
  | .laserRole a b => [5, a, b]
  | .wavelengthRetired a b => [6, a, b]
  | .lateFailure a b => [7, a, b]
  | .coreMap m => 8 :: mapNats m
  | .bootPlan image wait => 9 :: wait :: (image.getD []).map (fun b => b.toNat)
  | .alertMask mask => [10, mask.toNat]

/-- The CRC-32C that a record carries (R358). -/
def recCrc (r : RepairRec) : Word32 := crc32c ((recNats r).flatMap (leBytes 8))

/-- A record is written to the configuration flash; the copy it replaces stays as its previous copy (R358). -/
def storeRecord (s : State) (r : RepairRec) : State :=
  let old := s.dbx.flashRecs.find? (fun x => sameRecord x.rcd r)
  let x : FlashRec := { rcd := r, crc := recCrc r, prev := old.map (fun o => (o.rcd, o.crc)) }
  applyRecord { s with dbx := { s.dbx with flashRecs := s.dbx.flashRecs.filter (fun y => !sameRecord y.rcd r) ++ [x] } } r

/-- What the Drabex reads of a stored record at step 4: the record, or its previous copy where its check fails, or nothing
where that copy fails too or was never written (R358). -/
def readableRec (x : FlashRec) : Option FlashRec :=
  if x.crc = recCrc x.rcd then some x
  else match x.prev with
    | some (r, c) => if c = recCrc r then some { rcd := r, crc := c, prev := none } else none
    | none => none

/-- Step 4 with records that no longer read as they were written, by their place in the flash: a record whose check fails is
ignored and its previous copy used (R337, R358). -/
def readFlash (s : State) (upsets : List Nat) : State :=
  if upsets.isEmpty then s
  else
    let hit (i : Nat) (x : FlashRec) : FlashRec := if upsets.contains i then { x with crc := x.crc ^^^ 1#32 } else x
    let recs := ((List.range s.dbx.flashRecs.length).zip s.dbx.flashRecs).filterMap (fun e => readableRec (hit e.1 e.2))
    let s1 := { s with
      dbx := { s.dbx with flashRecs := recs, alertMask := 0x1FF#16 }
      cores := { s.cores with recorded := none, late := [] }
      fab := { s.fab with bootPlan := none, bootWait := 60 }
      links := { s.links with flashRoles := [], flashRetired := [] } }
    recs.foldl (fun t x => applyRecord t x.rcd) s1

/-- The map last recorded or due to be, and a core's late failures: a binding stands once it is made (R348, R350). -/
def knownMap (s : State) : Option (Tbl (Option Nat)) :=
  s.dram.pendingRecs.foldl (fun m r => match r with
    | .coreMap x => some x
    | _ => m) s.cores.recorded
def lateCount (s : State) (phys : Nat) : Nat :=
  s.dram.pendingRecs.foldl (fun n r => match r with
    | .lateFailure x k => if x = phys then k else n
    | _ => n) (tget 0 s.cores.late phys)

/-- Without a working spare the laser is turned off and its wavelength retired on the group's ports (R311, R312). -/
def retireWavelength (s : State) (laser grp : Nat) : State :=
  let w := laser / 3
  let s1 := updLaser s laser (fun x => { x with role := 3, lit := false, locked := false, change := .none })
  let s2 := (groupPorts grp).foldl (fun t p => dropPortLane t p w (fun l => { l with retired := true, drained := false, mode := 0 })) s1
  queueRecord (queueRecord (raiseMod s2 0x0305 (leBytes 1 w ++ leBytes 1 grp)) (.wavelengthRetired w grp)) (.laserRole laser 3)

end Sys2Proof.Machine
end

