-- ==== Sys2Proof/Machine/Boot.lean ====
section
/-! DEFINITION. The plan check (R254 to R260), and the end of the power-on sequence: the boot plan and Ready (R337 steps
12 and 13, R343). -/

namespace Sys2Proof.Machine

open Sys2Proof

/-! ### Checking a plan image (R259) -/

/-- A fault of a plan image: offset of the field and reason. -/
abbrev PlanChk := List (Nat × Nat)

def faultIf (b : Bool) (off reason : Nat) : PlanChk := if b then [(off, reason)] else []

def planPort (img : Bytes) (p : Nat) : Bool := decide (p < 12) && planRole img p ≠ 7

/-- Role codes of the hops with repetitions in a row taken once. -/
def runsOf : List Nat → List Nat
  | [] => []
  | a :: t => match runsOf t with
    | [] => [a]
    | b :: l => if a = b then b :: l else a :: b :: l

def strictly (lt : Nat → Nat → Bool) : List Nat → Bool
  | [] => true
  | [_] => true
  | a :: b :: t => lt a b && strictly lt (b :: t)

/-- The hops form a path that is a prefix of a route (R259 reason 0x05). -/
def hopsOk (img : Bytes) (hops : List Nat) : Bool :=
  let axes := (runsOf hops).map roleAxis
  hops.all (fun r => decide (r < 6) && spanned img (roleAxis r) && decide (hops.count r ≤ planLen img (roleAxis r) / 2))
    && (strictly (fun a b => decide (a < b)) axes || strictly (fun a b => decide (b < a)) axes)

def launchFaults (img : Bytes) (i : Nat) : PlanChk :=
  let off := 64 + 8 * i
  let v := fld img off 8
  let e := parseLaunch v
  let tailOk := allN 5 (fun j => decide (j < e.hlen) || field v (30 + 3 * j) 3 = 7)
  faultIf (field v 0 30 ≠ 0) off 2
    ++ faultIf (e.hlen = 0 || 5 < e.hlen || !tailOk || !hopsOk img e.hops || 11 < e.port || planRole img e.port ≠ e.hops.headD 7
        || decide ((e.hlen = 1) ≠ (e.xid = 0)) || ((launches img).take i).any (fun o => o.hops = e.hops)) off 5

def expressFaults (img : Bytes) (i : Nat) : PlanChk :=
  let off := expressOff img + 8 * i
  let v := fld img off 8
  let e := parseExpress v
  faultIf (field v 0 44 ≠ 0) off 2
    ++ faultIf (e.xid = 0 || !planPort img e.inp || !(e.out = 15 || planPort img e.out) || e.out = e.inp
        || ((expresses img).take i).any (fun o => o.xid = e.xid && o.inp = e.inp)) off 6

def absentFaults (img : Bytes) (i : Nat) : PlanChk :=
  let off := absentOff img + 4 * i
  let v := fld img off 4
  faultIf (field v 18 14 ≠ 0) off 2 ++ faultIf (!inBlock img (field v 0 18) || field v 0 18 = planMyCoord img) off 7

def orderFaults (img : Bytes) (i : Nat) : PlanChk :=
  let off := orderOff img + 4 * i
  let v := fld img off 4
  faultIf (field v 22 10 ≠ 0) off 2
    ++ faultIf (!inBlock img (field v 0 18) || ((tableOf img (orderOff img) 4 (nOrder img)).take i).any (fun x => field x 0 18 = field v 0 18)) off 8

/-- Faults of the header, in order of offset. (DEDUCED, log 90.) -/
def headerFaults (img : Bytes) (len : Nat) : PlanChk :=
  let size := 64 + 8 * (nLaunch img + nExpress img) + 4 * (nAbsent img + nOrder img)
  let lens := [planLen img 0, planLen img 1, planLen img 2]
  faultIf (!zeroAt img 1 3) 1 2
    ++ faultIf (fld img 4 4 ≠ len || fld img 4 4 ≠ size) 4 1
    ++ faultIf (field (fld img 8 4) 18 14 ≠ 0) 8 2
    ++ faultIf (field (fld img 0x0C 4) 18 14 ≠ 0) 0x0C 2 ++ faultIf (!inBlock img (planMyCoord img)) 0x0C 3
    ++ (List.range 3).flatMap (fun ax => faultIf (lens.getD ax 0 = 0 || 32 < lens.getD ax 0
        || 64 < coordAx (planOrigin img) ax + lens.getD ax 0) (0x10 + ax) 3)
    ++ faultIf (field (byteAt img 0x13) 4 4 ≠ 0) 0x13 2
    ++ (List.range 12).flatMap (fun p => faultIf (field (byteAt img (0x14 + p)) 3 5 ≠ 0) (0x14 + p) 2
        ++ faultIf (planRole img p = 6 || (planRole img p ≠ 7 && (!spanned img (roleAxis (planRole img p))
          || planRole img ((p + 6) % 12) ≠ roleOpp (planRole img p))) || (planRole img p = 7 && planRole img ((p + 6) % 12) ≠ 7)) (0x14 + p) 4)
    ++ faultIf ((List.range 6).any (fun r => spanned img (roleAxis r) && (portsOf img r).isEmpty)) 0x14 4
    ++ (List.range 3).flatMap (fun v => faultIf (planWeight img (v + 1) = 0 || 15 < planWeight img (v + 1)) (0x20 + v) 4)
    ++ faultIf (!zeroAt img 0x23 1) 0x23 2 ++ faultIf (planDrain img = 0 || 10000 < planDrain img) 0x24 4
    ++ faultIf (!zeroAt img 0x26 2) 0x26 2 ++ faultIf (planHash img = 0) 0x28 3
    ++ faultIf (1024 < nLaunch img) 0x30 1 ++ faultIf (4096 < nExpress img) 0x32 1 ++ faultIf (256 < nAbsent img) 0x34 1
    ++ faultIf (4096 < nOrder img) 0x36 1
    ++ faultIf (fld img 0x38 4 ≠ (crc32c (img.take 0x38 ++ zeros 4 ++ img.drop 0x3C)).toNat) 0x38 1
    ++ faultIf (!zeroAt img 0x3C 4) 0x3C 2

/-- The fault of the least offset, the first listed among equals. -/
def leastFault (l : PlanChk) : Option (Nat × Nat) :=
  l.foldl (fun best x => match best with
    | none => some x
    | some b => if x.1 < b.1 then some x else best) none

/-- Offset and reason of the first offending field, among those that `seen` admits, of an image of `len` bytes (R259). -/
def planFaultSeen (seen : Nat × Nat → Bool) (img : Bytes) (len : Nat) : Option (Nat × Nat) :=
  match leastFault ((headerFaults img len).filter seen) with
  | some f => some f
  | none => leastFault (((List.range (nLaunch img)).flatMap (launchFaults img) ++ (List.range (nExpress img)).flatMap (expressFaults img)
      ++ (List.range (nAbsent img)).flatMap (absentFaults img) ++ (List.range (nOrder img)).flatMap (orderFaults img)).filter seen)

def planFault (img : Bytes) (len : Nat) : Option (Nat × Nat) := planFaultSeen (fun _ => true) img len

/-- The faults that the first n bytes of an image show, where the rest cannot be read: fields that end there, and not the
image's check. -/
def planFaultWithin (n : Nat) (img : Bytes) (len : Nat) : Option (Nat × Nat) :=
  if n < 64 then none else planFaultSeen (fun f => decide (f.1 + 8 ≤ n) && f.1 ≠ 0x38) img len

/-! ### The end of bring-up -/

/-- Step 13: READY and DBX_READY (R337, R356). -/
def becomeReady (s : State) : State :=
  let s1 := { s with power := { s.power with phase := .ready, ready := true, step := 13 } }
  raiseMod s1 0x0901 (leBytes 4 s.power.readyMs ++ leBytes 1 s.power.slot ++ leBytes 1 (if s.power.fallback then 1 else 0))

/-- The log entry of a bring-up (R360). -/
def logBringUp (s : State) (fault ms : Nat) : State :=
  addLog s 3 fault 0xFF (if fault = 0 then 0 else 3) (leBytes 4 ms ++ leBytes 1 s.power.slot ++ leBytes 1 (if s.power.fallback then 1 else 0))

/-- Step 12 has ended: a bring-up goes on to step 13; after a fabric reset the module is Ready already. -/
def stepTwelveDone (s : State) : State := if s.power.phase = .bootWait then logBringUp (becomeReady s) 0 s.power.readyMs else s

/-- FAB_BOOT_PLAN_FAIL (R343). -/
def bootPlanFail (s : State) (reason : Nat) : State := raiseMod s 0x0406 (leBytes 1 reason ++ leBytes 2 s.fab.missing.toNat)

/-- Step 12 begins: the boot plan is checked, staged and its commit in epoch 1 starts (R343). A plan of another
PLVER gives reason 0 (DEDUCED, log 61). -/
def startBootPlan (s : State) : State :=
  match s.fab.bootPlan with
  | none => stepTwelveDone s
  | some img =>
    if byteAt img 0 ≠ 1 then stepTwelveDone (bootPlanFail s 0)
    else match planFault img img.length with
      | some (_, r) => stepTwelveDone (bootPlanFail s r)
      | none =>
        let s1 := { s with fab := { s.fab with staged := some img } }
        let c : EpochChange := { op := none, epoch := 1, fence := s.fab.fence, isFence := false, draining := planAgreed s1 img }
        newPlan { s1 with fab := { s1.fab with change := some c } }

end Sys2Proof.Machine
end

