-- ==== Sys2Proof/Machine/Layers.lean ====
section
/-! DEFINITION. Regions and layer tables: enabling, initialising and disabling a region (R141, R145 to R148), and
loading a layer table (R174 to R177). -/

namespace Sys2Proof.Machine

open Sys2Proof

/-! ### Regions -/

/-- Slot ranges in use: (first, length) of every enabled region. -/
def slotRanges (s : State) : List (Nat × Nat) :=
  s.dram.regions.filterMap (fun e => if e.2.enable then some (e.2.slot, slotsPerUnit e.2.cls * e.2.size) else none)

/-- The lowest free contiguous range of n slots: it starts at 0 or where a range in use ends (R141, R148). -/
def lowestSlots (used : List (Nat × Nat)) (n : Nat) : Option Nat :=
  let starts := 0 :: used.map (fun u => u.1 + u.2)
  (starts.filter (fun a => decide (a + n ≤ regionSlots) && used.all (fun u => !overlap a n u.1 u.2))).foldl
    (fun m a => match m with
      | none => some a
      | some b => some (min a b)) none

/-- The data, upsets and buffered writes of a region are gone. -/
def clearRegion (s : State) (rid : Nat) : State :=
  { s with dram := { s.dram with
      cells := mclear s.dram.cells (cellKey rid 0) (2 ^ 40)
      flips := mclear s.dram.flips (flipKey rid 0 0) (2 ^ 41)
      wc := s.dram.wc.filterMap (fun e =>
        let l := e.2.filter (fun w => w.rid ≠ rid)
        if l.isEmpty then none else some (e.1, l)) } }

/-- Another enabled region of the partition overlaps. -/
def regionClash (s : State) (rid : Nat) (r : Region) : Bool :=
  let p := rid / 64
  anyN 64 (fun i => let x := getRegion s (64 * p + i)
    64 * p + i ≠ rid && x.enable && overlap r.base r.size x.base x.size)

/-- ENABLE is set on a region: its registers come into force, it takes slots and starts initialising, or is refused
(R140, R141). (DEDUCED, log 47.) -/
def regionEnable (s : State) (rid : Nat) : State :=
  let x := getRegion s rid
  let r : Region := { x with cls := x.regCls, size := x.regSize, base := x.regBase }
  let bad := r.cls = 3 || r.size = 0 || 32686 < r.size || 2 ^ 16 < r.base + r.size || regionClash s rid r
  match (if bad then none else lowestSlots (slotRanges s) (slotsPerUnit r.cls * r.size)) with
  | none => setRegion s rid { x with enable := false, state := 3 }
  | some a => setRegion (clearRegion s rid) rid { r with enable := true, state := 1, slot := a }

/-- ENABLE is cleared: the slots are free at once (R141). -/
def regionDisable (s : State) (rid : Nat) : State :=
  setRegion (clearRegion s rid) rid { getRegion s rid with enable := false, state := 0 }

/-! ### Layer tables -/

/-- Parse one 64-byte entry (R176). -/
def parseLayer (b : Bytes) : Layer :=
  let fl := byteAt b 1
  { valid := bit fl 0, versioned := bit fl 1, governed := bit fl 2, enforce := bit fl 3, gInit := byteAt b 2
    gFloor := byteAt b 3, slot0 := field (fld b 8 8) 0 40, slot1 := field (fld b 0x10 8) 0 40, len := fld b 0x18 8
    verInit := fld b 0x20 6, ratioMin := BitVec.ofNat 32 (fld b 0x28 4), ratioMax := BitVec.ofNat 32 (fld b 0x2C 4) }

/-- Rank of a governed format (R195). -/
def rankOf (fmt : Nat) : Option Nat := if fmt = 0x04 then some 0 else if fmt = 0x13 then some 1 else if fmt = 0x01 then some 2 else none

/-- An entry meets R177 by itself; overlaps with other layers are judged apart. -/
def entryOk (s : State) (p : Nat) (b : Bytes) : Bool :=
  let l := parseLayer b
  let reserved := zeroAt b 4 4 && zeroAt b 0x26 2 && zeroAt b 0x30 16 && field (byteAt b 1) 4 4 = 0
    && field (fld b 8 8) 40 24 = 0 && field (fld b 0x10 8) 40 24 = 0
  byteAt b 0 = 1 &&
  if !l.valid then zeroAt b 1 63
  else
    reserved
      && (if l.versioned then
            decide (1024 ≤ l.len) && l.len % 1024 = 0 && l.slot0 % 1024 = 0 && l.slot1 % 1024 = 0
              && inClass s p l.slot0 l.len 0 && inClass s p l.slot1 l.len 0 && !overlap l.slot0 l.len l.slot1 l.len
          else l.slot0 = 0 && l.slot1 = 0 && l.len = 0 && l.verInit = 0)
      && (if l.governed then (match rankOf l.gInit, rankOf l.gFloor with
            | some i, some f => decide (f ≤ i)
            | _, _ => false)
          else l.gInit = 0 && l.gFloor = 0 && !l.enforce)

/-- A slot of one layer overlaps a slot of another. (DEDUCED, log 133.) -/
def slotsClash (x y : Layer) : Bool :=
  x.valid && x.versioned && y.valid && y.versioned &&
    (overlap x.slot0 x.len y.slot0 y.len || overlap x.slot0 x.len y.slot1 y.len
      || overlap x.slot1 x.len y.slot0 y.len || overlap x.slot1 x.len y.slot1 y.len)

/-- The first entry that breaks R177. -/
def firstBadEntry (s : State) (p : Nat) (es : List Bytes) : Option Nat :=
  findN es.length (fun i =>
    let b := es.getD i []
    !entryOk s p b || anyN es.length (fun j => j ≠ i && slotsClash (parseLayer b) (parseLayer (es.getD j []))))

/-- Blocks of another partition's table in force overlap; a load takes no time, so none is being loaded (R175). -/
def blocksClash (s : State) (p : Nat) : Bool :=
  let r := getPart s p
  anyN 8 (fun q => let x := getPart s q
    q ≠ p && x.layInForce && overlap r.layFirst (layCountOf r) x.forceFirst x.forceCount)

/-- Install a checked table: slot 0 current with VER_INIT, slot 1 without a version; the governor at its start. -/
def installLayer (s : State) (l : Nat) (x : Layer) : State :=
  let old := getVer s l
  let v : VerState := if x.valid && x.versioned then { cur := 0, ver0 := some x.verInit, fence0 := old.fence0, fence1 := old.fence1 }
    else { fence0 := old.fence0, fence1 := old.fence1 }
  let g : GovState := if x.valid then { rank := (rankOf x.gInit).getD 0 } else {}
  setGov (setVer { s with tr := { s.tr with layers := tset {} l x s.tr.layers } } l v) l g

/-- The layers of the partition's table in force are gone, but for those of the given blocks. -/
def dropTable (s : State) (p first count : Nat) : State :=
  let keep (l : Nat) : Bool := !layerHeld s p l || (decide (64 * first ≤ l) && decide (l < 64 * (first + count)))
  { s with tr := { s.tr with layers := tkeep keep s.tr.layers, vers := tkeep keep s.tr.vers, govs := tkeep keep s.tr.govs } }

def installTable (s : State) (first : Nat) (es : List Bytes) : State :=
  (es.foldl (fun (t : State × Nat) b => (installLayer t.1 t.2 (parseLayer b), t.2 + 1)) (s, first)).1

/-- The first entry of n blocks that lies in an unreadable block, checking the table block by block (R175). -/
def tableRead (c : ExecCtx) (base n : Nat) (s : State) : State × Option Nat :=
  (List.range n).foldl (fun t i =>
    if t.2.isSome then t
    else
      let r := checkRange t.1 c false (base + 128 * i) 128
      (r.1, if r.2.isSome then some (2 * i) else none)) (s, none)

/-- A write of LOAD: read and check the table in the order of R175, and install it or refuse it. -/
def layerLoad (s : State) (p : Nat) (mem : MemIn) : State :=
  let r := getPart s p
  let n := 64 * layCountOf r
  let base := r.layBase * 2 ^ 20
  let c : ExecCtx := { part := p, mem }
  let refuse (t : State) (kind entry : Nat) : State :=
    updPart t p (fun r => { r with layState := 3, layErrKind := kind, layErrEntry := entry })
  if 64 < r.layFirst + layCountOf r || blocksClash s p then refuse s 1 0
  else if !inClass s p base (64 * n) 0 then refuse s 2 0
  else match tableRead c base (n / 2) (dramUpsets s mem) with
    | (s1, some e) => refuse s1 3 e
    | (s1, none) =>
      let es := (List.range n).map (fun i => devBytes s1 c false (base + 64 * i) 64)
      match firstBadEntry s1 p es with
      | some e => refuse s1 0 e
      | none => installTable (updPart (dropTable s1 p r.layFirst (layCountOf r)) p (fun r => { r with
          layState := 2, layErrKind := 0, layErrEntry := 0, layInForce := true
          forceFirst := r.layFirst, forceCount := layCountOf r })) (64 * r.layFirst) es

/-- The layer tables and version slots of a partition return to their start (R132 step 5, R345). -/
def clearLayers (s : State) (p : Nat) : State :=
  updPart (dropTable s p 0 0) p (fun r => { r with
    layState := 0, layErrKind := 0, layErrEntry := 0, layInForce := false, forceFirst := 0, forceCount := 0 })

end Sys2Proof.Machine
end

