-- ==== Sys2Proof/Machine/Measure.lean ====
section
/-! DEFINITION. How a compute operation ends: the statistics of output 0 under GLAYER (R47, R192, R193), the single
narrowing of its outputs (R39, R40, R44, R45, R77), and its completion (R84 to R89). -/

namespace Sys2Proof.Machine

open Sys2Proof

/-! ### Statistics (R192, R193) -/

/-- 2^k as an exact value. -/
def pow2 (k : Int) : Val := .fin false 1 k

/-- Counts of one block of 32 along output 0's innermost dimension. -/
def accBlock (a : GradAcc) (b : List F32) : GradAcc :=
  let vs := b.map vOf
  let fin := vs.filter vIsFinite
  let nz := fin.filter (fun v => !vIsZero v)
  let m := blockMax fin
  let under (k : Int) : Nat := nz.countP (fun v => vCmp (vAbs v) (pow2 k) != .gt)
  { nz := a.nz + nz.length, nf := a.nf + (vs.length - fin.length)
    amax := BitVec.ofNat 32 (max a.amax.toNat (encodeFloat fp32Fmt false .rne m))
    ufE5m2 := a.ufE5m2 + under (-17)
    ufMx := a.ufMx + (if vIsZero m then 0 else under (vLog2 m - 18)) }

/-- Counts of the rows of output 0. -/
def accRows (rows : List (List F32)) : GradAcc :=
  rows.foldl (fun a r => (groupsOf 32 (r.length / 32 + 1) r).foldl accBlock a) {}

def addAcc (a b : GradAcc) : GradAcc :=
  { nz := a.nz + b.nz, nf := a.nf + b.nf, amax := BitVec.ofNat 32 (max a.amax.toNat b.amax.toNat)
    ufE5m2 := a.ufE5m2 + b.ufE5m2, ufMx := a.ufMx + b.ufMx }

/-- A measured write of step s enters the accumulator of s mod 2, or marks the layer late (R193). -/
def govAdd (g : GovState) (step : Nat) (a : GradAcc) : GovState :=
  let o := g.opened.getD step
  let g1 := { g with opened := some o, first := some (g.first.getD step) }
  if step = o || step = o + 1 then
    (if step % 2 = 0 then { g1 with acc0 := addAcc g1.acc0 a } else { g1 with acc1 := addAcc g1.acc1 a })
  else { g1 with late := true }

/-- Rows as columns. -/
def transposeRows (rows : List (List F32)) : List (List F32) :=
  (List.range (rows.headD []).length).map (fun c => rows.map (fun r => r.getD c zero32))

/-- Output 0 is stored transposed (R79): its innermost dimension runs along the logical columns. -/
def out0Trans (s : State) (p : Nat) (d : Bytes) : Bool :=
  (usesOf s p d).any (fun u => u.off = out0Off d && u.out && u.trans)

/-- Measure output 0 of a descriptor; the count of non-finite elements it reports. (DEDUCED, log 45.) -/
def measure (s : State) (p : Nat) (d : Bytes) (rows : List (List F32)) : State × Nat :=
  let l := xGlayer d
  if l = 0xFFFF then (s, 0)
  else
    let a := accRows (if out0Trans s p d then transposeRows rows else rows)
    if (getPart s p).layState = 2 && (getLayer s l).valid then (setGov s l (govAdd (getGov s l) (xStep d) a), a.nf)
    else (s, a.nf)

/-! ### Narrowing -/

/-- Stream base of an opcode: its operation number × 16 (R90). -/
def streamOf (d : Bytes) : Nat := (dBase d % 0x800) * 16

/-- The CRG element index of element (r, c) of output 0 (R77). -/
def elemIndex (d : Bytes) (r c : Nat) : Nat := (xRow0 d + r) * xTcols d + xCol0 d + c

def crgKeyOf (s : State) (p : Nat) (d : Bytes) (stream : Nat) : CrgKey :=
  { seed := (getPart s p).seed, tensor := xTensor d, step := xStep d, stream }

/-- The value at (r, c) of a list of rows. -/
def rowVal (rows : List (List F32)) (r c : Nat) : F32 := (rows.getD r []).getD c zero32

/-- A table of rows × cols values. -/
def tabulate (rows cols : Nat) (f : Nat → Nat → F32) : List (List F32) :=
  (List.range rows).map (fun r => (List.range cols).map (f r))

/-- Narrow and write values to a used output; `mode` is its rounding field and `elem` its CRG index. -/
def emit (s : State) (c : ExecCtx) (d : Bytes) (u : Use) (mode stream : Nat) (elem : Nat → Nat → Nat)
    (rows : List (List F32)) : State :=
  let k := crgKeyOf s c.part d stream
  let at_ {α : Type} (f : Nat → Nat → α) (r col : Nat) : α := if u.trans then f col r else f r col
  writeTensor s c u.view (encodeRows (dEqv d) u.view
    (at_ (fun r col => elemRnd k mode u.view.fmt (elem r col))) (at_ (fun r col => vOf (rowVal rows r col))))

/-! ### Running a descriptor -/

/-- What running a descriptor gave: the state, its failure (STATUS, XSTATUS, INFO), output 0's values by rows, and the
most clocks it may take with its operands in SRAM. -/
structure Ran where
  s     : State
  fail  : Option (Nat × Nat × Option Nat) := none
  rows  : List (List F32) := []
  bound : Nat := 0

def ranFail (s : State) (st xs : Nat) (info : Option Nat) : Ran := { s, fail := some (st, xs, info) }

/-- Run a body on readable inputs (R159). -/
def onInputs (s : State) (c : ExecCtx) (us : List Use) (body : State → Ran) : Ran :=
  match checkExts s c (inExts us) with
  | (s1, none) => body s1
  | (s1, some xs) => ranFail s1 stCheck xs none

/-- The use at an offset of a descriptor. -/
def useAt (us : List Use) (off : Nat) : Option Use := us.find? (fun u => u.off = off)

/-- Logical element of a used operand, as a vector lane reads it. -/
def useF32 (s : State) (c : ExecCtx) (eqv : Bool) (u : Option Use) (r col : Nat) : F32 :=
  match u with
  | some u => opndF32 s c eqv u.trans u.view r col
  | none => zero32

/-- Bytes that the inputs of a descriptor occupy. -/
def readBytes (us : List Use) : Nat := ((us.filter (fun u => !u.out)).map (fun u => u.view.bytes)).sum
def writtenBytes (us : List Use) : Nat := ((us.filter (fun u => u.out)).map (fun u => u.view.bytes)).sum

/-- Clocks reported: cut to the bound where every operand lies in SRAM. -/
def clocks (us : List Use) (bound : Nat) (env : Env) : Word32 :=
  if us.all (fun u => u.view.sram) then BitVec.ofNat 32 (min bound env.cycles.toNat) else env.cycles

/-- Complete an operation that has run. -/
def finishRun (o : Op) (env : Env) (x : Ran) : State :=
  let us := usesOf x.s o.part o.desc
  match x.fail with
  | some (st, xs, info) =>
    complete (freeOuts x.s o env) o st xs (info.getD (infoOf env.cycles 0))
  | none =>
    let (s1, nf) := measure x.s o.part o.desc x.rows
    finishOk s1 o env 0 (infoOf (clocks us x.bound env) nf)

end Sys2Proof.Machine
end

