-- ==== Sys2Proof/Machine/Gemm.lean ====
section
/-! DEFINITION. GEMM (R41, R57 to R63, R66, R91). -/

namespace Sys2Proof.Machine

open Sys2Proof

/-- Clocks per 32×32×32 block in cube mode of a pair of format codes (R58). -/
def blockClocks (a b : Nat) : Nat :=
  if (a = 6 && b = 6) || (a = 8 && b = 8) then 1
  else if a = 0 || b = 0 then 32
  else if a = 1 || a = 2 || b = 1 || b = 2 then 4
  else 2

/-- Clocks of one pass of m × n outputs (R61, R66). -/
def passClocks (m n kp c x : Nat) : Nat := max 32 (cdiv m 32 * cdiv n 32 * (kp / 32) * c * x)

/-- The cuts of a dimension into at most 128. -/
def tiles (n : Nat) : List Nat := (List.range (cdiv n 128)).map (fun i => min 128 (n - 128 * i))

/-- The most clocks a GEMM takes with its operands in SRAM (R60 to R62, R66). -/
def gemmClocks (eqv : Bool) (mode m n k fa fb : Nat) : Nat :=
  let c := blockClocks fa fb
  let kp := roundUp k 32
  let x := if eqv then 8 else 1
  let t := min m n
  if mode = 2 || (mode = 0 && t ≤ 31) then
    24 + cdiv t 8 * max 32 (cdiv (max m n * kp) (4096 / c) * x)
  else 24 + ((tiles m).flatMap (fun a => (tiles n).map (fun b => passClocks a b kp c x))).sum

/-- D = op(A) · op(B), plus C (R91): exact products summed in the order of R41, C added last. -/
def runGemm (s0 : State) (c : ExecCtx) (d : Bytes) : Ran :=
  let us := (planGemm d).uses
  let eqv := dEqv d
  let m := fld d 0x30 2
  let n := fld d 0x32 2
  let k := fld d 0x34 4
  let ctrl := fld d 0x38 2
  onInputs s0 c us (fun s =>
    match useAt us 0x10, useAt us 0x18, useAt us 0x28 with
    | some a, some b, some dd =>
      let prod (i j x : Nat) : Val := vMul (opndVal s c eqv a.trans a.view i x) (opndVal s c eqv b.trans b.view x j)
      let out (i j : Nat) : F32 :=
        let acc := accumulate eqv ((List.range k).map (prod i j))
        match useAt us 0x20 with
        | some u => fAdd eqv acc (opndF32 s c eqv u.trans u.view i j)
        | none => acc
      let rows := tabulate m n out
      { s := emit s c d dd (field ctrl 0 2) (streamOf d) (elemIndex d) rows, rows
        bound := gemmClocks eqv (field ctrl 2 2) m n k (codeOf a.view.fmt) (codeOf b.view.fmt) }
    | _, _, _ => { s := s })

/-- GEMM. -/
def execGemm (op : Nat) (env : Env) (s : State) : Out :=
  runOp s op 0x1040 env (fun s o => finishRun o env (runGemm s (ctxOf o env) o.desc))

end Sys2Proof.Machine
end

