-- ==== Sys2Proof/Machine/Move.lean ====
section
/-! DEFINITION. Data movement (R99 to R101, R402). -/

namespace Sys2Proof.Machine

open Sys2Proof

/-! ### Moving codes -/

/-- Rows of codes and block bytes, in the stored coordinates of a view, padding zero (R28). -/
def codeRows (v : TView) (code plane : Nat → Nat → Nat) : List RowCodes :=
  (List.range v.rows).map (fun r => (List.range (cdiv v.cols 32)).map (fun b =>
    (plane r (32 * b), (List.range 32).map (fun i => if 32 * b + i < v.cols then code r (32 * b + i) else 0))))

/-- The code that a moved element is written as: its own, but a NaN as the canonical one (R29, R33, R36) and in
equivalence mode a subnormal as zero of its sign (R49). (DEDUCED, log 37.) -/
def movedCode (eqv : Bool) (fmt code plane : Nat) : Nat :=
  if hasPlane fmt && plane = 0xFF then 0
  else match floatFmt (codeOf fmt) with
    | none => code
    | some f => match decodeFloat f code with
      | .nan => f.nan.getD code
      | .inf _ => code
      | .fin neg m _ => if eqv && decide (m < 2 ^ f.mant) then (if neg then 2 ^ (f.width - 1) else 0) else code

/-- Write the elements of an operand under a map of logical coordinates. (DEDUCED, log 35.) -/
def moveCodes (s : State) (c : ExecCtx) (eqv : Bool) (src dst : Use) (from_ : Nat → Nat → Nat × Nat) : State :=
  let at_ (r col : Nat) : Nat × Nat :=
    let x := if dst.trans then from_ col r else from_ r col
    if src.trans then (x.2, x.1) else x
  let plane (r col : Nat) : Nat := elemPlane s c src.view (at_ r col).1 (at_ r col).2
  let code (r col : Nat) : Nat := movedCode eqv src.view.fmt (elemCode s c src.view (at_ r col).1 (at_ r col).2) (plane r col)
  writeTensor s c dst.view (codeRows dst.view code plane)

/-! ### Index lists (R100, R101) -/

/-- The extents that hold logical row j of an unscaled operand. -/
def rowExts (u : Use) (j cols : Nat) : List Ext :=
  let v := u.view
  let one (r col n : Nat) : Ext :=
    let b := v.bitPos r col
    { sram := v.sram, base := v.base + b / 8, len := (b + n * v.bits - 1) / 8 - b / 8 + 1 }
  if u.trans then (List.range cols).map (fun col => one col j 1)
  else if v.square then (List.range (cdiv cols 32)).map (fun q => one j (32 * q) 32)
  else [one j 0 cols]

/-- The index list AUX. -/
def auxIndices (s : State) (c : ExecCtx) (d : Bytes) : List Nat :=
  let r := refAt d 0x20
  words (fld d 0x28 4) (devBytes s c r.sram r.addr (4 * fld d 0x28 4))

/-- The position of the first index at or beyond TROWS. -/
def badIndex (idx : List Nat) (trows : Nat) : Option Nat := idx.findIdx? (fun i => decide (trows ≤ i))

/-! ### Clocks (R402) -/

def moveClocks (r w e : Nat) : Nat := 32 + max (max (cdiv r 512) (cdiv w 2048)) (cdiv e 256)

/-! ### The opcodes -/

/-- COPY, TRANSPOSE, PACK, UNPACK. -/
def runCopy (s0 : State) (c : ExecCtx) (d : Bytes) : Ran :=
  let us := (planMove d).uses
  let op := dBase d
  let eqv := dEqv d
  let rows := fld d 0x28 4
  let cols := fld d 0x2C 4
  onInputs s0 c us (fun s =>
    match useAt us 0x10, useAt us 0x18 with
    | some src, some dst =>
      let from_ (r col : Nat) : Nat × Nat := if op = 0x4101 then (col, r) else (r, col)
      let vals := tabulate rows cols (fun r col => let x := from_ r col; opndF32 s c eqv src.trans src.view x.1 x.2)
      let narrowing := op = 0x4102 || op = 0x4103
      { s := if narrowing then emit s c d dst (field (fld d 0x3C 2) 0 2) (streamOf d) (elemIndex d) vals
          else moveCodes s c eqv src dst from_
        rows := vals
        bound := moveClocks (readBytes us) (writtenBytes us) (if narrowing then rows * cols else 0) }
    | _, _ => { s := s })

/-- GATHER and SCATTER_ADD. The index list is judged before the source is read (R88). -/
def runIndexed (s0 : State) (c : ExecCtx) (d : Bytes) : Ran :=
  let us := (planMove d).uses
  let op := dBase d
  let eqv := dEqv d
  let rows := fld d 0x28 4
  let cols := fld d 0x2C 4
  let trows := fld d 0x38 4
  onInputs s0 c (us.filter (fun u => u.off = 0x20)) (fun s1 =>
    let idx := auxIndices s1 c d
    match badIndex idx trows, useAt us 0x10, useAt us 0x18 with
    | some i, _, _ => ranFail s1 0x80 0 (some i)
    | none, some src, some dst =>
      let need := if op = 0x4104 then idx.flatMap (fun j => rowExts src j cols) else src.view.exts
      (match checkExts s1 c need with
      | (s2, some xs) => ranFail s2 stCheck xs none
      | (s, none) =>
        let srcVal (r col : Nat) : F32 := opndF32 s c eqv src.trans src.view r col
        let bytes := 4 * rows + (need.map (fun e => e.len * e.rows)).sum
        if op = 0x4104 then
          { s := moveCodes s c eqv src dst (fun r col => (idx.getD r 0, col))
            rows := tabulate rows cols (fun r col => srcVal (idx.getD r 0) col)
            bound := moveClocks bytes (writtenBytes us) 0 }
        else
          let sum (j col : Nat) : F32 :=
            ((List.range rows).filter (fun i => idx.getD i 0 = j)).foldl (fun a i => fAdd eqv a (srcVal i col)) zero32
          let vals := tabulate trows cols sum
          { s := emit s c d dst (field (fld d 0x3C 2) 0 2) (streamOf d) (elemIndex d) vals, rows := vals
            bound := moveClocks bytes (2 * writtenBytes us) (rows * cols) })
    | none, _, _ => { s := s1 })

/-! ### Host movement (R101) -/

/-- Whether some row meets a range the host poisons or rejects. A port whose link is down reaches no host. -/
def hostPoisoned (h : HostIn) (port : Nat) (rs : List (Nat × Nat)) : Bool :=
  rs.any (fun r => h.poisons.any (fun x => overlap x.1 x.2 (hostKey port r.1) r.2))

def hostRejected (s : State) (h : HostIn) (port : Nat) (rs : List (Nat × Nat)) : Bool :=
  !(getPort s port).up || rs.any (fun r => h.rejects.any (fun x => overlap x.1 x.2 (hostKey port r.1) r.2))

def runHostRead (s0 : State) (c : ExecCtx) (h : HostIn) (d : Bytes) : Ran :=
  let us := (planMove d).uses
  let rs := hostRows d 0x10 0x30
  let port := ownerPort s0 c.part
  if hostPoisoned h port rs then ranFail (noteAer s0 (getPart s0 c.part).owner aerPoisoned) stPoison 2 none
  else if hostRejected s0 h port rs then ranFail s0 stCheck 3 none
  else match useAt us 0x18 with
    | some u =>
      let st := if u.view.stride = 0 then u.view.cols else u.view.stride
      let rows := rs.map (fun r => mread s0.host (hostKey port r.1) r.2)
      { s := (rows.foldl (fun (t : State × Nat) b => (devWrite t.1 c u.view.sram (u.view.base + t.2 * st) b, t.2 + 1)) (s0, 0)).1
        bound := 0xFFFFFFFF }
    | none => { s := s0 }

def runHostWrite (s0 : State) (c : ExecCtx) (h : HostIn) (d : Bytes) : Ran :=
  let us := (planMove d).uses
  let rs := hostRows d 0x18 0x34
  let port := ownerPort s0 c.part
  match useAt us 0x10, checkExts s0 c (inExts us) with
  | _, (s1, some xs) => ranFail s1 stCheck xs none
  | some u, (s1, none) =>
    if hostRejected s1 h port rs then ranFail s1 stCheck 3 none
    else
      let st := if u.view.stride = 0 then u.view.cols else u.view.stride
      { s := (rs.foldl (fun (t : State × Nat) r =>
          (hostWrite t.1 port r.1 (devBytes s1 c u.view.sram (u.view.base + t.2 * st) r.2), t.2 + 1)) (s1, 0)).1
        bound := 0xFFFFFFFF }
  | none, (s1, none) => { s := s1 }

/-- What COPY, TRANSPOSE, PACK and UNPACK share. -/
def copyOp (opcode op : Nat) (env : Env) (s : State) : Out :=
  runOp s op opcode env (fun s o => finishRun o env (runCopy s (ctxOf o env) o.desc))

/-- COPY. -/
def execCopy (op : Nat) (env : Env) (s : State) : Out := copyOp 0x4100 op env s
/-- TRANSPOSE. -/
def execTranspose (op : Nat) (env : Env) (s : State) : Out := copyOp 0x4101 op env s
/-- PACK. -/
def execPack (op : Nat) (env : Env) (s : State) : Out := copyOp 0x4102 op env s
/-- UNPACK. -/
def execUnpack (op : Nat) (env : Env) (s : State) : Out := copyOp 0x4103 op env s
/-- GATHER. -/
def execGather (op : Nat) (env : Env) (s : State) : Out :=
  runOp s op 0x4104 env (fun s o => finishRun o env (runIndexed s (ctxOf o env) o.desc))
/-- SCATTER_ADD. -/
def execScatterAdd (op : Nat) (env : Env) (s : State) : Out :=
  runOp s op 0x4105 env (fun s o => finishRun o env (runIndexed s (ctxOf o env) o.desc))
/-- HOST_READ. -/
def execHostRead (op : Nat) (env : Env) (s : State) : Out :=
  runOp s op 0x4106 env (fun s o => finishRun o env (runHostRead s (ctxOf o env) env.host o.desc))
/-- HOST_WRITE. -/
def execHostWrite (op : Nat) (env : Env) (s : State) : Out :=
  runOp s op 0x4107 env (fun s o => finishRun o env (runHostWrite s (ctxOf o env) env.host o.desc))

end Sys2Proof.Machine
end

