-- ==== Sys2Proof/Machine/Reduce.lean ====
section
/-! DEFINITION. Reductions, softmax and normalisation (R97, R98, R401). -/

namespace Sys2Proof.Machine

open Sys2Proof

/-- The FN of ROW_REDUCE and COL_REDUCE over one line of values. -/
def reduceLine (eqv : Bool) (fn : Nat) (xs : List F32) : F32 :=
  match fn with
  | 0 => fSum eqv xs
  | 1 => xs.tail.foldl (fMax eqv) (toF32 eqv (vIn eqv (xs.headD zero32)))
  | 2 => xs.tail.foldl (fMin eqv) (toF32 eqv (vIn eqv (xs.headD zero32)))
  | 3 => fSum eqv (xs.map (fun x => fMul eqv x x))
  | _ => (xs.tail.map (fAbs eqv)).foldl (fMax eqv) (fAbs eqv (xs.headD zero32))

/-- SOFTMAX_FWD of row r: y and the log-sum-exp (R98). -/
def softmaxFwdRow (eqv : Bool) (scale : F32) (causal : Bool) (offset : Int) (r : Nat) (x : List F32) : List F32 × F32 :=
  let z := x.mapIdx (fun c v => if causal && decide ((r : Int) + offset < (c : Int)) then negInf32 else fMul eqv scale v)
  let m := reduceLine eqv 1 z
  if m = negInf32 then (z.map (fun _ => zero32), negInf32)
  else
    let e := z.map (fun v => fExp eqv (fSub eqv v m))
    let sm := fSum eqv e
    (e.map (fun v => fDiv eqv v sm), fAdd eqv m (fLog eqv sm))

/-- SOFTMAX_BWD of a row. -/
def softmaxBwdRow (eqv : Bool) (scale : F32) (y dy : List F32) : List F32 :=
  let dd := fSum eqv (List.zipWith (fMul eqv) y dy)
  List.zipWith (fun a b => fMul eqv scale (fMul eqv a (fSub eqv b dd))) y dy

/-- ε = 2^(−EPS). -/
def epsOf (eps : Nat) : F32 := toF32 false (pow2 (-(eps : Int)))

/-- NORM_FWD of a row: y, mean and r (R98). -/
def normFwdRow (eqv : Bool) (fn eps : Nat) (g b x : List F32) : List F32 × F32 × F32 :=
  let n := fOfNat x.length
  let mu := if fn = 0 then fDiv eqv (fSum eqv x) n else zero32
  let xc := x.map (fun v => fSub eqv v mu)
  let v := fDiv eqv (fSum eqv (xc.map (fun a => fMul eqv a a))) n
  let r := fRsqrt eqv (fAdd eqv v (epsOf eps))
  (xc.mapIdx (fun c a => fFma eqv (fMul eqv a r) (g.getD c one32) (b.getD c zero32)), mu, r)

/-- NORM_BWD of a row. -/
def normBwdRow (eqv : Bool) (fn : Nat) (mu r : F32) (g x dy : List F32) : List F32 :=
  let n := fOfNat x.length
  let xh := x.map (fun v => fMul eqv (fSub eqv v mu) r)
  let u := dy.mapIdx (fun c v => fMul eqv (g.getD c one32) v)
  let a := if fn = 0 then fDiv eqv (fSum eqv u) n else zero32
  let bb := fDiv eqv (fSum eqv (List.zipWith (fMul eqv) u xh)) n
  List.zipWith (fun p q => fMul eqv r (fSub eqv (fSub eqv p a) (fMul eqv q bb))) u xh

/-- Factors p, a and f of R401. -/
def reduceCost (op : Nat) : Nat × Nat × Nat :=
  match op with
  | 0x30C2 => (3, 4, 2)
  | 0x30C3 => (2, 4, 0)
  | 0x30C4 => (3, 6, 0)
  | 0x30C5 => (2, 8, 0)
  | _ => (1, 2, 0)

def reduceClocks (op rows cols b : Nat) : Nat :=
  let (p, a, f) := reduceCost op
  let e := rows * cols
  32 + p * cdiv b 2048 + cdiv (e * a) 256 + cdiv (e * f + 3 * rows) 64

/-- FP32 SCALE and signed OFFSET of a parameter word (R97). -/
def paramScale (d : Bytes) (off : Nat) : F32 := BitVec.ofNat 32 (fld d off 4)
def paramOffset (d : Bytes) (off : Nat) : Int := sgn 32 (fld d (off + 4) 4)

/-- A vector operand's elements, or none when it is absent. -/
def vecOf (s : State) (c : ExecCtx) (eqv : Bool) (u : Option Use) (n : Nat) : List F32 :=
  match u with
  | some _ => (List.range n).map (fun i => useF32 s c eqv u 0 i)
  | none => []

/-- Run an opcode of class 0x3: its results are OUT0 by rows, and OUT1 by rows. -/
def runReduce (s0 : State) (c : ExecCtx) (d : Bytes) : Ran :=
  let us := (planReduce d).uses
  let op := dBase d
  let eqv := dEqv d
  let rows := fld d 0x38 3
  let cols := fld d 0x3C 3
  let eps := byteAt d 0x3B
  let ctrl := byteAt d 0x3F
  let fn := field ctrl 2 3
  onInputs s0 c us (fun s =>
    let x (r : Nat) : List F32 := (List.range cols).map (useF32 s c eqv (useAt us 0x10) r)
    let i1 (r : Nat) : List F32 := (List.range cols).map (useF32 s c eqv (useAt us 0x18) r)
    let rs := List.range rows
    let outs : List (List F32) × List (List F32) :=
      match op with
      | 0x30C0 => (rs.map (fun r => [reduceLine eqv fn (x r)]), [])
      | 0x30C1 => ([(List.range cols).map (fun j => reduceLine eqv fn (rs.map (fun r => useF32 s c eqv (useAt us 0x10) r j)))], [])
      | 0x30C2 =>
        let ys := rs.map (fun r => softmaxFwdRow eqv (paramScale d 0x18) (bit ctrl 5) (paramOffset d 0x18) r (x r))
        (ys.map (·.1), [ys.map (·.2)])
      | 0x30C3 => (rs.map (fun r => softmaxBwdRow eqv (paramScale d 0x20) (x r) (i1 r)), [])
      | 0x30C4 =>
        let g := vecOf s c eqv (useAt us 0x18) cols
        let b := vecOf s c eqv (useAt us 0x20) cols
        let ys := rs.map (fun r => normFwdRow eqv fn eps g b (x r))
        (ys.map (·.1), ys.map (fun y => [y.2.1, y.2.2]))
      | _ =>
        let g := vecOf s c eqv (useAt us 0x20) cols
        let st (r j : Nat) : F32 := useF32 s c eqv (useAt us 0x30) r j
        (rs.map (fun r => normBwdRow eqv fn (st r 0) (st r 1) g (x r) (i1 r)), [])
    match useAt us 0x28 with
    | some u =>
      let s1 := emit s c d u (field ctrl 0 2) (streamOf d) (elemIndex d) outs.1
      let s2 := match useAt us 0x30 with
        | some v => if v.out then emit s1 c d v 0 (streamOf d + 1) (elemIndex d) outs.2 else s1
        | none => s1
      let inBytes := readBytes (us.filter (fun u => u.off ≠ 0x30))
      { s := s2, rows := outs.1, bound := reduceClocks op rows cols inBytes }
    | none => { s := s })

/-- What the six rows of class 0x3 share. -/
def reduceOp (opcode op : Nat) (env : Env) (s : State) : Out :=
  runOp s op opcode env (fun s o => finishRun o env (runReduce s (ctxOf o env) o.desc))

/-- ROW_REDUCE. -/
def execRowReduce (op : Nat) (env : Env) (s : State) : Out := reduceOp 0x30C0 op env s
/-- COL_REDUCE. -/
def execColReduce (op : Nat) (env : Env) (s : State) : Out := reduceOp 0x30C1 op env s
/-- SOFTMAX_FWD. -/
def execSoftmaxFwd (op : Nat) (env : Env) (s : State) : Out := reduceOp 0x30C2 op env s
/-- SOFTMAX_BWD. -/
def execSoftmaxBwd (op : Nat) (env : Env) (s : State) : Out := reduceOp 0x30C3 op env s
/-- NORM_FWD. -/
def execNormFwd (op : Nat) (env : Env) (s : State) : Out := reduceOp 0x30C4 op env s
/-- NORM_BWD. -/
def execNormBwd (op : Nat) (env : Env) (s : State) : Out := reduceOp 0x30C5 op env s

end Sys2Proof.Machine
end

