-- ==== Sys2Proof/Machine/Expr.lean ====
section
/-! DEFINITION. EXPR: the elementwise expression (R92 to R96, R404). -/

namespace Sys2Proof.Machine

open Sys2Proof

def flag32 (b : Bool) : F32 := if b then one32 else zero32

/-- The value of a node other than a leaf, from its sources (R95). -/
def nodeVal (eqv : Bool) (n : Node) (a b c : F32) : F32 :=
  match n.op with
  | 0x02 => toF32 eqv (vIn eqv (BitVec.ofNat 32 n.imm))
  | 0x10 => fAdd eqv a b
  | 0x11 => fSub eqv a b
  | 0x12 => fMul eqv a b
  | 0x13 => fDiv eqv a b
  | 0x14 => fFma eqv a b c
  | 0x15 => fMax eqv a b
  | 0x16 => fMin eqv a b
  | 0x17 => fNeg eqv a
  | 0x18 => fAbs eqv a
  | 0x19 => toF32 eqv (vIn eqv (if fGt eqv a zero32 then b else c))
  | 0x1A => flag32 (fGt eqv a b)
  | 0x1B => flag32 (fEq eqv a b)
  | 0x1C => flag32 (vIsFinite (vIn eqv a))
  | 0x1D => fFloor eqv a
  | 0x20 => fSqrt eqv a
  | 0x21 => fRsqrt eqv a
  | 0x22 => fRecip eqv a
  | 0x23 => fExp eqv a
  | 0x24 => fLog eqv a
  | 0x25 => fTanh a
  | 0x26 => fSigmoid a
  | 0x27 => fErf a
  | 0x28 => fSin a
  | _ => fCos a

/-- The values of a program's nodes in order; `leaf` gives input k in a broadcast mode. -/
def evalNodes (eqv : Bool) (leaf : Nat → Nat → F32) : List Node → List F32 → List F32
  | [], vs => vs
  | n :: t, vs =>
    let v := if n.op = 0x01 then leaf (field n.imm 0 2) (field n.imm 2 2)
      else nodeVal eqv n (vs.getD n.a zero32) (vs.getD n.b zero32) (vs.getD n.c zero32)
    evalNodes eqv leaf t (vs ++ [v])

/-- The result of a program: node NODES − 1 (R94). -/
def evalExpr (eqv : Bool) (ns : List Node) (leaf : Nat → Nat → F32) : F32 := (evalNodes eqv leaf ns []).getLastD zero32

/-- Nodes that run on the 256 lanes, and on the special-function unit. -/
def laneNodes (ns : List Node) : Nat := ns.countP (fun n => (0x10 ≤ n.op && n.op ≤ 0x1D) && n.op ≠ 0x13)
def sfuNodes (ns : List Node) : Nat := ns.countP (fun n => n.op = 0x13 || 0x20 ≤ n.op)

/-- Where a leaf read in a broadcast mode stands in its operand (R93). -/
def leafPos (mode r c : Nat) : Nat × Nat :=
  match mode with
  | 0 => (r, c)
  | 1 => (0, c)
  | 2 => (0, r)
  | _ => (0, 0)

/-- Rows and columns by which output 0 of a flat count is measured (R404). -/
def flatShape (count w : Nat) : Nat × Nat := if w = 0 then (1, count) else (cdiv count w, w)

/-- Values of a flat vector cut into rows of w. -/
def cutRows (count w : Nat) (f : Nat → F32) : List (List F32) :=
  let sh := flatShape count w
  (List.range sh.1).map (fun r => (List.range (min sh.2 (count - r * sh.2))).map (fun c => f (r * sh.2 + c)))

def runExpr (s0 : State) (c : ExecCtx) (d : Bytes) : Ran :=
  let prog := readProgram s0 { c with places := [] } d
  let us := (planExpr d prog).uses
  let eqv := dEqv d
  let count := fld d 0x38 4
  let w := fld d 0x3C 2
  let ns := prog.getD []
  onInputs s0 c us (fun s =>
    let leaf (r col k mode : Nat) : F32 :=
      let sh := exprShape count w mode
      let x := leafPos mode r col
      match useOf d (0x18 + 8 * k) k false sh.1 sh.2 0 with
      | u :: _ => opndF32 s c eqv u.trans u.view x.1 x.2
      | [] => zero32
    let sh := exprShape count w 0
    let rows := tabulate sh.1 sh.2 (fun r col => evalExpr eqv ns (leaf r col))
    match useAt us 0x30 with
    | some u =>
      { s := emit s c d u (field (byteAt d 0x3E) 0 2) (streamOf d) (elemIndex d) rows
        rows := if w = 0 then cutRows count (xTcols d) (rowVal rows 0) else rows
        bound := 32 + max (max (cdiv (count * laneNodes ns) 256) (cdiv (count * sfuNodes ns) 64)) (cdiv (readBytes (us.filter (fun u => u.off ≠ 0x10))) 2048) }
    | none => { s := s })

/-- EXPR. Its program is checked as it stands when it runs (R92, R94). -/
def execExpr (op : Nat) (env : Env) (s : State) : Out :=
  runOp s op 0x2080 env (fun s o => match lateRefusal s o.part o.core o.desc with
    | some (st, xs) => complete s o st xs 0
    | none => finishRun o env (runExpr s (ctxOf o env) o.desc))

end Sys2Proof.Machine
end

