-- ==== Sys2Proof/Machine/Rng.lean ====
section
/-! DEFINITION. Random numbers (R102, R403). -/

namespace Sys2Proof.Machine

open Sys2Proof

/-- The top 24 bits of draw j for an element. -/
def rngBits (s : State) (c : ExecCtx) (d : Bytes) (elem j : Nat) : Nat :=
  let k := crgKeyOf s c.part d (streamOf d + 8 + j)
  (crg k.seed k.tensor elem k.step k.stream).toNat >>> 8

/-- uⱼ: draw j as a fraction. -/
def rngU (n : Nat) : F32 := toF32 false (.fin false n (-24))

/-- T of RNG_BERNOULLI: P1 · 2^24 truncated and clamped. -/
def bernoulliT (p1 : F32) : Nat :=
  match vOf p1 with
  | .inf neg => if neg then 0 else 2 ^ 24
  | .fin neg m e => if neg then 0 else min (2 ^ 24) (roundGrid .rtz m (e + 24) 0)
  | .nan => 0

/-- The value of one element before narrowing. RNG_UNIFORM follows R102's formula, whose rounding can give P2 itself
(DEDUCED, log 173). -/
def rngValue (op : Nat) (p1 p2 : F32) (n0 n1 : Nat) : F32 :=
  match op with
  | 0x5140 => fFma false (fSub false p2 p1) (rngU n0) p1
  | 0x5141 =>
    let l := fLog false (fAdd false (rngU n0) (toF32 false (pow2 (-24))))
    let root := fSqrt false (fMul false 0xC0000000#32 l)
    fAdd false p1 (fMul false (fMul false p2 root) (fCos (fMul false 0x40C90FDB#32 (rngU n1))))
  | _ => if n0 < bernoulliT p1 then p2 else zero32

def runRng (s : State) (c : ExecCtx) (d : Bytes) : Ran :=
  let us := (planRng d).uses
  let op := dBase d
  let p1 : F32 := BitVec.ofNat 32 (fld d 0x20 4)
  let p2 : F32 := BitVec.ofNat 32 (fld d 0x24 4)
  let count := fld d 0x18 4
  match useAt us 0x10 with
  | some u =>
    let w := if u.view.square then xTcols d else count
    let idx (r col : Nat) : Nat := elemIndex d 0 0 + r * w + col
    let val (r col : Nat) : F32 := rngValue op p1 p2 (rngBits s c d (idx r col) 0) (rngBits s c d (idx r col) 1)
    let rows := tabulate (count / w) w val
    let a := if op = 0x5141 then 8 else 2
    let f := if op = 0x5141 then 3 else 0
    { s := emit s c d u 0 (streamOf d) idx rows
      rows := if u.view.square then rows else cutRows count (xTcols d) (rowVal rows 0)
      bound := 32 + max (max (cdiv (count * a) 256) (cdiv (count * f) 64)) (cdiv (writtenBytes us) 2048) }
  | none => { s := s }

/-- What the RNG rows share. -/
def rngOp (opcode op : Nat) (env : Env) (s : State) : Out :=
  runOp s op opcode env (fun s o => finishRun o env (runRng s (ctxOf o env) o.desc))

/-- RNG_UNIFORM. -/
def execRngUniform (op : Nat) (env : Env) (s : State) : Out := rngOp 0x5140 op env s
/-- RNG_NORMAL. -/
def execRngNormal (op : Nat) (env : Env) (s : State) : Out := rngOp 0x5141 op env s
/-- RNG_BERNOULLI. -/
def execRngBernoulli (op : Nat) (env : Env) (s : State) : Out := rngOp 0x5142 op env s

end Sys2Proof.Machine
end

