-- ==== Sys2Proof/Machine/Caddy.lean ====
section
/-! DEFINITION. The Caddy: stash entries, codecs, re-execution and frees (R103, R181 to R191). -/

namespace Sys2Proof.Machine

open Sys2Proof

/-! ### Running a recorded descriptor -/

/-- Run a descriptor of classes 0x1 to 0x5 in a setting: the same bits go to the same places (R81). -/
def runDesc (s : State) (c : ExecCtx) (h : HostIn) (d : Bytes) : Ran :=
  let op := dBase d
  if op = 0x1040 then runGemm s c d
  else if op = 0x2080 then runExpr s c d
  else if dClass d = 3 then runReduce s c d
  else if op = 0x4104 || op = 0x4105 then runIndexed s c d
  else if op = 0x4106 then runHostRead s c h d
  else if op = 0x4107 then runHostWrite s c h d
  else if dClass d = 4 then runCopy s c d
  else if dClass d = 5 then runRng s c d
  else { s := s }

/-! ### Codecs (R184) -/

/-- Stored runs of an encoded entry: offset from DST, and bytes. -/
abbrev Runs := List (Nat × Bytes)

/-- The code of a SPARSE element is zero: +0 or −0. -/
def sparseZero (fmt code plane : Nat) : Bool := vIsZero (elemVal false fmt code plane)

/-- One SPARSE group: its bitmap and its non-zero elements, padded to 128 bytes. -/
def sparseGroup (fmt : Nat) (codes : List Nat) : Bytes :=
  let flags := codes.map (fun c => if sparseZero fmt c 0 then 0 else 1)
  let nz := codes.filter (fun c => !sparseZero fmt c 0)
  let data := leBytes (nz.length * (fmtBits fmt / 8)) (packCodes (fmtBits fmt) nz)
  leBytes 128 (packCodes 1 flags) ++ padTo (up128 data.length) data

/-- Encode the elements of SRC (codes in storage order) with a codec. -/
def stashEncode (codec fmt : Nat) (codes : List Nat) : Runs :=
  let n := codes.length
  let val (c : Nat) : Val := elemVal false fmt c 0
  let mx (code : Nat) : Runs :=
    let blocks := (groupsOf 32 (n / 32 + 1) codes).map (fun b =>
      encodeMx code (List.replicate 32 Rnd.rne) (b.map val ++ List.replicate (32 - b.length) (.fin false 0 0)))
    [(0, (blocks.flatMap (·.2)).map (BitVec.ofNat 8)), (up128 (32 * cdiv n 32), blocks.map (fun b => BitVec.ofNat 8 b.1))]
  match codec with
  | 0 => [(0, leBytes (cdiv (n * fmtBits fmt) 8) (packCodes (fmtBits fmt) codes))]
  | 1 => [(0, leBytes (2 * n) (packCodes 16 (codes.map (fun c => narrow false .rne 1 (val c)))))]
  | 2 => mx 3
  | 3 => mx 4
  | 4 => [(0, (groupsOf 1024 (n / 1024 + 1) codes).flatMap (sparseGroup fmt))]
  | _ => [(0, leBytes (cdiv n 8) (packCodes 1 (codes.map (fun c =>
      let v := val c; if !vIsNan v && !vSign v && !vIsZero v then 1 else 0))))]

/-- Codes of a flat tensor in storage order. -/
def flatCodes (s : State) (c : ExecCtx) (v : TView) : List Nat := (List.range v.cols).map (elemCode s c v 0)

/-- Write runs at a device address as whole 128-byte blocks; bytes beyond a run are undefined. -/
def writeRuns (s : State) (c : ExecCtx) (base : Nat) (rs : Runs) : State :=
  rs.foldl (fun t r =>
    let pad := up128 r.2.length - r.2.length
    devWrite (drawFree t pad) c false (base + r.1) (r.2 ++ freeBytes t pad)) s

/-! ### Producers (R103, R181, R188) -/

/-- The producers PROD_FIRST to PROD_LAST that the ring still holds. -/
def prodsOf (s : State) (d : Bytes) : List Recent :=
  let first := fld d 0x2C 4
  let span := (fld d 0x30 4 + 2 ^ 32 - first) % 2 ^ 32
  let r := getRing s (fld d 0x28 2)
  if !r.enable then [] else r.recent.filter (fun e => decide ((e.pos + 2 ^ 32 - first) % 2 ^ 32 ≤ span))

/-- Fetch positions a recent descriptor takes. -/
def slotsOf (e : Recent) : Nat := if e.bytes.length = 128 then 2 else 1

/-- Every position of the range is held, and both ends are first slots (REX 1). -/
def rangeHeld (d : Bytes) (ps : List Recent) : Bool :=
  let first := fld d 0x2C 4
  let last := fld d 0x30 4
  let span := (last + 2 ^ 32 - first) % 2 ^ 32
  ps.any (fun e => e.pos = first) && ps.any (fun e => e.pos = last)
    && decide (span + 1 ≤ (ps.map slotsOf).sum)

/-- Pieces of a stretch left after taking another stretch away. -/
def cutPiece (x y : Nat × Nat) : List (Nat × Nat) :=
  if !overlap x.1 x.2 y.1 y.2 then [x] else
  (if x.1 < y.1 then [(x.1, y.1 - x.1)] else []) ++
    (if y.1 + y.2 < x.1 + x.2 then [(y.1 + y.2, x.1 + x.2 - (y.1 + y.2))] else [])

def cutAll (xs ys : List (Nat × Nat)) : List (Nat × Nat) := ys.foldl (fun l y => l.flatMap (fun x => cutPiece x y)) xs

/-- The stretches of a list of extents in one space. -/
def partsIn (sram : Bool) (es : List Ext) : List (Nat × Nat) :=
  (es.filter (fun e => e.sram = sram)).flatMap (fun e => e.parts.filter (fun x => x.2 ≠ 0))

/-- A slot still holds the version a producer latched. -/
def latchHolds (s : State) (l : Latch) : Bool := slotVersion (getVer s l.layer) l.slot = some l.version

/-- What a producer reads, of what earlier producers did not write, lies in class W or in a latched view. -/
def inputsKept (s : State) (p : Nat) (earlier : List Ext) (e : Recent) : Bool :=
  let ins := inExts (usesOf s p e.bytes)
  (cutAll (partsIn true ins) (partsIn true earlier)).isEmpty &&
    (cutAll (partsIn false ins) (partsIn false earlier)).all (fun x => inClass s p x.1 x.2 0 || !(viewsHit s p x.1 x.2).isEmpty)

/-- Walk the producers: (outputs so far, all inputs kept). -/
def walkProds (s : State) (p : Nat) (ps : List Recent) : List Ext × Bool :=
  ps.foldl (fun t e => (t.1 ++ outExts (usesOf s p e.bytes), t.2 && inputsKept s p t.1 e)) ([], true)

/-- SRC lies within one producer's output. -/
def srcWithin (s : State) (p : Nat) (src : Ext) (ps : List Recent) : Bool :=
  ps.any (fun e => (usesOf s p e.bytes).any (fun u =>
    u.out && u.view.sram = src.sram && (cutAll (partsIn src.sram [src]) (partsIn src.sram [u.view.elemExt])).isEmpty))

/-- REX of a STASH_PUT: 0, or the first reason that fails (R188). -/
def rexOf (s : State) (p : Nat) (d : Bytes) (src : Ext) (ps : List Recent) : Nat :=
  if !rangeHeld d ps then 1
  else if ps.any (fun e => 5 < dClass e.bytes || [0x4106, 0x4107, 0x0003].contains (dBase e.bytes)) then 2
  else if !(walkProds s p ps).2 then 3
  else if ps.any (fun e => e.latches.any (fun l => !latchHolds s l)) then 4
  else if ps.any (fun e => match e.status with
    | some st => stFail st
    | none => true) then 5
  else if !srcWithin s p src ps then 6 else 0

/-- Slots an entry pins: those its producers latched that still hold their version (R181). -/
def pinsOf (s : State) (ps : List Recent) : List Pin :=
  (ps.flatMap (fun e => e.latches)).foldl (fun acc l =>
    let x : Pin := { layer := l.layer, slot := l.slot, version := l.version }
    if latchHolds s l && !acc.contains x then acc ++ [x] else acc) []

def fenceOf (s : State) (layer slot : Nat) : Nat :=
  if slot = 0 then (getVer s layer).fence0 else (getVer s layer).fence1

/-! ### STASH_PUT -/

/-- Stash entries of a partition. -/
def stashCount (s : State) (p : Nat) : Nat := s.tr.stash.countP (fun e => e.1 / 2 ^ 32 = p)

/-- An earlier STASH_PUT of the same ENTRY has been dispatched and not completed (R191). (DEDUCED, log 55.) -/
def putBefore (s : State) (o : Op) (entry : Nat) : Bool :=
  s.q.ops.any (fun x => x.part = o.part && dBase x.desc = 0x6180 && fld x.desc 0x24 4 = entry && x.seq < o.seq && x.phase ≠ .recordHeld)

/-- The first record slot that no entry of the partition uses. -/
def freeSlot (s : State) (p : Nat) : Nat :=
  let used := (s.tr.stash.filter (fun e => e.1 / 2 ^ 32 = p)).filterMap (fun e => e.2.map (·.slot))
  (findN (used.length + 1) (fun i => !used.contains i)).getD 0

/-- The 8 KiB record of an entry: its header, its pins with their versions, and its producers with their fetch positions,
as far as they fit (R183). (DESIGN CHOICE, log 49.) -/
def recordBytes (entry : Nat) (e : Stash) : Bytes :=
  let head := leBytes 4 entry ++ leBytes 1 e.codec ++ leBytes 1 e.fmt ++ leBytes 1 e.layout ++ leBytes 1 e.rex
    ++ leBytes 4 e.count ++ leBytes 2 e.ring ++ leBytes 2 e.pins.length ++ leBytes 8 e.dst ++ leBytes 8 e.size ++ leBytes 8 e.src.toNat
  let pins := e.pins.flatMap (fun x => leBytes 2 x.layer ++ leBytes 2 x.slot ++ leBytes 6 x.version)
  let prods := e.prods.flatMap (fun x => leBytes 4 x.pos ++ leBytes 4 x.bytes.length ++ x.bytes)
  (head ++ pins ++ prods).take 8192

/-- Write the record of an entry to its slot. -/
def writeRecord (s : State) (c : ExecCtx) (entry : Nat) (e : Stash) : State :=
  devWrite s c false ((getPart s c.part).recBase * 2 ^ 20 + 8192 * e.slot) (recordBytes entry e)

def stashClocks (tensor size : Nat) : Nat := 32 + max (cdiv tensor 512) (cdiv size 128)

/-- STASH_PUT. -/
def execStashPut (op : Nat) (env : Env) (s0 : State) : Out :=
  runOp s0 op 0x6180 env (fun s o =>
    let d := o.desc
    let c := ctxOf o env
    let entry := fld d 0x24 4
    let src := refAt d 0x10
    let v := flatView src.fmt (fld d 0x20 4) src.sram src.addr
    let dst := (refAt d 0x18).addr
    let codec := byteAt d 0x2A
    let size := stashBytes codec src.fmt v.cols
    let ps := prodsOf s d
    let pins := pinsOf s ps
    if putBefore s o entry then s
    else if (getStash s o.part entry).isSome then failRun s o env 0x81 0
    else if (getPart s o.part).cdEntries ≤ stashCount s o.part then complete s o stNoRes 3 0
    else if pins.any (fun x => decide (65535 ≤ fenceOf s x.layer x.slot)) then complete s o stNoRes 5 0
    else withInputs s o env (fun s1 =>
      let rex := rexOf s1 o.part d v.elemExt ps
      let e : Stash := { codec, count := v.cols, fmt := src.fmt, layout := src.layout, src := BitVec.ofNat 64 (fld d 0x10 8)
                         dst, size, ring := fld d 0x28 2, rex, pins, prods := ps, slot := freeSlot s1 o.part }
      let s2 := writeRuns s1 c dst (stashEncode codec src.fmt (flatCodes s1 c v))
      let s3 := pins.foldl (fun t x => fenceAdd t x.layer x.slot) s2
      finishOk (setStash (writeRecord s3 c entry e) o.part entry (some e)) o env 0 (size * 2 ^ 32 + rex * 2 ^ 24)))

/-! ### Decoding -/

/-- Read the stored stretch, block by block, with its checks. -/
def stashRead (s : State) (c : ExecCtx) (a n : Nat) : State × Option Nat × Bytes :=
  let (s1, e) := checkRange s c false a n
  (s1, e, devBytes s1 c false a n)

/-- How far reading SPARSE groups has come: the address of the next group, the elements left, the codes read. -/
structure SparseAt where
  s     : State
  err   : Option Nat := none
  addr  : Nat
  left  : Nat
  codes : List Nat := []

/-- Read one SPARSE group. -/
def sparseStep (c : ExecCtx) (fmt : Nat) (t : SparseAt) : SparseAt :=
  let (s1, e1, bm) := stashRead t.s c t.addr 128
  let w := fmtBits fmt / 8
  let map := le bm
  let k := min t.left 1024
  let nz := popcount map k
  let (s2, e2, data) := stashRead s1 c (t.addr + 128) (w * nz)
  { s := s2, err := e1.or e2, addr := t.addr + 128 + up128 (w * nz), left := t.left - k
    codes := t.codes ++ (List.range k).map (fun j => if bit map j then fld data (w * popcount map j) w else 0) }

/-- Codes of n elements in SPARSE groups from an address. -/
def sparseRead (s : State) (c : ExecCtx) (fmt groups a n : Nat) : State × Option Nat × List Nat :=
  let t := (List.range groups).foldl (fun t _ => if t.err.isSome then t else sparseStep c fmt t) { s, addr := a, left := n }
  (t.s, t.err, if t.err.isSome then [] else t.codes)

/-- The stored elements of an entry as (code, block byte), in the format it stores. -/
def stashDecode (s : State) (c : ExecCtx) (e : Stash) : State × Option Nat × List (Nat × Nat) :=
  let n := e.count
  let flat (bits : Nat) : State × Option Nat × List (Nat × Nat) :=
    let (s1, x, b) := stashRead s c e.dst (cdiv (n * bits) 8)
    (s1, x, (List.range n).map (fun i => (field (le b) (i * bits) bits, 0)))
  match e.codec with
  | 0 => flat (fmtBits e.fmt)
  | 1 => flat 16
  | 4 =>
    let (s1, x, l) := sparseRead s c e.fmt (cdiv n 1024) e.dst n
    (s1, x, l.map (fun y => (y, 0)))
  | 5 => flat 1
  | _ =>
    let (s1, x, b) := stashRead s c e.dst (32 * cdiv n 32)
    let (s2, y, p) := stashRead s1 c (e.dst + up128 (32 * cdiv n 32)) (cdiv n 32)
    (s2, x.or y, (List.range n).map (fun i => (byteAt b i, byteAt p (i / 32))))

/-- The format in which an entry stores its elements; 0 for SIGN_MASK. -/
def storedFmt (e : Stash) : Nat :=
  match e.codec with
  | 0 => e.fmt
  | 1 => 1
  | 2 => 0x13
  | 3 => 0x14
  | 4 => e.fmt
  | _ => 0

/-- The formats that STASH_GET may restore an entry into (R186). -/
def getFmts (e : Stash) : List Nat :=
  match e.codec with
  | 0 => [e.fmt]
  | 1 => [1, 0]
  | 2 => [0, 1, 2, 0x13]
  | 3 => [0, 1, 2, 0x14]
  | 4 => [e.fmt]
  | _ => [0, 1, 2, 7]

/-- The FP32 value of a stored element. -/
def stashValue (e : Stash) (x : Nat × Nat) : F32 :=
  if e.codec = 5 then (if x.1 = 1 then one32 else zero32) else elemF32 false (storedFmt e) x.1 x.2

/-- Write the restored elements to DST: stored bits where the format is the stored one, else narrowed RNE. -/
def getWrite (s : State) (c : ExecCtx) (d : Bytes) (e : Stash) (xs : List (Nat × Nat)) : State :=
  let v := getView d e
  if v.fmt = storedFmt e && e.codec ≠ 5 then
    writeTensor s c v (codeRows v (fun _ i => (xs.getD i (0, 0)).1) (fun _ i => (xs.getD i (0, 0)).2))
  else
    writeTensor s c v (encodeRows false v (fun _ _ => .rne) (fun _ i => vOf (stashValue e (xs.getD i (0, 0)))))

/-- Steps 3 and 4 of R186: (STATUS, XSTATUS) of a DST that does not suit the entry. -/
def getRefusal (s : State) (p : Nat) (d : Bytes) (e : Stash) : Option (Nat × Nat) :=
  let r := refAt d 0x10
  let v := getView d e
  let beyond (x : Ext) : Bool := x.sram && decide (sramSize < x.base % 2 ^ 21 + x.len)
  let out (x : Ext) : Bool := !x.sram && ((rangeRegion s p x.base x.len).isNone || !(extViews s p x).isEmpty)
  if !(getFmts e).contains r.fmt || r.layout ≠ e.layout then some (stBad, 0x10)
  else if v.exts.any beyond then some (stBad, 0x10)
  else if v.exts.any out then some (stPerm, 0x10)
  else none

/-! ### STASH_GET and its re-execution -/

/-- A STASH_GET has restored its elements: measured and completed. -/
def getDone (s : State) (o : Op) (env : Env) (e : Stash) (xs : List (Nat × Nat)) (reex : Bool) : State :=
  let v := getView o.desc e
  let s1 := getWrite s (ctxOf o env) o.desc e xs
  let (s2, nf) := measure s1 o.part o.desc [xs.map (stashValue e)]
  let t := if v.sram && (!hasPlane v.fmt || v.planeSram) then BitVec.ofNat 32 (min (stashClocks v.bytes e.size) env.cycles.toNat) else env.cycles
  finishOk s2 o env (if reex then 1 else 0) (infoOf (if reex then env.cycles else t) nf)

/-- The entry is lost (R189): DST is undefined and the event is raised. -/
def stashLost (s : State) (o : Op) (env : Env) (entry : Nat) (e : Stash) (xs info : Nat) : State :=
  let s1 := freeExts s (ctxOf o env) (getView o.desc e).exts
  let s2 := raise s1 0x0702 o.part (leBytes 4 entry ++ leBytes 1 xs ++ leBytes 1 e.rex)
  complete s2 o stStashLost xs (infoOf env.cycles 0 + info)

/-- STASH_GET. A persistent mismatch makes it wait for its re-execution, or loses the entry. -/
def execStashGet (op : Nat) (env : Env) (s0 : State) : Out :=
  runOp s0 op 0x6181 env (fun s o =>
    let entry := fld o.desc 0x18 4
    match getStash s o.part entry with
    | none => complete s o 0x80 0 (infoOf env.cycles 0)
    | some e =>
      match getRefusal s o.part o.desc e with
      | some (st, xs) => complete s o st xs 0
      | none =>
        match stashDecode s { part := o.part, mem := env.mem } e with
        | (s1, none, xs) => getDone s1 o env e xs false
        | (s1, some _, _) =>
          if e.rex ≠ 0 then stashLost s1 o env entry e 1 (e.rex * 2 ^ 24)
          else updOp s1 o.id (fun x => { x with phase := .reexecute }))

/-- Places for a producer's outputs in the re-execution buffer, from a free address on, 1 KiB aligned; the rows of a
strided output keep their distances, and what lies between them has no place. (DESIGN CHOICE, log 56.) -/
def assignPlaces (es : List Ext) (next : Nat) : List (Bool × Nat × Nat × Nat) × Nat :=
  es.foldl (fun t e => (t.1 ++ e.parts.map (fun x => (e.sram, x.1, x.2, t.2 + (x.1 - e.base))), t.2 + roundUp (extEnd e) 1024)) ([], next)

/-- Total buffer bytes the range's outputs need. -/
def placesNeed (s : State) (p : Nat) (ps : List Recent) : Nat :=
  (ps.map (fun e => (assignPlaces (outExts (usesOf s p e.bytes)) 0).2)).sum

/-- Run the producers in fetch order: the state, the XSTATUS of a failure, and the places of all outputs. -/
def rerunProds (p : Nat) (mem : MemIn) : List Recent → Nat → List (Bool × Nat × Nat × Nat) → State →
    State × Option Nat × List (Bool × Nat × Nat × Nat)
  | [], _, pl, s => (s, none, pl)
  | e :: t, next, pl, s =>
    let (own, next1) := assignPlaces (outExts (usesOf s p e.bytes)) next
    let x := runDesc s { part := p, latches := e.latches, mem, places := own ++ pl } {} e.bytes
    match x.fail with
    | some (st, _, _) => (x.s, some (if st = stCheck then 2 else 5), pl)
    | none => rerunProds p mem t next1 (own ++ pl) x.s

/-- A stored block that reads clean disagrees with the recomputed bytes (R190 step 4). -/
def runsDiffer (s : State) (c : ExecCtx) (base : Nat) (rs : Runs) : Bool :=
  rs.any (fun r => anyN (cdiv r.2.length 128) (fun i =>
    let b := (r.2.drop (128 * i)).take 128
    let a := base + r.1 + 128 * i
    (checkRange s c false a b.length).2.isNone && decide (devBytes s c false a b.length ≠ b)))

/-- STASH_REEXECUTION: the steps of R190 for a STASH_GET that met a persistent mismatch. -/
def execStashReexecution (op : Nat) (env : Env) (s0 : State) : Out :=
  let s := envIn s0 env
  match findOp s op with
  | none => .next s
  | some o =>
    if o.phase ≠ .reexecute then .next s
    else if coreDistrusted s o then .next (failRun s o env stCheck 2) else
    let entry := fld o.desc 0x18 4
    match getStash s o.part entry with
    | none => .next s
    | some e =>
      let c : ExecCtx := { part := o.part, mem := env.mem }
      let r := getPart s o.part
      match stashDecode s c e with
      | (s1, none, xs) => .next (getDone s1 o env e xs true)
      | (s1, some _, _) =>
        if r.rexSize * 2 ^ 20 < placesNeed s1 o.part e.prods || r.rexSize = 0 then .next (stashLost s1 o env entry e 4 0)
        else match rerunProds o.part env.mem e.prods (r.rexBase * 2 ^ 20) [] s1 with
          | (s2, some xs, _) => .next (stashLost s2 o env entry e xs 0)
          | (s2, none, pl) =>
            let src := parseRef e.src.toNat
            let rc : ExecCtx := { part := o.part, mem := env.mem, places := pl }
            let v := flatView src.fmt e.count src.sram src.addr
            let (s3, bad) := checkExts s2 rc [v.elemExt]
            let runs := stashEncode e.codec e.fmt (flatCodes s3 rc v)
            if bad.isSome then .next (stashLost s3 o env entry e 2 0)
            else if runsDiffer s3 c e.dst runs then .next (stashLost s3 o env entry e 3 0)
            else
              let s4 := writeRuns s3 c e.dst runs
              let s5 := raise s4 0x0701 o.part (leBytes 4 entry ++ leBytes 2 e.ring)
              match stashDecode s5 { c with mem := {} } e with
              | (s6, none, xs) => .next (getDone s6 o env e xs true)
              | (s6, some _, _) => .next (stashLost s6 o env entry e 5 0)

/-! ### STASH_FREE -/

/-- A STASH_GET or re-execution of the entry runs. -/
def getRuns (s : State) (p entry : Nat) : Bool :=
  s.q.ops.any (fun x => x.part = p && dBase x.desc = 0x6181 && fld x.desc 0x18 4 = entry && x.phase ≠ .recordHeld)

/-- Remove an entry and release its pins. -/
def dropStash (s : State) (p entry : Nat) : State :=
  match getStash s p entry with
  | none => s
  | some e => setStash (releasePins s e.pins) p entry none

/-- STASH_FREE: frees the entry, or waits for a running STASH_GET of it. -/
def execStashFree (op : Nat) (env : Env) (s0 : State) : Out :=
  runOp s0 op 0x6182 env (fun s o =>
    let entry := fld o.desc 0x10 4
    if (getStash s o.part entry).isNone then complete s o 0x80 0 (infoOf env.cycles 0)
    else if getRuns s o.part entry then updOp s o.id (fun x => { x with phase := .freeing })
    else finishOk (dropStash s o.part entry) o env 0 (infoOf env.cycles 0))

/-- The stash entry whose timed-out STASH_FREE had this in-flight slot. (DEDUCED, log 57.) -/
def lateFree (s : State) (op : Nat) : Option Nat :=
  (s.tr.stash.find? (fun e => match e.2 with
    | some x => x.freeing = some op
    | none => false)).map (·.1)

/-- STASH_FREE_DEFERRED: once no STASH_GET of the entry runs, the waiting free takes effect; it completes unless its
timeout has already ended it (R191). -/
def execStashFreeDeferred (op : Nat) (s : State) : Out :=
  match (findOp s op).filter (fun o => decide (o.phase = .freeing)) with
  | some o =>
    let entry := fld o.desc 0x10 4
    if getRuns s o.part entry then .next s
    else if coreDistrusted s o then .next (failTimed s o stCheck 2)
    else .next (complete (drawFree (dropStash s o.part entry) 1) o stOk 0 (infoOf (freeClocks s) 0))
  | none =>
    match lateFree s op with
    | none => .next s
    | some k => if getRuns s (k / 2 ^ 32) (k % 2 ^ 32) then .next s else .next (dropStash s (k / 2 ^ 32) (k % 2 ^ 32))

end Sys2Proof.Machine
end

