-- ==== Sys2Proof/Machine/Steep.lean ====
section
/-! DEFINITION. What the Steeper computes: shard and schedule images (R204 to R208), the learning rate (R209), the rules
of one block of elements (R213 to R215), the compute copy (R218, R219). -/

namespace Sys2Proof.Machine

open Sys2Proof

/-! ### Shard images (R204) -/

def shRule (b : Bytes) : Nat := field (byteAt b 1) 0 4
def shOpt (b : Bytes) (i : Nat) : Bool := bit (byteAt b 2) i
def shCfmt (b : Bytes) : Nat := byteAt b 3
def shLayer (b : Bytes) : Nat := fld b 4 2
def shSched (b : Bytes) : Nat := field (byteAt b 6) 0 4
def shTensor (b : Bytes) : Nat := fld b 8 3
def shRows (b : Bytes) : Nat := fld b 0xC 4
def shCols (b : Bytes) : Nat := fld b 0x10 4
def shN (b : Bytes) : Nat := fld b 0x14 4
def shE0 (b : Bytes) : Nat := field (fld b 0x18 8) 0 40
def shToff (b : Bytes) : Nat := field (fld b 0x20 8) 0 40
def shHalf (b : Bytes) (h : Nat) : Nat := field (fld b (if h = 0 then 0x28 else 0x30) 8) 0 40
def shStage (b : Bytes) : Nat := field (fld b 0x38 8) 0 40
def shVevt (b : Bytes) : Nat := field (fld b 0x38 8) 40 16

def getShard (s : State) (e : Nat) : Bytes := tget [] s.st.shards e
def getSched (s : State) (p i : Nat) : Bytes := tget [] s.st.scheds (16 * p + i)

/-! ### State halves (R206, R207) -/

def up1k (n : Nat) : Nat := roundUp n 1024

def shNr (b : Bytes) : Nat := if shCols b = 0 then 0 else shN b / shCols b

/-- Bytes of each plane of a half, in order. -/
def planeSizes (b : Bytes) (xbytes : Nat) : List Nat :=
  let n := shN b
  [2 * roundUp n 32, roundUp n 32 / 32] ++
    (match shRule b with
    | 1 => [2 * shNr b, 2 * shCols b] ++ (if shOpt b 0 then [2 * n] else [])
    | 2 => [2 * n, 2 * n]
    | 3 => [2 * n]
    | _ => [xbytes])

/-- Offset of plane i within a half. -/
def planeOff (b : Bytes) (xbytes i : Nat) : Nat := ((planeSizes b xbytes).take i).foldl (fun a n => up1k (a + n)) 1024

/-- A half's size: the end of its last plane. -/
def halfSize (b : Bytes) (xbytes : Nat) : Nat :=
  let l := planeSizes b xbytes
  planeOff b xbytes (l.length - 1) + l.getLastD 0

/-- Size of the staging area (R206). -/
def stageSize (b : Bytes) (xbytes : Nat) : Nat :=
  match shRule b with
  | 1 => 4 * shN b
  | 4 => up1k (up1k (4 * shN b) + (halfSize b xbytes - 1024)) + (halfSize b xbytes - 1024)
  | _ => 0

/-! ### Memory as the Steeper sees it: addresses pass behind the views -/

def steepLoc (s : State) (p a : Nat) : Option (Nat × Nat) := (regionOf s p a).map (fun rid => (rid, a - (getRegion s rid).base * unit16))

def steepBytes (s : State) (p a n : Nat) : Bytes := match steepLoc s p a with
  | some (rid, off) => dramBytes s rid off n
  | none => zeros n

def steepWrite (s : State) (p : Nat) (m : MemIn) (a : Nat) (b : Bytes) : State := match steepLoc s p a with
  | some (rid, off) => dramWrite s m rid off b
  | none => s

/-- Check the blocks of a range; true where one is unreadable. -/
def steepCheck (s : State) (p : Nat) (m : MemIn) (a n : Nat) : State × Bool := match steepLoc s p a with
  | some (rid, off) => let (s1, e) := readRange s m rid off n; (s1, e.isSome)
  | none => (s, false)

/-- The half of an entry that its layer's current slot names, and the pending one (R207). -/
def curHalf (s : State) (b : Bytes) : Nat := (getVer s (shLayer b)).cur
def curAddr (s : State) (b : Bytes) : Nat := shHalf b (curHalf s b)
def pendAddr (s : State) (b : Bytes) : Nat := shHalf b (1 - curHalf s b)

/-- Last-applied step of an entry (R207). -/
def lastApplied (s : State) (p : Nat) (b : Bytes) : Nat := le (steepBytes s p (curAddr s b + 8) 6)
def halfXbytes (s : State) (p : Nat) (b : Bytes) : Nat := if shRule b = 4 then le (steepBytes s p (curAddr s b + 4) 4) else 0

/-- A half header (R207). -/
def halfHeader (rule xbytes step : Nat) : Bytes := [1#8] ++ leBytes 1 rule ++ zeros 2 ++ leBytes 4 xbytes ++ leBytes 6 step ++ zeros 50

/-- BF16 plane: FP32 value of element i, exactly. -/
def bf16At (s : State) (p a i : Nat) : F32 := elemF32 false 1 (le (steepBytes s p (a + 2 * i) 2)) 0

/-- Master weights of block b of a half. -/
def masterBlock (s : State) (p half : Nat) (img : Bytes) (b : Nat) : List F32 :=
  let e := le (steepBytes s p (half + planeOff img 0 1 + b) 1)
  (List.range 32).map (fun i => elemF32 false 9 (le (steepBytes s p (half + 1024 + 2 * (32 * b + i)) 2)) e)

/-- Master weight of owned element i. -/
def masterAt (s : State) (p half : Nat) (img : Bytes) (i : Nat) : F32 := (masterBlock s p half img (i / 32)).getD (i % 32) zero32

/-! ### Schedules (R208, R209) -/

def scF (b : Bytes) (off : Nat) : F32 := BitVec.ofNat 32 (fld b off 4)
def scWarm (b : Bytes) : Nat := field (byteAt b 1) 0 2
def scDecay (b : Bytes) : Nat := field (byteAt b 1) 2 3

/-- A finite FP32 field with lo ≤ x and, where `strict`, x < hi. -/
def inF32 (x lo hi : F32) (loStrict hiStrict : Bool) : Bool :=
  vIsFinite (vOf x) && (if loStrict then fGt false x lo else fGt false x lo || fEq false x lo)
    && (if hiStrict then fGt false hi x else fGt false hi x || fEq false x hi)

/-- The largest finite FP32 value. -/
def maxF32 : F32 := 0x7F7FFFFF#32

/-- Fields of a schedule image that break R208: (offset, fails). (DEDUCED, log 82.) -/
def schedBad (b : Bytes) : Chk :=
  let warm := scWarm b
  let decay := scDecay b
  let g := scF b 0xC
  chks [(0x01, warm = 3 || 5 < decay || field (byteAt b 1) 5 3 ≠ 0), (0x02, !zeroAt b 2 2), (0x04, !inF32 (scF b 4) zero32 maxF32 false false),
    (0x08, !(inF32 (scF b 8) zero32 maxF32 false false && !fGt false (scF b 8) (scF b 4))),
    (0x0C, if decay = 4 then !inF32 g zero32 one32 true true else !(vIsFinite (vOf g) && vIsZero (vOf g))),
    (0x16, !zeroAt b 0x16 2), (0x18, if warm = 0 then !zeroAt b 0x18 4 else zeroAt b 0x18 4), (0x1C, decay ≠ 0 && zeroAt b 0x1C 4),
    (0x20, !inF32 (scF b 0x20) zero32 one32 false true), (0x24, !inF32 (scF b 0x24) zero32 one32 false true),
    (0x28, !inF32 (scF b 0x28) zero32 maxF32 true false), (0x2C, !inF32 (scF b 0x2C) zero32 maxF32 false false),
    (0x30, !vIsFinite (vOf (scF b 0x30))), (0x34, !vIsFinite (vOf (scF b 0x34))), (0x38, !zeroAt b 0x38 8)]

def pi32 : F32 := 0x40490FDB#32

/-- lr_at of R209. (DEDUCED, log 134.) -/
def lrAt (e : Bytes) (step : Nat) : F32 :=
  let t := min (step - fld e 0x10 6) 0xFFFFFFFF
  let peak := scF e 4
  let low := scF e 8
  let w := fld e 0x18 4
  let dn := fld e 0x1C 4
  let add := fAdd false
  let sub := fSub false
  let mul := fMul false
  let dv := fDiv false
  if t < w then
    let f := dv (fOfNat (t + 1)) (fOfNat w)
    if scWarm e = 1 then mul peak f
    else mul peak (mul half32 (sub one32 (fCos (mul pi32 f))))
  else
    let u := t - w
    let d := fOfNat dn
    let cosine (p : F32) : F32 := fFma false (sub peak low) (mul half32 (add one32 (fCos (mul pi32 p)))) low
    match scDecay e with
    | 0 => peak
    | 1 => cosine (dv (fOfNat (min u dn)) d)
    | 2 => fFma false (sub low peak) (dv (fOfNat (min u dn)) d) peak
    | 3 => fMax false low (mul peak (fRsqrt false (dv (add (fOfNat u) d) d)))
    | 4 => fMax false low (mul peak (fExp false (mul (fOfNat (u / dn)) (fLog false (scF e 0xC)))))
    | _ => cosine (dv (fOfNat (u % dn)) d)

/-! ### Storing results (R213, R219) -/

def steepKey (s : State) (p : Nat) (img : Bytes) (step stream : Nat) : CrgKey :=
  { seed := (getPart s p).seed, tensor := shTensor img, step, stream }

/-- Round a value to BF16 stochastically (R40, R42). -/
def storeBf16 (k : CrgKey) (elem : Nat) (v : F32) : Nat := narrow false (elemRnd k 2 1 elem) 1 (vOf v)

def bf16Bad (c : Nat) : Bool := !vIsFinite (decodeFloat bf16Fmt c)

/-- A BS16 block: exponent byte and 32 significands (R33); elements beyond N are zero. -/
def storeBs16 (k : CrgKey) (e0 n b : Nat) (vs : List F32) : Nat × List Nat :=
  let is := (List.range 32).map (fun i => 32 * b + i)
  encodeBlock false 9 (is.map (fun i => if i < n then elemRnd k 2 9 (e0 + i) else .rtz))
    (is.map (fun i => if i < n then vOf (vs.getD (i - 32 * b) zero32) else .fin false 0 0))

/-- Write a master block to a half; whether it is non-finite. -/
def putMaster (s : State) (p : Nat) (m : MemIn) (half : Nat) (img : Bytes) (b : Nat) (blk : Nat × List Nat) : State × Bool :=
  let s1 := steepWrite s p m (half + 1024 + 64 * b) ((blk.2.map (leBytes 2)).flatten)
  (steepWrite s1 p m (half + planeOff img 0 1 + b) (leBytes 1 blk.1), blk.1 = 0xFF)

/-- Write BF16 codes to a plane from element i; whether one is non-finite. -/
def putBf16 (s : State) (p : Nat) (m : MemIn) (a i : Nat) (cs : List Nat) : State × Bool :=
  (steepWrite s p m (a + 2 * i) ((cs.map (leBytes 2)).flatten), cs.any bf16Bad)

/-- 1 - b^k as R214 computes it. -/
def biasTerm (b k : F32) : F32 := fSub false one32 (fExp false (fMul false k (fLog false b)))

/-- wn = w - lr · fma(wd, w, u). -/
def newWeight (lr wd w u : F32) : F32 := fSub false w (fMul false lr (fFma false wd w u))

/-- Rule A and Rule M on block b of an entry, for the reduced values r of its elements (R213, R214): reads the current
half, writes the pending half. Answers whether a value was non-finite. -/
def applyBlock (s : State) (p : Nat) (m : MemIn) (img : Bytes) (step b : Nat) (r : List F32) : State × Bool :=
  let sc := getSched s p (shSched img)
  let lr := lrAt sc step
  let wd := scF sc 0x2C
  let b1 := scF sc 0x20
  let b2 := scF sc 0x24
  let n := shN img
  let e0 := shE0 img
  let cur := curAddr s img
  let pend := pendAddr s img
  let ws := masterBlock s p cur img b
  let p2 := planeOff img 0 2
  let p3 := planeOff img 0 3
  let cnt := min 32 (n - 32 * b)
  let is := List.range cnt
  let g (i : Nat) : F32 := fMul false (scF sc 0x30) (r.getD i zero32)
  let gBad := is.any (fun i => !vIsFinite (vOf (g i)))
  let w (i : Nat) : F32 := ws.getD i zero32
  if shRule img = 2 then
    let k := fOfNat (min (max (step + 1 - fld sc 0x10 6) 1) 0xFFFFFFFF)
    let c1 := biasTerm b1 k
    let c2 := biasTerm b2 k
    let mm (i : Nat) : F32 := fFma false b1 (bf16At s p (cur + p2) (32 * b + i)) (fMul false (fSub false one32 b1) (g i))
    let vv (i : Nat) : F32 :=
      let q := bf16At s p (cur + p3) (32 * b + i)
      fFma false b2 (fMul false q q) (fMul false (fSub false one32 b2) (fMul false (g i) (g i)))
    let u (i : Nat) : F32 := fDiv false (fDiv false (mm i) c1) (fAdd false (fSqrt false (fDiv false (vv i) c2)) (scF sc 0x28))
    let (s1, x1) := putBf16 s p m (pend + p2) (32 * b) (is.map (fun i => storeBf16 (steepKey s p img step 0x8001) (e0 + 32 * b + i) (mm i)))
    let (s2, x2) := putBf16 s1 p m (pend + p3) (32 * b)
      (is.map (fun i => storeBf16 (steepKey s p img step 0x8002) (e0 + 32 * b + i) (fSqrt false (vv i))))
    let (s3, x3) := putMaster s2 p m pend img b
      (storeBs16 (steepKey s p img step 0x8000) e0 n b (is.map (fun i => newWeight lr wd (w i) (u i))))
    (s3, gBad || x1 || x2 || x3)
  else
    let bb (i : Nat) : F32 := fFma false b1 (bf16At s p (cur + p2) (32 * b + i)) (g i)
    let d (i : Nat) : F32 := if shOpt img 1 then fFma false b1 (bb i) (g i) else bb i
    let (s1, x1) := putBf16 s p m (pend + p2) (32 * b) (is.map (fun i => storeBf16 (steepKey s p img step 0x8001) (e0 + 32 * b + i) (bb i)))
    let (s2, x2) := putMaster s1 p m pend img b
      (storeBs16 (steepKey s p img step 0x8000) e0 n b (is.map (fun i => newWeight lr wd (w i) (d i))))
    (s2, gBad || x1 || x2)

/-- Stage g of elements from i on as FP32 (R215, R216); whether one is non-finite. -/
def stageVals (s : State) (p : Nat) (m : MemIn) (img : Bytes) (i : Nat) (r : List F32) : State × Bool :=
  let gs := r.map (fun x => fMul false (scF (getSched s p (shSched img)) 0x30) x)
  (steepWrite s p m (shStage img + 4 * i) ((gs.map (fun g => leBytes 4 g.toNat)).flatten), gs.any (fun g => !vIsFinite (vOf g)))

def stagedAt (s : State) (p : Nat) (img : Bytes) (i : Nat) : F32 := BitVec.ofNat 32 (le (steepBytes s p (shStage img + 4 * i) 4))

/-- Rule F on a whole staged shard (R215). -/
def applyRuleF (s : State) (p : Nat) (m : MemIn) (img : Bytes) (step : Nat) : State × Bool :=
  let sc := getSched s p (shSched img)
  let lr := lrAt sc step
  let wd := scF sc 0x2C
  let b1 := scF sc 0x20
  let b2 := scF sc 0x24
  let eps := scF sc 0x28
  let clip := scF sc 0x34
  let n := shN img
  let cols := shCols img
  let nr := shNr img
  let e0 := shE0 img
  let cur := curAddr s img
  let pend := pendAddr s img
  let pRs := planeOff img 0 2
  let pCs := planeOff img 0 3
  let pM := planeOff img 0 4
  let g (i j : Nat) : F32 := stagedAt s p img (i * cols + j)
  let sq (i j : Nat) : F32 := fFma false (g i j) (g i j) eps
  let mix (old new : F32) : F32 := fFma false b2 old (fMul false (fSub false one32 b2) new)
  let rs := (List.range nr).map (fun i =>
    mix (bf16At s p (cur + pRs) i) (fDiv false (fSum false ((List.range cols).map (sq i))) (fOfNat cols)))
  let cs := (List.range cols).map (fun j =>
    mix (bf16At s p (cur + pCs) j) (fDiv false (fSum false ((List.range nr).map (fun i => sq i j))) (fOfNat nr)))
  let rbar := fDiv false (fSum false rs) (fOfNat nr)
  let u0 := (List.range n).map (fun e =>
    fMul false (g (e / cols) (e % cols)) (fRsqrt false (fDiv false (fMul false (rs.getD (e / cols) zero32) (cs.getD (e % cols) zero32)) rbar)))
  let u1 := if fGt false clip zero32 then
      let rms := fSqrt false (fDiv false (fSum false (u0.map (fun x => fMul false x x))) (fOfNat n))
      let q := fMax false one32 (fDiv false rms clip)
      u0.map (fun x => fDiv false x q)
    else u0
  let first := shOpt img 0
  let u2 := if first then
      (List.range n).map (fun e => fFma false b1 (bf16At s p (cur + pM) e) (fMul false (fSub false one32 b1) (u1.getD e zero32)))
    else u1
  let (s1, x1) := if first then
      putBf16 s p m (pend + pM) 0 ((List.range n).map (fun e => storeBf16 (steepKey s p img step 0x8001) (e0 + e) (u2.getD e zero32)))
    else (s, false)
  let (s2, x2) := putBf16 s1 p m (pend + pRs) 0
    ((List.range nr).map (fun i => storeBf16 (steepKey s p img step 0x8003) (e0 / cols + i) (rs.getD i zero32)))
  let (s3, x3) := putBf16 s2 p m (pend + pCs) 0
    ((List.range cols).map (fun j => storeBf16 (steepKey s p img step 0x8004) (e0 + j) (cs.getD j zero32)))
  (List.range (cdiv n 32)).foldl (fun t b =>
    let ws := masterBlock s p cur img b
    let vs := (List.range (min 32 (n - 32 * b))).map (fun i => newWeight lr wd (ws.getD i zero32) (u2.getD (32 * b + i) zero32))
    let (t1, x) := putMaster t.1 p m pend img b (storeBs16 (steepKey s p img step 0x8000) e0 n b vs)
    (t1, t.2 || x)) (s3, x1 || x2 || x3)

/-! ### The compute copy (R218) -/

/-- The tensor's compute copy as stored in a slot. -/
def computeView (img : Bytes) : TView :=
  { fmt := shCfmt img, square := shOpt img 3, rows := shRows img, cols := shCols img, sram := false, base := 0 }

def computeBytes (img : Bytes) : Nat := (computeView img).elemExt.len

/-- Stretches of consecutive elements that are there: (index of the first, bytes). -/
def elemRuns : Nat → List (Option Bytes) → List (Nat × Bytes)
  | _, [] => []
  | i, none :: t => elemRuns (i + 1) t
  | i, some b :: t =>
    match elemRuns (i + 1) t with
    | (j, bs) :: l => if j = i + 1 then (i, b ++ bs) :: l else (i, b) :: (j, bs) :: l
    | [] => [(i, b)]

/-- The bytes of the owned elements in the tensor's compute copy, from the pending master weights: (first byte within
the copy, bytes). In square layout the padding of a row goes with the row's last element, and the rows below the tensor
with its last element; padding is zero. (DEDUCED, log 83.) -/
def computeRuns (s : State) (p : Nat) (img : Bytes) (step : Nat) : List (Nat × Bytes) :=
  let v := computeView img
  let e0 := shE0 img
  let n := shN img
  let cols := shCols img
  let rows := shRows img
  let pend := pendAddr s img
  let k := steepKey s p img step 0x8005
  let code (i : Nat) : Nat := narrow false (if shOpt img 2 then elemRnd k 2 v.fmt (e0 + i) else .rne) v.fmt (vOf (masterAt s p pend img i))
  let b := v.bits / 8
  let owned (e : Nat) : Bool := decide (e0 ≤ e) && decide (e < e0 + n)
  if n = 0 then []
  else if !v.square then [(e0 * b, ((List.range n).map (fun i => leBytes b (code i))).flatten)]
  else
    let q0 := e0 / cols / 32 * v.sqCols
    let q1 := (cdiv (cdiv (e0 + n) cols) 32) * v.sqCols
    let at_ (t : Nat) : Option Bytes :=
      let q := q0 + t / 1024
      let r := 32 * (q / v.sqCols) + t % 1024 / 32
      let c := 32 * (q % v.sqCols) + t % 32
      if r < rows then
        (if c < cols then (if owned (r * cols + c) then some (leBytes b (code (r * cols + c - e0))) else none)
        else if owned (r * cols + (cols - 1)) then some (zeros b) else none)
      else if owned (rows * cols - 1) then some (zeros b) else none
    (elemRuns 0 ((List.range ((q1 - q0) * 1024)).map at_)).map (fun x => ((q0 * 1024 + x.1) * b, x.2))

/-! ### Checks of a shard image (R205) -/

/-- Fields that break R204 and R205: (offset, fails). `hx` is XBYTES of the current half. OPT[0] and OPT[1] with a rule
that does not use them fail at OPT (DESIGN CHOICE, log 174). -/
def shardBad (s : State) (p : Nat) (b : Bytes) (hx : Nat) : Chk :=
  let rule := shRule b
  let n := shN b
  let e0 := shE0 b
  let cols := shCols b
  let total := shRows b * cols
  let l := getLayer s (shLayer b)
  let layOk := layerInPart s p (shLayer b) && l.valid && l.versioned && layerHeld s p (shLayer b)
  let size := halfSize b hx
  let h0 := shHalf b 0
  let h1 := shHalf b 1
  let slotHit (h : Nat) : Bool := !(viewsHit s p h size).isEmpty
  let halfBad (h : Nat) : Bool := h % 1024 ≠ 0 || !inClass s p h size 0 || slotHit h
  let stage := shStage b
  if rule = 0 then chks ((List.range 62).map (fun i => (i + 2, !zeroAt b (i + 2) 1)) ++ chks [(0x01, byteAt b 1 ≠ 0)])
  else chks [(0x01, 4 < rule || field (byteAt b 1) 4 4 ≠ 0),
    (0x02, field (byteAt b 2) 4 4 ≠ 0 || (shOpt b 0 && rule ≠ 1) || (shOpt b 1 && rule ≠ 3)),
    (0x03, !(shCfmt b = 1 || shCfmt b = 2 || shCfmt b = 3 || shCfmt b = 4)), (0x04, !layOk),
    (0x06, field (byteAt b 6) 4 4 ≠ 0), (0x07, !zeroAt b 7 1), (0x0B, !zeroAt b 0xB 1), (0x0C, shRows b = 0 || 2 ^ 40 < total),
    (0x10, cols = 0),
    (0x14, total < e0 + n || (n % 32 ≠ 0 && e0 + n ≠ total) || (rule = 1 && (cols = 0 || n % cols ≠ 0 || n < cols))
      || (shOpt b 3 && n % (32 * cols) ≠ 0 && e0 + n ≠ total)),
    (0x18, field (fld b 0x18 8) 40 24 ≠ 0 || e0 % 32 ≠ 0 || (rule = 1 && cols ≠ 0 && e0 % cols ≠ 0) || (shOpt b 3 && e0 % (32 * cols) ≠ 0 && e0 + n ≠ total)),
    (0x20, field (fld b 0x20 8) 40 24 ≠ 0 || l.len < shToff b + computeBytes b),
    (0x28, field (fld b 0x28 8) 40 24 ≠ 0 || halfBad h0), (0x30, field (fld b 0x30 8) 40 24 ≠ 0 || halfBad h1 || overlap h0 size h1 size),
    (0x38, field (fld b 0x38 8) 56 8 ≠ 0 || (if rule = 1 || rule = 4 then
        stage % 1024 ≠ 0 || !inClass s p stage (stageSize b hx) 0 else stage ≠ 0)
      || (if rule = 4 then !evtInPart s p (shVevt b) || !evtInPart s p (shVevt b + 1) || 65535 ≤ shVevt b else shVevt b ≠ 0))]

end Sys2Proof.Machine
end

