-- ==== Sys2Proof/Machine/Arm.lean ====
section
/-! DEFINITION. Armings and the outcome of a step: binding (R210), commit, skip and discard (R224, R225), the governor
(R195, R196), ratio events (R199), statistics records (R200, R201) and suspects (R226). -/

namespace Sys2Proof.Machine

open Sys2Proof

def findArming (s : State) (op : Nat) : Option Arming := s.st.armings.find? (fun a => a.op = op)

def updArming (s : State) (op : Nat) (g : Arming → Arming) : State :=
  { s with st := { s.st with armings := listUpdate (fun a => a.op = op) g s.st.armings } }

def armEntries (a : Arming) : List Nat := (List.range a.count).map (a.first + ·)

/-- Insert into a strictly rising list. -/
def insertNat (x : Nat) : List Nat → List Nat
  | [] => [x]
  | y :: t => if x < y then x :: y :: t else if x = y then y :: t else y :: insertNat x t

/-- The distinct layers of an arming's entries, rising. -/
def armLayers (s : State) (a : Arming) : List Nat := (armEntries a).foldl (fun l e => insertNat (shLayer (getShard s e)) l) []

/-- The layers of some armings, rising. -/
def layersOf (s : State) (as : List Arming) : List Nat := as.foldl (fun l a => (armLayers s a).foldl (fun l x => insertNat x l) l) []

def armTotal (s : State) (a : Arming) : Nat := ((armEntries a).map (fun e => shN (getShard s e))).sum

/-- Position, in the member's segment, of an entry's first element. -/
def entryStart (s : State) (a : Arming) (e : Nat) : Nat := (((armEntries a).filter (fun x => x < e)).map (fun x => shN (getShard s x))).sum

/-- ST_ARM INFO (R227). -/
def armInfo (a : Arming) : Nat := a.step + (if a.gap then 2 ^ 48 else 0) + (if a.nonfinite then 2 ^ 49 else 0)

/-- The arming leaves: its entries are released, its ST_ARM completes. -/
def dropArming (s : State) (a : Arming) : State :=
  { s with st := { s.st with
      armings := s.st.armings.filter (fun x => x.op ≠ a.op)
      past := s.st.past ++ [{ part := a.part, group := a.group, seq := a.seq, step := a.step, first := a.first
                              count := a.count, per := a.per }] } }

def completeArming (s : State) (a : Arming) (st xs info : Nat) : State :=
  let s1 := dropArming s a
  match findOp s1 a.op with
  | some o => complete s1 o st xs info
  | none => s1

/-- A counted arming fails: its step can no longer be voted (R221). -/
def failArming (s : State) (a : Arming) (st xs info : Nat) : State :=
  let v := getVote s a.part
  completeArming (setVote s a.part { v with failed := v.failed ++ [(a.step, a.ord, armLayers s a)] }) a st xs info

/-- Layers covered by armings of a step: those given, and those of its failed armings, rising (R200). -/
def coveredBy (s : State) (p step : Nat) (as : List Arming) : List Nat :=
  ((getVote s p).failed.filter (fun x => x.1 = step)).foldl (fun l x => x.2.2.foldl (fun l y => insertNat y l) l) (layersOf s as)

/-! ### Binding (R210 step 3) -/

/-- The REDUCE_SCATTER of (GROUP, SEQ) that is dispatched on this module. -/
def feeder (s : State) (a : Arming) : Option Op :=
  s.q.ops.find? (fun o => o.part = a.part && dBase o.desc = 0x8201 && cGroup o.desc = a.group && cSeq o.desc = a.seq && o.phase = .registered)

/-- Bind an arming whose layers are all claimed, once both are dispatched. -/
def tryBind (s : State) (op : Nat) : State :=
  match findArming s op with
  | none => s
  | some a =>
    if a.bound || !(armLayers s a).all (fun l => a.claimed.contains l) then s
    else match feeder s a with
      | none => s
      | some o =>
        let d := o.desc
        if (refAt d 0x18).present then failArming s a 0x84 0 (armInfo a)
        else if cStep d ≠ a.step then failArming s a 0x85 0 (armInfo a)
        else if armTotal s a ≠ cCount d then failArming s a 0x86 0 (armInfo a)
        else updArming s op (fun a => { a with bound := true, per := chunkElems (nodeFmt d) })

/-- Try every arming of a partition. -/
def bindAll (s : State) : State := s.st.armings.foldl (fun t a => tryBind t a.op) s

/-! ### The governor and the statistics record -/

/-- 61,440 as FP32 bits (R195). -/
def e5m2Limit : Nat := 0x47700000

/-- The desired rank (R195). -/
def desiredRank (floor uf : Nat) (x : StatEntry) : Nat :=
  if 0 < x.nf.toNat then 2
  else if floor = 0 && x.amax.toNat < e5m2Limit && x.ufE5m2.toNat * 2 ^ 20 ≤ uf * x.nz.toNat then 0
  else if floor ≤ 1 && x.ufMx.toNat * 2 ^ 20 ≤ uf * x.nz.toNat then 1
  else 2

/-- R196. -/
def govern (g : GovState) (d : Nat) (committed : Bool) : GovState :=
  if g.rank < d then { g with rank := d, relax := 0 }
  else if d < g.rank && committed then
    let h := if g.relax = 0 then d else max g.held d
    if g.relax + 1 = 3 then { g with rank := h, held := h, relax := 0 } else { g with held := h, relax := g.relax + 1 }
  else { g with relax := 0 }

/-- This module's own accumulator of a step, as an entry; one exchange of the step takes it along. -/
def ownEntry (g : GovState) (step : Nat) (su sw : F32) : StatEntry :=
  let a := if g.taken = some step then {} else if step % 2 = 0 then g.acc0 else g.acc1
  { amax := a.amax, su, sw, nz := BitVec.ofNat 64 a.nz, nf := BitVec.ofNat 64 a.nf, ufE5m2 := BitVec.ofNat 64 a.ufE5m2, ufMx := BitVec.ofNat 64 a.ufMx }

/-- The accumulator of a step is cleared and the open step advances (R193, R194). -/
def closeAcc (g : GovState) (step : Nat) : GovState :=
  let g1 := { g with opened := some (step + 1) }
  if step % 2 = 0 then { g1 with acc0 := {} } else { g1 with acc1 := {} }

/-- Store what an arming's exchange gave for a layer. (DEDUCED, log 77.) -/
def storeStat (step key : Nat) (bad : Bool) (t : State) (x : Nat × StatEntry) : State :=
  let g := getGov t x.1
  let l := match g.exchanged with
    | some (u, l) => if u = step then l else []
    | none => []
  setGov t x.1 { closeAcc g step with
    exchanged := some (step, l.filter (fun e => e.1 < key) ++ [(key, x.2, bad)] ++ l.filter (fun e => key < e.1)) }

/-- What the exchanges of a step gave a layer: its armings' entries added in increasing (GROUP, SEQ), and whether one is
incomplete; without any, this module's own accumulator. -/
def stepStat (g : GovState) (step : Nat) : StatEntry × Bool :=
  match g.exchanged with
  | some (u, (_, x, bad) :: l) =>
    if u = step then l.foldl (fun t e => (addStat t.1 e.2.1, t.2 || e.2.2)) (x, bad) else (ownEntry g step zero32 zero32, true)
  | _ => (ownEntry g step zero32 zero32, true)

/-- An exchange of the step has closed for the layer. -/
def statClosed (g : GovState) (step : Nat) : Bool :=
  match g.exchanged with
  | some (u, _) => u = step
  | none => false

/-- A statistics record leaves for the partition's statistics ring, or is held, or discarded (R201). -/
def putStat (s : State) (p : Nat) (b : Bytes) : State :=
  let r := getPart s p
  let o := getORing s r.stRing
  if !r.stValid || !o.enable || o.recsz ≠ 2 then s
  else if oringOpen s p r.stRing then setOwnerLeaf (putRecord s p r.stRing b) p 0x40020 2
  else holdRecord s p r.stRing { kind := .statistics, bytes := b }

/-- √(SU ÷ SW); the canonical NaN where SW is 0 (R198). -/
def ratioOf (x : StatEntry) : F32 := if vIsZero (vOf x.sw) then nan32 else fSqrt false (fDiv false x.su x.sw)

/-- The end of step s for one layer: the next format, ratio events, the record (R196 to R200). -/
def endLayer (s : State) (p step : Nat) (committed : Bool) (l : Nat) : State :=
  let e := getLayer s l
  let g0 := getGov s l
  let (x, incomplete) := stepStat g0 step
  let g1 := if statClosed g0 step then g0 else closeAcc g0 step
  let floor := (rankOf e.gFloor).getD 0
  let g2 := if e.governed && !incomplete then govern g1 (desiredRank floor (getPart s p).ufLimit x) committed else g1
  let ratio := ratioOf x
  let undef := vIsZero (vOf x.sw)
  let live := committed && !incomplete
  let low := live && !vIsZero (vOf e.ratioMin) && fGt false e.ratioMin ratio
  let high := live && !vIsZero (vOf e.ratioMax) && fGt false ratio e.ratioMax
  let args := leBytes 2 l ++ leBytes 6 step ++ leBytes 4 ratio.toNat
  let s1 := setGov s l { g2 with setFor := step + 1, late := false, exchanged := none, taken := none }
  let s2 := if low then raise s1 0x0605 p args else s1
  let s3 := if high then raise s2 0x0606 p args else s2
  let v := getVer s3 l
  let fl := (if committed then 0 else 1) + (if g2.rank ≠ g0.rank then 2 else 0) + (if low then 4 else 0) + (if high then 8 else 0)
    + (if undef then 16 else 0) + (if incomplete then 32 else 0) + (if g0.late then 64 else 0)
  putStat s3 p ([1#8, 1#8] ++ leBytes 2 l ++ leBytes 1 fl ++ leBytes 1 (if e.governed then rankFmt g2.rank else 0x1F) ++ leBytes 1 g2.relax
    ++ leBytes 1 v.cur ++ leBytes 6 step ++ zeros 2 ++ leBytes 4 x.amax.toNat ++ leBytes 4 ratio.toNat ++ leBytes 8 x.nz.toNat
    ++ leBytes 8 x.nf.toNat ++ leBytes 8 x.ufE5m2.toNat ++ leBytes 8 x.ufMx.toNat ++ leBytes 2 v.fence0 ++ leBytes 2 v.fence1
    ++ leBytes 4 ((if v.cur = 0 then v.ver0 else v.ver1).getD 0))

/-- Every valid layer covered by the armings, in increasing order. -/
def endLayers (s : State) (p step : Nat) (committed : Bool) (ls : List Nat) : State :=
  (ls.filter (fun l => (getLayer s l).valid)).foldl (fun t l => endLayer t p step committed l) s

/-! ### Commit, skip and discard -/

/-- Layers of the partition that are claimed for a step. -/
def claimedFor (s : State) (p step : Nat) : List Nat :=
  (s.tr.vers.filter (fun e => layerHeld s p e.1 && e.2.claim = some step)).map (·.1)

/-- The claimed slot becomes current with the next version number (R179, R224). -/
def commitLayer (s : State) (l : Nat) : State :=
  let v := getVer s l
  let n := ((if v.cur = 0 then v.ver0 else v.ver1).getD 0 + 1) % 2 ^ 48
  setVer s l (if v.cur = 0 then { v with cur := 1, ver1 := some n, claim := none, filled := [] }
    else { v with cur := 0, ver0 := some n, claim := none, filled := [] })

/-- The claimed slot returns to holding no version (R225). -/
def unclaimLayer (s : State) (l : Nat) : State :=
  let v := getVer s l
  setVer s l (if v.cur = 0 then { v with ver1 := none, claim := none, filled := [] } else { v with ver0 := none, claim := none, filled := [] })

/-- Armings of a step in a partition. -/
def armingsOf (s : State) (p step : Nat) : List Arming := s.st.armings.filter (fun a => a.part = p && a.step = step)

/-- The suspect count after an outcome (R226). -/
def suspect (s : State) (p step : Nat) (skipped : Bool) (r : Bytes) : State :=
  let v := getVote s p
  let rank := fld r 4 2
  if skipped && bit (byteAt r 1) 0 then
    let n := if v.suspectRank = some rank then v.suspects + 1 else 1
    if n = 3 then
      raise (setVote s p { v with suspectRank := some rank, suspects := 0 }) 0x0604 p
        (leBytes 2 rank ++ leBytes 6 step ++ leBytes 2 (fld r 2 2) ++ leBytes 2 (fld r 6 2))
    else setVote s p { v with suspectRank := some rank, suspects := n }
  else setVote s p { v with suspects := 0 }

/-- What the vote state holds of a step that has ended goes; a commit also ends what was discarded before it. -/
def forgetStep (v : VoteState) (step : Nat) (committed : Bool) : VoteState :=
  { v with contributed := v.contributed.filter (fun x => x.1 ≠ step), undecided := v.undecided.filter (fun x => x ≠ step)
           discarded := v.discarded.filter (fun x => if committed then decide (step < x) else decide (x ≠ step))
           started := tset 0 step 0 v.started, failed := v.failed.filter (fun x => x.1 ≠ step) }

/-- Record an outcome. -/
def recordOutcome (s : State) (p step : Nat) (committed : Bool) : State :=
  setVote s p { forgetStep (getVote s p) step committed with lastStep := some step, lastCommit := committed }

/-- A commit of a step (R224): slots switch, then completions, then statistics. `vote` completes the STEP_VOTE. -/
def commitStep (s : State) (p step : Nat) (r : Bytes) (vote : State → State) : State :=
  let as := armingsOf s p step
  let ls := coveredBy s p step as
  let s1 := recordOutcome ((claimedFor s p step).foldl commitLayer s) p step true
  let s2 := as.foldl (fun t a => if a.degraded = 0 then completeArming t a stOk 0 (armInfo a)
    else completeArming t a stDegraded a.degraded (armInfo a)) (vote s1)
  endLayers (suspect s2 p step false r) p step true ls

/-- A skip of a step (R225): counted armings end STEP_SKIPPED with the cause. Armings pending under another vote keep
their slots, and then no skip is recorded. -/
def skipStep (s : State) (p step xs : Nat) (r : Bytes) (vote : State → State) : State :=
  let as := (armingsOf s p step).filter (fun a => a.counted)
  let rest := (armingsOf s p step).filter (fun a => !a.counted)
  let ls := coveredBy s p step as
  let keep := layersOf s rest
  let s1 := ((claimedFor s p step).filter (fun l => !keep.contains l)).foldl unclaimLayer s
  let s2 := if rest.isEmpty then recordOutcome s1 p step false
    else setVote s1 p { getVote s1 p with
      contributed := (getVote s1 p).contributed.filter (fun x => x.1 ≠ step), undecided := (getVote s1 p).undecided.filter (fun x => x ≠ step) }
  let s3 := as.foldl (fun t a => completeArming t a stSkipped xs (armInfo a)) (vote s2)
  endLayers (suspect s3 p step true r) p step false ls

/-- Discard a step on this member as in a skip; its armings end with the given status (R221, R225, R228). (DEDUCED, log 78.) -/
def discardStep (s : State) (p step st xs : Nat) : State :=
  let as := armingsOf s p step
  let ls := coveredBy s p step as
  let s0 := (claimedFor s p step).foldl unclaimLayer s
  let v := forgetStep (getVote s0 p) step false
  let s1 := setVote s0 p { v with discarded := v.discarded ++ [step] }
  endLayers (as.foldl (fun t a => completeArming t a st xs (armInfo a)) s1) p step false ls

/-- The record contributed for a step and not decided. -/
def recordFor (v : VoteState) (step : Nat) : Option Bytes := (v.contributed.find? (fun x => x.1 = step)).map (·.2)

def markUndecided (s : State) (p step : Nat) : State :=
  let v := getVote s p
  if v.undecided.contains step then s else setVote s p { v with undecided := v.undecided ++ [step] }

/-- The STEP_VOTE of a descriptor ended without deciding (R225). -/
def stepUndecided (s : State) (p : Nat) (d : Bytes) : State :=
  let step := cStep d
  if (recordFor (getVote s p) step).isSome then
    raise (markUndecided s p step) 0x0603 p (leBytes 6 step ++ leBytes 2 (cGroup d) ++ leBytes 4 (cSeq d))
  else discardStep s p step stTimeout 3

def voteUndecided (s : State) (o : Op) : State := stepUndecided s o.part o.desc

/-! ### Armings beyond the vote's COUNT (R221) -/

/-- Layers that an arming alone has claimed for its step return to holding no version. -/
def releaseClaims (s : State) (a : Arming) : State :=
  (a.claimed.filter (fun l => !(armingsOf s a.part a.step).any (fun b => b.op ≠ a.op && b.claimed.contains l))).foldl unclaimLayer s

/-- Armings of a step that started after COUNT of them complete STEP_STALE and claim nothing. -/
def trimArmings (s : State) (p step count : Nat) : State :=
  ((armingsOf s p step).filter (fun a => decide (count ≤ a.ord) && !a.counted)).foldl
    (fun t a => completeArming (releaseClaims t a) a stStale 3 (armInfo a)) s

end Sys2Proof.Machine
end

