-- ==== Sys2Proof/Machine/Plait.lean ====
section
/-! DEFINITION. What a collective computes and moves: the rank tree (R238), segments (R239), node values (R240, R241),
data movement (R242), digests (R244), chunks (R246, R247) and vote records (R222, R252). Nothing here changes the
state; `Coll.lean` runs these on it. -/

namespace Sys2Proof.Machine

open Sys2Proof

/-! ### The rank tree (R238) -/

def pres (x : Ctx) (r : Nat) : Bool := decide (r < x.size) && !x.absent.contains r

/-- The block [a, a + n) has a present rank. -/
def presBlock (x : Ctx) (a n : Nat) : Bool := anyN n (fun i => pres x (a + i))

/-- The home of the node of segment s that covers [a, a + 2^l). -/
def home (x : Ctx) (s : Nat) : Nat → Nat → Nat
  | 0, a => a
  | l + 1, a =>
    let c := a + s % 2 ^ (l + 1)
    if pres x c then c
    else if presBlock x a (2 ^ l) then home x s l a else home x s l (a + 2 ^ l)

/-- The least m with 2^m at least P. -/
def treeLevels (p : Nat) : Nat := (findN 17 (fun m => decide (p ≤ 2 ^ m))).getD 16

/-- The aligned block of level l that holds rank r. -/
def blockOf (r l : Nat) : Nat := r / 2 ^ l * 2 ^ l

/-- The other half of r's block of level l + 1. -/
def otherHalf (r l : Nat) : Nat :=
  let a := blockOf r (l + 1)
  if blockOf r l = a then a + 2 ^ l else a

def rootHome (x : Ctx) (s : Nat) : Nat := home x s (treeLevels x.size) 0

def presentRanks (x : Ctx) : List Nat := (List.range x.size).filter (pres x)
def others (x : Ctx) : List Nat := (presentRanks x).filter (fun r => r ≠ x.rank)

/-- The lowest present rank of a block. -/
def lowestIn (x : Ctx) (a n : Nat) : Nat := ((findN n (fun i => pres x (a + i))).getD 0) + a

/-! ### Segments and formats (R237, R239, R246) -/

/-- First element and length of segment s. -/
def segOff (k p count s : Nat) : Nat := if k = 0 then 32 * (s * cdiv count 32 / p) else 0
def segLen (k p count s : Nat) : Nat := if k = 0 then min count (32 * ((s + 1) * cdiv count 32 / p)) - segOff k p count s else count

/-- Format of data that is moved. -/
def moveFmt (d : Bytes) : Nat := if (refAt d 0x10).present && cOp d ≠ 0 then (refAt d 0x10).fmt else (refAt d 0x18).fmt

def chunkCount (fmt len : Nat) : Nat := cdiv len (chunkElems fmt)

/-- Blocks of 32 on the wire: scale or exponent byte, and codes. -/
abbrev Blocks := List (Nat × List Nat)

def padBlock (l : List Nat) : List Nat := l ++ List.replicate (32 - l.length) 0

def packBlocks (fmt : Nat) (bs : Blocks) : Bytes :=
  let bits := fmtBits (codeOf fmt)
  bs.flatMap (fun b => leBytes (4 * bits) (packCodes bits (padBlock b.2)) ++ (if hasPlane fmt then leBytes 1 b.1 else []))

def unpackBlocks (fmt : Nat) : Nat → Bytes → Blocks
  | 0, _ => []
  | n + 1, b =>
    let bits := fmtBits (codeOf fmt)
    let v := fld b 0 (4 * bits)
    (if hasPlane fmt then byteAt b (4 * bits) else 0, (List.range 32).map (fun i => field v (i * bits) bits))
      :: unpackBlocks fmt n (b.drop (blockBytes fmt))

def blocksOfPayload (fmt : Nat) (b : Bytes) : Blocks := unpackBlocks fmt (b.length / blockBytes fmt) b

/-- FP32 values of n elements of blocks. -/
def blockVals (eqv : Bool) (fmt n : Nat) (bs : Blocks) : List F32 :=
  (bs.flatMap (fun b => b.2.map (fun c => elemF32 eqv fmt c b.1))).take n

/-- The stored tensor of SRC, or of DST. -/
def collView (d : Bytes) (p : Nat) (isDst : Bool) : Option TView :=
  ((collUse d (if isDst then 0x18 else 0x10) (if isDst then 1 else 0) isDst (collShape (cOp d) p (cCount d) isDst)).map (fun u => u.view)).head?

/-- Blocks of n elements of row r from column c (a multiple of 32) of SRC, as read at the opening. -/
def srcBlocks (x : Ctx) (d : Bytes) (r c n : Nat) : Blocks :=
  match collView d x.size false with
  | none => []
  | some v =>
    (List.range (cdiv n 32)).map (fun b =>
      (if hasPlane v.fmt then byteAt x.plane (v.planePos r (c + 32 * b)) else 0,
        (List.range (min 32 (n - 32 * b))).map (fun i =>
          let at_ := v.bitPos r (c + 32 * b + i)
          field (fld x.src (at_ / 8) 5) (at_ % 8) v.bits)))

/-- Row of SRC that segment s is read from. -/
def srcRow (k s : Nat) : Nat := if k = 1 || k = 5 then s else 0

/-! ### Node values (R240) -/

def roundSum24 (a : F32) : F32 := elemF32 false 0xA (narrow false .rne 0xA (vOf a)) 0

/-- Round a node value that is not the root's. -/
def roundNode (d : Bytes) (a : F32) : F32 := if cRedop d = 0 && !dEqv d then roundSum24 a else a

def combine (d : Bytes) (a b : F32) : F32 :=
  match cRedop d with
  | 0 => fAdd (dEqv d) a b
  | 1 => fMax (dEqv d) a b
  | _ => fMin (dEqv d) a b

/-- Elements of chunk c of a segment of this length. -/
def chunkLen (fmt len c : Nat) : Nat := min (chunkElems fmt) (len - c * chunkElems fmt)

/-- This rank's input of chunk c of segment s. -/
def ownVals (x : Ctx) (d : Bytes) (s c : Nat) : List F32 :=
  let k := cOp d
  let fmt := nodeFmt d
  let n := chunkLen fmt (segLen k x.size (cCount d) s) c
  let vs := blockVals (dEqv d) (refAt d 0x10).fmt n (srcBlocks x d (srcRow k s) (segOff k x.size (cCount d) s + c * chunkElems fmt) n)
  if (presentRanks x).length = 1 then vs else vs.map (roundNode d)

def gotOf (x : Ctx) (src level s c : Nat) : Option GotChunk :=
  x.got.find? (fun g => g.key = { srcRank := src, level, segment := s, chunk := c })

/-- The value of the node of level l that holds this rank, where its home is this rank and its inputs are here. -/
def nodeVals (x : Ctx) (d : Bytes) (s c : Nat) : Nat → Option (List F32)
  | 0 => some (ownVals x d s c)
  | l + 1 =>
    match nodeVals x d s c l with
    | none => none
    | some mine =>
      let b := otherHalf x.rank l
      if home x s (l + 1) (blockOf x.rank (l + 1)) ≠ x.rank then none
      else if !presBlock x b (2 ^ l) then some mine
      else
        let q := home x s l b
        match gotOf x q l s c with
        | none => if x.lost.contains q then some mine else none
        | some g =>
          let theirs := blockVals (dEqv d) g.wfmt mine.length (blocksOfPayload g.wfmt g.payload)
          let r := if b < x.rank then List.zipWith (combine d) theirs mine else List.zipWith (combine d) mine theirs
          some (if l + 1 < treeLevels x.size then r.map (roundNode d) else r)

/-- The root value of chunk c of segment s, formed here. -/
def rootVals (x : Ctx) (d : Bytes) (s c : Nat) : Option (List F32) :=
  if rootHome x s = x.rank then nodeVals x d s c (treeLevels x.size) else none

/-- Position of element i of chunk c of segment s in the full reduced vector (R241). -/
def fullPos (x : Ctx) (d : Bytes) (s c i : Nat) : Nat :=
  let k := cOp d
  (if k = 1 then s * cCount d else segOff k x.size (cCount d) s) + c * chunkElems (nodeFmt d) + i

/-- Narrow root values into DST's format, once (R240, R241). -/
def rootBlocks (key : CrgKey) (x : Ctx) (d : Bytes) (s c : Nat) (vs : List F32) : Blocks :=
  let fmt := (refAt d 0x18).fmt
  let n := vs.length
  (List.range (cdiv n 32)).map (fun b =>
    let is := (List.range 32).map (fun i => 32 * b + i)
    encodeBlock (dEqv d) fmt
      (is.map (fun i => if i < n then elemRnd key (cRnd d) fmt (elemIndex d 0 (fullPos x d s c i)) else .rtz))
      (is.map (fun i => if i < n then vOf (vs.getD i zero32) else .fin false 0 0)))

/-! ### Moved data (R242) -/

/-- source(r, l): whom rank r takes data from at level l of the exchange. -/
def source (x : Ctx) (r l : Nat) : Option Nat :=
  let q := r ^^^ 2 ^ l
  if pres x q then some q
  else
    let o := otherHalf r l
    let ps := ((List.range (2 ^ l)).map (o + ·)).filter (pres x)
    if ps.isEmpty then none else some (ps.getD ((r - blockOf r l) % ps.length) 0)

/-- Segments that rank r holds at the end of level l - 1 of the exchange; what only a lost rank held is gone. -/
def heldSegs (x : Ctx) (k : Nat) : Nat → Nat → List Nat
  | 0, r => if x.lost.contains r then [] else if k = 2 then [r] else (List.range x.size).filter (fun s => rootHome x s = r)
  | l + 1, r =>
    heldSegs x k l r ++ (match source x r l with
      | some q => if x.lost.contains q then [] else heldSegs x k l q
      | none => [])

/-- All blocks of a segment received as moved data, if every chunk is here. -/
def gotSeg (x : Ctx) (fmt len s : Nat) : Option Blocks :=
  (List.range (chunkCount fmt len)).foldl (fun acc c =>
    match acc, x.got.find? (fun g => !g.red && !g.key.stat && g.key.segment = s && g.key.chunk = c && g.wfmt = fmt) with
    | some bs, some g => some (bs ++ blocksOfPayload fmt g.payload)
    | _, _ => none) (some [])

/-- All blocks of a segment whose root forms here, once every chunk has formed. (DEDUCED, log 74.) -/
def rootSeg (key : CrgKey) (x : Ctx) (d : Bytes) (s : Nat) : Option Blocks :=
  (List.range (chunkCount (nodeFmt d) (segLen (cOp d) x.size (cCount d) s))).foldl (fun acc c =>
    match acc, rootVals x d s c with
    | some bs, some vs => some (bs ++ rootBlocks key x d s c vs)
    | _, _ => none) (some [])

/-- Blocks of chunk c of segment s that this rank can send on: its own data, or data received. -/
def movedChunk (key : CrgKey) (x : Ctx) (d : Bytes) (s c : Nat) : Option Blocks :=
  let k := cOp d
  let fmt := moveFmt d
  let len := segLen k x.size (cCount d) s
  let e := chunkElems fmt / 32
  if k = 0 && rootHome x s = x.rank then (rootSeg key x d s).map (fun bs => (bs.drop (c * e)).take e)
  else if (k = 2 && s = x.rank) || (k = 3 && cRoot d = x.rank) || k = 5 || k = 8 || k = 10 then
    some (srcBlocks x d (srcRow k s) (c * chunkElems fmt) (chunkLen fmt len c))
  else (x.got.find? (fun g => !g.red && !g.key.stat && g.key.segment = s && g.key.chunk = c && g.wfmt = fmt)).map (fun g => blocksOfPayload g.wfmt g.payload)

/-- The level of the highest node of the tree of s whose home is rank r. -/
def topLevel (x : Ctx) (s r : Nat) : Nat :=
  (List.range (treeLevels x.size)).foldl (fun m l => if home x s (l + 1) (blockOf r (l + 1)) = r && m = l then l + 1 else m) 0

/-! ### What is sent and what is awaited -/

/-- A chunk to send: destination (0xFFFF the multicast tree), key, and whether it carries a node value. -/
structure Due where
  dst : Nat
  key : ChunkKey
  red : Bool
  deriving DecidableEq, Repr

/-- LEVEL of a direct transfer. -/
def directLevel : Nat := 0xFF

def chunkDues (dst src level s n : Nat) (red : Bool) : List Due :=
  (List.range n).map (fun c => { dst, key := { srcRank := src, level, segment := s, chunk := c }, red })

/-- Segments reduced. -/
def redSegs (x : Ctx) (d : Bytes) : List Nat := if cOp d = 4 then [cRoot d] else List.range x.size

def segChunks (x : Ctx) (d : Bytes) (red : Bool) (s : Nat) : Nat :=
  chunkCount (if red then nodeFmt d else moveFmt d) (segLen (cOp d) x.size (cCount d) s)

/-- No rank between r and the root of the tree of s is lost. -/
def chainLive (x : Ctx) (s r : Nat) : Bool :=
  (List.range (treeLevels x.size)).all (fun l => !x.lost.contains (home x s (l + 1) (blockOf r (l + 1))))

/-- Data of BROADCAST reaches rank r: ROOT is present, and what this member does not hold still comes. -/
def rootReaches (x : Ctx) (d : Bytes) (r : Nat) : Bool :=
  pres x (cRoot d) && (chainLive x (cRoot d) r
    || (r = x.rank && (gotSeg x (moveFmt d) (segLen 3 x.size (cCount d) (cRoot d)) (cRoot d)).isSome))

/-! ### The statistics exchange (R194, R248) -/

/-- Layer entries of one KIND 7 chunk: as many as its payload holds. (DESIGN CHOICE, log 81.) -/
def statPer : Nat := 682

def statChunks (es : List StatEntry) : Nat := cdiv es.length statPer

/-- The n chunks that rank r sends up, and down, the tree of 0. -/
def statDues (x : Ctx) (n r : Nat) : List Due :=
  let top := topLevel x 0 r
  let to_ (dst l : Nat) : List Due := (List.range n).map (fun c => { dst, key := { srcRank := r, level := l, segment := 0, chunk := c, stat := true }, red := false })
  (if top < treeLevels x.size then to_ (home x 0 (top + 1) (blockOf r (top + 1))) top else [])
    ++ (List.range top).flatMap (fun l => if presBlock x (otherHalf r l) (2 ^ l) then to_ (home x 0 l (otherHalf r l)) l else [])

def statBytes (e : StatEntry) : Bytes :=
  leBytes 4 e.amax.toNat ++ leBytes 4 e.su.toNat ++ leBytes 4 e.sw.toNat ++ zeros 4 ++ leBytes 8 e.nz.toNat ++ leBytes 8 e.nf.toNat
    ++ leBytes 8 e.ufE5m2.toNat ++ leBytes 8 e.ufMx.toNat

def statOf (b : Bytes) : StatEntry :=
  { amax := BitVec.ofNat 32 (fld b 0 4), su := BitVec.ofNat 32 (fld b 4 4), sw := BitVec.ofNat 32 (fld b 8 4), nz := BitVec.ofNat 64 (fld b 0x10 8)
    nf := BitVec.ofNat 64 (fld b 0x18 8), ufE5m2 := BitVec.ofNat 64 (fld b 0x20 8), ufMx := BitVec.ofNat 64 (fld b 0x28 8) }

/-- The entries of chunk c that rank q sent at a level. -/
def gotStats (x : Ctx) (q l c : Nat) : Option (List StatEntry) :=
  (x.got.find? (fun g => g.key = { srcRank := q, level := l, segment := 0, chunk := c, stat := true })).map (fun g =>
    (List.range (g.payload.length / 48)).map (fun i => statOf (g.payload.drop (48 * i))))

/-- The entries of chunk c of the node of level l of the tree of 0 that holds this rank, formed here. -/
def statNode (x : Ctx) (own : List StatEntry) (c : Nat) : Nat → Option (List StatEntry)
  | 0 => some ((own.drop (statPer * c)).take statPer)
  | l + 1 =>
    match statNode x own c l with
    | none => none
    | some mine =>
      let b := otherHalf x.rank l
      if home x 0 (l + 1) (blockOf x.rank (l + 1)) ≠ x.rank then none
      else if !presBlock x b (2 ^ l) then some mine
      else match gotStats x (home x 0 l b) l c with
        | none => if x.lost.contains (home x 0 l b) then some mine else none
        | some theirs => some (if b < x.rank then List.zipWith addStat theirs mine else List.zipWith addStat mine theirs)

/-- The combined entries of chunk c: formed here at the root, or received from the parent's home; without it, what formed
here. -/
def statCombined (x : Ctx) (own : List StatEntry) (c : Nat) : Option (List StatEntry) :=
  let top := topLevel x 0 x.rank
  let up := home x 0 (top + 1) (blockOf x.rank (top + 1))
  if top = treeLevels x.size || x.lost.contains up then statNode x own c top else gotStats x up top c

/-- All combined entries, once every chunk of them is here. -/
def statResult (x : Ctx) : Option (List StatEntry) :=
  match x.stats with
  | none => none
  | some own =>
    (List.range (statChunks own)).foldl (fun acc c =>
      match acc, statCombined x own c with
      | some es, some l => some (es ++ l)
      | _, _ => none) (some [])

/-- The entries of a chunk that is due, once they have formed. -/
def statPayload (x : Ctx) (u : Due) : Option Bytes :=
  match x.stats with
  | none => none
  | some own =>
    (if u.key.level = topLevel x 0 x.rank then statNode x own u.key.chunk u.key.level else statCombined x own u.key.chunk).map
      (fun l => (l.map statBytes).flatten)

/-- Every chunk that rank r sends. -/
def duesOf (x : Ctx) (d : Bytes) (r : Nat) : List Due :=
  let k := cOp d
  let m := treeLevels x.size
  let up := if isReduction k then
      (redSegs x d).flatMap (fun s => (List.range m).flatMap (fun l =>
        let h := home x s (l + 1) (blockOf r (l + 1))
        if home x s l (blockOf r l) = r && h ≠ r then chunkDues h r l s (segChunks x d true s) true else []))
    else []
  let across := if k = 0 || k = 2 then
      (List.range m).flatMap (fun l => (((List.range (2 ^ l)).map (otherHalf r l + ·)).filter (pres x)).flatMap (fun j =>
        if source x j l = some r then (heldSegs x k l r).flatMap (fun s => chunkDues j r l s (segChunks x d false s) false) else []))
    else []
  let down := if k = 3 && rootReaches x d r then
      (List.range (topLevel x (cRoot d) r)).flatMap (fun l =>
        let b := otherHalf r l
        if presBlock x b (2 ^ l) then chunkDues (home x (cRoot d) l b) r l (cRoot d) (segChunks x d false (cRoot d)) false else [])
    else []
  let direct := if k = 5 then
      ((presentRanks x).filter (fun j => j ≠ r)).flatMap (fun j => chunkDues j r directLevel j (segChunks x d false j) false)
    else if k = 8 && r = x.rank && pres x (cPeer d) then chunkDues (cPeer d) r directLevel 0 (segChunks x d false 0) false
    else if k = 9 && r = cPeer d then chunkDues x.rank r directLevel 0 (segChunks x d false 0) false
    else if k = 10 && r = x.rank then chunkDues 0xFFFF r directLevel 0 (segChunks x d false 0) false
    else []
  up ++ across ++ down ++ direct ++ (match x.stats with
    | some es => statDues x (statChunks es) r
    | none => [])

/-- Senders to this rank: those whose own dues name it. -/
def awaitedFrom (x : Ctx) (d : Bytes) (q : Nat) : List Due := (duesOf x d q).filter (fun u => u.dst = x.rank)

/-- Every chunk this rank takes, from ranks that are present and not lost. -/
def awaited (x : Ctx) (d : Bytes) : List Due :=
  let qs := if cOp d = 9 then [cPeer d] else if cOp d = 8 || cOp d = 10 then [] else others x
  (qs.filter (fun q => pres x q && !x.lost.contains q)).flatMap (awaitedFrom x d)

/-- The payload of a due chunk, once it is here. -/
def duePayload (key : CrgKey) (x : Ctx) (d : Bytes) (u : Due) : Option (Nat × Bytes) :=
  let s := u.key.segment
  let c := u.key.chunk
  if u.key.stat then (statPayload x u).map (fun b => (0, b))
  else if u.red then
    (nodeVals x d s c u.key.level).map (fun vs =>
      let fmt := nodeFmt d
      let codes := vs.map (fun v => narrow (dEqv d) .rne (codeOf fmt) (vOf v))
      (fmt, packBlocks fmt ((groupsOf 32 (codes.length / 32 + 1) codes).map (fun b => (0, b)))))
  else
    (movedChunk key x d s c).map (fun bs => (moveFmt d, packBlocks (moveFmt d) bs))

/-! ### Digests (R244) -/

def digestOp (k : Nat) : Nat := if k = 9 || k = 10 then 8 else k

/-- The rank of the sender of a point-to-point transfer, and ROOT otherwise. -/
def digestRoot (d : Bytes) (me : Nat) : Nat := if cOp d = 8 || cOp d = 10 then me else if cOp d = 9 then cPeer d else cRoot d

def collDigest (x : Ctx) (d : Bytes) (op : Nat) : BitVec 64 :=
  let k := cOp d
  let ty := if isRecordOp k then 0 else if k = 9 || !(refAt d 0x10).present then (refAt d 0x18).fmt else (refAt d 0x10).fmt
  digest64 (leBytes 2 (cGroup d) ++ leBytes 1 op ++ leBytes 1 (cRedop d) ++ leBytes 4 (cSeq d)
    ++ leBytes 6 (if isRecordOp k then 0 else cStep d) ++ leBytes 2 (digestRoot d x.rank) ++ leBytes 4 (if k = 7 then 0 else cCount d)
    ++ leBytes 1 ty ++ leBytes 1 (if dEqv d then 1 else 0) ++ leBytes 2 x.size ++ leBytes 4 x.ghash.toNat ++ zeros 4)

/-! ### Chunks (R246, R247) -/

/-- A chunk's header fields. -/
structure ChunkHdr where
  kind    : Nat
  group   : Nat
  seq     : Nat
  src     : Nat
  dst     : Nat
  level   : Nat := 0
  wfmt    : Nat := 0
  op      : Nat
  flags   : Nat := 0
  segment : Nat := 0
  chunk   : Nat := 0
  step    : Nat := 0
  digest  : BitVec 64 := 0#64
  deriving DecidableEq, Repr

def rotl32 (v n : Nat) : Nat := (v * 2 ^ n) % 2 ^ 32 + v / 2 ^ (32 - n)

/-- The register value that a chunk's check starts from. -/
def chunkSeed (seq group src chunk : Nat) : BitVec 32 :=
  0xFFFFFFFF#32 ^^^ BitVec.ofNat 32 seq ^^^ BitVec.ofNat 32 (group * 2 ^ 20) ^^^ BitVec.ofNat 32 (src * 16)
    ^^^ BitVec.ofNat 32 (rotl32 (chunk % 2 ^ 32) 16)

def mkChunk (h : ChunkHdr) (payload : Bytes) : Bytes :=
  let b := [1#8] ++ leBytes 1 h.kind ++ leBytes 2 h.group ++ leBytes 4 h.seq ++ leBytes 2 h.src ++ leBytes 2 h.dst ++ leBytes 1 h.level
    ++ leBytes 1 h.wfmt ++ leBytes 1 h.op ++ leBytes 1 h.flags ++ leBytes 2 h.segment ++ zeros 2 ++ leBytes 4 h.chunk ++ leBytes 6 h.step
    ++ leBytes 2 payload.length ++ leBytes 8 h.digest.toNat ++ zeros 20
  b ++ leBytes 4 (crc32cFrom (chunkSeed h.seq h.group h.src h.chunk) (b ++ payload)).toNat ++ payload

def parseChunk (b : Bytes) : ChunkHdr :=
  { kind := byteAt b 1, group := fld b 2 2, seq := fld b 4 4, src := fld b 8 2, dst := fld b 0xA 2, level := byteAt b 0xC
    wfmt := byteAt b 0xD, op := byteAt b 0xE, flags := byteAt b 0xF, segment := fld b 0x10 2, chunk := fld b 0x14 4
    step := fld b 0x18 6, digest := BitVec.ofNat 64 (fld b 0x20 8) }

/-- The end-to-end check holds; the version and the length agree. What reserved bits of the header hold does not enter
(DESIGN CHOICE, log 163). -/
def chunkOk (b : Bytes) : Bool :=
  decide (64 ≤ b.length) && byteAt b 0 = 1 && decide (b.length = 64 + fld b 0x1E 2) &&
    decide (fld b 0x3C 4 = (crc32cFrom (chunkSeed (fld b 4 4) (fld b 2 2) (fld b 8 2) (fld b 0x14 4)) (b.take 0x3C ++ b.drop 64)).toNat)

/-- The chunk with RESENT set and its check renewed. -/
def markResent (b : Bytes) : Bytes :=
  let h := parseChunk b
  mkChunk { h with flags := h.flags ||| 4 } (b.drop 64)

/-! ### Vote and barrier records (R222, R252) -/

/-- Combine two vote records, field by field; none where VVER disagrees. Reserved fields of a received record do not enter
and are sent on as 0 (DESIGN CHOICE, log 176). -/
def combineVote (a b : Bytes) : Option Bytes :=
  if byteAt a 0 ≠ byteAt b 0 then none
  else some (leBytes 1 (byteAt a 0) ++ leBytes 1 (field (byteAt a 1 ||| byteAt b 1) 0 4) ++ leBytes 2 (sat 0xFFFF (fld a 2 2 + fld b 2 2))
    ++ leBytes 2 (min (fld a 4 2) (fld b 4 2)) ++ leBytes 2 (max (fld a 6 2) (fld b 6 2)) ++ leBytes 6 (max (fld a 8 6) (fld b 8 6))
    ++ zeros 2 ++ leBytes 6 (min (fld a 0x10 6) (fld b 0x10 6)) ++ zeros 2 ++ leBytes 8 (fld a 0x18 8 ^^^ fld b 0x18 8)
    ++ leBytes 4 (fld a 0x20 4 + fld b 0x20 4) ++ zeros 28)

/-- A node's record: not here yet, formed, or in disagreement (the lowest present rank of the upper block). -/
inductive NodeRec where
  | wait
  | formed (b : Bytes)
  | clash (rank : Nat)

/-- The record of the node of level l of the tree of 0 that holds this rank, formed here. -/
def nodeRec (x : Ctx) (vote : Bool) : Nat → NodeRec
  | 0 => match x.own with
    | some b => .formed b
    | none => .wait
  | l + 1 =>
    match nodeRec x vote l with
    | .wait => .wait
    | .clash r => .clash r
    | .formed mine =>
      let b := otherHalf x.rank l
      if home x 0 (l + 1) (blockOf x.rank (l + 1)) ≠ x.rank then .wait
      else if !presBlock x b (2 ^ l) then .formed mine
      else
        let q := home x 0 l b
        match x.records.find? (fun r => r.1 = q) with
        | none => if x.lost.contains q then .formed mine else .wait
        | some (_, theirs) =>
          if !vote then .formed []
          else match (if b < x.rank then combineVote theirs mine else combineVote mine theirs) with
            | some r => .formed r
            | none => .clash (lowestIn x (blockOf x.rank (l + 1) + 2 ^ l) (2 ^ l))

end Sys2Proof.Machine
end

