-- ==== Sys2Proof/Machine/Coll.lean ====
section
/-! DEFINITION. Collectives at work: registering and opening them (R233, R234), chunks sent and received (R235, R245 to
R249), and their ends (R245, R249, R251). -/

namespace Sys2Proof.Machine

open Sys2Proof

/-! ### Contexts -/

/-- The collective that a descriptor names on a member of this rank. -/
def collRefOf (me : Nat) (d : Bytes) : CollRef :=
  let k := cOp d
  { group := cGroup d, seq := cSeq d
    pair := if k = 8 then some (me, cPeer d) else if k = 9 then some (cPeer d, me) else if k = 10 then some (me, 0xFFFF) else none }

/-- A collective of this member answers to a name: its own; an MCAST_PUT, to the pair with any receiver. -/
def namesColl (c x : CollRef) : Bool :=
  x = c || (match c.pair with
    | some (a, _) => decide (x = { c with pair := some (a, 0xFFFF) })
    | none => false)

def findCtx (s : State) (c : CollRef) : Option Ctx := s.pl.ctxs.find? (fun x => namesColl c x.coll)
def ctxByOp (s : State) (op : Nat) : Option Ctx := s.pl.ctxs.find? (fun x => x.op = op)

def putCtx (s : State) (x : Ctx) : State :=
  { s with pl := { s.pl with ctxs := listUpdate (fun y => y.op = x.op) (fun _ => x) s.pl.ctxs } }

def dropCtx (s : State) (op : Nat) : State := { s with pl := { s.pl with ctxs := s.pl.ctxs.filter (fun x => x.op ≠ op) } }

/-- The VC of a collective's data. (DEDUCED, log 68.) -/
def collVc (d : Bytes) : Nat := if isRecordOp (cOp d) then 0 else cVc d

/-- Coordinate of a member, read from the group's list (R230, R231). -/
def memberCoord (s : State) (g rank : Nat) : Option Nat :=
  let x := getGroup s g
  if x.valid && rank < x.size then
    (findN 8 (fun p => groupInPart s p g)).map (fun p => field (le (devBytes s { part := p } false (x.list + 4 * rank) 4)) 0 18)
  else none

/-- A control chunk to a member: grant 2, acknowledgement 3, negative acknowledgement 4, abort notice 5. (DESIGN CHOICE, log 67.) -/
def sendControlTo (s : State) (vc kind : Nat) (c : CollRef) (op me dst at_ : Nat) (key : ChunkKey) (payload : Bytes) : State :=
  sendMsg s { vc, kind := 1, mcast := false, dst := at_
              bytes := mkChunk { kind, group := c.group, seq := c.seq, src := me, dst, level := key.level, op
                                 segment := key.segment, chunk := key.chunk } payload }

/-- The same to a member, at the coordinate of the group's list. -/
def sendControl (s : State) (vc kind : Nat) (c : CollRef) (op me dst : Nat) (key : ChunkKey) (payload : Bytes) : State :=
  match memberCoord s c.group dst with
  | none => s
  | some at_ => sendControlTo s vc kind c op me dst at_ key payload

def noKey : ChunkKey := { srcRank := 0, level := 0, segment := 0, chunk := 0 }

/-! ### Ends -/

/-- Ranks that are absent from the result. -/
def fencedRanks (x : Ctx) : List Nat := x.absent ++ x.lost

/-- FENCED_PARTIAL's XSTATUS and INFO (R249). -/
def fencedInfo (x : Ctx) : Nat × Nat :=
  let f := fencedRanks x
  (sat 0xFF f.length, f.foldl min 0xFFFF + f.length * 2 ^ 16 + x.epoch * 2 ^ 32)

/-- INFO on success (R251). (DEDUCED, log 73.) -/
def collInfo (x : Ctx) : Nat := x.received + (x.resends % 2 ^ 16) * 2 ^ 32 + x.epoch * 2 ^ 48

def collBits (x : Ctx) : Nat := (if x.stalled then 4 else 0) + (if x.degraded then 8 else 0)

/-- Status, XSTATUS and INFO of a collective that has done its work. -/
def collStatus (x : Ctx) : Nat × Nat × Nat :=
  if !(fencedRanks x).isEmpty then (stFenced, (fencedInfo x).1, (fencedInfo x).2)
  else if collBits x = 0 then (stOk, 0, collInfo x) else (stDegraded, collBits x, collInfo x)

/-- Records still to be acknowledged outlive their operation (R247). -/
def keepRecords (s : State) (x : Ctx) : State :=
  let l := (x.sent.filter (fun c => !c.acked)).map (fun c => ({ coll := x.coll, me := x.rank, peers := others x, chunk := c } : KeptRecord))
  if isRecordOp x.code then { s with pl := { s.pl with kept := s.pl.kept ++ l } } else s

/-- Close a context and complete its operation. -/
def endColl (s : State) (x : Ctx) (st xs info : Nat) : State :=
  let s1 := dropCtx (keepRecords s x) x.op
  match findOp s1 x.op with
  | some o => complete s1 o st xs info
  | none => s1

/-- The arming bound to a Steeper-fed collective. -/
def armOf (s : State) (x : Ctx) : Option Arming :=
  s.st.armings.find? (fun a => a.part = x.part && a.group = x.coll.group && a.seq = x.coll.seq && a.bound)

/-- A bound arming ends as its collective did, where R227 says so. -/
def armEnds (s : State) (x : Ctx) (st xs : Nat) : State :=
  if st = stMismatch || st = stFenced then
    (match armOf s x with
    | some a => failArming s a st xs (armInfo a)
    | none => s)
  else s

/-- What a statistics exchange gave, or this member's own entries where it ended otherwise (R194), is stored for the
layers of its arming. -/
def storeStats (s : State) (x : Ctx) (es : List StatEntry) (bad : Bool) : State :=
  match armOf s x with
  | none => s
  | some a =>
    updArming (((armLayers s a).zip es).foldl (storeStat a.step (a.group * 2 ^ 32 + a.seq) bad) s) a.op
      (fun a => { a with exchanged := true, degraded := a.degraded ||| (if bad then 0 else collBits x) })

/-- A collective fails: its context closes, DST is undefined (R89), a bound arming or an undecided vote follows. -/
def failColl (s : State) (x : Ctx) (st xs info : Nat) : State :=
  match findOp s x.op with
  | none => dropCtx s x.op
  | some o =>
    let s1 := freeExts (match x.stats with
      | some es => storeStats s x es true
      | none => s) { part := o.part, latches := o.latches } (outExts (usesOf s o.part o.desc))
    let s2 := armEnds (endColl s1 x st xs info) x st xs
    if x.code = 7 then voteUndecided s2 o else s2

/-- Stop a collective (R245, R247): nothing more of it is sent; the status, XSTATUS and INFO that every member completes with. -/
def abortEnd (s : State) (x : Ctx) (kind : AbortKind) (rank : Nat) : State :=
  let st := match kind with
    | .mismatch => stMismatch
    | .sendFailed => stCheck
  let x := { x with sent := [] }
  let s1 := raise s 0x0501 x.part (leBytes 2 x.coll.group ++ leBytes 4 x.coll.seq ++ leBytes 1 st ++ leBytes 2 rank)
  match kind with
  | .mismatch => failColl s1 x stMismatch (rank % 256) rank
  | .sendFailed => failColl s1 x stCheck 6 0

/-- This member stops a collective: abort notices on VC0 to every present member, then its own end. -/
def abortColl (s : State) (x : Ctx) (kind : AbortKind) (rank : Nat) : State :=
  let k := match kind with
    | .mismatch => 0
    | .sendFailed => 1
  let s1 := (others x).foldl (fun t r => sendControl t 0 5 x.coll (digestOp x.code) x.rank r noKey (leBytes 2 rank ++ leBytes 1 k)) s
  abortEnd s1 x kind rank

/-! ### Sending chunks (R235, R247) -/

/-- A grant is held from a destination, or from every present member for a multicast. -/
def granted (x : Ctx) (dst : Nat) : Bool :=
  if dst = 0xFFFF then ((others x).filter (fun r => !x.lost.contains r)).all (fun r => decide (0 < tget 0 x.grants r)) else decide (0 < tget 0 x.grants dst)

def spendGrant (x : Ctx) (dst : Nat) : Ctx :=
  let take (t : Tbl Nat) (r : Nat) : Tbl Nat := tset 0 r (tget 0 t r - 1) t
  if dst = 0xFFFF then { x with grants := (others x).foldl take x.grants } else { x with grants := take x.grants dst }

/-- The VC of a chunk: the collective's, and VC1 for the statistics exchange (R194, R263). -/
def keyVc (d : Bytes) (key : ChunkKey) : Nat := if key.stat then 1 else collVc d

/-- Hand a chunk's bytes to the fabric. -/
def emitChunk (s : State) (x : Ctx) (d : Bytes) (key : ChunkKey) (dst : Nat) (b : Bytes) : State :=
  sendMsg s (if dst = 0xFFFF then { vc := keyVc d key, kind := 1, mcast := true, dst := cMcast d, bytes := b, op := some x.op }
    else { vc := keyVc d key, kind := 1, mcast := false, dst := x.coords.getD dst 0x3FFFF, bytes := b, op := some x.op })

/-- The part of a collective that a chunk belongs to: the reduction comes before the exchange, and a statistics exchange
last, upward and then downward. -/
def duePhase (x : Ctx) (u : Due) : Nat :=
  if u.key.stat then (if u.key.level = topLevel x 0 u.key.srcRank then 2 else 3) else if u.red then 0 else 1

/-- Chunks part by part, in increasing chunk index, and within it level. (DEDUCED, log 69.) -/
def inOrder (x : Ctx) (l : List Due) : List Due :=
  let rank (u : Due) : Nat := (duePhase x u * 2 ^ 32 + u.key.chunk) * 256 + u.key.level
  (((l.map rank).foldl (fun ks k => insertNat k ks) []).flatMap (fun k => l.filter (fun u => rank u = k)))

/-- Members that take a due chunk. -/
def dueDsts (x : Ctx) (u : Due) : List Nat := if u.dst = 0xFFFF then others x else [u.dst]

/-- The chunk has gone to every member that takes it and is not lost. -/
def dueSent (x : Ctx) (u : Due) : Bool :=
  (dueDsts x u).all (fun r => x.lost.contains r || x.sent.any (fun c => c.key = u.key && c.dst = r))

/-- Send one due chunk if it has formed, is not sent, and a buffer is granted. -/
def sendDue (d : Bytes) (t : State × Ctx) (u : Due) : State × Ctx :=
  let (s, x) := t
  if dueSent x u || !granted x u.dst then t
  else match duePayload (crgKeyOf s x.part d (streamOf d)) x d u with
    | none => t
    | some (fmt, b) =>
      let n := if u.key.stat then statChunks (x.stats.getD []) else segChunks x d u.red u.key.segment
      let op := if u.key.stat then 0x0F else digestOp x.code
      let bytes := mkChunk { kind := if u.key.stat then 7 else 1, group := x.coll.group, seq := x.coll.seq, src := x.rank, dst := u.dst
                             level := u.key.level, wfmt := fmt, op, flags := (if u.key.chunk = 0 then 1 else 0) + (if u.key.chunk + 1 = n then 2 else 0)
                             segment := u.key.segment, chunk := u.key.chunk, step := cStep d, digest := collDigest x d op } b
      let x1 := spendGrant x u.dst
      (emitChunk s x d u.key u.dst bytes, { x1 with sent := x1.sent ++ (dueDsts x u).map (fun r => { dst := r, key := u.key, bytes }) })

/-- Send what is due, in order: to each destination, a chunk only behind those before it, which its grants cover (R235). -/
def sendDues (d : Bytes) : List Due → List Nat → State × Ctx → State × Ctx
  | [], _, t => t
  | u :: us, blocked, t =>
    if blocked.contains u.dst then sendDues d us blocked t
    else
      let t1 := sendDue d t u
      sendDues d us (if dueSent t1.2 u then blocked else u.dst :: blocked) t1

/-! ### Delivering results -/

/-- Write codes from a bit position on, and leave the bits around them. -/
def writeCodes (s : State) (c : ExecCtx) (sram : Bool) (base bitPos bits : Nat) (codes : List Nat) : State :=
  let off := bitPos % 8
  let n := bits * codes.length
  let len := cdiv (off + n) 8
  if n = 0 then s
  else devWrite s c sram (base + bitPos / 8) (leBytes len (putField (le (devBytes s c sram (base + bitPos / 8) len)) off n (packCodes bits codes)))

/-- Write blocks to row r of DST from column col (a multiple of 32): n elements. -/
def writeBlocks (s : State) (c : ExecCtx) (v : TView) (r col n : Nat) (bs : Blocks) : State :=
  let codes := bs.flatMap (fun b => padBlock b.2)
  let s1 := writeCodes s c v.sram v.base (v.bitPos r col) v.bits (if hasPlane v.fmt then codes else codes.take n)
  if hasPlane v.fmt then devWrite s1 c v.planeSram (v.planeBase + v.planePos r col) (bs.map (fun b => BitVec.ofNat 8 b.1)) else s1

/-- Where chunk c (in format fmt) of segment s goes in DST: row and column. -/
def dstPlace (x : Ctx) (d : Bytes) (src s fmt c : Nat) : Nat × Nat :=
  let k := cOp d
  (if k = 2 then s else if k = 5 then src else 0, segOff k x.size (cCount d) s + c * chunkElems fmt)

/-- Write one chunk's blocks to DST once. -/
def deliver (d : Bytes) (src s fmt c : Nat) (bs : Blocks) (t : State × Ctx) : State × Ctx :=
  let (st, x) := t
  let mark := (if cOp d = 5 then src else s, c)
  if x.written.contains mark then t
  else match collView d x.size true with
    | none => t
    | some v =>
      let len := segLen (cOp d) x.size (cCount d) s
      let (r, col) := dstPlace x d src s fmt c
      let o := (findOp st x.op).map (fun o => o.latches)
      (writeBlocks st { part := x.part, latches := o.getD [] } v r col (chunkLen fmt len c) bs, { x with written := x.written ++ [mark] })

/-- Every root chunk that has formed here is measured once, also those of absent ranks and those for the Steeper (R241). -/
def measureRoots (d : Bytes) (t : State × Ctx) : State × Ctx :=
  if !isReduction (cOp d) || xGlayer d = 0xFFFF then t
  else (redSegs t.2 d).foldl (fun t s => (List.range (segChunks t.2 d true s)).foldl (fun t c =>
    let (st, x) := t
    if x.measured.contains (s, c) then t
    else match rootVals x d s c with
      | none => t
      | some vs => ((measure st x.part d [vs]).1, { x with measured := x.measured ++ [(s, c)] })) t) t

/-- Root chunks that have formed here are narrowed and written (R240, R241); the Steeper takes its own. -/
def deliverRoots (d : Bytes) (t : State × Ctx) : State × Ctx :=
  if !isReduction (cOp d) || !(refAt d 0x18).present then t
  else (redSegs t.2 d).foldl (fun t s =>
    if cOp d = 1 && s ≠ t.2.rank then t
    else (List.range (segChunks t.2 d true s)).foldl (fun t c =>
      let (st, x) := t
      if x.written.contains (s, c) then t
      else match rootVals x d s c with
        | none => t
        | some vs => deliver d x.rank s (nodeFmt d) c (rootBlocks (crgKeyOf st x.part d (streamOf d)) x d s c vs) t) t) t

/-- Moved chunks received are written. -/
def deliverMoved (d : Bytes) (t : State × Ctx) : State × Ctx :=
  ((awaited t.2 d).filter (fun u => !u.red && !u.key.stat)).foldl (fun t u =>
    match t.2.got.find? (fun g => g.key = u.key) with
    | some g => deliver d u.key.srcRank u.key.segment g.wfmt u.key.chunk (blocksOfPayload g.wfmt g.payload) t
    | none => t) t

/-- A member's own block of an ALL_GATHER or ALL_TO_ALL. -/
def deliverOwn (d : Bytes) (t : State × Ctx) : State × Ctx :=
  let k := cOp d
  if !(k = 2 || k = 5) then t
  else
    let x := t.2
    let len := segLen k x.size (cCount d) x.rank
    (List.range (chunkCount (moveFmt d) len)).foldl (fun t c =>
      deliver d x.rank x.rank (moveFmt d) c (srcBlocks x d (srcRow k x.rank) (c * chunkElems (moveFmt d)) (chunkLen (moveFmt d) len c)) t) t

/-! ### Records of votes and barriers (R252) -/

/-- Send a record to a member, once. -/
def sendRecord (d : Bytes) (rec_ : Bytes) (level dst : Nat) (t : State × Ctx) : State × Ctx :=
  let (s, x) := t
  let key : ChunkKey := { srcRank := x.rank, level, segment := 0, chunk := 0 }
  if x.lost.contains dst || !granted x dst || x.sent.any (fun c => c.key = key && c.dst = dst) then t
  else
    let bytes := mkChunk { kind := 6, group := x.coll.group, seq := x.coll.seq, src := x.rank, dst, level, op := x.code, flags := 3
                           step := cStep d, digest := collDigest x d x.code } rec_
    (emitChunk s x d key dst bytes, { spendGrant x dst with sent := x.sent ++ [{ dst, key, bytes }] })

/-- Move records up and down the tree of 0; a clash names a rank. Where the parent's home is lost, the record formed here
is the one that goes down (R249). -/
def pumpRecords (s : State) (x : Ctx) (d : Bytes) : State × Ctx × Option Nat :=
  let m := treeLevels x.size
  let top := topLevel x 0 x.rank
  match nodeRec x (x.code = 7) top with
  | .clash r => (s, x, some r)
  | nr =>
    let (s1, x1) := match nr with
      | .formed b =>
        if top = m || x.lost.contains (home x 0 (top + 1) (blockOf x.rank (top + 1))) then (s, { x with result := x.result.or (some b) })
        else sendRecord d b top (home x 0 (top + 1) (blockOf x.rank (top + 1))) (s, x)
      | _ => (s, x)
    match x1.result with
    | none => (s1, x1, none)
    | some b =>
      let (s2, x2) := (List.range top).foldl (fun t l =>
        let o := otherHalf x.rank l
        if presBlock x o (2 ^ l) then sendRecord d b l (home x 0 l o) t else t) (s1, x1)
      (s2, x2, none)

/-! ### Progress -/

/-- A collective has done its work: every chunk is here, everything sent is acknowledged, every result is written. -/
def collDone (x : Ctx) (d : Bytes) : Bool :=
  (duesOf x d x.rank).all (dueSent x)
    && x.sent.all (fun c => c.acked || x.lost.contains c.dst)
    && (awaited x d).all (fun u => x.got.any (fun g => g.key = u.key))
    && (!isReduction (cOp d) || !(refAt d 0x18).present || (redSegs x d).all (fun s => (cOp d = 1 && s ≠ x.rank) || rootHome x s ≠ x.rank
        || allN (segChunks x d true s) (fun c => x.written.contains (s, c))))

/-- A REDUCE_SCATTER whose result goes to the Steeper (R248). -/
def steeperFed (d : Bytes) : Bool := cOp d = 1 && !(refAt d 0x18).present

/-- The statistics exchange closes: its entries are stored, and the REDUCE_SCATTER and a fenced arming end (R194, R248). -/
def closeStats (s : State) (x : Ctx) (es : List StatEntry) : State :=
  let (st, xs, info) := collStatus x
  armEnds (endColl (storeStats s x es false) x st xs info) x st xs

/-- Do all a context can do now; it ends when its work is done. -/
def pump (s : State) (x : Ctx) : State :=
  match findOp s x.op with
  | none => dropCtx s x.op
  | some o =>
    let d := o.desc
    if isRecordOp x.code then
      (match pumpRecords s x d with
      | (s1, x1, some r) => abortColl (putCtx s1 x1) x1 .mismatch r
      | (s1, x1, none) => if x.code = 6 && x1.result.isSome then
            let (st, xs, info) := collStatus x1
            endColl (putCtx s1 x1) x1 st xs info
          else putCtx s1 x1)
    else
      let t1 := deliverMoved d (deliverRoots d (measureRoots d (deliverOwn d (s, x))))
      let (s2, x2) := sendDues d (inOrder t1.2 (duesOf t1.2 d t1.2.rank)) [] t1
      let s3 := putCtx s2 x2
      if !collDone x2 d then s3
      else if steeperFed d then
        (match statResult x2 with
        | some es => closeStats s3 x2 es
        | none => s3)
      else
        let (st, xs, info) := collStatus x2
        endColl s3 x2 st xs info

/-! ### Grants (R235) -/

/-- The awaited chunks in the order in which they are granted. -/
def grantOrder (x : Ctx) (d : Bytes) : List Due := inOrder x (awaited x d)

/-- The first of some awaited chunks that no grant covers: a sender's grants cover its chunks in their order. -/
def firstUngranted (granted : Tbl Nat) : List Due → Option Nat
  | [] => none
  | u :: t =>
    let q := u.key.srcRank
    let n := tget 0 granted q
    if n = 0 then some q else firstUngranted (tset 0 q (n - 1) granted) t

/-- The sender of the next awaited chunk without a grant, in increasing (chunk index, tree level). -/
def nextGrant (x : Ctx) (d : Bytes) : Option Nat := firstUngranted x.granted (grantOrder x d)

/-- Grant one buffer to a sender. -/
def grantTo (s : State) (x : Ctx) (d : Bytes) (q : Nat) : State × Ctx :=
  (sendControl s (collVc d) 2 x.coll (digestOp x.code) x.rank q noKey (leBytes 4 1), { x with granted := tset 0 q (tget 0 x.granted q + 1) x.granted })

/-- Chunks of the member's own segment that have formed and that the Steeper has not taken (R248). -/
def heldRoots (x : Ctx) (d : Bytes) : Nat :=
  if !steeperFed d then 0
  else (List.range (segChunks x d true x.rank)).countP (fun c => (rootVals x d x.rank c).isSome && !x.written.contains (x.rank, c))

/-- Buffers granted to members that are not lost, and not filled yet. -/
def openGrants (x : Ctx) : Nat :=
  ((x.granted.filter (fun e => !x.lost.contains e.1)).map (fun e => e.2 - x.got.countP (fun g => g.key.srcRank = e.1))).sum

/-- Of a context's four chunk buffers (R234), those neither granted nor held by a root that waits for the Steeper. -/
def freeBuffers (x : Ctx) (d : Bytes) : Nat := 4 - openGrants x - heldRoots x d

/-- Grant free buffers, at most n. -/
def grantFree (d : Bytes) : Nat → State × Ctx → State × Ctx
  | 0, t => t
  | n + 1, t =>
    match nextGrant t.2 d with
    | some q => if freeBuffers t.2 d = 0 then t else grantFree d n (grantTo t.1 t.2 d q)
    | none => t

/-! ### Operation rows: registering (R233) -/

/-- Another operation of the same collective stands on this module. -/
def seqTaken (s : State) (o : Op) : Bool :=
  s.q.ops.any (fun x => x.id ≠ o.id && isColl x.desc && x.phase = .registered &&
    collRefOf (getGroup s (cGroup o.desc)).myRank x.desc = collRefOf (getGroup s (cGroup o.desc)).myRank o.desc)

/-- What the collective rows share: the checks of R233 and R251, and registering. A STEP_VOTE ends the armings beyond its
COUNT (R221). -/
def collOp (opcode op : Nat) (env : Env) (s0 : State) : Out :=
  runOp s0 op opcode env (fun s o =>
    let g := getGroup s (cGroup o.desc)
    if !g.valid then failRun s o env 0x80 0
    else if (seqSpaces g o.desc).any (fun sp => decide (seqDiff (cSeq o.desc) (nextSeq g sp) < 0)) || seqTaken s o then failRun s o env 0x81 0
    else
      let s1 := bindAll (updOp s o.id (fun x => { x with phase := .registered }))
      if opcode = 0x8207 then trimArmings s1 o.part (cStep o.desc) (cCount o.desc) else s1)

/-- ALL_REDUCE. -/
def execAllReduce (op : Nat) (env : Env) (s : State) : Out := collOp 0x8200 op env s
/-- REDUCE_SCATTER. -/
def execReduceScatter (op : Nat) (env : Env) (s : State) : Out := collOp 0x8201 op env s
/-- ALL_GATHER. -/
def execAllGather (op : Nat) (env : Env) (s : State) : Out := collOp 0x8202 op env s
/-- BROADCAST. -/
def execBroadcast (op : Nat) (env : Env) (s : State) : Out := collOp 0x8203 op env s
/-- REDUCE. -/
def execReduce (op : Nat) (env : Env) (s : State) : Out := collOp 0x8204 op env s
/-- ALL_TO_ALL. -/
def execAllToAll (op : Nat) (env : Env) (s : State) : Out := collOp 0x8205 op env s
/-- BARRIER. -/
def execBarrier (op : Nat) (env : Env) (s : State) : Out := collOp 0x8206 op env s
/-- STEP_VOTE. -/
def execStepVote (op : Nat) (env : Env) (s : State) : Out := collOp 0x8207 op env s
/-- SEND. -/
def execSend (op : Nat) (env : Env) (s : State) : Out := collOp 0x8208 op env s
/-- RECV. -/
def execRecv (op : Nat) (env : Env) (s : State) : Out := collOp 0x8209 op env s
/-- MCAST_PUT. -/
def execMcastPut (op : Nat) (env : Env) (s : State) : Out := collOp 0x820A op env s

/-! ### Grants and notices that arrive before the collective opens (R235) -/

/-- A collective that this member has not consumed yet. -/
def collAhead (s : State) (c : CollRef) : Bool :=
  let g := getGroup s c.group
  !g.valid || decide (0 ≤ seqDiff c.seq (nextSeq g c.pair))

/-- Absorb a grant or a notice for a collective that has no context here; one already completed leaves nothing. -/
def absorbEarly (s : State) (n : EarlyNote) : State :=
  if collAhead s n.coll then { s with pl := { s.pl with early := s.pl.early ++ [n] } } else s

def earlyFor (s : State) (c : CollRef) : List EarlyNote := s.pl.early.filter (fun n => namesColl n.coll c)

/-- The opening context takes the grants absorbed for it. -/
def takeEarly (s : State) (x : Ctx) : State × Ctx :=
  ({ s with pl := { s.pl with early := s.pl.early.filter (fun n => !namesColl n.coll x.coll) } },
   { x with grants := (earlyFor s x.coll).foldl (fun t n => tset 0 n.rank (tget 0 t n.rank + n.grants) t) x.grants })

/-- The notice absorbed for a collective: a mismatch before a failed send (R251), and the lowest rank named (R245). -/
def earlyAbort (s : State) (c : CollRef) : Option (AbortKind × Nat) :=
  let ns := (earlyFor s c).filterMap (fun n => n.abort)
  let lowest (k : AbortKind) : Option (AbortKind × Nat) :=
    (ns.filter (fun a => a.1 = k)).foldl (fun m a => match m with
      | none => some a
      | some b => some (if a.2 < b.2 then a else b)) none
  (lowest .mismatch).or (lowest .sendFailed)

/-- Members whose records this one takes in the tree of 0: homes of its nodes' other halves, and its parent's home. (DEDUCED, log 70.) -/
def recordSources (x : Ctx) : List Nat :=
  let top := topLevel x 0 x.rank
  ((List.range top).filter (fun l => presBlock x (otherHalf x.rank l) (2 ^ l))).map (fun l => home x 0 l (otherHalf x.rank l))
    ++ (if top < treeLevels x.size then [home x 0 (top + 1) (blockOf x.rank (top + 1))] else [])

/-- Grant one record to each. -/
def grantRecords (s : State) (x : Ctx) (d : Bytes) : State × Ctx :=
  (recordSources x).foldl (fun t q => grantTo t.1 t.2 d q) (s, x)

/-! ### COLLECTIVE_OPEN (R234, R249) -/

/-- The list words of a group. -/
def groupCoords (s : State) (p : Nat) (g : Group) : List Nat :=
  let b := devBytes s { part := p } false g.list (4 * g.size)
  (List.range g.size).map (fun i => field (fld b (4 * i) 4) 0 18)

/-- The context that opens: SRC as it stands, and the ranks of the fence list absent. (DESIGN CHOICE, log 66.) -/
def newCtx (s : State) (o : Op) (env : Env) : Ctx :=
  let d := o.desc
  let g := getGroup s (cGroup d)
  let cs := groupCoords s o.part g
  let c := ctxOf o env
  let v := collView d g.size false
  let bytes (e : Ext) : Bytes := e.parts.flatMap (fun x => devBytes s c e.sram x.1 x.2)
  { op := o.id, part := o.part, coll := collRefOf g.myRank d, slot := cSeq d % (if g.quota = 0 then 4 else g.quota), code := cOp d
    rank := g.myRank, size := g.size, coords := cs, ghash := g.ghash
    absent := (List.range g.size).filter (fun r => s.fab.fence.contains (cs.getD r 0x3FFFF))
    epoch := s.fab.epoch
    src := match v with
      | some v => bytes v.elemExt
      | none => []
    plane := match v with
      | some v => if hasPlane v.fmt then bytes v.planeExt else []
      | none => []
    stalled := env.stalled
    own := if cOp d = 6 then some [] else none }

/-- The slot of a group that a sequence number uses is free. (DEDUCED, log 65.) -/
def slotFree (s : State) (g slot : Nat) : Bool := s.pl.ctxs.all (fun x => x.coll.group ≠ g || x.slot ≠ slot)

/-- The context of a collective stands, with the grants absorbed for it. -/
def standCtx (s : State) (o : Op) (env : Env) : State × Ctx :=
  let x := newCtx s o env
  takeEarly { s with pl := { s.pl with ctxs := s.pl.ctxs ++ [x] } } x

/-- Open the context: SRC is read, a notice of a failed send ends it, and else it grants and goes on. -/
def openCtx (s : State) (o : Op) (env : Env) (early : Option (AbortKind × Nat)) : State :=
  match checkExts (countSbe s (sbeCore s o) env.sbe) (ctxOf o env) (inExts (usesOf s o.part o.desc)) with
  | (s1, some xs) => failRun s1 o env stCheck xs
  | (s1, none) =>
    let (s2, x) := standCtx s1 o env
    match early with
    | some (kind, rank) => abortEnd (putCtx s2 x) x kind rank
    | none =>
      let (s3, x1) := if isRecordOp x.code then grantRecords s2 x o.desc else grantFree o.desc 4 (s2, x)
      pump (putCtx s3 x1) x1

/-- COLLECTIVE_OPEN. A MEMBER_MISMATCH already known comes before the reads of the list and of SRC (R251). -/
def execCollectiveOpen (op : Nat) (env : Env) (s0 : State) : Out :=
  let s := envIn s0 env
  match findOp s op with
  | none => .next s
  | some o =>
    let d := o.desc
    let g := getGroup s (cGroup d)
    if !isColl d || o.phase ≠ .registered || (ctxByOp s op).isSome then .next s
    else if !g.valid then .next (failRun s o env 0x80 0)
    else if (seqSpaces g d).any (fun sp => decide (0 < seqDiff (cSeq d) (nextSeq g sp))) || !slotFree s (cGroup d) (cSeq d % (if g.quota = 0 then 4 else g.quota)) then .next s
    else
      let s1 := consumeSeq s o.part d
      match earlyAbort s1 (collRefOf g.myRank d) with
      | some (.mismatch, rank) =>
        let (s2, x) := standCtx s1 o env
        .next (abortEnd (putCtx s2 x) x .mismatch rank)
      | early =>
        match checkRange s1 { part := o.part, mem := env.mem } false g.list (4 * g.size) with
        | (s2, some xs) => .next (failRun s2 o env stCheck xs)
        | (s2, none) => .next (openCtx s2 o env early)

/-! ### Chunks received (R245, R247) -/

/-- A whole message leaves the delivered list when it is handled. -/
def takeDelivered (s : State) (bytes : Bytes) : State :=
  { s with fab := { s.fab with delivered := s.fab.delivered.eraseP (fun m => m.bytes = bytes) } }

/-- How a message came: the VC, and the coordinate of its source where that is known. -/
structure Came where
  vc  : Nat
  src : Option Nat
  deriving DecidableEq, Repr

/-- The VC and the source of a message; an answer to it goes to that source on the same VC (R246, R247, R263; DEDUCED,
log 68). -/
def cameOn (s : State) (bytes : Bytes) : Came :=
  match s.fab.delivered.find? (fun m => m.bytes = bytes) with
  | some m => { vc := m.vc, src := some m.src }
  | none => { vc := if byteAt bytes 1 = 6 then 0 else 1, src := none }

/-- The collective a received chunk names on this member. -/
def chunkRef (s : State) (h : ChunkHdr) : CollRef :=
  { group := h.group, seq := h.seq, pair := if h.op = 8 then some (h.src, (getGroup s h.group).myRank) else none }

def keyOf (h : ChunkHdr) : ChunkKey := { srcRank := h.src, level := h.level, segment := h.segment, chunk := h.chunk, stat := h.kind = 7 }

/-- Acknowledge (3) a chunk, with the buffers it returns, or refuse (4) it: to the source of its packets. -/
def answerChunk (s : State) (came : Came) (kind grants : Nat) (h : ChunkHdr) : State :=
  match came.src.or (memberCoord s h.group h.src) with
  | none => s
  | some at_ => sendControlTo s came.vc kind (chunkRef s h) h.op (getGroup s h.group).myRank h.src at_ (keyOf h) (if kind = 3 then leBytes 4 grants else [])

/-- The lowest present rank of the upper block of the node above a level that holds this rank; without one, the sender. -/
def upperRank (x : Ctx) (level src : Nat) : Nat :=
  let a := blockOf x.rank (level + 1) + 2 ^ level
  if treeLevels x.size ≤ level then src else ((findN (2 ^ level) (fun i => pres x (a + i))).map (fun i => i + a)).getD src

/-- A chunk goes up or down a rank tree: all of REDUCE_SCATTER, BROADCAST and REDUCE and of a statistics exchange, and of
ALL_REDUCE what a block's home sends to the home of the node above. -/
def treeChunk (x : Ctx) (h : ChunkHdr) : Bool :=
  h.kind = 7 || x.code = 1 || x.code = 3 || x.code = 4
    || (x.code = 0 && decide (h.level < treeLevels x.size) && home x h.segment h.level (blockOf h.src h.level) = h.src
      && home x h.segment (h.level + 1) (blockOf h.src (h.level + 1)) = x.rank)

/-- The rank that a digest difference names (R245): the lowest present rank of the upper block of the node, or for a
direct or exchange transfer the sender. -/
def namedRank (x : Ctx) (h : ChunkHdr) : Nat := if treeChunk x h then upperRank x h.level h.src else h.src

/-- The chunk this member takes under a key; KIND 7 chunks also before its own exchange has begun. -/
def dueUnder (x : Ctx) (d : Bytes) (key : ChunkKey) : Option Due :=
  if key.stat && x.stats.isNone && steeperFed d then
    (if pres x key.srcRank && !x.lost.contains key.srcRank then
      (statDues x (key.chunk + 1) key.srcRank).find? (fun u => u.dst = x.rank && decide (u.key = key)) else none)
  else (awaited x d).find? (fun u => u.key = key)

/-- Wire format and payload length of a chunk that is due; a KIND 7 chunk before this member's exchange, whole entries. -/
def chunkFits (x : Ctx) (d : Bytes) (u : Due) (wfmt len : Nat) : Bool :=
  if u.key.stat then
    wfmt = 0 && (match x.stats with
      | some es => len = 48 * min statPer (es.length - statPer * u.key.chunk)
      | none => len % 48 = 0 && decide (len ≤ 48 * statPer))
  else
    let fmt := if u.red then nodeFmt d else moveFmt d
    wfmt = fmt && len = cdiv (chunkLen fmt (segLen (cOp d) x.size (cCount d) u.key.segment) u.key.chunk) 32 * blockBytes fmt

/-- The first digest of a source is kept apart for data and for the statistics exchange. -/
def digestKey (h : ChunkHdr) : Nat := if h.kind = 7 then 2 ^ 16 + h.src else h.src

/-- The buffers that the acknowledgement of a chunk returns to its sender: none while roots that wait for the Steeper fill
the buffers (R248), nor where the next chunk in order is another member's, which then gets the buffer (R235). (DEDUCED,
log 69.) -/
def returned (x : Ctx) (d : Bytes) (src : Nat) : Nat :=
  if freeBuffers x d = 0 then 0
  else match nextGrant x d with
    | some q => if q = src then 1 else 0
    | none => 1

/-- Take a chunk once, acknowledge it, and grant its buffer to the next chunk in order. -/
def acceptChunk (s : State) (x : Ctx) (d : Bytes) (via : SegId) (came : Came) (h : ChunkHdr) (u : Due) (payload : Bytes) : State :=
  let x1 := { x with
    got := x.got ++ [{ key := u.key, red := u.red, wfmt := h.wfmt, payload }]
    digests := tset 0#64 (digestKey h) h.digest x.digests
    received := x.received + 1
    degraded := x.degraded || !segFullRx s via }
  let n := returned x1 d h.src
  let x2 := { x1 with
    got := listUpdate (fun g => g.key = u.key) (fun g => { g with returned := n }) x1.got
    granted := if n = 1 && nextGrant x1 d = some h.src then tset 0 h.src (tget 0 x1.granted h.src + 1) x1.granted else x1.granted }
  let (s2, x3) := grantFree d 4 (answerChunk s came 3 n h, x2)
  pump (putCtx s2 x3) x3

/-- CHUNK_RECEIVE: a data chunk, or one of a statistics exchange. (DEDUCED, log 72.) -/
def execChunkReceive (via : SegId) (bytes : Bytes) (s0 : State) : Out :=
  let s := takeDelivered s0 bytes
  let came := cameOn s0 bytes
  let h := parseChunk bytes
  if bytes.length < 64 || !(h.kind = 1 || h.kind = 7) then .next s
  else if !chunkOk bytes then .next (answerChunk s came 4 0 h)
  else match findCtx s (chunkRef s h) with
    | none => .next (answerChunk s came 3 1 h)
    | some x =>
      match findOp s x.op with
      | none => .next s
      | some o =>
        let d := o.desc
        let key := keyOf h
        let first := x.digests.find? (fun e => e.1 = digestKey h)
        if first = none && decide (h.digest ≠ collDigest x d (if key.stat then 0x0F else digestOp x.code)) then
          .next (abortColl s x .mismatch (namedRank x h))
        else if (match first with
            | some e => decide (e.2 ≠ h.digest)
            | none => false) then .next (answerChunk s came 4 0 h)
        else match dueUnder x d key with
        | none => .next (answerChunk s came 3 1 h)
        | some u =>
          match x.got.find? (fun g => g.key = key) with
          | some g => .next (answerChunk s came 3 g.returned h)
          | none =>
            if !chunkFits x d u h.wfmt (bytes.length - 64) then .next (answerChunk s came 4 0 h)
            else .next (acceptChunk s x d via came h u (bytes.drop 64))

/-! ### Control chunks (R235, R247) -/

/-- GRANT_RECEIVE. -/
def execGrantReceive (coll : CollRef) (fromRank count : Nat) (s : State) : Out :=
  match findCtx s coll with
  | none => .next (absorbEarly s { coll, rank := fromRank, grants := count })
  | some x =>
    let x1 := { x with grants := tset 0 fromRank (tget 0 x.grants fromRank + count) x.grants }
    .next (pump (putCtx s x1) x1)

def isSent (dst : Nat) (key : ChunkKey) (c : SentChunk) : Bool := c.dst = dst && decide (c.key = key)

/-- ACK_RECEIVE: the kept chunk is released; the buffer that the acknowledgement returns is granted again (R235). -/
def execAckReceive (coll : CollRef) (fromRank : Nat) (ack : ChunkAck) (s0 : State) : Out :=
  let s := { s0 with pl := { s0.pl with kept := s0.pl.kept.filter (fun k => !(k.coll = coll && isSent fromRank ack.key k.chunk)) } }
  match findCtx s coll with
  | none => .next s
  | some x =>
    if !x.sent.any (isSent fromRank ack.key) then .next s
    else
      let x1 := { x with
        sent := listUpdate (isSent fromRank ack.key) (fun c => { c with acked := true }) x.sent
        grants := if isRecordOp x.code || !x.sent.any (fun c => isSent fromRank ack.key c && !c.acked) then x.grants
          else tset 0 fromRank (tget 0 x.grants fromRank + ack.grants) x.grants }
      .next (pump (putCtx s x1) x1)

/-- A send of a chunk failed: it is sent again with RESENT set, and the fourth failure stops the collective. -/
def sendFailed (s : State) (coll : CollRef) (dst : Nat) (key : ChunkKey) : State :=
  match findCtx s coll with
  | some x =>
    (match x.sent.find? (isSent dst key), findOp s x.op with
    | some c, some o =>
      if c.acked then s
      else if 4 ≤ c.sends then abortColl s x .sendFailed x.rank
      else
        let b := markResent c.bytes
        let x1 := { x with
          sent := listUpdate (isSent dst key) (fun c => { c with bytes := b, sends := c.sends + 1 }) x.sent
          resends := x.resends + 1 }
        let to_ := if cOp o.desc = 10 then 0xFFFF else dst
        putCtx (emitChunk s x o.desc key to_ b) x1
    | _, _ => s)
  | none =>
    match s.pl.kept.find? (fun k => k.coll = coll && isSent dst key k.chunk) with
    | none => s
    | some k =>
      let drop := { s with pl := { s.pl with kept := s.pl.kept.filter (fun y => !(y.coll = coll && isSent dst key y.chunk)) } }
      if 4 ≤ k.chunk.sends then
        k.peers.foldl (fun t r => sendControl t 0 5 coll (parseChunk k.chunk.bytes).op k.me r noKey (leBytes 2 k.me ++ leBytes 1 1)) drop
      else
        let b := markResent k.chunk.bytes
        let s1 := { drop with pl := { drop.pl with kept := drop.pl.kept ++ [{ k with chunk := { k.chunk with bytes := b, sends := k.chunk.sends + 1 } }] } }
        match memberCoord s coll.group dst with
        | some at_ => sendMsg s1 { vc := 0, kind := 1, mcast := false, dst := at_, bytes := b }
        | none => s1

/-- NAK_RECEIVE. -/
def execNakReceive (coll : CollRef) (fromRank : Nat) (key : ChunkKey) (s : State) : Out := .next (sendFailed s coll fromRank key)

/-- CHUNK_RESEND_TIMEOUT: 100 µs without an acknowledgement. -/
def execChunkResendTimeout (coll : CollRef) (toRank : Nat) (key : ChunkKey) (s : State) : Out := .next (sendFailed s coll toRank key)

/-- ABORT_NOTICE_RECEIVE: the collective stops, and so does a record of it that is still sent again. -/
def execAbortNoticeReceive (coll : CollRef) (kind : AbortKind) (rank : Nat) (s : State) : Out :=
  match findCtx s coll with
  | some x => .next (abortEnd s x kind rank)
  | none => .next (absorbEarly { s with pl := { s.pl with kept := s.pl.kept.filter (fun k => k.coll ≠ coll) } }
      { coll, rank, abort := some (kind, rank) })

/-- A vote record of another version, which is not read any further (R8, R222). -/
def foreignVote (x : Ctx) (bytes : Bytes) : Bool := x.code = 7 && byteAt bytes 64 ≠ 1

/-- VOTE_RECORD_RECEIVE: a record comes up from a child or down from the parent's home (R252). One whose digest or VVER
disagrees aborts. -/
def execVoteRecordReceive (via : SegId) (bytes : Bytes) (s0 : State) : Out :=
  let s := takeDelivered s0 bytes
  let came := { cameOn s0 bytes with vc := 0 }
  let h := parseChunk bytes
  if bytes.length < 64 || h.kind ≠ 6 then .next s
  else if !chunkOk bytes then .next (answerChunk s came 4 0 h)
  else match findCtx s (chunkRef s h) with
    | none => .next (answerChunk s came 3 1 h)
    | some x =>
      match findOp s x.op with
      | none => .next s
      | some o =>
        let top := topLevel x 0 x.rank
        let up := decide (h.level < top) && decide (home x 0 h.level (otherHalf x.rank h.level) = h.src)
        let down := decide (h.level = top) && decide (top < treeLevels x.size) && decide (home x 0 (top + 1) (blockOf x.rank (top + 1)) = h.src)
        let s1 := answerChunk s came 3 1 h
        let x1 := { x with degraded := x.degraded || !segFullRx s via }
        if h.digest ≠ collDigest x o.desc x.code || ((up || down) && foreignVote x bytes) then
          .next (abortColl s x .mismatch (upperRank x h.level h.src))
        else if up && !x.records.any (fun r => r.1 = h.src) then
          let x2 := { x1 with records := x1.records ++ [(h.src, bytes.drop 64)] }
          .next (pump (putCtx s1 x2) x2)
        else if down && x.result.isNone then
          let x2 := { x1 with result := some (bytes.drop 64) }
          .next (pump (putCtx s1 x2) x2)
        else .next s1

/-! ### GROUP_SET (R231) -/

/-- Fields of an image that break R230, apart from the list. With VALID = 0 every other field is 0. -/
def groupBad (s : State) (p : Nat) (b : Bytes) : Chk :=
  if !bit (byteAt b 1) 0 then
    chks ((0x01, decide (byteAt b 1 ≠ 0)) ::
      [(0x02, 1), (0x03, 1), (0x04, 2), (0x06, 2), (0x08, 4), (0x0C, 4), (0x10, 8), (0x18, 40)].map (fun f => (f.1, !zeroAt b f.1 f.2)))
  else chks [(0x01, field (byteAt b 1) 1 7 ≠ 0), (0x02, 16 < byteAt b 2), (0x03, !zeroAt b 3 1),
    (0x04, fld b 4 2 = 0 || 32768 < fld b 4 2), (0x06, fld b 4 2 ≤ fld b 6 2), (0x0C, !zeroAt b 0xC 4),
    (0x10, field (fld b 0x10 8) 40 24 ≠ 0 || fld b 0x10 8 % 4 ≠ 0 || !inClass s p (field (fld b 0x10 8) 0 40) (4 * fld b 4 2) 0),
    (0x18, !zeroAt b 0x18 40)]

/-- The list repeats a coordinate, misplaces this module, leaves the plan's block or sets a reserved bit. -/
def listBad (s : State) (me : Nat) (ws : List Nat) : Bool :=
  hasDup ws || ws.any (fun w => decide (2 ^ 18 ≤ w)) ||
    (match s.fab.active with
    | some img => ws.any (fun w => !inBlock img w) || ws.getD me 0 ≠ planMyCoord img
    | none => true)

/-- The outcome of checking one image: good with its entry, a status and XSTATUS, or a list that cannot be read. -/
inductive GroupLoad where
  | good (g : Group)
  | bad (st xs : Nat)
  | lost (xs : Nat)

/-- An entry with a context open is not overwritten (R231). -/
def groupBusy (s : State) (e : Nat) : Bool := s.pl.ctxs.any (fun x => x.coll.group = e)

/-- Check one image; the busy entry comes before a list that cannot be read (R251). -/
def loadGroup (s : State) (p e : Nat) (m : MemIn) (b : Bytes) : State × GroupLoad :=
  if byteAt b 0 ≠ 1 then (s, .bad stVersion 0)
  else match firstBad (groupBad s p b) with
    | some off => (s, .bad 0x80 off)
    | none =>
      if !bit (byteAt b 1) 0 then (s, if groupBusy s e then .bad 0x81 0 else .good {})
      else
        let n := fld b 4 2
        let list := field (fld b 0x10 8) 0 40
        match checkRange s { part := p, mem := m } false list (4 * n) with
        | (s1, some xs) => (s1, if groupBusy s1 e then .bad 0x81 0 else .lost xs)
        | (s1, none) =>
          let raw := devBytes s1 { part := p } false list (4 * n)
          let ws := words n raw
          (s1, if listBad s1 (fld b 6 2) ws then .bad 0x80 0x10
            else if groupBusy s1 e then .bad 0x81 0
            else .good { valid := true, quota := if byteAt b 2 = 0 then 4 else byteAt b 2, size := n, myRank := fld b 6 2, seq0 := fld b 8 4
                         list, ghash := crc32c raw, next := fld b 8 4 })

/-- Where the checks of a GROUP_SET stand: the entries to load, or the first one that fails with status, XSTATUS and entry;
and the XSTATUS of what could not be read. -/
abbrev GroupsLoad := (List (Nat × Group) ⊕ (Nat × Nat × Nat)) × Option Nat

/-- Check images from entry e on, collecting the entries to load. -/
def loadGroups (p : Nat) (m : MemIn) : List (Option Bytes) → Nat → List (Nat × Group) → Option Nat → State → State × GroupsLoad
  | [], _, acc, lost, s => (s, .inl acc, lost)
  | none :: t, e, acc, lost, s => if groupBusy s e then (s, .inr (0x81, 0, e), lost) else loadGroups p m t (e + 1) acc lost s
  | some b :: t, e, acc, lost, s =>
    match loadGroup s p e m b with
    | (s1, .bad st xs) => (s1, .inr (st, xs, e), lost)
    | (s1, .lost xs) => loadGroups p m t (e + 1) acc (lost.or (some xs)) s1
    | (s1, .good g) => loadGroups p m t (e + 1) (acc ++ [(e, g)]) lost s1

def quotaSum (s : State) (p : Nat) : Nat := ((s.pl.groups.filter (fun e => e.2.valid && groupInPart s p e.1)).map (fun e => e.2.quota)).sum

/-- QUOTA_SUM with the images in place of their entries. -/
def quotaWith (s : State) (p first : Nat) (bs : List Bytes) : Nat :=
  let quota (b : Bytes) : Nat := if !bit (byteAt b 1) 0 then 0 else if byteAt b 2 = 0 then 4 else byteAt b 2
  ((s.pl.groups.filter (fun e => e.2.valid && groupInPart s p e.1 && !(decide (first ≤ e.1) && decide (e.1 < first + bs.length)))).map (fun e => e.2.quota)).sum
    + (bs.map quota).sum

/-- Read a set-up source in n images of k bytes: the XSTATUS of CHECK_UNRECOVERED where a block of it cannot be read, and
the images, none for one that cannot. -/
def imagesOf (s : State) (o : Op) (env : Env) (k n : Nat) : State × Option Nat × List (Option Bytes) :=
  let r := refAt o.desc 0x10
  let c := ctxOf o env
  let (s1, lost) := checkRange s c r.sram r.addr (k * n)
  (s1, lost, (List.range n).map (fun i =>
    if lost.isNone || readable s c r.sram (r.addr + k * i) k then some (devBytes s1 c r.sram (r.addr + k * i) k) else none))

/-- A load restarts the group's numbers: what was absorbed for numbers before SEQ0 goes (R231). -/
def dropEarly (s : State) (g seq0 : Nat) : State :=
  { s with pl := { s.pl with early := s.pl.early.filter (fun n => n.coll.group ≠ g || decide (0 ≤ seqDiff n.coll.seq seq0)) } }

/-- GROUP_SET: NO_RESOURCE comes before the codes of the opcode, and CHECK_UNRECOVERED after them (R11, R251, DEDUCED,
log 152). -/
def execGroupSet (op : Nat) (env : Env) (s0 : State) : Out :=
  runOp s0 op 0x820B env (fun s o =>
    let p := o.part
    let first := fld o.desc 0x18 2
    match imagesOf s o env 64 (fld o.desc 0x1A 2) with
    | (s1, lost, bs) =>
      match loadGroups p env.mem bs first [] lost s1 with
      | (s2, r, bad) =>
        let beyond := decide ((getPart s p).contexts < quotaWith s2 p first (bs.map (fun b => b.getD [])))
        match r, bad with
        | .inr (st, xs, e), _ =>
          if beyond && st ≠ stVersion then complete s2 o stNoRes 4 0 else complete s2 o st xs (if st = stVersion then 0 else e)
        | .inl _, some xs => if beyond then complete s2 o stNoRes 4 0 else complete s2 o stCheck xs 0
        | .inl gs, none =>
          if beyond then complete s2 o stNoRes 4 0
          else finishOk (gs.foldl (fun t g => dropEarly (setGroup t g.1 g.2) g.1 g.2.seq0) s2) o env 0 0)

end Sys2Proof.Machine
end

