-- ==== Sys2Proof/Machine/Fabric.lean ====
section
/-! DEFINITION. The fabric's commands (10): plans and epochs, packets, express pass-through, discovery, link-down. -/

namespace Sys2Proof.Machine

open Sys2Proof

/-! ### Plans and epochs (R259, R275, R279, R280, R286) -/

/-- Wait for a later command under the fabric's name. -/
def registerOp (s : State) (id : Nat) : State := updOp s id (fun x => { x with phase := .registered })

/-- How many leading bytes of a range of n can be read. -/
def readPrefix (s : State) (c : ExecCtx) (sram : Bool) (a n : Nat) : Nat :=
  match findN (cdiv n 32) (fun i => !readable s c sram (a + 32 * i) (min 32 (n - 32 * i))) with
  | some i => 32 * i
  | none => n

/-- PLAN_STAGE: VERSION, NO_RESOURCE, PLAN_INVALID, CHECK_UNRECOVERED, in this order (R11, R286). -/
def execPlanStage (op : Nat) (env : Env) (s0 : State) : Out :=
  runOp s0 op 0x9240 env (fun s o =>
    let r := refAt o.desc 0x10
    let n := fld o.desc 0x18 4
    let (s1, lost) := checkRange s (ctxOf o env) r.sram r.addr n
    let k := if lost.isNone then n else readPrefix s (ctxOf o env) r.sram r.addr n
    let img := devBytes s1 (ctxOf o env) r.sram r.addr n
    if k ≠ 0 && byteAt img 0 ≠ 1 then complete s1 o stVersion 0 0
    else if s1.fab.change.isSome then complete s1 o stNoRes 5 0
    else match (if lost.isNone then planFault img n else planFaultWithin k img n), lost with
      | some (off, reason), _ => complete s1 o 0x80 reason off
      | none, some xs => complete s1 o stCheck xs 0
      | none, none => finishOk (newPlan { s1 with fab := { s1.fab with staged := some img } }) o env 0 0)

def startChange (s : State) (c : EpochChange) : State := { s with fab := { s.fab with change := some c } }

/-- PLAN_COMMIT: it waits for agreement with the staged plan, then drains. -/
def execPlanCommit (op : Nat) (env : Env) (s0 : State) : Out :=
  runOp s0 op 0x9241 env (fun s o =>
    let e := fld o.desc 0x10 2
    if !epochNewer s.fab.epoch e then complete s o stBad 0x10 0
    else if s.fab.change.isSome then complete s o stNoRes 5 0
    else match s.fab.staged with
      | none => complete s o 0x81 0 0
      | some img => startChange (registerOp s o.id)
          { op := some o.id, epoch := e, fence := s.fab.fence, isFence := false, draining := planAgreed s img })

/-- The least index of a fence word at fault (R280), among the words that can be read. -/
def badFenceWord (s : State) (ws : List (Option Nat)) : Option Nat :=
  findN ws.length (fun i =>
    match ws.getD i none with
    | none => false
    | some w => (ws.take i).contains (some w) || (match s.fab.active with
      | some img => !inBlock img w || w = planMyCoord img
      | none => true))

/-- FENCE: it drains at once. A word at fault comes before words that cannot be read (R286). -/
def execFence (op : Nat) (env : Env) (s0 : State) : Out :=
  runOp s0 op 0x9242 env (fun s o =>
    let e := fld o.desc 0x10 2
    let n := fld o.desc 0x12 2
    let list := field (fld o.desc 0x18 8) 0 40
    if !epochNewer s.fab.epoch e then complete s o stBad 0x10 0
    else if s.fab.change.isSome then complete s o stNoRes 5 0
    else if 256 < n then complete s o 0x83 0 256
    else
      let (s1, lost) := checkRange s (ctxOf o env) false list (4 * n)
      let ws := words n (devBytes s1 (ctxOf o env) false list (4 * n))
      let seen := (List.range n).map (fun i => if lost.isNone || readable s (ctxOf o env) false (list + 4 * i) 4 then ws[i]? else none)
      match badFenceWord s1 seen, lost with
      | some i, _ => complete s1 o 0x83 0 i
      | none, some xs => complete s1 o stCheck xs 0
      | none, none => startChange (registerOp s1 o.id) { op := some o.id, epoch := e, fence := ws, isFence := true, draining := true })

/-- MCAST_SET. -/
def execMcastSet (op : Nat) (env : Env) (s0 : State) : Out :=
  runOp s0 op 0x9243 env (fun s o =>
    let d := o.desc
    let e : McEntry := { ports := BitVec.ofNat 12 (fld d 0x12 2), loc := bit (byteAt d 0x14) 0 }
    finishOk { s with fab := { s.fab with mcast := tset {} (fld d 0x10 2) e s.fab.mcast } } o env 0 0)

/-- Members that a new fence list takes out of a context (R249). (DEDUCED, log 75.) -/
def loseMembers (s : State) (x : Ctx) : Ctx :=
  { x with lost := (List.range x.size).filter (fun r => !x.absent.contains r && (x.lost.contains r || s.fab.fence.contains (x.coords.getD r 0x3FFFF))) }

/-- Every open context looks at the fence list again. -/
def fenceContexts (s : State) : State :=
  s.pl.ctxs.foldl (fun t x => match ctxByOp t x.op with
    | some y => let z := loseMembers t y
                if z.lost = y.lost then t else pump (putCtx t z) z
    | none => t) s

/-- Credits back to the launcher of a packet's segment (R267, R294). -/
def creditVia (s : State) (via : Option SegId) (vc n : Nat) : State :=
  match via with
  | some g => sendTag s g.port (relayTag g.xid s.fab.epoch 2 (vc * 2 ^ 9 + n))
  | none => s

/-- A waiting packet that a fence list drops: its source is fenced, or its next segment ends at a fenced destination or
neighbour (R276, R280). -/
def fencedOut (s : State) (key : Nat) (q : QPacket) : Bool :=
  let p := q.bytes
  s.fab.fence.contains (pktSrc p) || (match bankFor s (pktEpoch p) with
    | none => false
    | some img =>
      let port := key / 4 / 4096
      let xid := key / 4 % 4096
      let hops := if xid = 0 then [planRole img port] else (match launchOf s (pktEpoch p) ⟨port, xid⟩ with
        | some e => e.hops
        | none => [])
      let stop := walk img (planMyCoord img) hops
      s.fab.fence.contains stop && (pktMcast p || pktDst p = stop))

/-- The fence list takes effect on the packets that wait: each one dropped is counted. -/
def fenceQueues (s : State) : State :=
  s.fab.txq.foldl (fun t e =>
    let out := e.2.filter (fencedOut t e.1)
    out.foldl (fun u q => creditVia (discard u 3) q.via (pktVc q.bytes) (creditsOf q.bytes.length))
      { t with fab := { t.fab with txq := tset [] e.1 (e.2.filter (fun q => !fencedOut t e.1 q)) t.fab.txq } }) s

/-- Express segments of the active plan that the previous one did not have start afresh: they train (R298, R314); the
lane sets of the others are kept. (DEDUCED, log 157.) -/
def freshExpress (s : State) : State :=
  let was (f : Bytes → Bool) : Bool := match s.fab.previous with
    | some img => f img
    | none => false
  match s.fab.active with
  | none => s
  | some img =>
    let s1 := ((launches img).filter (fun e => decide (2 ≤ e.hlen) && !was (fun o => (launches o).contains e))).foldl (fun t e =>
      updSeg t ⟨e.port, e.xid⟩ (fun x => { x with nextSeq := 0, kept := [], tail := [], mask16 := 0#8, maskQ := 0#8, out := 0#8, down := false, ready := false, due := [] })) s
    ((expresses img).filter (fun e => e.out = 15 && !was (fun o => (expresses o).contains e))).foldl (fun t e =>
      forN 8 (fun w u => updLane u (rxLane ⟨e.inp, e.xid⟩) w (fun _ => {}))
        (updSeg t ⟨e.inp, e.xid⟩ (fun x => { x with rxNext := 0, rxHold := [], rxBytes := [], nakked := [] }))) s1

/-- Step 4 of R279. (DEDUCED, log 88.) -/
def switchBanks (s : State) (c : EpochChange) : State :=
  let f := s.fab
  let f1 := { f with
    previous := f.active, prevEpoch := f.epoch, prevKept := true, epoch := c.epoch, fence := c.fence, notices := [], change := none
    active := if c.isFence then f.active else f.staged
    staged := if c.isFence then f.staged else none
    reversals := if c.isFence then f.reversals ++ f.pendRev else []
    reversed := if c.isFence then f.reversed else []
    pendRev := [] }
  let s1 : State := { s with fab := f1 }
  newPlan (fenceQueues (if c.isFence then s1 else freshExpress s1))

/-- EPOCH_SWITCH (R279 steps 4 and 5): injection resumes. A boot plan ends step 12 (R343). -/
def execEpochSwitch (s : State) : Out :=
  match s.fab.change with
  | none => .next s
  | some c =>
    if !c.draining then .next s
    else
      let s1 := switchBanks s c
      let s2 := match c.op.bind (findOp s1) with
        | some o => complete s1 o stOk 0 0
        | none => if c.op.isNone then stepTwelveDone s1 else s1
      .next (inject (fenceContexts s2))

/-- PREVIOUS_BANK_RETIRE (R279 step 6). -/
def execPreviousBankRetire (s : State) : Out :=
  .next (if s.fab.prevKept then { s with fab := { s.fab with prevKept := false, previous := none } } else s)

/-! ### Packets received (R262, R264, R266, R276, R280) -/

/-- A packet that came in on a segment: discarded, delivered, or sent onward. -/
def packetIn (s : State) (via : SegId) (p : Bytes) : State :=
  let vc := pktVc p
  let n := creditsOf p.length
  let gone (t : State) : State := creditVia t (some via) vc n
  if malformed s p then gone (discard s 0)
  else if s.fab.fence.contains (pktSrc p) then gone (discard s 3)
  else match bankFor s (pktEpoch p) with
    | none => gone (discard s 0)
    | some img =>
      let ax := roleAxis (planRole img via.port)
      if pktMcast p then
        let e := tget {} s.fab.mcast (pktDst p)
        if e.ports = 0#12 && !e.loc then gone (discard s 3)
        else
          let s1 := if e.loc && pktSrc p ≠ planMyCoord img then assemble s p else s
          let s2 := mcastOut s1 img (hopPacket p) (some ax) (some via) none
          if (mcastPorts s1 img (pktDst p)).1.isEmpty then gone s2 else s2
      else match onward s img (hopPacket p) (some ax) (some via) none with
        | .here => gone (assemble s p)
        | .sent t => t
        | .dropped t => gone t
        | .lost t => inject (lostNotice (gone t) (pktSrc p) (pktDst p) vc (pktZyx p))

/-- PACKET_RECEIVE. (DEDUCED, log 94.) -/
def execPacketReceive (via : SegId) (bytes : Bytes) (s : State) : Out := .next (packetIn s via bytes)

/-! ### Packets transmitted (R267, R268, R272, R276) -/

/-- Packets of a VC wait at a port. -/
def vcWaiting (s : State) (port vc : Nat) : Bool :=
  s.fab.txq.any (fun e => e.1 / 4 / 4096 = port && e.1 % 4 = vc && !e.2.isEmpty)

/-- The VC's quantum: 17 flits for each unit of its weight; weights 6, 3 and 1 without a plan (R258, R268). -/
def vcQuantum (s : State) (vc : Nat) : Nat :=
  17 * (match s.fab.active with
    | some img => planWeight img vc
    | none => [0, 6, 3, 1].getD vc 0)

/-- The round after the turn has come to a VC that can start a packet within its deficit. A VC gets its quantum when the
turn comes to it and it can start; one with nothing waiting loses its deficit (R268). (DESIGN CHOICE, log 92.) -/
def takeTurn (s : State) (port : Nat) : Nat → Round → Option Round
  | 0, _ => none
  | n + 1, r =>
    let heads (v : Nat) : List QPacket := (portSegs s port).filterMap (fun g => headReady s g v)
    if (heads r.turn).any (fun q => decide (creditsOf q.bytes.length ≤ tget 0 r.left r.turn)) then some r
    else
      let v := r.turn % 3 + 1
      let kept := if vcWaiting s port r.turn then r.left else tset 0 r.turn 0 r.left
      takeTurn s port n { turn := v, left := if (heads v).isEmpty then kept else tset 0 v (tget 0 kept v + vcQuantum s v) kept }

/-- Start a packet: its credits are taken, those of the segment it came on return, and its first n flits go out. -/
def startPacket (s : State) (g : SegId) (vc : Nat) (q : QPacket) (n : Nat) : State :=
  let k := vcKey g.port g.xid vc
  let rest := (tget [] s.fab.txq k).drop 1
  let c := creditsOf q.bytes.length
  let s1 := { s with fab := { s.fab with txq := tset [] k rest s.fab.txq, spent := tset 0 k (tget 0 s.fab.spent k + c) s.fab.spent } }
  creditVia (launchPacket s1 g vc q rest.isEmpty n) q.via vc c

/-- Start a packet of VC1 to VC3 at its VC's turn. -/
def startInTurn (s : State) (g : SegId) (vc n : Nat) : State :=
  match headReady s g vc, takeTurn s g.port 5 (tget {} s.fab.rounds g.port) with
  | some q, some r =>
    let c := creditsOf q.bytes.length
    let d := tget 0 r.left vc
    if r.turn = vc && decide (c ≤ d) then
      let s1 := startPacket { s with fab := { s.fab with rounds := tset {} g.port { r with left := tset 0 vc (d - c) r.left } s.fab.rounds } } g vc q n
      if vcWaiting s1 g.port vc then s1
      else { s1 with fab := { s1.fab with rounds := tset {} g.port { r with left := tset 0 vc 0 r.left } s1.fab.rounds } }
    else s
  | _, _ => s

/-- PACKET_TRANSMIT: flits that are due go first, then VC0; a packet that VC0 pre-empted resumes before another one of
VC1 to VC3 starts (R268, R272). `flits` is how many flits leave before a VC0 packet takes the port. (DESIGN CHOICE,
log 92.) -/
def execPacketTransmit (seg : SegId) (turn : PacketTurn) (s0 : State) : Out :=
  let s := sendDuePort s0 seg.port
  .next (if turn.vc = 0 then (match headReady s seg 0 with
      | some q => startPacket s seg 0 q (q.bytes.length / 256 + 2)
      | none => s)
    else if vc0Ready s seg.port then s
    else match s.fab.cut.find? (fun e => e.1 / 4 / 4096 = seg.port) with
      | some e => if e.1 = vcKey seg.port seg.xid turn.vc && portSends s seg && roomFor s seg e.2.flits.length
          then sendCut s seg turn.vc (max 1 turn.flits) else s
      | none => startInTurn s seg turn.vc turn.flits)

/-- The segment is launched here: a neighbour link, or an express segment of a bank in use. -/
def launchedHere (s : State) (epoch : Nat) (g : SegId) : Bool := g.xid = 0 || (launchOf s epoch g).isSome

/-- CREDIT_RETURN. -/
def execCreditReturn (port : Nat) (tag : BitVec 64) (s0 : State) : Out :=
  onTag s0 port tag (fun s =>
    let g : SegId := { port, xid := tagXid tag }
    if !(tagOk tag && tagKind tag = 3 && tagRtype tag = 2 && launchedHere s (tagEpoch tag) g) then s
    else
      let k := vcKey port g.xid (field (tagContent tag) 9 2)
      { s with fab := { s.fab with spent := tset 0 k (tget 0 s.fab.spent k - field (tagContent tag) 0 9) s.fab.spent } })

/-! ### Express pass-through (R271 to R273, R293) -/

/-- The express entry of a tag that came in on a port, in the bank of its epoch. -/
def expressEntry (s : State) (epoch xid inp : Nat) : Option Express :=
  match bankFor s epoch with
  | some img => (expresses img).find? (fun e => e.xid = xid && e.inp = inp)
  | none => none

/-- A local VC0 packet is pending at a port. -/
def vc0Pending (s : State) (port : Nat) : Bool := vcWaiting s port 0

/-- EXPRESS_ANNOUNCE. A payload that is not announced to an entry is absorbed (R271). (DEDUCED, log 93.) -/
def execExpressAnnounce (port : Nat) (tag : BitVec 64) (s0 : State) : Out :=
  onTag s0 port tag (fun s =>
    let vc := tagVc tag
    let xid := tagXid tag
    if !tagOk tag then discard s 2
    else if tagKind tag ≠ 1 then s
    else match expressEntry s (tagEpoch tag) xid port with
      | none => discard s 2
      | some e =>
        if e.out = 15 then { s with fab := { s.fab with incoming := tset 0 (port * 4096 + xid) (tagFlits tag) s.fab.incoming } }
        else if tagRem tag = 0 || (getLink s e.out).state ≠ .up then discard s 2
        else
          let s1 := if vc = 0 then cancelReserved s e.out else s
          if decide (getSwitch s1 e.out ≠ .free) || (vc ≠ 0 && vc0Pending s e.out) then
            sendTag (discard s1 2) port (busyTag xid vc (tagEpoch tag))
          else sendTag (setSwitch s1 e.out (.reserved xid vc port (tagEpoch tag))) e.out
            (mkTag 1 xid vc (tagRem tag - 1) (tagFlits tag) (tagEpoch tag) 0))

/-- A reverse-direction frame goes on through a pass-through: out on the IN port of the entry whose OUT it came in on
(R294). -/
def relayBack (s : State) (port : Nat) (tag : BitVec 64) : State :=
  match bankFor s (tagEpoch tag) with
  | some img => (match (expresses img).find? (fun e => e.xid = tagXid tag && e.out = port) with
    | some e => sendTag s e.inp tag
    | none => s)
  | none => s

/-- EXPRESS_BUSY: its launcher holds the VC back on that segment; a pass-through relays it. -/
def execExpressBusy (port : Nat) (tag : BitVec 64) (s0 : State) : Out :=
  onTag s0 port tag (fun s =>
    let g : SegId := { port, xid := tagXid tag }
    let k := vcKey port g.xid (tagVc tag)
    if !(tagOk tag && tagKind tag = 2 && g.xid ≠ 0) then s
    else if (launchOf s (tagEpoch tag) g).isNone then relayBack s port tag
    else if s.fab.busy.contains k then s
    else { s with fab := { s.fab with busy := s.fab.busy ++ [k] } })

/-- EXPRESS_RETRY: the VC's unacknowledged flits are sent again, before any later packet (R270, R272). -/
def execExpressRetry (seg : SegId) (vc : Nat) (s : State) : Out :=
  let k := vcKey seg.port seg.xid vc
  .next (if !(s.fab.busy.contains k && portSends s seg) then s
    else
      let s1 := { s with fab := { s.fab with busy := s.fab.busy.filter (fun x => x ≠ k) } }
      sendFlits s1 seg ((getSeg s1 seg).kept.filter (fun x => x.vc = vc)))

/-- EXPRESS_END: the pass-through relays END and releases its switch, and what was due on the port goes out; at the
terminator the payload has ended. -/
def execExpressEnd (port : Nat) (tag : BitVec 64) (s0 : State) : Out :=
  onTag s0 port tag (fun s =>
    let xid := tagXid tag
    if !(tagOk tag && tagKind tag = 3 && tagRtype tag = 3) then s
    else match expressEntry s (tagEpoch tag) xid port with
      | none => s
      | some e =>
        if e.out = 15 then { s with fab := { s.fab with incoming := tset 0 (port * 4096 + xid) 0 s.fab.incoming } }
        else
          let s1 := sendTag s e.out tag
          let held := match getSwitch s1 e.out with
            | .free => false
            | .reserved x _ inp _ => x = xid && inp = port
            | .carrying x _ inp _ => x = xid && inp = port
          if held then sendDuePort (setSwitch s1 e.out .free) e.out else s1)

/-- EXPRESS_IDLE_KEEPALIVE: one idle flit, of free contents, behind an announce and followed by END. (DESIGN CHOICE, log 95.) -/
def execExpressIdleKeepalive (seg : SegId) (s : State) : Out :=
  match launchOf s s.fab.epoch seg with
  | none => .next s
  | some e =>
    if !(decide ((getLink s seg.port).state = .up) && decide (getSwitch s seg.port = .free)) then .next s
    else
      let s1 := sendTag s seg.port (mkTag 1 seg.xid 0 (e.hlen - 1) 1 s.fab.epoch 0)
      let s2 := putFlit (drawFree s1 256) seg (pickLane s1 seg 0) (flitInfo seg.xid 0 0 256 0 (freeBytes s1 256))
      .next (sendTag s2 seg.port (relayTag seg.xid s.fab.epoch 3 0))

/-! ### Discovery (R282, R283) -/

def hashOf (b : Option Bytes) : Nat := match b with
  | some img => planHash img
  | none => 0

/-- This module's identity record for a port (R282). -/
def identityRecord (s : State) (port : Nat) : Bytes :=
  let role := match s.fab.active with
    | some img => planRole img port
    | none => 0xFF
  let coord := match trainPlan s with
    | some img => planMyCoord img
    | none => 0x3FFFF
  let b := [1#8] ++ leBytes 1 port ++ leBytes 1 role ++ [1#8] ++ leBytes 4 coord ++ (sha384 s.part.serial).take 8
    ++ leBytes 8 (hashOf s.fab.active) ++ leBytes 8 (hashOf s.fab.staged) ++ leBytes 2 s.fab.epoch ++ zeros 26
  b ++ leBytes 4 (crc32c b).toNat

/-- IDENTITY_RECORD_SEND. A port in OFF is dark. -/
def execIdentityRecordSend (port : Nat) (s : State) : Out :=
  if (getLink s port).state = .off then .next s else .next (putWire s (.identity port (identityRecord s port)))

/-- After a port's record changed: AGREED, the class of the port, its state, and a commit that waits for agreement. -/
def neighbourChanged (s : State) (port : Nat) : State :=
  let s1 := classPort (judgeNbrs s) port
  let s2 := judgePort s1 port
  match s2.fab.change, s2.fab.staged with
  | some c, some img => if !c.draining && planAgreed s2 img then startChange s2 { c with draining := true } else s2
  | _, _ => s2

/-- A record is whole: version, reserved bytes and CRC (R282). -/
def recordOk (b : Bytes) : Bool :=
  decide (b.length = 64) && byteAt b 0 = 1 && zeroAt b 0x22 26 && field (fld b 4 4) 18 14 = 0 && fld b 0x3C 4 = (crc32c (b.take 0x3C)).toNat

def nbrOf (b : Bytes) : Nbr :=
  { seen := true, coord := field (fld b 4 4) 0 18, port := field (byteAt b 1) 0 4, hxver := byteAt b 3, role := byteAt b 2
    hashAct := BitVec.ofNat 64 (fld b 0x10 8), hashStg := BitVec.ofNat 64 (fld b 0x18 8) }

def takeRecord (s : State) (port : Nat) (b : Bytes) : State :=
  if !(recordOk b && decide (port < 12)) then s
  else neighbourChanged { s with fab := { s.fab with nbrs := tset {} port (nbrOf b) s.fab.nbrs } } port

/-- IDENTITY_RECORD_RECEIVE. With the optics down the light passes straight on. -/
def execIdentityRecordReceive (port : Nat) (bytes : Bytes) (s : State) : Out :=
  .next (if straight s 0 then putWire s (.identity (acrossPort port) bytes) else takeRecord s port bytes)

/-- NEIGHBOUR_RECORD_TIMEOUT: no agreeing record within 1 s. -/
def execNeighbourRecordTimeout (port : Nat) (s : State) : Out :=
  let n := tget {} s.fab.nbrs port
  .next (if 12 ≤ port then s
    else neighbourChanged { s with fab := { s.fab with nbrs := tset {} port { n with seen := false } s.fab.nbrs } } port)

/-! ### Lost links (R285) -/

/-- Discard the packets that wait for a segment and send their sources' notices. -/
def dropQueue (s : State) (key : Nat) : State :=
  let qs := tget [] s.fab.txq key
  qs.foldl (fun t q =>
    let p := q.bytes
    let t1 := creditVia (discard t 3) q.via (pktVc p) (creditsOf p.length)
    if pktMcast p then t1 else lostNotice t1 (pktSrc p) (pktDst p) (pktVc p) (pktZyx p))
    { s with fab := { s.fab with txq := tset [] key [] s.fab.txq } }

/-- FAB_LINK_DOWN. -/
def execFabLinkDown (port : Nat) (s : State) : Out :=
  let s1 := raiseMod s 0x0403 (leBytes 1 port ++ leBytes 2 s.fab.epoch)
  let s2 := match (getLink s1 port).state with
    | .off => s1
    | .probe => s1
    | _ => toProbe s1 port
  let s3 := updSeg s2 ⟨port, 0⟩ (fun x => { x with down := true })
  .next (inject ((s3.fab.txq.filter (fun e => e.1 / 4 / 4096 = port)).foldl (fun t e => dropQueue t e.1) s3))

/-- ROUTE_FAULT_NOTICE. One with a reserved bit set is discarded as a malformed packet is (R7, R264). -/
def execRouteFaultNotice (payload : Word32) (s : State) : Out :=
  let v := payload.toNat
  let s1 := takeDelivered s (leBytes 4 v)
  .next (if field v 21 11 = 0 then routeFault s1 (field v 0 18) (field v 18 2) (bit v 20) else discard s1 0)

end Sys2Proof.Machine
end

