-- ==== Sys2Proof/Machine/Links.lean ====
section
/-! DEFINITION. The commands of links and light (11): flits and replay, lane sets, loops, rings and lasers. -/

namespace Sys2Proof.Machine

open Sys2Proof

/-! ### Flits received (R290, R292, R295) -/

/-- Packets of a VC's stream, in order; what is left. Zeros alone from where a header is due are fill to the end of its
flit (DESIGN CHOICE, log 60). -/
def packetsIn : Nat → Bytes → List Bytes × Bytes
  | 0, b => ([], b)
  | n + 1, b =>
    if b.isEmpty then ([], [])
    else if b.all (fun x => x = 0#8) then ([], [])
    else if b.length < 32 then ([], b)
    else
      let len := 32 + pktLen b
      if fld b 0x1C 4 ≠ (crc32c (b.take 0x1C)).toNat || 4096 < pktLen b then ([b.take 32], [])
      else if b.length < len then ([], b)
      else
        let (l, r) := packetsIn n (b.drop len)
        (b.take len :: l, r)

/-- Append one body to its VC's stream and take the packets that are whole. -/
def bodyIn (s : State) (g : SegId) (k : KeptFlit) : State :=
  let x := getSeg s g
  let old := tget [] x.rxBytes k.vc
  let b := if old.isEmpty then (if k.poff < 256 then k.body.drop k.poff else []) else old ++ k.body
  let (ps, r) := packetsIn (b.length / 32 + 1) b
  ps.foldl (fun t p => packetIn t g p) (setSeg s g { x with rxBytes := tset [] k.vc r x.rxBytes })

/-- Deliver held flits in SEQ order. -/
def deliverFlits (g : SegId) : Nat → State → State
  | 0, s => s
  | n + 1, s =>
    let x := getSeg s g
    match x.rxHold.find? (fun k => k.seq = x.rxNext) with
    | none => s
    | some k =>
      let next := (x.rxNext + 1) % 2048
      deliverFlits g n (bodyIn (setSeg s g { x with rxNext := next, rxHold := x.rxHold.filter (fun h => h.seq ≠ k.seq), nakked := x.nakked.filter (fun q => q ≠ k.seq) }) g k)

/-- Distance of SEQ numbers modulo 2,048. -/
def seqGap (a b : Nat) : Nat := (a + 2048 - b % 2048) % 2048

/-- An ACK for everything received in order (R295). -/
def ackSeg (s : State) (g : SegId) : State := sendTag s g.port (relayTag g.xid s.fab.epoch 0 (seqGap (getSeg s g).rxNext 1))

/-- NAK every gap below the highest SEQ received, once (R295). -/
def nakGaps (s : State) (g : SegId) : State :=
  let x := getSeg s g
  let top := x.rxHold.foldl (fun m k => max m (seqGap k.seq x.rxNext)) 0
  (List.range top).foldl (fun t i =>
    let q := (x.rxNext + i) % 2048
    if x.rxHold.any (fun k => k.seq = q) || x.nakked.contains q then t
    else sendTag (updSeg t g (fun y => { y with nakked := y.nakked ++ [q] })) g.port (relayTag g.xid s.fab.epoch 1 q)) s

/-- A data flit of a segment that ends here: each is answered by an ACK (R295). -/
def dataFlit (s : State) (g : SegId) (k : KeptFlit) : State :=
  let x := getSeg s g
  if 1024 ≤ seqGap k.seq x.rxNext then ackSeg s g
  else
    let hold := if x.rxHold.any (fun h => h.seq = k.seq) then x.rxHold else x.rxHold ++ [k]
    let s1 := deliverFlits g (hold.length + 1) (setSeg s g { x with rxHold := hold })
    ackSeg (nakGaps s1 g) g

/-- The port that an express payload's switch leads to. -/
def switchOf (s : State) (xid inp : Nat) : Option Nat :=
  findN 12 (fun port => match getSwitch s port with
    | .free => false
    | .reserved x _ i _ => x = xid && i = inp
    | .carrying x _ i _ => x = xid && i = inp)

/-- Versions of a neighbour's training flit (R299). -/
def takeVersions (s : State) (port lo hi : Nat) : State :=
  if max 1 lo ≤ min 1 hi then tryRamp (updLink s port (fun x => { x with version := min 1 hi, verOk := true })) port
  else raiseMod (updLink s port (fun x => { x with verOk := false })) 0x0201 (leBytes 1 port ++ leBytes 1 lo ++ leBytes 1 hi)

/-- The body of a training flit: the lowest and the highest version of its sender, 1 and 1 here (R299). (DESIGN CHOICE,
log 158.) -/
def trainingBody : Bytes := padTo 256 [1#8, 1#8]

/-- A flit whose light ends at this module (R290 to R292, R295, R299). -/
def flitIn (seg : SegId) (lane index : Nat) (light : Light) (s : State) : State :=
  match decodeSlot (lightSlot index light) with
  | none => s
  | some info =>
    let hi := fld info 4 4
    let seq := field hi 7 11
    let body := info.drop 8
    if fld info 0 4 ≠ flitCrc seg.xid seq hi body || field hi 0 7 ≠ 0 then s
    else if field hi 29 3 = 1 then dataFlit s seg { seq, lane, vc := field hi 27 2, body, poff := field hi 18 9 }
    else if field hi 29 3 = 2 && decide ((getLink s seg.port).state = .probe) then takeVersions s seg.port (byteAt body 0) (byteAt body 1)
    else s

/-- FLIT_RECEIVE. On a pass-through the light goes on while its OUT port is UP, and its switch carries it; an express
flit that no announce has brought is absorbed (R271, R272, R293). -/
def execFlitReceive (seg : SegId) (lane index : Nat) (light : Light) (s : State) : Out :=
  let k := segKey seg
  .next (if straight s seg.xid then putWire s (.flit (acrossPort seg.port) seg.xid lane index light)
    else if seg.xid = 0 then flitIn seg lane index light s
    else match switchOf s seg.xid seg.port with
      | some out =>
        if (getLink s out).state ≠ .up then s
        else
          let s1 := match getSwitch s out with
            | .reserved x vc i e => setSwitch s out (.carrying x vc i e)
            | _ => s
          putWire s1 (.flit out seg.xid lane index light)
      | none =>
        if tget 0 s.fab.incoming k = 0 then s
        else flitIn seg lane index light { s with fab := { s.fab with incoming := tset 0 k (tget 0 s.fab.incoming k - 1) s.fab.incoming } })

/-! ### Acknowledgement and replay (R295, R296) -/

/-- A valid relay frame of a type for a segment launched here; otherwise a pass-through's own row relays it. -/
def relayFor (s : State) (port : Nat) (tag : BitVec 64) (rtype : Nat) : Option SegId :=
  let g : SegId := { port, xid := tagXid tag }
  if tagOk tag && tagKind tag = 3 && tagRtype tag = rtype && launchedHere s (tagEpoch tag) g then some g else none

/-- RELAY_ACK. -/
def execRelayAck (port : Nat) (tag : BitVec 64) (s0 : State) : Out :=
  onTag s0 port tag (fun s => match relayFor s port tag 0 with
    | none => s
    | some g =>
      let q := tagContent tag
      updSeg s g (fun x => { x with kept := x.kept.filter (fun k => decide (1024 ≤ seqGap q k.seq)) }))

/-- Send an unacknowledged flit again: on its lane up to three times; then its lane is dropped and it goes on another
lane (R296). A flit whose lane has left the set goes on another lane, which is no replay (R314). -/
def replayFlit (s : State) (g : SegId) (seq : Nat) : State :=
  match (getSeg s g).kept.find? (fun k => k.seq = seq) with
  | none => s
  | some k =>
    if !(laneSet s g).contains k.lane then moveFlits s g k.lane
    else if 3 ≤ k.replays then dropLane s g k.lane
    else
      let s1 := updSeg s g (fun x => { x with kept := (listUpdate (fun o => o.seq = seq) (fun o => { o with replays := o.replays + 1 }) x.kept) })
      let s2 := updLink s1 g.port (fun x => { x with replays := sat 255 (x.replays + 1) })
      sendFlits s2 g [{ k with replays := k.replays + 1 }]

/-- RELAY_NAK. -/
def execRelayNak (port : Nat) (tag : BitVec 64) (s0 : State) : Out :=
  onTag s0 port tag (fun s => match relayFor s port tag 1 with
    | none => s
    | some g => replayFlit s g (tagContent tag))

/-- REPLAY_TIMEOUT. -/
def execReplayTimeout (seg : SegId) (seq : Nat) (s : State) : Out := .next (replayFlit s seg seq)

/-- REVERSE_RELAY_FRAME (R294). KEEP and END are not relayed here. -/
def execReverseRelayFrame (port : Nat) (tag : BitVec 64) (s0 : State) : Out :=
  onTag s0 port tag (fun s =>
    let t := tagRtype tag
    if tagOk tag && tagKind tag = 3 && tagXid tag ≠ 0 && (t = 0 || t = 1 || t = 2 || t = 5) then relayBack s port tag else s)

/-! ### Lane sets (R303 to R305) -/

/-- What one lane's change of mode means at the launcher (R304): a lower mode is a drop; a lane between two modes
retrains before it returns. -/
def modeChange (g : SegId) (old new : Seg) (w : Nat) (s : State) : State :=
  let a := txMode old w
  let b := txMode new w
  if a = b || a = 0 || !(laneUsable s g.port w) then s
  else
    let s1 := if b < a then laneDropEvent s g w b else s
    let s2 := if b = 0 then s1 else updSeg s1 g (fun x => { x with out := x.out ||| BitVec.ofNat 8 (2 ^ w) })
    moveFlits s2 g w

/-- LANES_FRAME. -/
def execLanesFrame (port : Nat) (tag : BitVec 64) (s0 : State) : Out :=
  onTag s0 port tag (fun s => match relayFor s port tag 5 with
    | none => s
    | some g =>
      let m := BitVec.ofNat 8 (field (tagContent tag) 0 8)
      let old := getSeg s g
      let new := if bit (tagContent tag) 10 then { old with maskQ := m } else { old with mask16 := m }
      checkLanes (forN 8 (modeChange g old new) (setSeg s g new)) g)

/-- LANE_RETRAIN_DONE. -/
def execLaneRetrainDone (seg : SegId) (lane : Nat) (s : State) : Out :=
  .next (if lane < 8 then checkLanes (updSeg s seg (fun x => { x with out := x.out &&& ~~~(BitVec.ofNat 8 (2 ^ lane)) })) seg else s)

/-- The mode of a lane after a window (R303). -/
def windowMode (l : Links) (x : Lane) : Lane :=
  let good16 := decide (l.q16Up ≤ x.enob) && decide (l.xt16 ≤ x.xt)
  let goodQ := decide (l.qpskUp ≤ x.enob) && decide (l.xtOff ≤ x.xt)
  let bad16 := decide (x.enob < l.q16Down) || decide (x.xt < l.xt16)
  let badQ := decide (x.enob < l.qpskDown) || decide (x.xt < l.xtOff)
  let y := { x with up16 := if good16 && x.mode ≠ 2 then x.up16 + 1 else 0
                    upQ := if goodQ && x.mode = 0 then x.upQ + 1 else 0
                    down := if (x.mode = 2 && bad16) || (x.mode = 1 && badQ) then x.down + 1 else 0 }
  if 64 ≤ y.up16 then { y with mode := 2, up16 := 0, upQ := 0, down := 0 }
  else if 64 ≤ y.upQ then { y with mode := 1, upQ := 0, down := 0 }
  else if 2 ≤ y.down then { y with mode := y.mode - 1, up16 := 0, upQ := 0, down := 0 }
  else y

/-- A lane has a mode or is off: not on its way up from off. -/
def laneDecided (s : State) (port w : Nat) : Bool :=
  let x := getLane s port w
  x.mode ≠ 0 || !laneUsable s port w || (decide (x.enob + x.xt ≠ 0) && x.upQ = 0)

/-- Lanes of a port that hold a mode. -/
def modedLanes (s : State) (port : Nat) : Nat := ((List.range 8).filter (fun w => (getLane s port w).mode ≠ 0 && laneUsable s port w)).length

/-- ACQUIRE ends when every lane has a mode or is off and at least MIN_WL have one (R298). The segments launched on the
port come up with the lane sets that their terminators reported (R304, R305). -/
def tryUp (s : State) (port : Nat) : State :=
  if (getLink s port).state = .acquire && allN 8 (laneDecided s port) && decide (s.links.minWl ≤ modedLanes s port) then
    (portSegs s port).foldl checkLanes (updLink s port (fun x => { x with state := .up, replays := 0 }))
  else s

/-- ENOB_WINDOW_END. A port that is UP and falls below MIN_WL returns to PROBE. -/
def execEnobWindowEnd (seg : SegId) (lane enob xt : Nat) (s : State) : Out :=
  if 8 ≤ lane then .next s
  else
    let k := rxLane seg
    let usable := laneUsable s seg.port lane
    let old := (getLane s k lane).mode
    let s1 := updLane s k lane (fun x =>
      let y := { x with enob := sat 255 enob, xt := sat 255 xt }
      if usable then windowMode s.links y else { y with up16 := 0, upQ := 0, down := 0 })
    let new := (getLane s1 k lane).mode
    let s2 := if new = old then s1 else sendLanes s1 (if new < old then 1 else 0) seg
    if seg.xid ≠ 0 then .next s2
    else
      let s3 := tryUp s2 seg.port
      .next (if decide (new ≠ old) && decide ((getLink s3 seg.port).state = .up) && decide (modedLanes s3 seg.port < s3.links.minWl) then toProbe s3 seg.port else s3)

/-! ### Loops and training (R298 to R301, R314) -/

/-- KEEP_SEND: from PROBE on; in PROBE with a training flit on lane 0 that carries this module's versions (R298, R299).
(DESIGN CHOICE, log 158.) -/
def execKeepSend (port : Nat) (s : State) : Out :=
  .next (match (getLink s port).state with
    | .off => s
    | st =>
      let t := sendTag s port (relayTag 0 s.fab.epoch 4 (field port 0 4 * 2 ^ 7 + (if (getLink s port).heard then 2 ^ 6 else 0)))
      if st = .probe then putFlit t ⟨port, 0⟩ 0 (flitInfo 0 2 0 256 0 trainingBody) else t)

/-- KEEP_FRAME: HEAR = 1 closes the loop, HEAR = 0 opens it. -/
def execKeepFrame (port : Nat) (tag : BitVec 64) (s0 : State) : Out :=
  onTag s0 port tag (fun s =>
    if !(tagOk tag && tagKind tag = 3 && tagRtype tag = 4 && tagXid tag = 0 && decide ((getLink s port).state ≠ .off)) then s
    else if !bit (tagContent tag) 6 then openLoop s port
    else if (getLink s port).emitterFailed then s
    else tryRamp (updLink s port (fun x => { x with loop := true })) port)

/-- LOOP_OPEN_TIMEOUT: nothing heard for 2 µs. -/
def execLoopOpenTimeout (port : Nat) (s : State) : Out :=
  .next (openLoop (updLink s port (fun x => { x with heard := false })) port)

/-- PORT_TRAINING_TIMEOUT. -/
def execPortTrainingTimeout (port : Nat) (s : State) : Out :=
  .next (match (getLink s port).state with
    | .ramp => toProbe s port
    | .acquire => toProbe s port
    | _ => s)

/-- TAG_EMITTER_FAILURE: the loop opens and the port stays in PROBE. -/
def execTagEmitterFailure (port : Nat) (s : State) : Out := .next (emitterFails s port)

/-! ### Rings (R308) -/

/-- The tone found at a ring belongs to its wavelength (laser i to ⌊i ÷ 3⌋, R307) and stands 20 dB above every other;
`margin` is in units of 0.25 dB (R308). -/
def toneOk (lane tone margin : Nat) : Bool := tone / 3 = lane && decide (80 ≤ margin)

/-- RING_LOCK_CHECK: the tone found, its margin, and the marker of the frame received (R290, R308). In RAMP a lock counts,
and a failed lock ends RAMP (R298). A second failure within 1 s, 10⁸ ticks (R318), keeps the lane off. -/
def execRingLockCheck (port lane tone margin : Nat) (marker : Byte) (s : State) : Out :=
  if 8 ≤ lane then .next s
  else if toneOk lane tone margin && marker = laneMarker lane then
    let s1 := updLink s port (fun x => if x.state = .ramp then { x with locked := x.locked ||| BitVec.ofNat 8 (2 ^ lane) } else x)
    let full := decide ((getLink s1 port).state = .ramp) && allN 8 (fun w => (getLink s1 port).locked.getLsbD w || (getLane s1 port w).retired)
    .next (if full then updLink s1 port (fun x => { x with state := .acquire }) else s1)
  else
    let now := s.power.tick.toNat
    let last := (getLane s port lane).wrongTick
    let again := decide (last ≠ 0) && decide (now < last - 1 + 100000000)
    let s1 := raiseMod s 0x0302 (leBytes 1 port ++ leBytes 1 lane ++ leBytes 1 (if again then 1 else 0))
    let s2 := dropPortLane s1 port lane (fun x =>
      { x with resweep := true, keptOff := x.keptOff || again, wrongTick := now + 1, mode := 0, up16 := 0, upQ := 0, down := 0 })
    .next (updLink s2 port (fun x => if x.state = .ramp then { x with state := .acquire } else x))

/-- RING_SWEEP_DONE: the lane retrains. -/
def execRingSweepDone (port lane : Nat) (s : State) : Out :=
  .next (if lane < 8 then updLane s port lane (fun x => { x with resweep := false }) else s)

/-! ### Lasers (R309 to R311) -/

/-- Start the changeover of an active laser to its wavelength's spare (R310 step 2). -/
def startChangeover (s : State) (laser spare : Nat) (drained : Bool) : State :=
  updLaser (updLaser s laser (fun x => { x with change := .warming spare drained })) spare (fun x => { x with warm := true, lit := true })

/-- An active laser at a power, in units of 0.01 dB from start of life. While the Drabex restarts its decision waits for a
later sample (R349). -/
def laserFades (s : State) (laser : Nat) (delta : Int) : State :=
  let x := getLaser s laser
  let w := laser / 3
  let spare := freeSpare s w
  let s1 := if x.fadeRaised then s
    else raiseMod (updLaser s laser (fun y => { y with fadeRaised := true })) 0x0303
      (leBytes 1 laser ++ leBytes 2 (unsgn 16 delta) ++ leBytes 1 (if spare.isSome then 1 else 0))
  match x.change with
  | .none =>
    if !s.power.drabexUp then s1 else
    (match spare with
    | some sp =>
      let s2 := startChangeover s1 laser sp (decide (delta ≤ -150))
      if delta ≤ -150 then drainGroup s2 w x.role else s2
    | none => if delta ≤ -150 then retireWavelength s1 laser x.role else s1)
  | .warming sp false => if delta ≤ -150 then drainGroup (updLaser s1 laser (fun y => { y with change := .warming sp true })) w x.role else s1
  | _ => s1

/-- LASER_POWER_SAMPLE. -/
def execLaserPowerSample (laser : Nat) (delta : Int) (s : State) : Out :=
  let s1 := updLaser s laser (fun x => { x with delta := sgn 16 (unsgn 16 delta) })
  .next (if 24 ≤ laser then s
    else if (getLaser s1 laser).role < 2 && (getLaser s1 laser).lit && decide (delta ≤ -80) then laserFades s1 laser delta else s1)

/-- What becomes of a laser that has stopped: changeover starts at step 2 with its lanes drained, or the wavelength is
retired. -/
def decideStopped (s : State) (laser : Nat) : State :=
  match freeSpare s (laser / 3) with
  | some sp => startChangeover s laser sp true
  | none => retireWavelength s laser (getLaser s laser).role

/-- A laser stops outright: its lanes fail at once, and the Drabex decides, after its restart if it does not run (R310,
R349). (DEDUCED, log 99.) -/
def stopLaser (s : State) (laser : Nat) : State :=
  let x := getLaser s laser
  let w := laser / 3
  if 24 ≤ laser || 2 ≤ x.role || !x.lit then s
  else
    let s1 := updLaser s laser (fun y => { y with lit := false, locked := false })
    match x.change with
    | .warming sp d => if d then s1 else drainGroup (updLaser s1 laser (fun y => { y with change := .warming sp true })) w x.role
    | .switched _ => s1
    | _ =>
      let s2 := drainGroup s1 w x.role
      if s.power.drabexUp then decideStopped s2 laser else updLaser s2 laser (fun y => { y with change := .undecided })

/-- The lasers that stopped while the Drabex restarted. -/
def decideLasers (s : State) : State :=
  forN 24 (fun i t => if (getLaser t i).change = .undecided then decideStopped t i else t) s

/-- LASER_STOP. -/
def execLaserStop (laser : Nat) (s : State) : Out := .next (stopLaser s laser)

/-- The laser whose changeover waits for a spare. -/
def changingTo (s : State) (spare : Nat) : Option Nat :=
  (wavelengthLasers (spare / 3)).find? (fun i => match (getLaser s i).change with
    | .warming sp _ => sp = spare
    | _ => false)

/-- SPARE_WARM_DONE: steps 3 and 4 of R310. -/
def execSpareWarmDone (laser : Nat) (s : State) : Out :=
  match changingTo s laser with
  | none => .next s
  | some i =>
    let x := getLaser s i
    let s1 := updLaser s laser (fun y => { y with warm := false, locked := true })
    let s2 := match x.change with
      | .warming _ true => s1
      | _ => drainGroup s1 (i / 3) x.role
    .next (updLaser s2 i (fun y => { y with change := .switched laser }))

/-- SPARE_LOCK_TIMEOUT: the spare is failed; the old laser serves on unless it has reached −1.5 dB or stopped. -/
def execSpareLockTimeout (laser : Nat) (s : State) : Out :=
  match changingTo s laser with
  | none => .next s
  | some i =>
    let x := getLaser s i
    let s1 := queueRecord (updLaser s laser (fun y => { y with role := 3, warm := false, lit := false })) (.laserRole laser 3)
    .next (match x.change with
      | .warming _ true => if s.power.drabexUp then retireWavelength s1 i x.role else updLaser s1 i (fun x => { x with change := .undecided })
      | _ => updLaser s1 i (fun x => { x with change := .none }))

/-- LASER_CHANGEOVER_DONE: steps 5 and 6 of R310. -/
def execLaserChangeoverDone (wavelength : Nat) (s : State) : Out :=
  match (wavelengthLasers wavelength).find? (fun i => match (getLaser s i).change with
    | .switched _ => true
    | _ => false) with
  | none => .next s
  | some i =>
    match (getLaser s i).change with
    | .switched sp =>
      let grp := (getLaser s i).role
      let s1 := updLaser s i (fun x => { x with role := 3, lit := false, locked := false, change := .none })
      let s2 := updLaser s1 sp (fun x => { x with role := grp })
      let s3 := (groupPorts grp).foldl (fun t p =>
        returnPortLane (updPortLane t p wavelength (fun l => { l with drained := false, up16 := 0, upQ := 0, down := 0 })) p wavelength) s2
      let s4 := (groupPorts grp).foldl (fun t p => ((⟨p, 0⟩ : SegId) :: endSegs t p).foldl (fun u g => sendLanes u 0 g) t) s3
      .next (queueRecord (queueRecord (raiseMod s4 0x0304 (leBytes 1 i ++ leBytes 1 sp)) (.laserRole i 3)) (.laserRole sp grp))
    | _ => .next s

end Sys2Proof.Machine
end

