-- ==== Sys2Proof/Machine/Manifest.lean ====
section
/-! DEFINITION. Firmware bundles in their slots (R367): the manifest and the five checks. -/

namespace Sys2Proof.Machine

open Sys2Proof

/-! ### The manifest (R367) -/

def mfComp (m : Bytes) : Nat := byteAt m 1
def mfTests (m : Bytes) : Nat := byteAt m 2
def mfIfs (m : Bytes) : Nat := byteAt m 3
def mfLen (m : Bytes) : Nat := fld m 4 4
def mfBver (m : Bytes) : BitVec 64 := BitVec.ofNat 64 (fld m 8 8)
def mfSvn (m : Bytes) : Nat := fld m 0x10 4
def mfCertOff (m : Bytes) : Nat := fld m 0x14 4
def mfCertLen (m : Bytes) : Nat := fld m 0x18 2

/-- A bundle slot. -/
def slotBytes : Nat := 24 * 2 ^ 20

/-- Offsets of component i, of the tested steppings and of the interfaces. -/
def compOff (i : Nat) : Nat := 0x20 + 64 * i
def testOff (m : Bytes) : Nat := compOff (mfComp m)
def ifOff (m : Bytes) : Nat := testOff m + 8 * mfTests m
def mfSize (m : Bytes) : Nat := ifOff m + 8 * mfIfs m

def compId (m : Bytes) (i : Nat) : Nat := fld m (compOff i) 2

/-- Ranges of the manifest with its signature and of the components. -/
def bundleRanges (m : Bytes) : List (Nat × Nat) :=
  (0, mfLen m + 96) :: (List.range 6).map (fun i => (fld m (compOff i + 8) 4, fld m (compOff i + 12) 4))

def pairwiseApart : List (Nat × Nat) → Bool
  | [] => true
  | a :: t => t.all (fun b => !overlap a.1 a.2 b.1 b.2) && pairwiseApart t

/-- The manifest has the form of R367: six components with each CID once, inside the slot and apart. -/
def manifestForm (m : Bytes) : Bool :=
  decide (mfComp m = 6) && decide (1 ≤ mfTests m) && decide (mfTests m ≤ 32) && decide (1 ≤ mfIfs m) && decide (mfIfs m ≤ 64)
    && decide (mfLen m = mfSize m) && zeroAt m 0x1A 6 && decide (1 ≤ mfCertLen m) && decide (mfCertLen m ≤ 2048)
    && decide (mfCertOff m + mfCertLen m ≤ slotBytes)
    && allN 6 (fun i => decide (1 ≤ compId m i) && decide (compId m i ≤ 6) && zeroAt m (compOff i + 2) 2)
    && !hasDup ((List.range 6).map (compId m)) && (bundleRanges m).all (fun r => decide (r.1 + r.2 ≤ slotBytes)) && pairwiseApart (bundleRanges m)

/-- Check 2: the fused stepping triple is tested. -/
def steppingTested (s : State) (m : Bytes) : Bool :=
  anyN (mfTests m) (fun i => let o := testOff m + 8 * i
    decide (fld m o 2 = s.part.dieStep) && decide (fld m (o + 2) 2 = s.part.picStep) && decide (fld m (o + 4) 2 = s.part.dramStep))

/-- Check 3: provider and consumer of every interface are present and agree. -/
def interfacesAgree (m : Bytes) : Bool :=
  let ids := (List.range 6).map (compId m)
  allN (mfIfs m) (fun i => let o := ifOff m + 8 * i
    ids.contains (byteAt m (o + 1)) && ids.contains (byteAt m (o + 2)) && decide (fld m (o + 4) 2 = fld m (o + 6) 2))

/-- The component of index i lies in the bytes of a bundle and has the SHA-384 of its manifest entry. -/
def componentOk (m : Bytes) (i : Nat) : Bool :=
  let off := fld m (compOff i + 8) 4
  let len := fld m (compOff i + 12) 4
  decide (off + len ≤ m.length) && decide (sha384 ((m.drop off).take len) = (m.drop (compOff i + 16)).take 48)

/-- Check 5: every component's HASH matches. -/
def componentsMatch (m : Bytes) : Bool := allN 6 (componentOk m)

/-- Checks 1 to 4 in the order of R11: a failed check's STATUS and XSTATUS. A manifest of another version, or without
the form of R367, is not interpreted. (DEDUCED, log 123.) -/
def bundleCheck (s : State) (m : Bytes) (signatureOk : Bool) : Option (Nat × Nat) :=
  if byteAt m 0 ≠ 1 then some (stVersion, 0)
  else if !manifestForm m then some (0x80, 0)
  else if !steppingTested s m then some (stVersion, 1)
  else if !interfacesAgree m then some (stVersion, 2)
  else if !signatureOk then some (0x80, 0)
  else if mfSvn m < s.part.svnMin then some (0x82, 0) else none

/-- SHA-384 of the manifest with its signature (R376). -/
def manifestHash (m : Bytes) : Bytes := sha384 (m.take (mfLen m + 96))

/-! ### The slots -/

def getSlot (s : State) (i : Nat) : Slot := tget {} s.dbx.slots i
def setSlot (s : State) (i : Nat) (x : Slot) : State := { s with dbx := { s.dbx with slots := tset {} i x s.dbx.slots } }

/-- The minor interface versions of the running bundle (R131, R380): a bundle's own, which its manifest does not give. The
bundle of manufacture has the part's. (DESIGN CHOICE, log 179.) -/
def curMinorOf (s : State) : Nat :=
  match (getSlot s s.power.slot).image with
  | none => s.part.curMinor
  | some m => (Config.bundleCurMinor m).toNat
def prevMinorOf (s : State) : Nat :=
  match (getSlot s s.power.slot).image with
  | none => s.part.prevMinor
  | some m => (Config.bundlePrevMinor m).toNat

end Sys2Proof.Machine
end

