-- ==== Sys2Proof/Machine/Power.lean ====
section
/-! DEFINITION. What a cold reset loses (R345), the power-on sequence (R337 to R343) and the trips (R316, R334). -/

namespace Sys2Proof.Machine

open Sys2Proof

/-! ### What is lost -/

/-- The Drabex after a cold reset: its flash is kept; an update not finished leaves its target invalid (R345, R350,
R358, R370). -/
def drabexCold (d : Drabex) : Drabex :=
  { log := d.log, logSeq := d.logSeq, alertMask := d.alertMask, nextBoot := d.nextBoot, flashRecs := d.flashRecs
    logHeld := d.logHeld, dropped := d.dropped
    lastStatus := d.lastStatus, lastXstatus := d.lastXstatus
    slots := match d.update with
      | some u => tset {} u.target { (tget {} d.slots u.target) with state := 0 } d.slots
      | none => d.slots }

/-- Everything that a cold reset loses is at its reset value; flash records and pins stay. -/
def lose (s : State) (phase : Phase) (cause : Nat) : State :=
  { pending := s.pending, free := s.free, host := s.host, lastRead := s.lastRead, part := s.part
    power := { phase, cause, boots := s.power.boots, perst0 := s.power.perst0, perst1 := s.power.perst1, pwrEn := s.power.pwrEn
               inputMv := s.power.inputMv }
    cores := { recorded := s.cores.recorded, late := s.cores.late }
    fab := { bootPlan := s.fab.bootPlan, bootWait := s.fab.bootWait }
    links := { flashRoles := s.links.flashRoles, flashRetired := s.links.flashRetired, flashPower := s.links.flashPower }
    kt := { hostCap := variantCap s.part.variant, f := startLevel s }
    dbx := drabexCold s.dbx }

/-! ### Steps of the power-on sequence -/

def atStep (s : State) (n : Nat) : State := { s with power := { s.power with step := n } }

/-- A bring-up fault (R340): the sequence stops, FAULT and DBX_BOOT_FAULT. -/
def bootFault (s : State) (phase : Phase) (fault step index : Nat) : State :=
  let s1 := { s with power := { s.power with phase, fault, ready := false } }
  logBringUp (raiseMod s1 0x0902 (leBytes 1 fault ++ leBytes 1 step ++ leBytes 2 index)) fault 0

/-- Step 2: straps are sampled; ports whose PERST_N is deasserted are released (R337, R389). -/
def sampleStraps (s : State) (bu : BringUp) : State :=
  let s1 := { s with power := { s.power with x8x8 := bu.bifGrounded, addr1 := bu.addr1, addr0 := bu.addr0 } }
  let s2 := updPort s1 0 (fun p => { p with up := !s.power.perst0 })
  if bu.bifGrounded then updPort s2 1 (fun p => { p with up := !s.power.perst1 }) else s2

/-- What the boot ROM finds in a slot (R341, R367, R368): checks 1, 4 and 5 fail as a bad signature, checks 2 and 3 as an
untested set. Whether certificate and signature verify is the command's operand; of the bundle of manufacture, whose bytes
the spec does not give, the whole verdict is. -/
def slotVerdict (s : State) (bu : BringUp) (i : Nat) : BundleVerdict :=
  let x := getSlot s i
  let v := if i = 0 then bu.verdict0 else bu.verdict1
  if x.state ≠ 1 || x.svn < s.part.svnMin || v = .badSignature then .badSignature
  else match x.image with
    | none => v
    | some m =>
      if byteAt m 0 ≠ 1 || !manifestForm m || !componentsMatch m then .badSignature
      else if steppingTested s m && interfacesAgree m then .pass else .notTested

/-- Step 3: the slot that boots and whether it is the other one; none for recovery. -/
def bootSlot (s : State) (bu : BringUp) : Option (Nat × Bool) :=
  let a := s.dbx.nextBoot
  if slotVerdict s bu a = .pass then some (a, false)
  else if slotVerdict s bu (1 - a) = .pass then some (1 - a, true) else none

/-- A physical core is a candidate (R342). -/
def candidate (s : State) (bu : BringUp) (x : Nat) : Bool :=
  !(s.part.mappedOut.contains x || bu.noAck.contains x || bu.bistFail.contains x) && decide (lateCount s x < 2)

/-- The free candidate of least index in a domain, or else in any domain. -/
def nearestFree (free : List Nat) (dom : Nat) : Option Nat :=
  match free.find? (fun x => domainOf x = dom) with
  | some x => some x
  | none => free.head?

/-- Bind logical numbers to free candidates in increasing order; `old` gives the domain wanted. -/
def bindNumbers (old : Nat → Option Nat) : List Nat → Tbl (Option Nat) × List Nat → Tbl (Option Nat) × List Nat
  | [], t => t
  | l :: ls, (m, free) =>
    let pick := match old l with
      | some x => nearestFree free (domainOf x)
      | none => free.head?
    match pick with
    | some x => bindNumbers old ls (tset none l (some x) m, free.filter (fun y => y ≠ x))
    | none => bindNumbers old ls (m, free)

/-- The core map from the recorded one (R342). -/
def buildMap (rec_ : Option (Tbl (Option Nat))) (good : List Nat) : Tbl (Option Nat) :=
  match rec_ with
  | none => (bindNumbers (fun _ => none) (List.range 512) ([], good)).1
  | some r =>
    let old (l : Nat) : Option Nat := tget none r l
    let keeps (l : Nat) : Bool := match old l with
      | some x => good.contains x
      | none => false
    let m0 : Tbl (Option Nat) := (List.range 512).foldl (fun m l => if keeps l then tset none l (old l) m else m) []
    let free := good.filter (fun x => !(m0.any (fun e => e.2 = some x)))
    let (m1, f1) := bindNumbers old ((List.range 512).filter (fun l => !keeps l && (old l).isSome)) (m0, free)
    (bindNumbers (fun _ => none) ((List.range 512).filter (fun l => (old l).isNone)) (m1, f1)).1

/-- The code of a physical core in event arguments: 0x3FF for none. -/
def physCode (x : Option Nat) : Nat := x.getD 0x3FF

/-- Events of a new map: CORE_REBOUND where a binding differs from the recorded map, CORE_HOLE for each new hole. (DEDUCED, log 102.) -/
def mapEvents (old : Option (Tbl (Option Nat))) (new : Tbl (Option Nat)) (s : State) : State :=
  (List.range 512).foldl (fun t l =>
    let a := match old with
      | some r => tget none r l
      | none => none
    let b := tget none new l
    if b.isNone then (if old.isNone || a.isSome then raiseMod t 0x0905 (leBytes 2 l ++ leBytes 2 (physCode a)) else t)
    else if old.isSome && a ≠ b then raiseMod t 0x0904 (leBytes 2 l ++ leBytes 2 (physCode a) ++ leBytes 2 (physCode b)) else t) s

def holesOf (m : Tbl (Option Nat)) : Nat := ((List.range 512).filter (fun l => (tget none m l).isNone)).length

/-- Steps 5 to 7: candidates and the core map (R337, R342); its faults are 0x20, 0x21 and 0x30. -/
def mapCores (s : State) (bu : BringUp) : State × Option (Nat × Nat) :=
  if bu.bistQueue then (s, some (0x20, 6)) else if bu.bistNetwork then (s, some (0x21, 6))
  else
    let good := (List.range 544).filter (candidate s bu)
    let old := knownMap s
    let m := buildMap old good
    if 63 < holesOf m then (s, some (0x30, 7))
    else
      let s1 := applyCodes (mapEvents old m { s with cores := { s.cores with map := m, good } })
      (if old = some m then s1 else queueRecord s1 (.coreMap m), none)

/-! ### DRAM at bring-up (R160, R169, R171) -/

/-- Physical channels of a stack that train: a channel with more than 4 failing lanes does not (R160). -/
def trainedChannels (bu : BringUp) (stack : Nat) : List Nat :=
  (List.range 34).filter (fun c => !bu.untrained.contains (stack * 34 + c) && lookupN bu.lanesSpared (stack * 34 + c) ≤ 4)

/-- One recorded repair is replayed (R169). -/
def replayRepair (s : State) (r : RepairRec) : State :=
  match r with
  | .rowRemap phys bank row n spare => mapRow s phys bank row n spare
  | .retired ch q t =>
    let s1 := updChannel s ch (fun c => { c with reserveFree := c.reserveFree - 1, retired := c.retired + 1 })
    { s1 with dram := { s1.dram with retire := tset 0 (slotKey ch q) t s1.dram.retire } }
  | .physFailed x => { s with dram := { s.dram with failed := s.dram.failed ++ [x] } }
  | _ => s

/-- Bind the channels of a stack: rank j of the trained ones is logical channel j, the rest are spares. -/
def bindStack (bu : BringUp) (stack : Nat) (s : State) : State :=
  let t := trainedChannels bu stack
  let s1 := forN 32 (fun j u =>
    let x := t.getD j 0
    updChannel u (32 * stack + j) (fun c => { c with state := 0, phys := x })) s
  { s1 with dram := { s1.dram with
      spares := tset [] stack (t.drop 32) s1.dram.spares
      lanes := t.foldl (fun l x => tset 0 (stack * 34 + x) (lookupN bu.lanesSpared (stack * 34 + x)) l) s1.dram.lanes } }

/-- CAPACITY_SHORT for every channel whose reserve has no free slot (R171). -/
def capacityCheck (s : State) : State :=
  (List.range 512).foldl (fun t ch => if (getChannel t ch).reserveFree = 0 && !t.dram.shortRaised.contains ch then
      raiseMod { t with dram := { t.dram with capacity := true, shortRaised := t.dram.shortRaised ++ [ch] } } 0x0107 (leBytes 2 ch)
    else t) s

/-- Steps 8 and 9: FAULT 0x40 with its stack, or the DRAM in service with its records replayed and BIST's rows
repaired. -/
def startDram (s : State) (bu : BringUp) : State × Option Nat :=
  match findN 16 (fun k => decide ((trainedChannels bu k).length < 32)) with
  | some k => (s, some k)
  | none =>
    let s1 := s.dbx.flashRecs.foldl (fun t x => replayRepair t x.rcd) (forN 16 (bindStack bu) s)
    let s2 := capacityCheck s1
    (bu.badRows.foldl (fun t r => rowFault {} t r.1 (2 * (r.2.2 * 64 + r.2.1))) s2, none)

/-! ### Optics and discovery (R309 to R312, R337 steps 10 and 11) -/

/-- Step 10: recorded roles and retired wavelengths; active lasers light; every port takes OFF or PROBE. A laser that
does not light has stopped (R310); a tag emitter 24 + p that does not light has failed. -/
def startOptics (s : State) (bu : BringUp) : State :=
  let s1 := forN 24 (fun i t => updLaser t i (fun x =>
    let r := tget (i % 3) s.links.flashRoles i
    { x with role := r, lit := decide (r < 2), locked := decide (r < 2) })) s
  let s2 := s.links.flashRetired.foldl (fun t e => (groupPorts e.2).foldl (fun u p => updLane u p e.1 (fun l => { l with retired := true })) t) s1
  let s3 := (bu.lasersDark.filter (fun i => i < 24)).foldl stopLaser s2
  let s4 := (bu.lasersDark.filter (fun i => decide (24 ≤ i) && decide (i < 36))).foldl (fun t i => emitterFails t (i - 24)) s3
  settlePorts s4

/-- Step 11: loops close and identity records come in. -/
def discover (s : State) (bu : BringUp) : State :=
  let s1 := bu.loops.foldl (fun t p =>
    if (getLink t p).emitterFailed || decide ((getLink t p).state = .off) then t
    else updLink t p (fun x => { x with loop := true, heard := true })) s
  bu.records.foldl (fun t r => takeRecord t r.1 r.2) s1

/-- Steps 10 to 12. -/
def opticsOn (s : State) (bu : BringUp) : State := startBootPlan (discover (startOptics s bu) bu)

/-! ### The sequence -/

/-- Steps 5 to 13, after the Drabex has started. -/
def bringUpLate (s : State) (bu : BringUp) : State :=
  match mapCores { s with power := { s.power with step := 4, drabexUp := true } } bu with
  | (s1, some (fault, step)) => bootFault (atStep s1 (step - 1)) .stopped fault step 0
  | (s1, none) =>
    match startDram (atStep s1 7) bu with
    | (s2, some stack) => bootFault s2 .stopped 0x40 8 stack
    | (s2, none) =>
      let s3 := { s2 with power := { s2.power with step := 11, phase := .bootWait, ready := false, readyMs := bu.readyMs } }
      opticsOn s3 bu

/-- The power-on sequence from step 1 (R337 to R343). -/
def bringUp (s0 : State) (bu : BringUp) : State :=
  let s := { s0 with power := { s0.power with inputMv := bu.inputMv } }
  if bu.inputMv < 46000 || 59500 < bu.inputMv then s
  else
    let s1 := atStep s 1
    match bu.regulatorFail with
    | some rail => bootFault s1 .stopped 0x10 2 rail
    | none =>
      if bu.pllFail then bootFault s1 .stopped 0x11 2 0
      else
        let s2 := atStep (sampleStraps s1 bu) 2
        match bootSlot s2 bu with
        | none =>
          let tested := slotVerdict s2 bu 0 = .notTested || slotVerdict s2 bu 1 = .notTested
          bootFault { s2 with power := { s2.power with drabexUp := true } } .recovery (if tested then 2 else 1) 3 0
        | some (slot, fell) =>
          let s3 := atStep { s2 with power := { s2.power with slot, fallback := fell } } 3
          let s4 := if fell then raiseMod s3 0x0903 (leBytes 1 slot) else s3
          if bu.flashFail then bootFault { s4 with power := { s4.power with drabexUp := true } } .recovery 3 4 0
          else bringUpLate (readFlash s4 bu.flashUpsets) bu

/-- A cold reset: everything is lost and the sequence runs from step 1. -/
def coldStart (s : State) (cause : Nat) (bu : BringUp) : State :=
  let t := lose s .off cause
  bringUp { t with power := { t.power with boots := (s.power.boots + 1) % 2 ^ 16 } } bu

/-! ### Trips -/

/-- The power-failure entry (R316, R360). -/
def powerFailEntry (s : State) (cause mv : Nat) : State := addLog s 2 cause 0xFF 3 (leBytes 4 mv)

/-- Stage 2 shuts down as in a brown-out trip (R316): everything is lost, and of the log entries held only the
power-failure entry, which bears the TICK and BOOT of the power-on that ends, reaches the flash (R360, R361). `next` is the
CAUSE of the bring-up that follows; in the tripped state the cycle of the input power makes it the trip's (R334).
(DEDUCED, log 100.) -/
def shutDown (s : State) (cause next mv : Nat) : State :=
  if s.power.phase = .off then s
  else
    let s1 := powerFailEntry { s with dbx := { s.dbx with logHeld := [], dropped := 0 } } cause mv
    let t := lose s1 .off (if s.power.phase = .tripped then 4 else next)
    { t with power := { t.power with inputMv := mv } }

/-- ALERT_N is asserted for a fault that has no event (R335), until MVIEW_CLEAR. (DEDUCED, log 32.) -/
def alertOn (s : State) : State := { s with dbx := { s.dbx with sev3 := true } }

/-- A thermal trip (R334): everything but the Drabex, its mailboxes and the links of the host ports is lost; the module
stays tripped. A reset accepted before it is not one accepted under the temperature condition, and does not end it. -/
def thermalTrip (s : State) (sensor : Nat) (temp : Int) : State :=
  if s.power.phase = .off || s.power.phase = .tripped then s else
  let t := lose s .tripped s.power.cause
  let mail (r : FnRegs) : FnRegs := { mbGo := r.mbGo, mbBusy := r.mbBusy, mbData := r.mbData, mbAsync := r.mbAsync, mbOverflow := r.mbOverflow }
  let t1 := { t with dbx := { s.dbx with resetDue := none }, ports := s.ports.filterMap (fun e => if e.2.up then some (e.1, { up := true }) else none), dram := { pendingRecs := s.dram.pendingRecs }
                     power := { t.power with x8x8 := s.power.x8x8, addr1 := s.power.addr1, addr0 := s.power.addr0, drabexUp := s.power.drabexUp
                                             slot := s.power.slot, fallback := s.power.fallback, restarts := s.power.restarts } }
  let t2 := (List.range 16).foldl (fun u f => setFn u f (mail (getFn s f))) t1
  raiseMod t2 0x0804 (leBytes 1 sensor ++ leBytes 2 (unsgn 16 (temp / 100)))

end Sys2Proof.Machine
end

