-- ==== Sys2Proof/Machine/Repair.lean ====
section
/-! DEFINITION. Memory repair (06): migrations, retrains, scrub, the write-combining buffer and the repair records. -/

namespace Sys2Proof.Machine

open Sys2Proof

def stackOf (ch : Nat) : Nat := ch / 32

/-- CHANNEL_REPAIR_MARK: a channel in service waits for its repair, in order (R161). -/
def execChannelRepairMark (channel : Nat) (cause : RepairCause) (s : State) : Out :=
  let _ := cause
  .next (if 512 ≤ channel then s else markRepair s channel)

def stackSpares (s : State) (k : Nat) : List Nat := tget [] s.dram.spares k
def setSpares (s : State) (k : Nat) (l : List Nat) : State := { s with dram := { s.dram with spares := tset [] k l s.dram.spares } }
def stackMigration (s : State) (k : Nat) : Option Migration := (s.dram.migrations.find? (fun e => e.1 = k)).map (·.2)

/-- The first channel of a stack that waits for repair. -/
def firstMarked (s : State) (k : Nat) : Option Nat := s.dram.repairs.find? (fun c => stackOf c = k)

def unmark (s : State) (ch : Nat) : State := { s with dram := { s.dram with repairs := s.dram.repairs.filter (fun c => c ≠ ch) } }

/-- Step 1 of R162 with a spare. -/
def startMigration (s : State) (ch new : Nat) : State :=
  let c := getChannel s ch
  let k := stackOf ch
  let m : Migration := { channel := ch, oldPhys := c.phys, newPhys := new }
  let s1 := setSpares (unmark (setChannel s ch { c with state := 1 }) ch) k ((stackSpares s k).filter (fun x => x ≠ new))
  let l : Tbl Migration := s1.dram.migrations.filter (fun e => decide (e.1 < k)) ++ [(k, m)] ++ s1.dram.migrations.filter (fun e => decide (k < e.1))
  raiseMod { s1 with dram := { s1.dram with migrations := l } } 0x0101 (leBytes 2 ch ++ leBytes 1 c.phys ++ leBytes 1 new)

/-- LIVE_MIGRATION_START: one at a time in a stack, in order, while a spare has trained. -/
def execLiveMigrationStart (channel : Nat) (s : State) : Out :=
  let k := stackOf channel
  .next (match stackSpares s k with
    | [] => s
    | x :: _ => if s.power.drabexUp && firstMarked s k = some channel && (stackMigration s k).isNone then startMigration s channel x else s)

/-- The copy of one stored block (R162 step 3, R152): class W corrected, a block that cannot be corrected or verified, or
that the old channel does not deliver, written with the poison pattern, class N as read. A link failure met by the copy marks
no further repair. (DEDUCED, log 151.) -/
def copyBlock (s : State) (m : MemIn) (rid blk : Nat) : State :=
  let cls := (getRegion s rid).cls
  let w := blockUpsets s rid blk
  let poison (t : State) : State := if isPoisoned cls (blockUpsets t rid blk) then t else setFlips t rid blk (poisonFlips cls (w.take 128))
  if readLost s m rid blk then
    (if cls < 2 then poison s else clearFlips (freeUnmasked s { rid, blk, mask := wcMask s rid blk }) rid blk)
  else match judgeBlock s m rid blk with
    | (s1, none) => s1
    | (s1, some _) => poison s1

/-- Blocks that hold upsets or meet a failing read. -/
def struckKeys (s : State) (m : MemIn) : List Nat := s.dram.flips.map (fun e => e.1 / 256) ++ m.linkRead.map (·.1) ++ m.transient.map (·.1)

/-- Those of a channel, each once, in the order in which the copy engine comes to them: by slot and block (R162). -/
def struckBlocks (s : State) (m : MemIn) (ch : Nat) : List Nat :=
  let at_ (b : Nat) : Nat × Nat := slotOf s (b / 2 ^ 33) (128 * (b % 2 ^ 33))
  (((struckKeys s m).filter (fun b => decide ((at_ b).1 = ch))).foldl
    (fun l b => insertNat (storedIndex (at_ b).2 (b % 8) * 2 ^ 64 + b) l) []).map (fun x => x % 2 ^ 64)

def copyChannel (s : State) (m : MemIn) (ch : Nat) : State :=
  (struckBlocks s m ch).foldl (fun t b => copyBlock t m (b / 2 ^ 33) (b % 2 ^ 33)) s

/-- A physical channel is recorded as failed. (DEDUCED, log 111.) -/
def physFailed (s : State) (stack phys : Nat) : State :=
  let x := stack * 34 + phys
  let s1 := { s with dram := { s.dram with failed := s.dram.failed ++ [x] } }
  queueRecord s1 (.physFailed x)

/-- MIGRATION_SWITCH: steps 4 to 6 of R162; a new channel that failed stops the migration, which starts again with the
other spare, or leaves the channel to an in-place retrain (R163). While the Drabex restarts the channel waits for its decision (R349). -/
def execMigrationSwitch (channel : Nat) (ending : CopyEnd) (s0 : State) : Out :=
  let s := dramUpsets s0 ending.mem
  let k := stackOf channel
  match stackMigration s k with
  | none => .next s
  | some m =>
    if m.channel ≠ channel then .next s
    else
      let s1 := { s with dram := { s.dram with migrations := s.dram.migrations.filter (fun e => e.1 ≠ k) } }
      if ending.failed then
        let s2 := physFailed (updChannel s1 channel (fun c => { c with state := 0 })) k m.newPhys
        .next (match if s2.power.drabexUp then stackSpares s2 k else [] with
          | [] => { s2 with dram := { s2.dram with repairs := channel :: s2.dram.repairs } }
          | x :: _ => startMigration s2 channel x)
      else
        let s2 := updChannel (copyChannel s1 ending.mem channel) channel (fun c => { c with state := 0, phys := m.newPhys })
        let s3 := { s2 with dram := { s2.dram with offline := s2.dram.offline ++ [k * 34 + m.oldPhys] } }
        .next (raiseMod s3 0x0102 (leBytes 2 channel ++ leBytes 1 m.oldPhys ++ leBytes 1 m.newPhys))

/-- OFFLINE_RETRAIN_DONE. -/
def execOfflineRetrainDone (stack phys : Nat) (passed : Bool) (s : State) : Out :=
  let x := stack * 34 + phys
  if !s.dram.offline.contains x then .next s
  else
    let s1 := { s with dram := { s.dram with offline := s.dram.offline.filter (fun y => y ≠ x) } }
    .next (if passed then setSpares s1 stack (insertNat phys (stackSpares s1 stack)) else physFailed s1 stack phys)

/-- What a failed channel stores is lost (R165); bytes that wait in its write-combining buffer stay there. -/
def loseChannel (s : State) (ch : Nat) : State :=
  { s with dram := { s.dram with
      cells := s.dram.cells.filter (fun e =>
        let rid := e.1 / 2 ^ 40
        let off := e.1 % 2 ^ 40
        weaveChannel rid off ≠ ch || (wcMask s rid (off / 128)).getLsbD (off % 128))
      flips := s.dram.flips.filter (fun e => weaveChannel (e.1 / 2 ^ 41) (128 * (e.1 / 256 % 2 ^ 33)) ≠ ch) } }

/-- IN_PLACE_RETRAIN of a marked channel of a stack without a spare; a failure loses the channel (R164, R165). -/
def execInPlaceRetrain (channel : Nat) (passed : Bool) (s : State) : Out :=
  let k := stackOf channel
  if !(s.power.drabexUp && s.dram.repairs.contains channel && (stackSpares s k).isEmpty && (stackMigration s k).isNone) then .next s
  else
    let c := getChannel s channel
    let s1 := raiseMod (unmark s channel) 0x0103 (leBytes 2 channel ++ leBytes 1 (if passed then 0 else 1))
    .next (if passed then setChannel s1 channel { c with state := 0 }
      else
        let s2 := loseChannel (setChannel s1 channel { c with state := 3 }) channel
        let s3 := queueRecord { s2 with dram := { s2.dram with capacity := true } } (.channelFailed channel)
        raiseMod s3 0x0104 (leBytes 2 channel ++ leBytes 1 c.phys))

/-- PATROL_SCRUB: block `block` of 1 KiB granule `granule` of a class W region is read and corrected or reported
(R156). (DEDUCED, log 113.) -/
def execPatrolScrub (rid granule block : Nat) (mem : MemIn) (s0 : State) : Out :=
  let s := dramUpsets s0 mem
  let r := getRegion s rid
  .next (if r.enable && r.cls = 0 && block < 8 && granule * 1024 < r.size * unit16 then (readBlock s mem rid (8 * granule + block)).1 else s)

/-- WC_ENTRY_FLUSH (R155). -/
def execWcEntryFlush (channel index : Nat) (mem : MemIn) (s : State) : Out := .next (wcFlushAt (dramUpsets s mem) mem channel index)

/-! ### Records for the configuration flash (R169, R312, R342, R348, R358) -/

/-- REPAIR_RECORD_WRITE: the Drabex writes the oldest record due. -/
def execRepairRecordWrite (s : State) : Out :=
  match s.dram.pendingRecs with
  | [] => .next s
  | r :: t =>
    if !s.power.drabexUp then .next s
    else
      .next (storeRecord { s with dram := { s.dram with pendingRecs := t } } r)

end Sys2Proof.Machine
end

