-- ==== Sys2Proof/Machine/Vote.lean ====
section
/-! DEFINITION. The Steeper at work: loading its tables (R205, R208), arming, claiming and binding (R180, R210, R221),
applying chunks (R211 to R216), compute values (R218), the statistics exchange (R194, R198) and the vote (R221 to
R225). -/

namespace Sys2Proof.Machine

open Sys2Proof

/-! ### ST_SHARD_SET and ST_SCHED_SET -/

/-- An arming in progress holds a shard entry, or a schedule entry of a partition (R212). -/
def shardHeld (s : State) (e : Nat) : Bool := s.st.armings.any (fun a => (armEntries a).contains e)
def schedHeld (s : State) (p i : Nat) : Bool := s.st.armings.any (fun a => a.part = p && (armEntries a).any (fun e => shSched (getShard s e) = i))

/-- The header of the current half, which a load reads: checked, and then its XBYTES (R205, R206). -/
def readHeader (s : State) (p : Nat) (m : MemIn) (b : Bytes) : State × Bool × Nat :=
  match steepCheck s p m (curAddr s b) 64 with
  | (s1, true) => (s1, true, 0)
  | (s1, false) => (s1, false, halfXbytes s1 p b)

/-- Offsets of the fields that say where the current half's header stands. -/
def headerFields : List Nat := [0x01, 0x04, 0x28, 0x30]

/-- An entry's header can be looked up: the fields that lead to it are sound. -/
def headerStands (s : State) (p : Nat) (b : Bytes) : Bool :=
  shRule b ≠ 0 && !(shardBad s p b 0).any (fun x => x.2 && headerFields.contains x.1)

/-- Why one shard image fails: status and XSTATUS. VERSION, of the image or of the current half's header, comes before
SHARD_INVALID (R11); a header that cannot be read fails nothing itself. -/
def shardVerdict (s : State) (p e : Nat) (m : MemIn) (b : Bytes) : State × Bool × Option (Nat × Nat) :=
  if byteAt b 0 ≠ 1 then (s, false, some (stVersion, 0))
  else match (if headerStands s p b then readHeader s p m b else (s, false, 0)) with
    | (s1, lost, hx) =>
      let h := steepBytes s1 p (curAddr s1 b) 2
      (s1, lost,
        if headerStands s p b && !lost && (byteAt h 0 ≠ 1 || byteAt h 1 ≠ shRule b) then some (stVersion, 0x40)
        else match firstBad (shardBad s1 p b hx) with
          | some off => some (0x80, off)
          | none => if shardHeld s1 e then some (0x81, 0) else none)

/-- The first shard image that fails: status, XSTATUS, entry; and whether a header could not be read. An image that
cannot be read fails only where its entry is held. (DEDUCED, log 58.) -/
def shardFail (p : Nat) (m : MemIn) : List (Option Bytes) → Nat → State × Bool → State × Bool × Option (Nat × Nat × Nat)
  | [], _, (s, bad) => (s, bad, none)
  | none :: t, e, (s, bad) => if shardHeld s e then (s, bad, some (0x81, 0, e)) else shardFail p m t (e + 1) (s, bad)
  | some b :: t, e, (s, bad) =>
    match shardVerdict s p e m b with
    | (s1, _, some (st, xs)) => (s1, bad, some (st, xs, e))
    | (s1, lost, none) => shardFail p m t (e + 1) (s1, bad || lost)

/-- ST_SHARD_SET: CHECK_UNRECOVERED comes after the codes of the opcode (R227). -/
def execStShardSet (op : Nat) (env : Env) (s0 : State) : Out :=
  runOp s0 op 0x71C1 env (fun s o =>
    let first := fld o.desc 0x18 2
    match imagesOf s o env 64 (fld o.desc 0x1A 2) with
    | (s1, lost, bs) =>
      match shardFail o.part env.mem bs first (s1, false), lost with
      | (s2, _, some (st, xs, e)), _ => complete s2 o st xs e
      | (s2, _, none), some xs => complete s2 o stCheck xs 0
      | (s2, true, none), none => complete s2 o stCheck 4 0
      | (s2, false, none), none =>
        let sh := (List.range bs.length).foldl (fun t i => tset [] (first + i) ((bs.getD i none).getD []) t) s2.st.shards
        finishOk { s2 with st := { s2.st with shards := sh } } o env 0 0)

/-- The first schedule image that fails; one that cannot be read fails only where its entry is held. -/
def schedFail (s : State) (p : Nat) : List (Option Bytes) → Nat → Option (Nat × Nat × Nat)
  | [], _ => none
  | none :: t, i => if schedHeld s p i then some (0x81, 0, i) else schedFail s p t (i + 1)
  | some b :: t, i =>
    if byteAt b 0 ≠ 1 then some (stVersion, 0, i)
    else match firstBad (schedBad b) with
      | some off => some (0x80, off, i)
      | none => if schedHeld s p i then some (0x81, 0, i) else schedFail s p t (i + 1)

/-- ST_SCHED_SET. -/
def execStSchedSet (op : Nat) (env : Env) (s0 : State) : Out :=
  runOp s0 op 0x71C2 env (fun s o =>
    let first := byteAt o.desc 0x18
    match imagesOf s o env 64 (byteAt o.desc 0x19) with
    | (s1, lost, bs) =>
      match schedFail s1 o.part bs first, lost with
      | some (st, xs, i), _ => complete s1 o st xs i
      | none, some xs => complete s1 o stCheck xs 0
      | none, none =>
        let sc := (List.range bs.length).foldl (fun t i => tset [] (16 * o.part + first + i) ((bs.getD i none).getD []) t) s1.st.scheds
        finishOk { s1 with st := { s1.st with scheds := sc } } o env 0 0)

/-! ### ST_ARM and SLOT_CLAIM -/

/-- The STEP_VOTE of a step that is dispatched in a partition. -/
def voteOf (s : State) (p step : Nat) : Option Op :=
  s.q.ops.find? (fun o => o.part = p && dBase o.desc = 0x8207 && cStep o.desc = step && o.phase ≠ .recordHeld)

/-- An arming of this step comes too late (R221). -/
def armLate (s : State) (p step : Nat) : Bool :=
  let v := getVote s p
  (match voteOf s p step with
    | some o => decide (cCount o.desc ≤ tget 0 v.started step)
    | none => false)
  || (recordFor v step).isSome

/-- ST_ARM: checks, holds its entries and starts; claims and binding follow. (DEDUCED, log 79.) -/
def execStArm (op : Nat) (env : Env) (s0 : State) : Out :=
  runOp s0 op 0x71C0 env (fun s o =>
    let d := o.desc
    let step := fld d 0x10 6
    let v := getVote s o.part
    let a : Arming := { op := o.id, part := o.part, step, ord := tget 0 v.started step, group := fld d 0x16 2, seq := fld d 0x18 4, first := fld d 0x1C 2
                        count := fld d 0x1E 2, mcast := fld d 0x20 2, degraded := if env.stalled then 4 else 0 }
    match (armEntries a).find? (fun e => shRule (getShard s e) = 0) with
    | some _ => complete s o 0x82 0 (armInfo a)
    | none =>
      match (armEntries a).find? (shardHeld s) with
      | some _ => complete s o 0x83 0 (armInfo a)
      | none =>
        if armLate s o.part step then complete s o stStale 3 (armInfo a)
        else
          let s1 := setVote s o.part { v with started := tset 0 step (tget 0 v.started step + 1) v.started }
          let s2 := { s1 with st := { s1.st with armings := s1.st.armings ++ [a] } }
          updOp s2 o.id (fun x => { x with phase := .registered }))

/-- SLOT_CLAIM: a claim for the same step is shared; one for another step waits, and so does a fenced slot (R180). -/
def execSlotClaim (op layer : Nat) (s : State) : Out :=
  match findArming s op with
  | none => .next s
  | some a =>
    let v := getVer s layer
    let take (t : State) : State := tryBind (updArming t op (fun a => { a with claimed := a.claimed ++ [layer] })) op
    if !(armLayers s a).contains layer || a.claimed.contains layer then .next s
    else match v.claim with
      | some t => if t = a.step then .next (take s) else .next s
      | none =>
        if fenceOf s layer (1 - v.cur) ≠ 0 then .next s
        else .next (take (setVer s layer (if v.cur = 0 then { v with ver1 := none, claim := some a.step, filled := [] }
          else { v with ver0 := none, claim := some a.step, filled := [] })))

/-! ### Applying chunks (R211 to R213) -/

/-- Entries that a stretch of the member's segment touches. -/
def touched (s : State) (a : Arming) (start n : Nat) : List Nat :=
  (armEntries a).filter (fun e => overlap start n (entryStart s a e) (shN (getShard s e)))

/-- Read checks before block b of an entry is applied: true where one fails. -/
def blockCheck (s : State) (p : Nat) (m : MemIn) (img : Bytes) (b : Nat) : State × Bool :=
  let cur := curAddr s img
  let rs := [(cur + 1024 + 64 * b, 64), (cur + planeOff img 0 1 + b, 1), (cur + planeOff img 0 2 + 64 * b, 2 * min 32 (shN img - 32 * b))]
    ++ (if shRule img = 2 then [(cur + planeOff img 0 3 + 64 * b, 2 * min 32 (shN img - 32 * b))] else [])
  rs.foldl (fun t r => let (s1, x) := steepCheck t.1 p m r.1 r.2; (s1, t.2 || x)) (s, false)

/-- Where applying stands: the state, the arming, and whether a block could not be read. -/
abbrev Applied := State × Arming × Bool

/-- Apply block b of a Rule A or M entry if all its elements are here. -/
def applyIfWhole (m : MemIn) (img : Bytes) (start b : Nat) (t : Applied) : Applied :=
  let (s, a, bad) := t
  let cnt := min 32 (shN img - 32 * b)
  let at_ (i : Nat) : Option F32 := tget none a.vals (start + 32 * b + i)
  if bad || !allN cnt (fun i => (at_ i).isSome) then t
  else match blockCheck s a.part m img b with
    | (s1, true) => (s1, a, true)
    | (s1, false) =>
      let r := (List.range cnt).map (fun i => (at_ i).getD zero32)
      let (s2, nf) := applyBlock s1 a.part m img a.step b r
      (s2, { a with vals := forN cnt (fun i v => tset none (start + 32 * b + i) none v) a.vals, nonfinite := a.nonfinite || nf }, false)

/-- Apply or stage the part of a chunk that falls into an entry. -/
def applyEntry (m : MemIn) (start : Nat) (vals : List F32) (t : Applied) (e : Nat) : Applied :=
  let (s, a, bad) := t
  let img := getShard s e
  let es := entryStart s a e
  let lo := max start es
  let hi := min (start + vals.length) (es + shN img)
  let part := (vals.drop (lo - start)).take (hi - lo)
  let count (a : Arming) : Arming := { a with applied := tset 0 e (tget 0 a.applied e + (hi - lo)) a.applied }
  if bad then t
  else if shRule img = 1 || shRule img = 4 then
    let (s1, nf) := stageVals s a.part m img (lo - es) part
    (s1, count { a with nonfinite := a.nonfinite || nf }, false)
  else
    let a1 := { a with vals := forN part.length (fun i v => tset none (lo + i) (some (part.getD i zero32)) v) a.vals }
    let b0 := (lo - es) / 32
    let b1 := (hi - es - 1) / 32
    let (s1, a2, bad1) := (List.range (b1 + 1 - b0)).foldl (fun t i => applyIfWhole m img es (b0 + i) t) (s, a1, false)
    (s1, count a2, bad1)

/-- Entries of an arming that has ended which a chunk touched; all of them where it never bound. -/
def pastTouched (s : State) (a : PastArming) (chunk : Nat) : List Nat :=
  let es := (List.range a.count).map (a.first + ·)
  let start (e : Nat) : Nat := ((es.filter (fun x => x < e)).map (fun x => shN (getShard s x))).sum
  if a.per = 0 then es else es.filter (fun e => overlap (chunk * a.per) a.per (start e) (shN (getShard s e)))

/-- An arming that has ended named this collective: a late chunk of it is stale if its step is at or below the
last-applied step of an entry it touches (R211). -/
def staleChunk (s : State) (coll : CollRef) (chunk : Nat) (m : MemIn) : State :=
  match s.st.past.find? (fun a => a.group = coll.group && a.seq = coll.seq) with
  | none => s
  | some a =>
    let es := pastTouched s a chunk
    let s1 := es.foldl (fun t e => (steepCheck t a.part m (curAddr t (getShard t e)) 64).1) s
    match es.find? (fun e => decide (a.step ≤ lastApplied s1 a.part (getShard s1 e))) with
    | none => s1
    | some e =>
      if s1.st.staleRaised.contains (a.part, a.step) then s1
      else raise { s1 with st := { s1.st with staleRaised := s1.st.staleRaised ++ [(a.part, a.step)] } } 0x0601 a.part (leBytes 6 a.step ++ leBytes 2 e)

/-- The context's chunk has gone to the Steeper. -/
def chunkTaken (s : State) (x : Ctx) (d : Bytes) (chunk : Nat) : State :=
  let x1 := { x with written := x.written ++ [(x.rank, chunk)] }
  let (s1, x2) := grantFree d 4 (s, x1)
  putCtx s1 x2

/-- REDUCED_CHUNK_APPLY. -/
def execReducedChunkApply (coll : CollRef) (chunk : Nat) (env : Env) (s0 : State) : Out :=
  let s := envIn s0 env
  match findCtx s coll with
  | none => .next (staleChunk s coll chunk env.mem)
  | some x =>
    match findOp s x.op with
    | none => .next s
    | some o =>
      let d := o.desc
      if !steeperFed d || segChunks x d true x.rank ≤ chunk || x.written.contains (x.rank, chunk) then .next s
      else match rootVals x d x.rank chunk, armOf s x with
        | none, _ => .next s
        | some _, none =>
          if s.st.past.any (fun a => a.group = coll.group && a.seq = coll.seq) then .next (chunkTaken (staleChunk s coll chunk env.mem) x d chunk) else .next s
        | some vals, some a =>
          let start := chunk * chunkElems (nodeFmt d)
          let es := touched s a start vals.length
          match es.foldl (fun t e => let (s1, b) := steepCheck t.1 a.part env.mem (curAddr t.1 (getShard t.1 e)) 64; (s1, t.2 || b)) (s, false) with
          | (s1, true) => .next (failArming s1 a stCheck 4 (armInfo a))
          | (s1, false) =>
            let ls := es.map (fun e => lastApplied s1 a.part (getShard s1 e))
            if ls.any (fun l => decide (a.step ≤ l)) then .next (failArming (chunkTaken s1 x d chunk) a stStale 1 (armInfo a))
            else
              let gap := ls.find? (fun l => decide (l + 1 < a.step))
              let s2 := match gap with
                | some l => if a.gap then s1 else raise s1 0x0602 a.part (leBytes 6 a.step ++ leBytes 6 l)
                | none => s1
              let a1 := { a with gap := a.gap || gap.isSome }
              let (s3, a2, bad) := es.foldl (applyEntry env.mem start vals) (s2, a1, false)
              if bad then .next (failArming s3 a2 stCheck 4 (armInfo a2))
              else .next (chunkTaken (updArming s3 a.op (fun _ => { a2 with done := a2.done ++ [chunk] })) x d chunk)

/-! ### Finishing entries (R215, R216, R218) -/

/-- Bytes of a block of compute values: layer, step, offset, data. (DESIGN CHOICE, log 84.) -/
def valuesBytes (v : ComputeValues) : Bytes := leBytes 2 v.layer ++ leBytes 6 v.step ++ leBytes 8 v.off ++ v.data

/-- Compute values in blocks of 32 KiB. -/
def valueBlocks (layer step off : Nat) (b : Bytes) : List ComputeValues :=
  let bs := groupsOf 32768 (b.length / 32768 + 1) b
  (List.range bs.length).map (fun i => { layer, step, off := off + 32768 * i, data := bs.getD i [] })

/-- The other members of an arming's group that are not fenced. (DEDUCED, log 85.) -/
def armMembers (s : State) (a : Arming) : List Nat :=
  let g := getGroup s a.group
  let cs := groupCoords s a.part g
  (List.range g.size).filter (fun r => r ≠ g.myRank && !s.fab.fence.contains (cs.getD r 0x3FFFF))

def sendValues (s : State) (mcast : Nat) (v : ComputeValues) : State :=
  sendMsg s { vc := 1, kind := 2, mcast := true, dst := mcast, bytes := valuesBytes v }

/-- Write compute values into the claimed slot, and note the bytes filled. -/
def fillSlot (s : State) (p : Nat) (m : MemIn) (layer off : Nat) (b : Bytes) : State :=
  let v := getVer s layer
  let s1 := steepWrite s p m (slotAddr (getLayer s layer) (1 - v.cur) + off) b
  if b.isEmpty then s1 else setVer s1 layer { getVer s1 layer with filled := (getVer s1 layer).filled ++ [(off, b.length)] }

/-- Check the master weights of a half of an entry; true where a block is unreadable. -/
def mastersCheck (s : State) (p : Nat) (m : MemIn) (half : Nat) (img : Bytes) : State × Bool :=
  steepCheck s p m (half + 1024) (planeOff img 0 1 - 1024 + roundUp (shN img) 32 / 32)

/-- R210 step 5 for an entry whose pending half is complete: header, compute copy, and its sending. The master weights
of the pending half are read for it (R218, R227). -/
def finishEntry (s : State) (m : MemIn) (a : Arming) (e xbytes : Nat) : State :=
  let img := getShard s e
  let p := a.part
  let s1 := steepWrite s p m (pendAddr s img) (halfHeader (shRule img) xbytes a.step)
  match mastersCheck s1 p m (pendAddr s1 img) img with
  | (s2, true) => failArming s2 a stCheck 4 (armInfo a)
  | (s2, false) =>
    let rs := computeRuns s2 p img a.step
    let s3 := rs.foldl (fun t r => fillSlot t p m (shLayer img) (shToff img + r.1) r.2) s2
    let vs := if a.mcast = 0xFFFF then [] else rs.flatMap (fun r => valueBlocks (shLayer img) a.step (shToff img + r.1) r.2)
    let s4 := vs.foldl (fun t v => sendValues t a.mcast v) s3
    updArming s4 a.op (fun a => { a with
      entries := tset .filling e .finished a.entries
      sent := a.sent ++ vs.flatMap (fun v => (armMembers s a).map (fun r => { member := r, values := v })) })

/-- The body of a half: from its first plane to its end. -/
def bodySize (img : Bytes) (xbytes : Nat) : Nat := halfSize img xbytes - 1024
def stageCopy (img : Bytes) : Nat := shStage img + up1k (4 * shN img)
def stageOut (img : Bytes) (xbytes : Nat) : Nat := stageCopy img + up1k (bodySize img xbytes)

/-- Check the current half of a Rule V entry: its header, which holds XBYTES, and then all of it. -/
def readHalf (s : State) (p : Nat) (m : MemIn) (img : Bytes) : State × Bool :=
  match readHeader s p m img with
  | (s1, true, _) => (s1, true)
  | (s1, false, xb) => steepCheck s1 p m (curAddr s1 img) (halfSize img xb)

/-- SHARD_FINISH: with every element of an entry here, Rule F is applied, Rules A and M are finished, and Rule V hands
over to its descriptors. (DEDUCED, log 86.) -/
def execShardFinish (op entry : Nat) (env : Env) (s0 : State) : Out :=
  let s := envIn s0 env
  match findArming s op with
  | none => .next s
  | some a =>
    let img := getShard s entry
    let p := a.part
    if !a.bound || !(armEntries a).contains entry || tget .filling a.entries entry ≠ .filling || tget 0 a.applied entry ≠ shN img then .next s
    else if shRule img = 1 && shN img ≠ 0 then
      match steepCheck s p env.mem (curAddr s img) (halfSize img 0) with
      | (s1, b1) =>
        match steepCheck s1 p env.mem (shStage img) (4 * shN img) with
        | (s2, b2) =>
          if b1 || b2 then .next (failArming s2 a stCheck 4 (armInfo a))
          else
            let (s3, nf) := applyRuleF s2 p env.mem img a.step
            .next (finishEntry (updArming s3 op (fun a => { a with nonfinite := a.nonfinite || nf })) env.mem a entry 0)
    else if shRule img = 4 then
      match readHalf s p env.mem img with
      | (s1, true) => .next (failArming s1 a stCheck 4 (armInfo a))
      | (s1, false) =>
        let n := bodySize img (halfXbytes s1 p img)
        let s2 := steepWrite s1 p env.mem (stageCopy img) (steepBytes s1 p (curAddr s1 img + 1024) n)
        let s3 := setEvt s2 (shVevt img + 1) { value := 0#32, poison := false }
        .next (updArming (signalEvt s3 (shVevt img) false) op (fun a => { a with entries := tset .filling entry .waitingV a.entries }))
    else .next (finishEntry s env.mem a entry 0)

/-- RULE_V_RESUME: counter V_EVT + 1 has reached 1 (R216 step 4). -/
def execRuleVResume (op entry : Nat) (env : Env) (s0 : State) : Out :=
  let s := envIn s0 env
  match findArming s op with
  | none => .next s
  | some a =>
    let img := getShard s entry
    let p := a.part
    let c := getEvt s (shVevt img + 1)
    if !(armEntries a).contains entry || tget .filling a.entries entry ≠ .waitingV || c.value = 0#32 then .next s
    else if c.poison then .next (failArming s a stPoison 1 (armInfo a))
    else
      match readHeader s p env.mem img with
      | (s0, lost, xb) =>
      let n := bodySize img xb
      match (if lost then (s0, true) else steepCheck s0 p env.mem (stageOut img xb) n) with
      | (s1, true) => .next (failArming s1 a stCheck 4 (armInfo a))
      | (s1, false) =>
        let b := steepBytes s1 p (stageOut img xb) n
        let s2 := steepWrite s1 p env.mem (pendAddr s1 img + 1024) b
        let me := (b.drop (planeOff img xb 1 - 1024)).take (roundUp (shN img) 32 / 32)
        .next (finishEntry (updArming s2 op (fun a => { a with nonfinite := a.nonfinite || me.any (fun x => x = 0xFF#8) })) env.mem a entry xb)

/-! ### Compute values (R218) -/

/-- The partition that takes values of a layer: it holds the layer, and its table is loaded. -/
def valuesPart (s : State) (layer : Nat) : Option Nat :=
  findN 8 (fun p => partEnabled s p && layerHeld s p layer)

/-- The acknowledgement (0) or refusal (1) of values, to their sender. -/
def answerValues (s : State) (src : Nat) (v : ComputeValues) (refused : Nat) : State :=
  sendMsg s { vc := 1, kind := 3, mcast := false, dst := src
              bytes := leBytes 1 refused ++ zeros 1 ++ leBytes 2 v.layer ++ leBytes 6 v.step ++ leBytes 8 v.off ++ leBytes 4 v.data.length }

/-- COMPUTE_VALUES_RECEIVE. -/
def execComputeValuesReceive (mcast src : Nat) (msg : ComputeValues) (s0 : State) : Out :=
  let s := takeDelivered s0 (valuesBytes msg)
  if !(tget {} s.fab.mcast mcast).loc then .next s
  else match valuesPart s msg.layer with
    | none => .next (answerValues s src msg 1)
    | some p =>
      if (getVer s msg.layer).claim ≠ some msg.step || (getLayer s msg.layer).len < msg.off + msg.data.length then .next (answerValues s src msg 1)
      else .next (answerValues (fillSlot s p {} msg.layer msg.off msg.data) src msg 0)

def isValues (member : Nat) (v : ComputeValues) (x : SentValues) : Bool := x.member = member && decide (x.values = v)

/-- COMPUTE_VALUES_ACK. -/
def execComputeValuesAck (op member : Nat) (msg : ComputeValues) (answer : ComputeAnswer) (s : State) : Out :=
  .next (updArming s op (fun a => match answer with
    | .acknowledged => { a with sent := a.sent.filter (fun x => !isValues member msg x) }
    | .refused => { a with sent := listUpdate (isValues member msg) (fun x => { x with refused := true }) a.sent }))

/-- COMPUTE_VALUES_RESEND: at least 2 µs after a refusal. -/
def execComputeValuesResend (op : Nat) (s : State) : Out :=
  match findArming s op with
  | none => .next s
  | some a =>
    let vs := (a.sent.filter (fun x => x.refused)).foldl (fun l x => if l.contains x.values then l else l ++ [x.values]) []
    .next (vs.foldl (fun t v => sendValues t a.mcast v)
      (updArming s op (fun a => { a with sent := a.sent.map (fun x => { x with refused := false }) })))

/-! ### The statistics exchange (R194, R198) -/

/-- (SU, SW) of this member for a layer of an arming: shard-table order, then element index. -/
def ownSums (s : State) (a : Arming) (l : Nat) : F32 × F32 :=
  let pairs := ((armEntries a).filter (fun e => shLayer (getShard s e) = l)).flatMap (fun e =>
    let img := getShard s e
    (List.range (shN img)).map (fun i => (masterAt s a.part (curAddr s img) img i, masterAt s a.part (pendAddr s img) img i)))
  let sq (x : F32) : F32 := fMul false x x
  (fSum false (pairs.map (fun x => sq (fSub false x.2 x.1))), fSum false (pairs.map (fun x => sq x.1)))

def ownStats (s : State) (a : Arming) : List StatEntry :=
  (armLayers s a).map (fun l => let (su, sw) := ownSums s a l; ownEntry (getGov s l) a.step su sw)

/-- Every entry of an arming is finished. -/
def allFinished (a : Arming) : Bool := (armEntries a).all (fun e => decide (tget .filling a.entries e = .finished))

/-- Check the master weights that SU and SW read, in both halves of every entry (R198). -/
def sumsCheck (s : State) (a : Arming) (m : MemIn) : State × Bool :=
  (armEntries a).foldl (fun t e =>
    let img := getShard t.1 e
    let (s1, x) := mastersCheck t.1 a.part m (curAddr t.1 img) img
    let (s2, y) := mastersCheck s1 a.part m (pendAddr s1 img) img
    (s2, t.2 || x || y)) (s, false)

/-- An exchange takes the accumulators of its layers along: another arming of the step adds nothing of them. -/
def takeAccs (s : State) (a : Arming) : State :=
  (armLayers s a).foldl (fun t l => setGov t l { getGov t l with taken := some a.step }) s

/-- STATISTICS_EXCHANGE: the arming's entries are finished, and this member begins its exchange. (DEDUCED, log 76.) -/
def execStatisticsExchange (op : Nat) (host : HostIn) (mem : MemIn) (s0 : State) : Out :=
  let s := envIn s0 { host, mem }
  match findArming s op with
  | none => .next s
  | some a =>
    match s.pl.ctxs.find? (fun x => x.part = a.part && x.coll.group = a.group && x.coll.seq = a.seq && x.code = 1) with
    | none => .next s
    | some x =>
      match findOp s x.op with
      | none => .next s
      | some o =>
        if x.stats.isSome || a.exchanged || !a.bound || !allFinished a then .next s
        else match sumsCheck s a mem with
          | (s1, true) => .next (failArming s1 a stCheck 4 (armInfo a))
          | (s1, false) =>
            let x1 := { x with stats := some (ownStats s1 a) }
            let (s2, x2) := grantFree o.desc 4 (putCtx (takeAccs s1 a) x1, x1)
            .next (pump (putCtx s2 x2) x2)

/-! ### The vote (R221 to R225) -/

/-- Every byte of a tensor's compute range has been written for the step (R218). -/
def tensorFilled (s : State) (e : Nat) : Bool :=
  let img := getShard s e
  (cutAll [(shToff img, computeBytes img)] (getVer s (shLayer img)).filled).isEmpty

/-- An arming is ready (R19, R210 step 6). -/
def armReady (s : State) (a : Arming) : Bool :=
  a.bound && allFinished a && a.sent.isEmpty && a.exchanged && (armEntries a).all (tensorFilled s)

/-- CRC-32C of a partition's 16 schedule entries. -/
def schedCrc (s : State) (p : Nat) : Nat := (crc32c ((List.range 16).flatMap (fun i => padTo 64 (getSched s p i)))).toNat

/-- Armings in increasing (GROUP, SEQ). -/
def sortArms (as : List Arming) : List Arming :=
  as.foldl (fun l a => l.takeWhile (fun b => decide (b.group * 2 ^ 32 + b.seq ≤ a.group * 2 ^ 32 + a.seq)) ++ [a]
    ++ l.dropWhile (fun b => decide (b.group * 2 ^ 32 + b.seq ≤ a.group * 2 ^ 32 + a.seq))) []

/-- The step digest D of counted armings (R222). -/
def voteDigest (s : State) (p : Nat) (as : List Arming) : BitVec 64 :=
  stepDigest ((sortArms as).flatMap (fun a => leBytes 6 a.step ++ leBytes 2 a.group ++ leBytes 4 a.seq ++ zeros 4 ++ leBytes 8 (armTotal s a)
    ++ leBytes 4 (schedCrc s p) ++ zeros 4))

/-- A vote record (R222). -/
def voteRecord (flags rank step digest count : Nat) : Bytes :=
  let nf := bit flags 0
  [1#8] ++ leBytes 1 flags ++ leBytes 2 (if nf then 1 else 0) ++ leBytes 2 (if nf then rank else 0xFFFF) ++ leBytes 2 (if nf then rank else 0)
    ++ leBytes 6 step ++ zeros 2 ++ leBytes 6 step ++ zeros 2 ++ leBytes 8 digest ++ leBytes 4 count ++ zeros 28

/-- The member's record for a step (R223) with the armings it counts; none while it cannot contribute. (DEDUCED, log 80.) -/
def contribution (s : State) (o : Op) (rank : Nat) : Option (Bytes × List Arming) :=
  let p := o.part
  let step := cStep o.desc
  let count := cCount o.desc
  let v := getVote s p
  let as := armingsOf s p step
  let idle := as.isEmpty
  match recordFor v step with
  | some r => some (r, [])
  | none =>
    if v.lastStep = some step && v.lastCommit then some (voteRecord 4 rank step 0 0, [])
    else if (v.lastStep = some step || v.discarded.contains step) && idle then some (voteRecord 8 rank step 0 0, [])
    else if count = 0 then some (voteRecord 0 rank step 0 0, [])
    else
      let cs := (as.filter (armReady s)).take count
      if v.failed.any (fun x => x.1 = step && decide (x.2.1 < count)) || cs.length < count then none
      else
        let fl := (if cs.any (fun a => a.nonfinite) then 1 else 0) + (if cs.any (fun a => a.gap) then 2 else 0)
        some (voteRecord fl rank step (voteDigest s p cs).toNat count, cs)

/-- VOTE_CONTRIBUTE. -/
def execVoteContribute (op : Nat) (s : State) : Out :=
  match ctxByOp s op, findOp s op with
  | some x, some o =>
    if x.code ≠ 7 || x.own.isSome then .next s
    else match contribution s o x.rank with
      | none => .next s
      | some (r, cs) =>
        let s1 := cs.foldl (fun t a => updArming t a.op (fun a => { a with counted := true })) s
        let s2 := setVote s1 o.part (let v := getVote s1 o.part; { v with contributed := v.contributed.filter (fun x => x.1 ≠ cStep o.desc) ++ [(cStep o.desc, r)] })
        let x1 := { x with own := some r }
        .next (pump (putCtx s2 x1) x1)
  | _, _ => .next s

/-- Why a step is skipped (R223, R225), absence first (R251); none where it commits. -/
def skipCause (r : Bytes) (partial_ : Bool) : Option Nat :=
  if bit (byteAt r 1) 2 then none
  else if partial_ then some 4
  else if bit (byteAt r 1) 0 then some 1
  else if bit (byteAt r 1) 3 then some 2
  else if fld r 8 6 ≠ fld r 0x10 6 then some 3 else none

/-- VOTE_DECISION: the member decides on the combined record. -/
def execVoteDecision (op : Nat) (record : Bytes) (s : State) : Out :=
  match ctxByOp s op, findOp s op with
  | some x, some o =>
    if x.code ≠ 7 || x.result ≠ some record then .next s
    else
      let step := cStep o.desc
      let digest := fld record 0x18 8
      match skipCause record (!(fencedRanks x).isEmpty) with
      | none => .next (commitStep s o.part step record (fun t => endColl t x stOk 0 digest))
      | some xs => .next (skipStep s o.part step xs record (fun t => endColl t x stSkipped xs digest))
  | _, _ => .next s

end Sys2Proof.Machine
end

