-- ==== Sys2Proof/Machine/Wipe.lean ====
section
/-! DEFINITION. What resets and disables share: ending a partition's operations, zeroing it (R132 steps 2 to 5), and
returning a function's registers to reset values (R132 step 6). -/

namespace Sys2Proof.Machine

open Sys2Proof

/-- Submission rings and output rings of a partition's ranges, enabled or not. -/
def ringIn (r : PartRegs) (x : Nat) : Bool := decide (64 * r.ringFirst ≤ x) && decide (x < 64 * (r.ringFirst + r.ringCount))
def oringIn (r : PartRegs) (x : Nat) : Bool := decide (16 * r.orFirst ≤ x) && decide (x < 16 * (r.orFirst + r.orCount))

/-- Operations ended and descriptors discarded by R132 step 2. -/
def endedOps (s : State) (p : Nat) : Nat :=
  s.q.ops.countP (fun o => o.part = p && o.phase ≠ .recordHeld)
    + ((s.q.rings.filter (fun e => ringIn (getPart s p) e.1)).map (fun e => e.2.waiting.length)).sum

/-- Change every ring, or output ring, of a partition's range. -/
def mapRings (s : State) (r : PartRegs) (g : Ring → Ring) : State :=
  (s.q.rings.filter (fun e => ringIn r e.1)).foldl (fun t e => setRing t e.1 (g e.2)) s
def mapORings (s : State) (r : PartRegs) (g : ORing → ORing) : State :=
  (s.q.orings.filter (fun e => oringIn r e.1)).foldl (fun t e => setORing t e.1 (g e.2)) s

/-- Steps 2 and 3: operations, fetched descriptors and held records are gone; collective contexts close. -/
def dropWork (s : State) (p : Nat) : State :=
  let r := getPart s p
  let s1 := { s with
    q := { s.q with ops := s.q.ops.filter (fun o => o.part ≠ p) }
    pl := { s.pl with ctxs := s.pl.ctxs.filter (fun c => c.part ≠ p), kept := s.pl.kept.filter (fun k => !groupInPart s p k.coll.group), early := s.pl.early.filter (fun k => !groupInPart s p k.coll.group) } }
  mapORings (mapRings s1 r (fun x => { x with waiting := [] })) r (fun x => { x with held := [] })

/-- Step 4: group entries and multicast IDs are released, stash entries freed. -/
def dropTables (s : State) (p : Nat) : State :=
  { s with
    pl := { s.pl with groups := tkeep (fun g => !groupInPart s p g) s.pl.groups }
    fab := { s.fab with mcast := tkeep (fun m => !mcastInPart s p m) s.fab.mcast }
    tr := { s.tr with stash := tkeep (fun k => k / 2 ^ 32 ≠ p) s.tr.stash } }

/-- Step 5, memory: the regions, the SRAM of the cores and the event counters are zeroed. -/
def zeroMemory (s : State) (p : Nat) : State :=
  let inP (rid : Nat) : Bool := rid / 64 = p
  { s with
    dram := { s.dram with
      cells := s.dram.cells.filter (fun e => !inP (e.1 / 2 ^ 40))
      flips := s.dram.flips.filter (fun e => !inP (e.1 / 2 ^ 41))
      wc := s.dram.wc.filterMap (fun e =>
        let l := e.2.filter (fun w => !inP w.rid)
        if l.isEmpty then none else some (e.1, l)) }
    cores := { s.cores with sram := s.cores.sram.filter (fun e => !coreInPart s p (e.1 / 2 ^ 21)) }
    q := { s.q with
      evts := tkeep (fun e => !(evtInPart s p e && e ≠ 0xFFFF) ) s.q.evts
      windows := tkeep (fun l => !coreInPart s p l) s.q.windows } }

/-- Step 5, Steeper state and statistics (R203, R345). -/
def clearSteeper (s : State) (p : Nat) : State :=
  { s with st := { s.st with
      shards := tkeep (fun e => !shardInPart s p e) s.st.shards
      scheds := tkeep (fun e => e / 16 ≠ p) s.st.scheds
      armings := s.st.armings.filter (fun a => a.part ≠ p)
      past := s.st.past.filter (fun a => a.part ≠ p)
      votes := tkeep (fun q => q ≠ p) s.st.votes
      staleRaised := s.st.staleRaised.filter (fun a => a.1 ≠ p) } }

/-- R132 steps 2 to 5 on a partition. -/
def wipePart (s : State) (p : Nat) : State :=
  clearLayers (clearSteeper (zeroMemory (dropTables (dropWork s p) p) p) p) p

/-- The endpoint of a mailbox request. -/
def mailEp : Instr → Option Nat
  | .getInfo ep _ => some ep
  | .sensorRead ep _ _ _ => some ep
  | .logRead ep _ _ _ _ _ => some ep
  | .setMgmtCap ep _ _ => some ep
  | .reset ep _ _ => some ep
  | .partReset ep _ _ => some ep
  | .partHandover ep _ _ _ _ _ _ _ => some ep
  | .coreReconfig ep _ => some ep
  | .bootPlanSet ep _ _ _ _ _ => some ep
  | .alertMask ep _ _ => some ep
  | .mviewRead ep _ => some ep
  | .mviewClear ep _ _ _ => some ep
  | .fwUpdate ep _ _ _ _ _ _ => some ep
  | .fwStatus ep _ => some ep
  | .fwActivate ep _ _ => some ep
  | .svnCommit ep _ => some ep
  | .unlistedMailboxOp ep _ => some ep
  | _ => none

/-- The answers that function f waits for are discarded (R365). -/
def dropReplies (s : State) (f : Nat) : State :=
  forN 8 (fun p t => match (getPart t p).hand with
    | some h => if h.ep = f then updPart t p (fun r => { r with hand := some { h with reply := false } }) else t
    | none => t)
    { s with dbx := { s.dbx with heldReqs := s.dbx.heldReqs.map (fun q => if mailEp q.req = some f then { q with reply := false } else q) } }

/-- R132 step 6: the function's registers and configuration, with the rings of the partition it owns; FN_FLR_REPORT and
the AER status stay (PRESUMED, log 7). -/
def resetFnRegs (s : State) (f : Nat) : State :=
  let r := getFn s f
  let s1 := setFn s f { flrValid := r.flrValid, flrNoPart := r.flrNoPart, flrPart := r.flrPart, flrOps := r.flrOps, aer := r.aer }
  let s1 := dropReplies { s1 with reads := s1.reads.filter (fun x => x.1 ≠ f) } f
  match ownedPart s1 f with
  | some p => mapORings (mapRings s1 (getPart s1 p) (fun _ => {})) (getPart s1 p) (fun _ => {})
  | none => s1

/-- Report the operations ended (FN_FLR_REPORT). -/
def flrReport (s : State) (f : Nat) (part : Option Nat) (n : Nat) : State :=
  updFn s f (fun r => { r with flrValid := true, flrNoPart := part.isNone, flrPart := part.getD 0, flrOps := min n 16384 })

/-- DBX_RESET (R347, R356). -/
def resetEvent (s : State) (domain cause part n : Nat) : State :=
  raiseMod s 0x0906 (leBytes 1 domain ++ leBytes 1 cause ++ leBytes 1 part ++ leBytes 4 n)

/-- A handover under way ends ABORTED_RESET before step 5: the partition is held again, or goes on under its old owner
where that owner's port is up (R137). The response is discarded where the requester's mailbox no longer waits (R365). -/
def handFail (p : Nat) (s : State) : State :=
  match (getPart s p).hand with
  | none => s
  | some h =>
    let s1 := updPart s p (fun r => { r with hand := none, held := r.held && !partPortUp s p })
    if h.reply then respond s1 h.ep (mailBytes 7 h.tag { st := stAborted }) else s1

/-- The handovers that a reset of function f, or the loss of its port, ends: those that name it as the new owner, and
where `old`, that of the partition it owns. -/
def handsFail (s : State) (f : Nat) (old : Bool) : State :=
  forN 8 (fun p t => match (getPart t p).hand with
    | some h => if h.newFn = f || (old && (getPart t p).owner = f) then handFail p t else t
    | none => t) s

/-- A Function Level Reset of one function (R132, R134, R137). -/
def flrOne (s0 : State) (f cause : Nat) : State :=
  let s := handsFail s0 f true
  match ownedPart s f with
  | some p =>
    let n := endedOps s p
    resetEvent (resetFnRegs (flrReport (wipePart s p) f (some p) n) f) 5 cause p n
  | none => resetEvent (resetFnRegs (flrReport s f none 0) f) 5 cause 0xFF 0

/-- A Function Level Reset of every function of a port, the VFs that a lost link has taken included. -/
def flrPort (s : State) (port cause : Nat) : State :=
  forN 8 (fun n t => if fnReset s (8 * port + n) then flrOne t (8 * port + n) cause else t) s

/-- R134: the reset of a PF also runs on each of its VFs, and clears its VF enable as the standard has it (PRESUMED,
log 7). (DEDUCED, log 53.) -/
def flr (s : State) (f cause : Nat) : State :=
  if !fnExists s f then s
  else if isPf f then updPort (flrPort s (fnPort f) cause) (fnPort f) (fun x => { x with vfs := 0, vfsLost := 0 })
  else flrOne s f cause

/-- PART_RESET and the expiry of a hold: R132 steps 2 to 5 (R344, R347). -/
def partReset (s : State) (p cause : Nat) : State :=
  let n := endedOps s p
  resetEvent (flrReport (wipePart s p) (getPart s p).owner (some p) n) 4 cause p n

end Sys2Proof.Machine
end

