-- ==== Sys2Proof/Machine/Resets.lean ====
section
/-! DEFINITION. Power events and resets (13): the commands that start, trip or reset the module, its functions and its
host ports. -/

namespace Sys2Proof.Machine

open Sys2Proof

/-! ### Power -/

/-- The CAUSE of the bring-up that follows input power: that of the trip, if one ended the last power-on. -/
def inputCause (s : State) : Nat := if s.power.cause = 0 then 1 else s.power.cause

/-- INPUT_POWER_APPLIED. After a trip the CAUSE is the trip's (R316, R334, R339). -/
def execInputPowerApplied (bu : BringUp) (s : State) : Out :=
  .next (match s.power.phase with
    | .off => if s.power.pwrEn then coldStart s (inputCause s) bu else s
    | .tripped => coldStart s 4 bu
    | _ => s)

/-- BLADE_INSERTION (R392). -/
def execBladeInsertion (bu : BringUp) (s : State) : Out :=
  let s1 := { s with power := { s.power with pwrEn := true } }
  .next (if s.power.phase = .off then coldStart s1 (inputCause s) bu else s1)

/-- BOOT_WAIT_EXPIRY: the boot plan stays staged and unagreed (R343). -/
def execBootWaitExpiry (s : State) : Out :=
  .next (match s.fab.change with
    | some c => if c.op.isNone && !c.draining then
        stepTwelveDone (bootPlanFail { s with fab := { s.fab with change := none } } 0xFF) else s
    | none => s)

/-- BROWN_OUT_TRIP. -/
def execBrownOutTrip (mv : Nat) (s : State) : Out := .next (shutDown s 2 2 mv)

/-- OVERVOLTAGE_TRIP. -/
def execOvervoltageTrip (mv : Nat) (s : State) : Out := .next (shutDown s 3 3 mv)

/-- BLADE_WITHDRAWAL: a brown-out trip; the input is then gone. -/
def execBladeWithdrawal (mv : Nat) (s : State) : Out :=
  let t := shutDown s 2 1 mv
  .next { t with power := { t.power with pwrEn := false } }

/-- ROOT_PLL_LOSS: a log entry, ALERT_N and a cold reset (R335). (DEDUCED, log 32.) (DEDUCED, log 101.) -/
def execRootPllLoss (bu : BringUp) (s : State) : Out :=
  .next (match s.power.phase with
    | .off => s
    | .tripped => s
    | _ => alertOn (coldStart (powerFailEntry s 5 s.power.inputMv) 5 bu))

/-- COLD_RESET by a management request. The tripped state ends only by a request accepted under the temperature condition,
and CAUSE then reads 0x04 (R334, R363). -/
def execColdReset (bu : BringUp) (s : State) : Out :=
  .next (match s.power.phase with
    | .off => s
    | .tripped => if s.dbx.resetDue = some 0 then coldStart s 4 bu else s
    | _ => coldStart s 6 bu)

/-! ### What a reset ends -/

/-- PLAN_COMMIT and FENCE in progress go on through a compute reset (R350). (DEDUCED, log 104.) -/
def isChangeOp (s : State) (o : Op) : Bool :=
  match s.fab.change with
  | some c => c.op = some o.id
  | none => false

/-- Dispatched operations in dispatch order. -/
def liveOps (s : State) : List Op := s.q.ops.filter (fun o => o.phase ≠ .recordHeld)

/-- An operation ends ABORTED_RESET; the outputs of a started one are undefined (R89). -/
def abortOp (s : State) (o : Op) : State :=
  if o.started then failTimed s o stAborted 0 else complete s o stAborted 0 0

/-- A vote whose record was contributed leaves its step undecided (R228); STEP_UNDECIDED is R225's event for a vote that
completes TIMEOUT or MEMBER_MISMATCH, and a reset raises none. -/
def voteStays (s : State) (o : Op) : State :=
  let step := cStep o.desc
  if dBase o.desc = 0x8207 && (recordFor (getVote s o.part) step).isSome then markUndecided s o.part step else s

/-- Armings at a reset (R228): before contribution the step is discarded as in a skip, after it the step stays
undecided. -/
def abortArming (t : State) (a0 : Arming) : State :=
  match findArming t a0.op with
  | none => t
  | some a =>
    if (recordFor (getVote t a.part) a.step).isSome then failArming (markUndecided t a.part a.step) a stAborted 0 (armInfo a)
    else discardStep t a.part a.step stAborted 0

/-- Votes, armings and open contexts end with the operations they belong to. (DEDUCED, log 132.) -/
def endTraining (s : State) : State :=
  let s1 := (liveOps s).foldl voteStays s
  let s2 := s1.st.armings.foldl abortArming s1
  { s2 with pl := { s2.pl with ctxs := [], kept := [], early := [] } }

/-- A STASH_FREE that timed out takes effect with the end of the STASH_GET it waited for, which a reset ends as well: the
entry is freed and its pins released (R17, R191; DEDUCED, log 169). -/
def freesTake (s : State) : State :=
  s.tr.stash.foldl (fun t e => match e.2 with
    | some x => if x.freeing.isSome then dropStash t (e.1 / 2 ^ 32) (e.1 % 2 ^ 32) else t
    | none => t) s

/-- Operations of a set end with their completion records. -/
def abortOps (s : State) (keep : Op → Bool) : State :=
  let s1 := endTraining s
  (liveOps s1).foldl (fun t o => if keep o then t else match findOp t o.id with
    | some x => abortOp t x
    | none => t) s1

/-- The cores and their SRAM are reset (R345); the contents read as at the first reset (DESIGN CHOICE, log 10). -/
def resetCores (s : State) : State :=
  { s with
    cores := { s.cores with sram := [], regs := s.cores.regs.filterMap (fun e =>
      let x := { e.2 with stopped := false }
      if x = {} then none else some (e.1, x)) }
    q := { s.q with windows := [] } }

def resetTaken (s : State) (domain : Nat) : State :=
  { s with dbx := { s.dbx with resetDue := if s.dbx.resetDue = some domain then none else s.dbx.resetDue } }

/-! ### Module resets (R344 to R347) -/

/-- COMPUTE_RESET. A handover under way ends ABORTED_RESET (R350). -/
def execComputeReset (s : State) : Out :=
  if !s.power.ready then .next s
  else
    let n := ((liveOps s).filter (fun o => !isChangeOp s o)).length
    let s1 := forN 8 handFail (freesTake (abortOps s (isChangeOp s)))
    .next (resetEvent (resetTaken (resetCores s1) 3) 3 6 0xFF n)

/-- A record of a laser's role or of a retired wavelength: a reset before it is written leaves the previous roles (R312). -/
def opticRecord : RepairRec → Bool
  | .laserRole _ _ => true
  | .wavelengthRetired _ _ => true
  | _ => false

/-- Step 12 has not ended: the commit of a boot plan waits for agreement or drains, so that the bring-up, or the fabric reset
that runs it again, is in progress (R343, R344). -/
def stepTwelveWaits (s : State) : Bool :=
  match s.fab.change with
  | some c => c.op.isNone
  | none => false

/-- FABRIC_RESET; absorbed while one is in progress (R346). f returns to its start, or stays at the floor in deterministic mode (R331, R336); network-interface operations end; links and fabric start again; steps 10 to 12 run. -/
def execFabricReset (bu : BringUp) (s : State) : Out :=
  if !s.power.ready then .next s
  else if stepTwelveWaits s then .next (resetTaken s 2)
  else
    let n := ((liveOps s).filter (fun o => o.core = netTarget)).length
    let s1 := abortOps s (fun o => o.core ≠ netTarget)
    let s2 := { s1 with
      fab := { bootPlan := s1.fab.bootPlan, bootWait := s1.fab.bootWait }
      links := { flashRoles := s1.links.flashRoles, flashRetired := s1.links.flashRetired, flashPower := s1.links.flashPower, laserTemp := s1.links.laserTemp }
      dram := { s1.dram with pendingRecs := s1.dram.pendingRecs.filter (fun r => !opticRecord r) }
      kt := { s1.kt with f := if s1.kt.det then floorLevel s1 else startLevel s1 } }
    .next (opticsOn (resetEvent (resetTaken s2 2) 2 6 0xFF n) bu)

/-- Operations of every function end without records, and their slots are released (R132 steps 1 to 3). -/
def dropAllWork (s : State) : State :=
  let s1 := (List.range 16).foldl (fun t f => match ownedPart t f with
    | some p => flrReport t f (some p) (endedOps s p)
    | none => t) s
  let s2 := (liveOps s1).foldl voteStays s1
  let s3 := s2.q.ops.foldl (fun t o => (if o.started && o.phase ≠ .recordHeld then freePins (releaseLatches t o.latches) o
    else releaseLatches t o.latches)) s2
  { s3 with q := { s3.q with ops := [], evts := [], rings := [], orings := [] } }

/-- Function registers return to reset values, and each mailbox then holds RESET_DONE (R347, R365). -/
def resetFunctions (s : State) : State :=
  (List.range (8 * portCount s)).foldl (fun t f => postNotice (resetFnRegs t f) f 1 1)
    (forN 8 handFail s)

/-- A migration starts again from step 1 (R172). -/
def restartMigrations (s : State) : State :=
  s.dram.migrations.foldl (fun t e => raiseMod t 0x0101 (leBytes 2 e.2.channel ++ leBytes 1 e.2.oldPhys ++ leBytes 1 e.2.newPhys)) s

/-- The write-combining buffers are flushed (R172). -/
def flushAll (m : MemIn) (s : State) : State := s.dram.wc.foldl (fun t e => wcFlushTo m e.1 0 64 0 t) s

/-- WARM_RESET. Migrations start again once it has completed (R172). (DEDUCED, log 103.) (DEDUCED, log 131.) -/
def execWarmReset (bu : BringUp) (s0 : State) : Out :=
  if !s0.power.ready then .next s0
  else
    let s := dramUpsets s0 bu.mem
    let n := (liveOps s).length + (s.q.rings.map (fun e => e.2.waiting.length)).sum
    let s1 := freesTake (endTraining (dropAllWork s))
    let s3 := resetFunctions (resetCores (flushAll bu.mem s1))
    let s4 := { s3 with power := { s3.power with ready := false, warmCount := sat 255 (s3.power.warmCount + 1) } }
    let s5 := resetEvent (resetTaken s4 1) 1 6 0xFF n
    .next (match mapCores s5 bu with
      | (s6, some (fault, step)) => bootFault (atStep s6 (step - 1)) .stopped fault step 0
      | (s6, none) => restartMigrations (becomeReady s6))

/-! ### Functions and host ports (R109, R110, R132, R134, R135) -/

/-- FUNCTION_LEVEL_RESET. -/
def execFunctionLevelReset (fn : Nat) (s : State) : Out := .next (flr s fn 7)

/-- D3HOT_ENTRY. -/
def execD3hotEntry (fn : Nat) (s : State) : Out :=
  .next (if fnExists s fn then updFn s fn (fun r => { r with d3hot := true }) else s)

/-- D3HOT_RETURN acts as a Function Level Reset. -/
def execD3hotReturn (fn : Nat) (s : State) : Out := .next (if (getFn s fn).d3hot then flr s fn 10 else s)

/-- Partitions owned by functions of a port. -/
def portParts (s : State) (port : Nat) : List Nat :=
  (List.range 8).filter (fun p => partEnabled s p && fnPort (getPart s p).owner = port)

/-- Leaves of IRQ_PORT on the other port's PF. -/
def otherPortLeaf (s : State) (port bits : Nat) : State := setPfLeaf s (1 - port) 0x40028 bits

/-- The hold of a port's partitions ends: HOLD_END is set on the PF that got HELD, the other port's. (DEDUCED, log 105.) -/
def endHolds (s : State) (ps : List Nat) (port : Nat) : State :=
  let s1 := ps.foldl (fun t p => updPart t p (fun r => { r with held := false })) s
  if ps.isEmpty then s1 else otherPortLeaf s1 port 4

/-- A port's functions lose their PCIe configuration (R135): power state, MSI-X, Device Control, the BAR2 size and the
VFs. (PRESUMED, log 7.) -/
def losePcie (s : State) (port : Nat) : State :=
  updPort (forN 8 (fun n t => updFn t (8 * port + n) (fun r => { r with
    d3hot := false, msixOn := false, msixMasked := true, msixPend := false, relaxed := true, mps := 0, mrrs := 2, bar2 := 0 })) s)
    port (fun x => { x with up := false, vfs := 0, vfsLost := max x.vfsLost x.vfs })

/-- Handovers to functions of a port that is lost end (R137). -/
def portHandsFail (s : State) (port : Nat) : State := forN 8 (fun n t => handsFail t (8 * port + n) false) s

/-- PORT_DL_DOWN. -/
def execPortDlDown (port : Nat) (s : State) : Out :=
  if portCount s ≤ port || !(getPort s port).up then .next s
  else
    let ps := portParts s port
    let s1 := ps.foldl (fun t p => updPart t p (fun r => { r with held := true })) (losePcie (portHandsFail s port) port)
    .next (if ps.isEmpty then s1 else otherPortLeaf s1 port 1)

/-- PORT_HOLD_EXPIRY: each held partition undergoes R132 steps 2 to 5; one with a handover under way goes on (R137). Before
Ready no partition reset acts (R350). -/
def execPortHoldExpiry (port : Nat) (s : State) : Out :=
  if !s.power.ready then .next s else
  let ps := (portParts s port).filter (fun p => (getPart s p).held && (getPart s p).hand.isNone)
  .next (endHolds (ps.foldl (fun t p => partReset t p 9) s) ps port)

def setPerst (s : State) (port : Nat) (on : Bool) : State :=
  { s with power := if port = 0 then { s.power with perst0 := on } else if port = 1 then { s.power with perst1 := on } else s.power }

/-- PERST_ASSERT: an FLR of every function on the port, whose link goes down. -/
def execPerstAssert (port : Nat) (s : State) : Out :=
  let s1 := setPerst s port true
  if portCount s ≤ port then .next s1
  else
    let held := (portParts s port).filter (fun p => (getPart s p).held)
    .next (endHolds (updPort (losePcie (flrPort s1 port 8) port) port (fun x => { x with vfsLost := 0 })) held port)

/-- PERST_DEASSERT: once step 2 has released the ports, the port trains. -/
def execPerstDeassert (port : Nat) (s : State) : Out :=
  let s1 := setPerst s port false
  .next (if portCount s ≤ port || !portsOut s then s1 else updPort s1 port (fun x => { x with up := true }))

/-- The status blocks of a held partition's running rings report STATE 3 once the link is back (R116, R135). -/
def heldStatus (s : State) (p : Nat) : State := (enabledRings s p).foldl (fun t e => ringStatus t e.1) s

/-- PORT_LINK_UP: held partitions stay held. -/
def execPortLinkUp (port : Nat) (s : State) : Out :=
  let perst := if port = 0 then s.power.perst0 else s.power.perst1
  .next (if portCount s ≤ port || perst || !portsOut s || (getPort s port).up then s
    else ((portParts s port).filter (fun p => (getPart s p).held)).foldl heldStatus (updPort s port (fun x => { x with up := true })))

end Sys2Proof.Machine
end

