-- ==== Sys2Proof/Machine/Mail.lean ====
section
/-! DEFINITION. The mailbox (R362 to R365): checks, responses, and the requests that read or set the Drabex's own state.
A request's fields are the command's operands; its response goes to DBX_MB_DATA of a function, or out of band. -/

namespace Sys2Proof.Machine

open Sys2Proof

/-! ### Requests and responses -/

/-- PFs, and the endpoints of R366. -/
def fromPf (ep : Nat) : Bool := decide (ep < 16) && isPf ep
def fromOob (ep : Nat) : Bool := decide (16 ≤ ep)

/-- The host port through which an endpoint reaches host memory; none for SMBus. -/
def epPort (ep : Nat) : Option Nat := if ep < 16 then some (fnPort ep) else if ep = 16 then none else some (ep - 17)

/-- The endpoint exists and its port is up (R363, R366). -/
def epLive (s : State) (ep : Nat) : Bool :=
  match epPort ep with
  | none => true
  | some p => decide (p < portCount s) && (getPort s p).up

/-- R362 steps 2 to 4: an offending offset, a source not permitted, a request not marked for the recovery state. (DEDUCED, log 114.) (DEDUCED, log 115.) -/
def mailRefusal (s : State) (bad : Option Nat) (may marked : Bool) : Option Reply :=
  match bad with
  | some off => some { st := stBad, xs := off }
  | none =>
    if !may then some { st := stPerm, xs := 1 }
    else if s.power.phase = .recovery && !marked then some { st := stVersion, xs := 1 } else none

/-- Serve a request. `reply` is false where a Function Level Reset discarded the response; then only a request on the
whole module still acts (R365). -/
def serve (ep op : Nat) (tag : BitVec 16) (reply whole : Bool) (refused : Option Reply) (act : State → State × Reply) (s : State) : State :=
  match refused with
  | some r => if reply then respond s ep (mailBytes op tag r) else s
  | none =>
    if reply then respond (act s).1 ep (mailBytes op tag (act s).2)
    else if whole then (act s).1 else s

/-- A request of the endpoint is in progress: it waits for the Drabex, or its handover is under way. -/
def inProgress (s : State) (ep : Nat) : Bool :=
  s.dbx.heldReqs.any (fun q => q.reply && decide (mailEp q.req = some ep))
    || anyN 8 (fun p => match (getPart s p).hand with
      | some h => h.reply && decide (h.ep = ep)
      | none => false)

/-- Hold a request until the Drabex runs (R338, R349). -/
def holdReq (s : State) (i : Instr) : State := { s with dbx := { s.dbx with heldReqs := s.dbx.heldReqs ++ [{ req := i }] } }

/-- A request arrives: it is served, or held while the Drabex does not run. While one is in progress a further GO of a
function is ignored (DBX_MB_CTRL), and a further request at an out-of-band endpoint is refused with the MCTP error response
(R366), which carries no mailbox bytes. A cold reset is served also in a bring-up stopped before the Drabex started (R340).
(DESIGN CHOICE, log 126.) -/
def mailRow (i : Instr) (ep : Nat) (cold : Bool) (svc : State → State) (s : State) : State :=
  if s.power.phase = .off || !epLive s ep then s
  else if inProgress s ep then (if ep < 16 then s else sendOut s ep [])
  else if s.power.drabexUp || (cold && decide (s.power.phase = .stopped)) then svc s
  else
    let s1 := holdReq s i
    if ep < 16 then updFn s1 ep (fun r => { r with mbGo := true, mbBusy := true }) else s1

/-! ### GET_INFO (R364) -/

/-- The running bundle; none in recovery. -/
def runningSlot (s : State) : Option Slot := if s.power.phase = .recovery then none else some (tget {} s.dbx.slots s.power.slot)

def steppingBytes (s : State) : Bytes := leBytes 2 s.part.dieStep ++ leBytes 2 s.part.picStep ++ leBytes 2 s.part.dramStep

def infoBody (s : State) : Bytes :=
  let x := (runningSlot s).getD {}
  leBytes 8 x.bver.toNat ++ leBytes 4 x.svn ++ leBytes 1 s.power.slot ++ leBytes 1 (if s.power.phase = .recovery then 1 else 0) ++ zeros 2
    ++ padTo 16 s.part.serial ++ steppingBytes s ++ zeros 2

def mailGetInfo (ep : Nat) (tag : BitVec 16) (reply : Bool) (s : State) : State :=
  serve ep 0x01 tag reply false (mailRefusal s none (decide (ep < 16)) true) (fun s => (s, { body := infoBody s })) s

def execGetInfo (ep : Nat) (tag : BitVec 16) (s : State) : Out := .next (mailRow (.getInfo ep tag) ep false (mailGetInfo ep tag true) s)

/-! ### SENSOR_READ (R359) -/

/-- Sensors of rails: voltage, current and regulator temperature of 42 rails each. -/
def railSensor (n : Nat) : Bool := decide (0x100 ≤ n) && decide (n < 0x1AA) && decide (n % 64 < 42)

/-- The voltage of a rail that R317 fixes, in mV, by the numbers of R353. -/
def fixedRail (r : Nat) : Option Int :=
  if 32 ≤ r then [some 800, some 750, some 1050, some 500, some 850, some 1800, some 3300, none, some 3300, some 900].getD (r - 32) none else none

/-- A rail's reading: a fixed rail's voltage while it is up, VMGMT's (40, 41) always; else what its regulator last
reported. (DESIGN CHOICE, log 159.) -/
def railReading (s : State) (n : Nat) : Reading :=
  match if n < 0x140 then fixedRail (n - 0x100) else none with
  | some mv => if 0x128 ≤ n || railsUp s then .valid mv else .unavailable
  | none => tget .unavailable s.dbx.sensors n

/-- Sensors whose value the model does not hold: lasers, ports, input current. The input voltage is that of the last period. -/
def sensorListed (n : Nat) : Bool :=
  (decide (0x200 ≤ n) && decide (n < 0x218)) || (decide (0x220 ≤ n) && decide (n < 0x238)) || (decide (0x240 ≤ n) && decide (n < 0x24C))
    || decide (n = 0x401)

/-- The reading of a sensor; none is a valid reading of a free value. (DESIGN CHOICE, log 129.) -/
def sensorOf (s : State) (n : Nat) : Option Reading :=
  if n ≤ 0x50 then some (tget .unavailable s.dbx.sensors n)
  else if railSensor n then some (railReading s n)
  else if 0x300 ≤ n ∧ n < 0x360 then
    let p := (n - 0x300) / 8
    some (if (getLink s p).state = .off then .unavailable else .valid (getLane s p ((n - 0x300) % 8)).enob)
  else if n = 0x400 then some (.valid s.power.inputMv)
  else if n = 0x402 then some (.valid s.kt.watts)
  else if sensorListed n then none else some .unavailable

/-- The sensors of R359. -/
def sensorKnown (n : Nat) : Bool :=
  decide (n ≤ 0x50) || railSensor n || (decide (0x300 ≤ n) && decide (n < 0x360)) || decide (n = 0x400) || decide (n = 0x402) || sensorListed n

def readingBytes (n : Nat) (r : Reading) : Bytes :=
  match r with
  | .valid v => leBytes 2 n ++ [0#8, 0#8] ++ leBytes 4 (unsgn 32 v)
  | .failed => leBytes 2 n ++ [1#8, 0#8] ++ zeros 4
  | .unavailable => leBytes 2 n ++ [2#8, 0#8] ++ zeros 4

/-- One reading; a value that the model does not hold is drawn free. -/
def readSensor (s : State) (n : Nat) : State × Reading :=
  match sensorOf s n with
  | some r => (s, r)
  | none => (drawFree s 1, .valid (sgn 32 (Config.freeNat s.free % 2 ^ 32)))

/-- `count` readings from `first` upward. -/
def readSensors : Nat → Nat → State → State × Bytes
  | 0, _, s => (s, [])
  | k + 1, n, s =>
    let (s1, r) := readSensor s n
    let (s2, b) := readSensors k (n + 1) s1
    (s2, readingBytes (n % 2 ^ 16) r ++ b)

def mailSensorRead (ep : Nat) (tag first : BitVec 16) (count : Byte) (reply : Bool) (s : State) : State :=
  let n := count.toNat
  serve ep 0x02 tag reply false (mailRefusal s (if n = 0 || 29 < n then some 0x12 else none) (fromPf ep || fromOob ep) true)
    (fun s => let (t, b) := readSensors n first.toNat s; (t, { body := b })) s

def execSensorRead (ep : Nat) (tag first : BitVec 16) (count : Byte) (s : State) : Out :=
  .next (mailRow (.sensorRead ep tag first count) ep false (mailSensorRead ep tag first count true) s)

/-! ### LOG_READ (R360, R363) -/

/-- A log entry as stored. -/
def logBytes (e : LogEntry) : Bytes :=
  let b := [1#8] ++ leBytes 1 e.kind ++ leBytes 2 e.code ++ leBytes 4 e.seq ++ leBytes 6 e.tick ++ leBytes 2 e.boot ++ padTo 12 e.args
    ++ leBytes 1 e.part ++ leBytes 1 (e.sev % 4)
  b ++ leBytes 2 ((crc32c b).toNat % 2 ^ 16)

/-- The entries of the flash log from SEQ on, `n` at most. -/
def logFrom (s : State) (seq n : Nat) : List LogEntry := (s.dbx.log.filter (fun e => decide (seq ≤ e.seq))).take n

/-- First SEQ, count returned and next SEQ. (DEDUCED, log 117.) -/
def logHead (es : List LogEntry) (seq : Nat) : Bytes :=
  let first := match es with
    | e :: _ => e.seq
    | [] => seq
  let next := match es.getLast? with
    | some e => e.seq + 1
    | none => seq
  leBytes 4 first ++ leBytes 2 es.length ++ leBytes 4 next

/-- The host rejects an access to a range, or its port is down. (DESIGN CHOICE, log 50.) -/
def hostRejects (s : State) (h : HostIn) (port addr n : Nat) : Bool :=
  !(getPort s port).up || h.rejects.any (fun r => overlap r.1 r.2 (hostKey port addr) n)

def logReadAct (ep seq n addr : Nat) (host : HostIn) (s0 : State) : State × Reply :=
  let s := hostStores s0 host
  let es := logFrom s seq n
  if addr = 0 then (s, { body := logHead es seq ++ es.flatMap logBytes })
  else match epPort ep with
    | none => (s, { st := stPerm, xs := 0x18 })
    | some port =>
      if hostRejects s host port addr (32 * es.length) then (s, { st := stCheck, xs := 3 })
      else (hostWrite s port addr (es.flatMap logBytes), { body := logHead es seq })

def mailLogRead (ep : Nat) (tag : BitVec 16) (seq : Word32) (count : BitVec 16) (addr : BitVec 64) (host : HostIn) (reply : Bool) (s : State) : State :=
  let n := count.toNat
  let bad := n = 0 || (if addr = 0#64 then 7 else 4096) < n
  serve ep 0x03 tag reply false (mailRefusal s (if bad then some 0x14 else none) (fromPf ep || fromOob ep) true)
    (logReadAct ep seq.toNat n addr.toNat host) s

def execLogRead (ep : Nat) (tag : BitVec 16) (seq : Word32) (count : BitVec 16) (addr : BitVec 64) (host : HostIn) (s : State) : Out :=
  .next (mailRow (.logRead ep tag seq count addr host) ep false (mailLogRead ep tag seq count addr host true) s)

/-! ### SET_MGMT_CAP, RESET, PART_RESET -/

def setCapAct (cap : Nat) (s : State) : State × Reply :=
  ({ s with kt := { s.kt with mgmtCap := if cap = 0 then none else some cap } }, {})

def mailSetMgmtCap (ep : Nat) (tag cap : BitVec 16) (reply : Bool) (s : State) : State :=
  let c := cap.toNat
  serve ep 0x04 tag reply true (mailRefusal s (if 1 ≤ c && c ≤ 99 then some 0x10 else none) (fromPf ep || fromOob ep) false) (setCapAct c) s

def execSetMgmtCap (ep : Nat) (tag cap : BitVec 16) (s : State) : Out :=
  .next (mailRow (.setMgmtCap ep tag cap) ep false (mailSetMgmtCap ep tag cap true) s)

/-- A sensor reads at least `lim`, in 0.001 °C. -/
def readsAtLeast (s : State) (n : Nat) (lim : Int) : Bool :=
  match tget .unavailable s.dbx.sensors n with
  | .valid v => decide (lim ≤ v)
  | _ => false

/-- A die sensor reads 95 °C or more or a stack sensor 85 °C or more. -/
def stillHot (s : State) : Bool := anyN 64 (fun i => readsAtLeast s i 95000) || anyN 16 (fun i => readsAtLeast s (0x40 + i) 85000)

/-- The reset of a domain falls due 10 ms after the response (R344, R363). (DEDUCED, log 127.) -/
def resetAct (domain : Nat) (s : State) : State × Reply :=
  if domain ≠ 0 && !s.power.ready then (s, { st := stNoRes, xs := 6 })
  else if domain = 0 && s.power.phase = .tripped && stillHot s then (s, { st := stNoRes, xs := 7 })
  else ({ s with dbx := { s.dbx with resetDue := some domain } }, {})

def mailReset (ep : Nat) (tag : BitVec 16) (domain : Byte) (reply : Bool) (s : State) : State :=
  let d := domain.toNat
  serve ep 0x05 tag reply true (mailRefusal s (if 3 < d then some 0x10 else none) (fromPf ep || fromOob ep) (decide (d = 0))) (resetAct d) s

def execReset (ep : Nat) (tag : BitVec 16) (domain : Byte) (s : State) : Out :=
  .next (mailRow (.reset ep tag domain) ep (decide (domain = 0#8)) (mailReset ep tag domain true) s)

/-- PART_RESET: a PF on the port of the partition's owner (R344). Before Ready no partition reset acts (R350); the answer is
then R363's for the other resets (DESIGN CHOICE, log 178). -/
def partResetAct (ep p : Nat) (s : State) : State × Reply :=
  if !s.power.ready then (s, { st := stNoRes, xs := 6 }) else if !partEnabled s p || fnPort (getPart s p).owner ≠ fnPort ep then (s, { st := stPerm, xs := 0x10 }) else (partReset s p 6, {})

def mailPartReset (ep : Nat) (tag : BitVec 16) (part : Byte) (reply : Bool) (s : State) : State :=
  serve ep 0x06 tag reply false (mailRefusal s (if 7 < part.toNat then some 0x10 else none) (fromPf ep) false) (partResetAct ep part.toNat) s

def execPartReset (ep : Nat) (tag : BitVec 16) (part : Byte) (s : State) : Out :=
  .next (mailRow (.partReset ep tag part) ep false (mailPartReset ep tag part true) s)

/-! ### CORE_RECONFIG (R348) -/

/-- A record reaches the configuration flash at once; what was due to be written under its name is superseded. -/
def recordNow (s : State) (r : RepairRec) : State :=
  storeRecord { s with dram := { s.dram with pendingRecs := s.dram.pendingRecs.filter (fun x => !sameRecord x r) } } r

/-- The map is rebuilt as if none were recorded, and recorded. (DEDUCED, log 130.) -/
def coreReconfigAct (s : State) : State × Reply :=
  if anyPartEnabled s then (s, { st := stNoRes, xs := 5 })
  else
    let m := buildMap none s.cores.good
    (recordNow (applyCodes (mapEvents (some s.cores.map) m { s with cores := { s.cores with map := m } })) (.coreMap m), {})

def mailCoreReconfig (ep : Nat) (tag : BitVec 16) (reply : Bool) (s : State) : State :=
  serve ep 0x08 tag reply true (mailRefusal s none (fromPf ep || fromOob ep) false) coreReconfigAct s

def execCoreReconfig (ep : Nat) (tag : BitVec 16) (s : State) : Out :=
  .next (mailRow (.coreReconfig ep tag) ep false (mailCoreReconfig ep tag true) s)

/-! ### BOOT_PLAN_SET (R343) -/

/-- Read host memory for a request: the bytes, or the reply to a failed read (R87, R101). (DEDUCED, log 118.) -/
def mailHostRead (s : State) (host : HostIn) (port addr n : Nat) : Bytes × Option Reply :=
  if !(getPort s port).up then ([], some { st := stCheck, xs := 3 })
  else match hostRead s host port addr n with
    | .data b => (b, none)
    | .rejected => ([], some { st := stCheck, xs := 3 })
    | .poisoned => ([], some { st := stPoison, xs := 2 })

/-- Poisoned data that a function's request reads is noted in the function's AER status (R109). -/
def mailPoison (s : State) (host : HostIn) (ep addr n : Nat) : State :=
  if ep < 16 && (getPort s (fnPort ep)).up then notePoison s ep (hostRead s host (fnPort ep) addr n) else s

/-- The largest plan image (R254). -/
def planMax : Nat := 64 + 8 * (1024 + 4096) + 4 * (256 + 4096)

/-- BOOT_PLAN_SET: a plan is read and recorded, or with LEN = 0 the recorded one removed (R343). (DEDUCED, log 119.) -/
def bootPlanAct (ep addr len wait : Nat) (host : HostIn) (s0 : State) : State × Reply :=
  let s := mailPoison (hostStores s0 host) host ep addr (min len planMax)
  if len = 0 then (recordNow s (.bootPlan none s.fab.bootWait), {})
  else match mailHostRead s host (fnPort ep) addr (min len planMax) with
    | (_, some r) => (s, r)
    | (img, none) =>
      if byteAt img 0 ≠ 1 then (s, { st := stVersion, xs := 0, body := zeros 4 })
      else match planFault img len with
        | some (off, reason) => (s, { st := 0x80, xs := reason, body := leBytes 4 off })
        | none => (recordNow s (.bootPlan (some img) wait), {})

def mailBootPlanSet (ep : Nat) (tag : BitVec 16) (addr : BitVec 64) (len : Word32) (wait : BitVec 16) (host : HostIn) (reply : Bool) (s : State) : State :=
  let w := wait.toNat
  serve ep 0x09 tag reply true (mailRefusal s (if len ≠ 0#32 && (w = 0 || 600 < w) then some 0x1C else none) (fromPf ep) false)
    (bootPlanAct ep addr.toNat len.toNat w host) s

def execBootPlanSet (ep : Nat) (tag : BitVec 16) (addr : BitVec 64) (len : Word32) (wait : BitVec 16) (host : HostIn) (s : State) : Out :=
  .next (mailRow (.bootPlanSet ep tag addr len wait host) ep false (mailBootPlanSet ep tag addr len wait host true) s)

/-! ### ALERT_MASK, MVIEW_READ, MVIEW_CLEAR (R129) -/

/-- The mask is recorded in flash. -/
def alertAct (mask : BitVec 16) (s : State) : State × Reply := (recordNow s (.alertMask mask), {})

def mailAlertMask (ep : Nat) (tag mask : BitVec 16) (reply : Bool) (s : State) : State :=
  serve ep 0x0A tag reply true (mailRefusal s none (fromPf ep || fromOob ep) false) (alertAct mask) s

def execAlertMask (ep : Nat) (tag mask : BitVec 16) (s : State) : Out :=
  .next (mailRow (.alertMask ep tag mask) ep false (mailAlertMask ep tag mask true) s)

/-- Nine words: the management-view leaves of each block. -/
def mviewBytes (s : State) : Bytes := (List.range 9).flatMap (fun k => leBytes 4 (tget 0#32 s.dbx.mview k).toNat)

def mailMviewRead (ep : Nat) (tag : BitVec 16) (reply : Bool) (s : State) : State :=
  serve ep 0x0B tag reply false (mailRefusal s none (fromPf ep || fromOob ep) false) (fun s => (s, { body := mviewBytes s })) s

def execMviewRead (ep : Nat) (tag : BitVec 16) (s : State) : Out :=
  .next (mailRow (.mviewRead ep tag) ep false (mailMviewRead ep tag true) s)

/-- Leaves of the SEV 3 events KT_THERMAL_TRIP and DBX_BOOT_FAULT in the management view. -/
def sev3Leaf (m : Tbl Word32) : Bool := (tget 0#32 m 7).getLsbD 3 || (tget 0#32 m 8).getLsbD 1

/-- Clear leaves of one block; a SEV 3 event asserts ALERT_N until its leaf is cleared. -/
def mviewClearAct (block : Nat) (leaves : Word32) (s : State) : State × Reply :=
  let m := tset 0#32 block (tget 0#32 s.dbx.mview block &&& ~~~leaves) s.dbx.mview
  ({ s with dbx := { s.dbx with mview := m, sev3 := s.dbx.sev3 && sev3Leaf m } }, {})

def mailMviewClear (ep : Nat) (tag : BitVec 16) (block : Byte) (leaves : Word32) (reply : Bool) (s : State) : State :=
  serve ep 0x0C tag reply false (mailRefusal s (if 8 < block.toNat then some 0x10 else none) (fromPf ep || fromOob ep) false)
    (mviewClearAct block.toNat leaves) s

def execMviewClear (ep : Nat) (tag : BitVec 16) (block : Byte) (leaves : Word32) (s : State) : Out :=
  .next (mailRow (.mviewClear ep tag block leaves) ep false (mailMviewClear ep tag block leaves true) s)

/-! ### Requests that R362 refuses -/

/-- LEN of each request, by OP 0x01 to 0x10. -/
def mailLen : List Nat := [0, 4, 16, 4, 4, 4, 20, 0, 16, 4, 0, 8, 16, 0, 4, 0]

/-- Reserved bytes of each request's body. -/
def mailReserved : List (List Nat) :=
  [[], [0x13], [0x16, 0x17], [0x12, 0x13], [0x11, 0x12, 0x13], [0x11, 0x12, 0x13], [0x13], [], [0x1E, 0x1F], [0x12, 0x13], [], [0x11, 0x12, 0x13],
   [0x1D, 0x1E, 0x1F], [], [0x11, 0x12, 0x13], []]

/-- The least offending offset of a request with MVER 1: an unlisted OP, LEN, a reserved byte. -/
def mailOffence (req : Bytes) : Option Nat :=
  let op := byteAt req 1
  if op = 0 || 16 < op then some 1
  else if fld req 4 2 ≠ mailLen.getD (op - 1) 0 then some 4
  else ([6, 7, 8, 9, 10, 11, 12, 13, 14, 15] ++ mailReserved.getD (op - 1) []).find? (fun o => decide (byteAt req o ≠ 0))

/-- VERSION or BAD_DESCRIPTOR; a request with no such fault is not this command's. -/
def mailUnlisted (ep : Nat) (req : Bytes) (reply : Bool) (s : State) : State :=
  let answer (r : Reply) : State := if reply then respond s ep (mailBytes (byteAt req 1) (BitVec.ofNat 16 (fld req 2 2)) r) else s
  if byteAt req 0 ≠ 1 then answer { st := stVersion }
  else match mailOffence req with
    | some off => answer { st := stBad, xs := off }
    | none => s

def execUnlistedMailboxOp (ep : Nat) (req : Bytes) (s : State) : Out :=
  .next (mailRow (.unlistedMailboxOp ep req) ep false (mailUnlisted ep req true) s)

end Sys2Proof.Machine
end

