-- ==== Sys2Proof/Machine/Bundle.lean ====
section
/-! DEFINITION. The update of a firmware bundle (R368 to R371). -/

namespace Sys2Proof.Machine

open Sys2Proof

/-! ### The update (R369, R370) -/

/-- The slot that is not running. (DEDUCED, log 122.) -/
def targetSlot (s : State) : Nat := 1 - s.power.slot

/-- The log entry of an update step (R360). -/
def logStep (s : State) (step target st : Nat) (bver : BitVec 64) : State :=
  addLog s 4 step 0xFF 0 (leBytes 1 target ++ leBytes 1 st ++ leBytes 8 bver.toNat)

def setLast (s : State) (st xs : Nat) : State := { s with dbx := { s.dbx with lastStatus := st, lastXstatus := xs } }

/-- Step 1 with the manifest at hand: refused, or the update goes on at step 2. -/
def startUpdate (s : State) (m : Bytes) (signatureOk activate : Bool) (len : Nat) (source : UpdateSource) : State × Reply :=
  let t := targetSlot s
  match bundleCheck s m signatureOk with
  | some (st, xs) => (setLast (logStep s 1 t st (mfBver m)) st xs, { st, xs })
  | none =>
    let s1 := logStep s 1 t stOk (mfBver m)
    ({ s1 with dbx := { s1.dbx with update := some { step := 2, target := t, activate, source, len, bver := mfBver m } } }, {})

/-- The most bytes of a manifest with its signature: 6 components, 32 steppings, 64 interfaces. -/
def manifestMax : Nat := 0x20 + 64 * 6 + 8 * 32 + 8 * 64 + 96

def fwUpdateAct (ep addr len : Nat) (activate signatureOk : Bool) (host : HostIn) (s0 : State) : State × Reply :=
  let s := mailPoison (hostStores s0 host) host ep addr (min len manifestMax)
  if s.dbx.update.isSome then (s, { st := stNoRes, xs := 5 })
  else match mailHostRead s host (fnPort ep) addr (min len manifestMax) with
    | (_, some r) => (s, r)
    | (m, none) => startUpdate s m signatureOk activate len (.host ep addr)

def mailFwUpdate (ep : Nat) (tag : BitVec 16) (addr : BitVec 64) (len : Word32) (flags : Byte) (signatureOk : Bool) (host : HostIn) (reply : Bool)
    (s : State) : State :=
  let bad := if slotBytes < len.toNat then some 0x18 else if flags.toNat / 2 ≠ 0 then some 0x1C else none
  serve ep 0x0D tag reply true (mailRefusal s bad (fromPf ep) true) (fwUpdateAct ep addr.toNat len.toNat (flags.getLsbD 0) signatureOk host) s

def execFwUpdate (ep : Nat) (tag : BitVec 16) (addr : BitVec 64) (len : Word32) (flags : Byte) (signatureOk : Bool) (host : HostIn) (s : State) : Out :=
  .next (mailRow (.fwUpdate ep tag addr len flags signatureOk host) ep false (mailFwUpdate ep tag addr len flags signatureOk host true) s)

/-- A PLDM Type 5 request that the module sends to its update agent: command and data (DSP0267; PRESUMED, log 124). -/
def pldmSend (s : State) (u : Update) (command : Byte) (data : Bytes) : State :=
  match u.source with
  | .pldm ep => sendOut s ep ([0x80#8, 5#8, command] ++ data)
  | .host _ _ => s

/-- FW_DONE: the notice, and the result that FW_STATUS keeps. -/
def endUpdate (s : State) (u : Update) (st xs : Nat) : State :=
  let s1 := setLast { s with dbx := { s.dbx with update := none } } st xs
  match u.source with
  | .host f _ => postNotice s1 f 2 (st + 256 * xs)
  | .pldm _ => s1

/-- The bytes of the image: read from host memory, or supplied through RequestFirmwareData; none if they do not come. -/
def imageOf (s : State) (u : Update) (e : StepEnd) : Option Bytes :=
  match u.source with
  | .host f addr => match mailHostRead s e.host (fnPort f) addr u.len with
    | (img, none) => some img
    | (_, some _) => none
  | .pldm _ => if u.len ≤ e.data.length then some (e.data.take u.len) else none

/-- The slot with an image written. -/
def writtenSlot (img : Bytes) : Slot := { state := 2, image := some img, bver := mfBver img, svn := mfSvn img, hash := manifestHash img }

/-- The stored bundle passes checks 1 to 5 of R367. -/
def storedPasses (s : State) (target : Nat) (signed : Bool) : Bool :=
  match (getSlot s target).image with
  | some m => (bundleCheck s m signed).isNone && componentsMatch m
  | none => false

/-- A step failed: the target is invalid, and the update agent of a PLDM update is told with a vendor-defined result. -/
def updateFailed (s : State) (u : Update) : State :=
  let s1 := setSlot (logStep s u.step u.target stCheck u.bver) u.target { getSlot s u.target with state := 0 }
  endUpdate (pldmSend s1 u (if u.step ≤ 4 then 0x16#8 else if u.step = 5 then 0x17#8 else 0x18#8)
    (if u.step ≤ 4 then [0x70#8] else if u.step = 5 then [0x90#8] else [0xB0#8, 0#8, 0#8])) u stCheck u.step

/-- A step of the update has ended as it should. -/
def stepPassed (s : State) (u : Update) : State :=
  let s1 := logStep s u.step u.target stOk u.bver
  { s1 with dbx := { s1.dbx with update := some { u with step := u.step + 1 } } }

/-- What a step does: mark, erase, write, verify, finish (R369). -/
def updateStep (s : State) (u : Update) (e : StepEnd) : State :=
  match u.step with
  | 2 =>
    let s1 := stepPassed s u
    setSlot { s1 with dbx := { s1.dbx with nextBoot := if s1.dbx.nextBoot = u.target then 1 - u.target else s1.dbx.nextBoot } } u.target
      { getSlot s1 u.target with state := 2 }
  | 3 => pldmSend (setSlot (stepPassed s u) u.target { state := 2, image := some [] }) u 0x15#8 (zeros 4 ++ leBytes 4 u.len)
  | 4 => (match imageOf s u e with
    | some img => pldmSend (setSlot (stepPassed s u) u.target (writtenSlot img)) u 0x16#8 [0#8]
    | none => updateFailed s u)
  | 5 => if storedPasses s u.target e.signed then pldmSend (stepPassed s u) u 0x17#8 [0#8] else updateFailed s u
  | _ =>
    let s1 := logStep s u.step u.target stOk u.bver
    let s2 := setSlot s1 u.target { getSlot s1 u.target with state := 1 }
    endUpdate (pldmSend (if u.activate then { s2 with dbx := { s2.dbx with nextBoot := u.target } } else s2) u 0x18#8 (zeros 3)) u stOk 0

/-- Poisoned data that step 4 reads from host memory is noted in the function's AER status (R109). -/
def stepHost (s : State) (u : Update) (e : StepEnd) : State :=
  match u.source with
  | .host f addr => if u.step = 4 then mailPoison (hostStores s e.host) e.host f addr u.len else s
  | .pldm _ => s

/-- FW_UPDATE_STEP_DONE; the Drabex must run. -/
def execFwUpdateStepDone (ending : StepEnd) (s : State) : Out :=
  .next (match s.dbx.update with
    | none => s
    | some u =>
      if !s.power.drabexUp then s else if ending.failed then updateFailed s u else updateStep (stepHost s u ending) u ending)

/-! ### FW_STATUS, FW_ACTIVATE, SVN_COMMIT (R368, R371) -/

/-- The body of FW_STATUS. -/
def fwStatusBody (s : State) : Bytes :=
  let step := match s.dbx.update with
    | some u => u.step
    | none => 0
  let bver := match s.dbx.update with
    | some u => u.bver
    | none => (getSlot s (targetSlot s)).bver
  leBytes 1 step ++ leBytes 1 s.dbx.lastStatus ++ leBytes 1 s.dbx.lastXstatus ++ leBytes 1 s.dbx.nextBoot ++ leBytes 1 (getSlot s 0).state
    ++ leBytes 1 (getSlot s 1).state ++ zeros 2 ++ leBytes 8 bver.toNat

def mailFwStatus (ep : Nat) (tag : BitVec 16) (reply : Bool) (s : State) : State :=
  serve ep 0x0E tag reply false (mailRefusal s none (fromPf ep || fromOob ep) true) (fun s => (s, { body := fwStatusBody s })) s

def execFwStatus (ep : Nat) (tag : BitVec 16) (s : State) : Out := .next (mailRow (.fwStatus ep tag) ep false (mailFwStatus ep tag true) s)

/-- A slot can be named for the next cold reset: valid, its SVN not below SVN_MIN (R368). -/
def slotBootable (s : State) (i : Nat) : Bool := decide ((getSlot s i).state = 1) && decide (s.part.svnMin ≤ (getSlot s i).svn)

def activateAct (slot : Nat) (s : State) : State × Reply :=
  if s.dbx.update.isSome then (s, { st := stNoRes, xs := 5 })
  else if !slotBootable s slot then (s, { st := 0x83 })
  else ({ s with dbx := { s.dbx with nextBoot := slot } }, {})

def mailFwActivate (ep : Nat) (tag : BitVec 16) (slot : Byte) (reply : Bool) (s : State) : State :=
  serve ep 0x0F tag reply true (mailRefusal s (if 1 < slot.toNat then some 0x10 else none) (fromPf ep || fromOob ep) true) (activateAct slot.toNat) s

def execFwActivate (ep : Nat) (tag : BitVec 16) (slot : Byte) (s : State) : Out :=
  .next (mailRow (.fwActivate ep tag slot) ep false (mailFwActivate ep tag slot true) s)

/-- SVN_MIN rises to the running bundle's SVN and never falls; not in recovery or during an update. (DEDUCED, log 116.) -/
def svnAct (s : State) : State × Reply :=
  match runningSlot s with
  | none => (s, { st := stNoRes, xs := 5 })
  | some x =>
    if s.dbx.update.isSome then (s, { st := stNoRes, xs := 5 })
    else ({ s with part := { s.part with svnMin := max s.part.svnMin x.svn } }, {})

/-- R368 gives the recovery state's answer itself, so R362 step 4 does not. -/
def mailSvnCommit (ep : Nat) (tag : BitVec 16) (reply : Bool) (s : State) : State :=
  serve ep 0x10 tag reply true (mailRefusal s none (fromPf ep || fromOob ep) true) svnAct s

def execSvnCommit (ep : Nat) (tag : BitVec 16) (s : State) : Out := .next (mailRow (.svnCommit ep tag) ep false (mailSvnCommit ep tag true) s)

end Sys2Proof.Machine
end

