-- ==== Sys2Proof/Machine/Attest.lean ====
section
/-! DEFINITION. Attestation over DOE (R372 to R376), the out-of-band standards (R366) and JTAG (R391). -/

namespace Sys2Proof.Machine

open Sys2Proof

/-! ### DOE objects (R374) -/

/-- The response endpoint of a port's DOE instance. -/
def doeEp (port : Nat) : Nat := 20 + port

/-- The instance answers on a PF whose port is up. -/
def doeLive (s : State) (port : Nat) : Bool := s.power.phase ≠ .off && decide (port < portCount s) && (getPort s port).up

/-- The request payload: what follows the 2 DW of the standard header. -/
def doePayload (object : Bytes) : Bytes := object.drop 8

/-- The header's length agrees with the object. -/
def doeLengthOk (object : Bytes) : Bool := decide (4 * field (fld object 4 4) 0 18 = object.length)

/-- The header of attestation: Lerram's vendor ID and data object type 0x01. -/
def doeHeader (s : State) : Bytes := leBytes 2 s.part.vendorId.toNat ++ [1#8, 0#8]

/-- The object is attestation's. Discovery is its own command, and an object of another vendor or type belongs to no protocol
that the instance supports: it is discarded, as the standard defines (PRESUMED, log 124). -/
def doeOurs (s : State) (object : Bytes) : Bool := decide (object.take 3 = (doeHeader s).take 3)

/-- A response object: the header, the length in DW, the payload. -/
def doeObject (s : State) (payload : Bytes) : Bytes := doeHeader s ++ leBytes 4 (2 + cdiv payload.length 4) ++ payload

def doeHead (msg st : Nat) (req : Bytes) : Bytes := [1#8] ++ leBytes 1 msg ++ leBytes 1 st ++ [0#8] ++ padTo 4 (req.drop 4)

/-- The error response is the header alone. -/
def doeError (st : Nat) (req : Bytes) : Bytes := doeHead 0xFF st req

/-- STATUS and reserved byte of a request's header are 0, and its length is `n`. -/
def doeForm (object : Bytes) (n : Nat) : Bool := doeLengthOk object && decide ((doePayload object).length = n) && zeroAt (doePayload object) 2 2

/-- A DOE request arrives: answered, or held while the Drabex does not run; one at a time. -/
def doeRow (i : Instr) (port : Nat) (object : Bytes) (svc : State → State) (s : State) : State :=
  if !doeLive s port || s.dbx.doeBusy.contains port || !doeOurs s object then s
  else if s.power.drabexUp then svc s
  else
    let s1 := holdReq s i
    { s1 with dbx := { s1.dbx with doeBusy := s1.dbx.doeBusy ++ [port] } }

def doeAnswer (s : State) (port : Nat) (payload : Bytes) : State := sendOut s (doeEp port) (doeObject s payload)

/-! ### GET_CERTS (R375) -/

/-- At most 4,096 bytes of certificates. -/
def certChain : Bytes := Config.certificateChain.take 4096

def certsPayload (req : Bytes) : Bytes :=
  let off := fld req 8 2
  let len := fld req 0xA 2
  let b := (certChain.drop off).take len
  doeHead 0x81 0 req ++ leBytes 2 certChain.length ++ leBytes 2 b.length ++ padTo (roundUp b.length 4) b

def serveCerts (port : Nat) (object : Bytes) (s : State) : State :=
  let req := doePayload object
  let len := fld req 0xA 2
  doeAnswer s port
    (if doeLengthOk object && byteAt req 0 ≠ 1 then doeError stVersion req
     else if !doeForm object 12 || byteAt req 1 ≠ 1 || len = 0 || 1024 < len then doeError stBad req else certsPayload req)

def execGetCerts (port : Nat) (object : Bytes) (s : State) : Out := .next (doeRow (.getCerts port object) port object (serveCerts port object) s)

/-! ### MEASURE (R375, R376) -/

/-- A 384-bit hash in the order of FIPS 180-4. -/
def hashBytes (h : BitVec 384) : Bytes := (leBytes 48 h.toNat).reverse

def boolNat (b : Bool) : Nat := if b then 1 else 0

/-- The configuration records of R357 other than the log, the journal and the alert mask: the records of repairs and of the
boot plan, BOOT_WAIT, the start-of-life laser powers, the slot states and the next-boot slot. (DESIGN CHOICE, log 177.) -/
def configRecords (s : State) : List (List Nat) :=
  (s.dbx.flashRecs.filter (fun x => match x.rcd with
      | .alertMask _ => false
      | _ => true)).map (fun x => recNats x.rcd)
    ++ [[11, s.fab.bootWait], 12 :: (List.range 24).map (fun i => unsgn 16 (tget 0 s.links.flashPower i)),
        [13, (getSlot s 0).state, (getSlot s 1).state], [14, s.dbx.nextBoot]]

/-- The content of a measurement block. -/
def blockContent (s : State) (n : Nat) : Bytes :=
  let other := targetSlot s
  let x := getSlot s other
  match n with
  | 0 => padTo 16 s.part.serial ++ leBytes 1 (variantField s.part.variant) ++ zeros 3
  | 1 => match runningSlot s with
    | none => [0#8, 0#8, 1#8] ++ zeros 61
    | some r => leBytes 1 s.power.slot ++ leBytes 1 (boolNat s.power.fallback) ++ zeros 2 ++ leBytes 8 r.bver.toNat ++ leBytes 4 r.svn ++ padTo 48 r.hash
  | 2 => leBytes 1 x.state ++ (if x.state = 0 then zeros 63
      else leBytes 1 (boolNat (decide (s.dbx.nextBoot = other))) ++ zeros 2 ++ leBytes 8 x.bver.toNat ++ leBytes 4 x.svn ++ padTo 48 x.hash)
  | 3 => steppingBytes s ++ zeros 2
  | 4 => leBytes 4 s.part.svnMin ++ leBytes 1 (variantField s.part.variant) ++ leBytes 1 s.part.mappedOut.length ++ zeros 2
      ++ hashBytes (Config.fuseMapHash s.part.svnMin)
  | 5 => hashBytes (Config.configHash (configRecords s)) ++ leBytes 4 (configRecords s).length
  | _ => leBytes 4 s.part.romVersion ++ hashBytes Config.bootRomHash

def measureBlock (s : State) (n : Nat) : Bytes :=
  let c := blockContent s n
  leBytes 1 n ++ [0#8] ++ leBytes 2 c.length ++ c

/-- The response payload up to SIG. -/
def measureBody (s : State) (req : Bytes) : Bytes :=
  let mask := fld req 0x28 4
  let blocks := (List.range 7).filter (fun n => bit mask n)
  doeHead 0x82 0 req ++ padTo 32 (req.drop 8) ++ leBytes 1 blocks.length ++ zeros 3 ++ blocks.flatMap (measureBlock s)

/-- SIG over the request payload followed by the response payload up to SIG. -/
def measurePayload (s : State) (req : Bytes) : Bytes :=
  let b := measureBody s req
  b ++ (leBytes 96 (Config.identitySign (sha384 (req ++ b))).toNat).reverse

def serveMeasure (port : Nat) (object : Bytes) (s : State) : State :=
  let req := doePayload object
  doeAnswer s port
    (if doeLengthOk object && byteAt req 0 ≠ 1 then doeError stVersion req
     else if !doeForm object 44 || byteAt req 1 ≠ 2 || 128 ≤ fld req 0x28 4 then doeError stBad req else measurePayload s req)

def execMeasure (port : Nat) (object : Bytes) (s : State) : Out := .next (doeRow (.measure port object) port object (serveMeasure port object) s)

/-- The DOE instance of a held request. -/
def doeOf : Instr → Option Nat
  | .getCerts port _ => some port
  | .measure port _ => some port
  | _ => none

/-- DOE_ABORT discards the request in progress. -/
def execDoeAbort (port : Nat) (s : State) : Out :=
  .next { s with dbx := { s.dbx with
    doeBusy := s.dbx.doeBusy.filter (fun p => p ≠ port)
    heldReqs := s.dbx.heldReqs.filter (fun q => doeOf q.req ≠ some port) } }

/-- DOE_DISCOVERY: index 0 is discovery itself, index 1 attestation; a higher index names no protocol. -/
def discoveryEntry (s : State) (index : Nat) : Bytes :=
  match index with
  | 0 => [1#8, 0#8, 0#8, 1#8]
  | 1 => doeHeader s
  | _ => [0xFF#8, 0xFF#8, 0xFF#8, 0#8]

def execDoeDiscovery (port : Nat) (index : Byte) (s : State) : Out :=
  .next (if doeLive s port && !s.dbx.doeBusy.contains port then
      sendOut s (doeEp port) ([1#8, 0#8, 0#8, 0#8] ++ leBytes 4 3 ++ discoveryEntry s index.toNat) else s)

/-! ### MCTP and PLDM on the out-of-band endpoints (R366) -/

/-- A message of a standard is answered, or held while the Drabex does not run. (DEDUCED, log 125.) -/
def oobRow (i : Instr) (ep : Nat) (svc : State → State) (s : State) : State :=
  if ep < 16 || s.power.phase = .off || !epLive s ep then s
  else if s.power.drabexUp then svc s else holdReq s i

/-- Completion code first; endpoint IDs, versions and message types as DSP0236 lays them out. (PRESUMED, log 124.) -/
def serveMctp (ep : Nat) (msg : MctpControl) (s : State) : State :=
  match msg with
  | .setEndpointId eid => sendOut { s with dbx := { s.dbx with eids := tset 0 ep eid s.dbx.eids } } ep ([0#8, 0#8] ++ leBytes 1 eid ++ [0#8])
  | .getEndpointId => sendOut s ep ([0#8] ++ leBytes 1 (tget 0 s.dbx.eids ep) ++ [0#8, 0#8])
  | .other code =>
    sendOut s ep (match code with
      | 4 => [0#8, 1#8, 0xF1#8, 0xF3#8, 0xFF#8, 0#8]
      | 5 => [0#8, 2#8, 0x01#8, 0x7E#8]
      | _ => [5#8])

def execMctpControlMessage (ep : Nat) (msg : MctpControl) (s : State) : Out := .next (oobRow (.mctpControlMessage ep msg) ep (serveMctp ep msg) s)

/-- 2^k for each of a list of command numbers, in 32 bytes. -/
def commandBits (l : List Nat) : Bytes := leBytes 32 ((l.map (fun k => 2 ^ k)).sum)

/-- The PLDM types that the module supports, with version and commands (R366): base 1.1, Type 2 1.2, Type 5 1.1. -/
def pldmTypes : List (Nat × Bytes × List Nat) :=
  [(0, [0#8, 0xFF#8, 0xF1#8, 0xF1#8], [1, 2, 3, 4, 5]), (2, [0#8, 0xFF#8, 0xF2#8, 0xF1#8], [0x11, 0x50, 0x51]),
   (5, [0#8, 0xFF#8, 0xF1#8, 0xF1#8], [0x10, 0x15, 0x16, 0x17, 0x18, 0x1A])]
def pldmType (t : Byte) : Option (Bytes × List Nat) := (pldmTypes.find? (fun x => decide (x.1 = t.toNat))).map (·.2)

/-- PLDM Type 0 (DSP0240): terminus ID, versions with their CRC-32, types and commands; completion code first. -/
def serveDiscovery (ep : Nat) (command : PldmBase) (s : State) : State :=
  match command with
  | .setTid tid => sendOut { s with dbx := { s.dbx with tids := tset 0 ep tid.toNat s.dbx.tids } } ep [0#8]
  | .getTid => sendOut s ep ([0#8] ++ leBytes 1 (tget 0 s.dbx.tids ep))
  | .getVersion t => sendOut s ep (match pldmType t with
    | some (v, _) => [0#8] ++ zeros 4 ++ [5#8] ++ v ++ leBytes 4 (crc32 v).toNat
    | none => [0x83#8])
  | .getTypes => sendOut s ep ([0#8, 0x25#8] ++ zeros 7)
  | .getCommands t => sendOut s ep (match pldmType t with
    | some (_, l) => [0#8] ++ commandBits l
    | none => [0x83#8])
  | .other _ => sendOut s ep [5#8]

def execPldmDiscovery (ep : Nat) (command : PldmBase) (s : State) : Out := .next (oobRow (.pldmDiscovery ep command) ep (serveDiscovery ep command) s)

/-- PLDM Type 2: the reading of sensor number ID - 1 as a signed 32-bit value; the three state bytes are free, and no
event messages are sent. An ID of no sensor of R359 is invalid. -/
def serveSensor (ep sensorId : Nat) (s : State) : State :=
  if sensorId = 0 || !sensorKnown (sensorId - 1) then sendOut s ep [0x80#8]
  else
    let (s1, r) := readSensor s (sensorId - 1)
    let states := freeBytes s1 3
    let head (op : Byte) : Bytes := [0#8, 5#8, op, 0#8] ++ states
    sendOut (drawFree s1 3) ep (match r with
      | .valid v => head 0#8 ++ leBytes 4 (unsgn 32 v)
      | .failed => head 4#8 ++ zeros 4
      | .unavailable => head 2#8 ++ zeros 4)

/-- The numbers of R359's sensors, in order: record i + 1 of the PDR repository is that of the i-th. -/
def sensorNumbers : List Nat := (List.range 0x403).filter sensorKnown

/-- Base unit and unit modifier of a sensor, as DSP0248 codes them: °C, V, A and W; 1, unspecified, for dBm and 1/32 bit. -/
def sensorUnit (n : Nat) : Bytes :=
  if n ≤ 0x50 || (0x180 ≤ n && n < 0x1AA) then [2#8, 0xFD#8]
  else if (0x100 ≤ n && n < 0x12A) || n = 0x400 then [5#8, 0xFD#8]
  else if (0x140 ≤ n && n < 0x16A) || n = 0x401 then [6#8, 0xFD#8]
  else if 0x200 ≤ n && n < 0x218 then [6#8, 0xFA#8]
  else if n = 0x402 then [7#8, 0#8] else [1#8, 0#8]

/-- The numeric sensor PDR of a sensor, of 95 bytes after the common header: Sensor ID, unit, signed 32-bit readings with
resolution 1 and offset 0, no thresholds and no ranges. What the spec does not say of a sensor is free. -/
def sensorPdr (handle n : Nat) (f : Bytes) : Bytes :=
  leBytes 4 handle ++ [1#8, 2#8] ++ zeros 2 ++ leBytes 2 95
    ++ f.take 2 ++ leBytes 2 (n + 1) ++ (f.drop 2).take 7 ++ [0#8] ++ sensorUnit n ++ zeros 7 ++ [1#8, 5#8]
    ++ [0#8, 0#8, 0x80#8, 0x3F#8] ++ zeros 4 ++ (f.drop 9).take 8 ++ zeros 2 ++ (f.drop 17).take 16 ++ [5#8, 0#8] ++ zeros 36

/-- GetPDR: the record in one part, with the handle of the next. -/
def servePdr (ep handle : Nat) (s : State) : State :=
  let i := handle - 1
  match sensorNumbers[i]? with
  | none => sendOut s ep [0x82#8]
  | some n =>
    let r := sensorPdr (i + 1) n (freeBytes s 33)
    sendOut (drawFree s 33) ep ([0#8] ++ leBytes 4 (if i + 1 < sensorNumbers.length then i + 2 else 0) ++ zeros 4 ++ [5#8]
      ++ leBytes 2 r.length ++ r)

/-- GetPDRRepositoryInfo: available; the times are free. -/
def servePdrInfo (ep : Nat) (s : State) : State :=
  sendOut (drawFree s 27) ep ([0#8, 0#8] ++ freeBytes s 26 ++ leBytes 4 sensorNumbers.length ++ leBytes 4 (105 * sensorNumbers.length)
    ++ leBytes 4 105 ++ (freeBytes s 27).take 1)

def serveReading (ep : Nat) (request : PldmSensor) (s : State) : State :=
  match request with
  | .reading id => serveSensor ep id s
  | .pdr handle => servePdr ep handle s
  | .repositoryInfo => servePdrInfo ep s

def execPldmGetSensorReading (ep : Nat) (request : PldmSensor) (s : State) : Out :=
  .next (oobRow (.pldmGetSensorReading ep request) ep (serveReading ep request) s)

/-- PLDM RequestUpdate runs step 1 of R369, with the manifest that the module reads by RequestFirmwareData; a second update
gets ALREADY_IN_UPDATE_MODE (R370). The messages from there to ApplyComplete are sent as the steps end. (PRESUMED, log 124.) -/
def serveRequestUpdate (ep : Nat) (manifest : Bytes) (len : Nat) (signatureOk : Bool) (s : State) : State :=
  if s.dbx.update.isSome then sendOut s ep [0x81#8]
  else if slotBytes < len then sendOut s ep [1#8]
  else
    let (t, r) := startUpdate s (manifest.take manifestMax) signatureOk false len (.pldm ep)
    sendOut t ep (if r.st = stOk then zeros 4 else [1#8])

def execPldmRequestUpdate (ep : Nat) (manifest : Bytes) (len : Nat) (signatureOk : Bool) (s : State) : Out :=
  .next (oobRow (.pldmRequestUpdate ep manifest len signatureOk) ep (serveRequestUpdate ep manifest len signatureOk) s)

/-- PLDM ActivateFirmware names the updated slot as next-boot slot. -/
def serveActivate (ep : Nat) (s : State) : State :=
  match activateAct (targetSlot s) s with
  | (t, r) => sendOut t ep (if r.st = stOk then [0#8] else [1#8])

def execPldmActivateFirmware (ep : Nat) (s : State) : Out := .next (oobRow (.pldmActivateFirmware ep) ep (serveActivate ep) s)

/-! ### JTAG (R391) -/

def jtagIdcode : Word32 := 0x25120A17#32

/-- Every PERST_N in use is asserted. -/
def perstAll (s : State) : Bool := s.power.perst0 && (!s.power.x8x8 || s.power.perst1)

/-- What is captured on the sideband pins: the baseboard's levels on the inputs, the module's own on its outputs. -/
def capturePins (s : State) (pins : Sideband) : Sideband :=
  { pins with alertN := !alertAsserted s, pwrgd := pwrgd s, prsntN := false }

/-- The scan chain captures the pins, which TDO shifts out, and takes what is shifted in. -/
def scanPins (s : State) (op : JtagOp) (pins shifted : Sideband) : State :=
  { s with power := { s.power with jtag := op, scan := shifted }, lastRead := .scan (capturePins s pins) }

/-- JTAG_INSTRUCTION on a powered module. EXTEST needs every PERST_N asserted and READY 0; only a cold reset leaves it, and
until then its scan chain alone is reached. -/
def execJtagInstruction (instr : JtagOp) (s : State) : Out :=
  .next (if s.power.phase = .off then s
    else match instr with
      | .extest pins shifted =>
        if s.power.extest || (perstAll s && !s.power.ready) then scanPins { s with power := { s.power with extest := true } } instr pins shifted else s
      | .idcode => if s.power.extest then s else { s with power := { s.power with jtag := .idcode }, lastRead := .word jtagIdcode }
      | .bypass => if s.power.extest then s else { s with power := { s.power with jtag := .bypass } }
      | .samplePreload pins shifted => if s.power.extest then s else scanPins s instr pins shifted)

/-! ### The sideband pins (R388, R390) -/

inductive SidePin where
  | perst0 | perst1 | bifSel | addr0 | addr1 | smbClk | smbDat | alertN | pwrgd | prsntN | tck | tms | tdi | trstN | tdo
  deriving DecidableEq, Repr

/-- The level that the module drives on a sideband pin, none for high impedance: MOD_PRSNT_N is tied to GND, every other pin
is high impedance without power; ALERT_N is open drain, driven low or not at all; EXTEST drives what was shifted in. TDO is
driven only while a chain shifts out, which the commands take whole. -/
def pinDriven (s : State) (p : SidePin) : Option Bool :=
  match p with
  | .prsntN => some false
  | .alertN =>
    if !sidebandDriven s then none
    else if (if s.power.extest then !s.power.scan.alertN else alertAsserted s) then some false else none
  | .pwrgd => if !sidebandDriven s then none else some (if s.power.extest then s.power.scan.pwrgd else pwrgd s)
  | .smbDat => if sidebandDriven s && s.power.extest && !s.power.scan.smbDat then some false else none
  | _ => none

/-- The pull-ups and pull-downs that the module holds on its inputs. -/
def pinPull (p : SidePin) : Option Bool :=
  match p with
  | .bifSel => some true
  | .addr0 => some true
  | .addr1 => some true
  | .tms => some true
  | .tdi => some true
  | .trstN => some false
  | _ => none

end Sys2Proof.Machine
end

