-- ==== Sys2Proof/Machine/Reg.lean ====
section
/-! DEFINITION. The registers of BAR0 by name, their places in a PF's and a VF's BAR0 (R377, R384, R385), and reading
them (R5, R6). -/

namespace Sys2Proof.Machine

open Sys2Proof

/-- A register of BAR0. Indices are module-wide. -/
inductive Reg where
  | idModule | idStatus | idIfver | idBlk0 | idBlk1 | idCap0 | idCap1 | idCores
  | fnDrvif | fnStatus | fnFlr | fnHold | fnFabOwner
  | partCtl (p : Nat) | partStatus (p : Nat) | partRings (p : Nat) | partORings (p : Nat) | partEvt (p : Nat)
  | partQuota (p : Nat) | partTimeout (p : Nat) | partEvring (p : Nat) | partStatring (p : Nat)
  | seedLo (p : Nat) | seedHi (p : Nat) | partCores (p w : Nat)
  | qeWake | qeSweep | dbLo (n : Nat) | dbHi (n : Nat)
  | oBaseLo (o : Nat) | oBaseHi (o : Nat) | oCfg (o : Nat) | oDb (o : Nat)
  | rBaseLo (r : Nat) | rBaseHi (r : Nat) | rCfg (r : Nat) | rDb (r : Nat)
  | irqSum | irqMask | irqLevel2 (off : Nat) | irqLeaf (off : Nat)
  | regionCfg (rid : Nat) | regionPda (rid : Nat) | regionSlot (rid : Nat)
  | chStat (l : Nat) | chRows (l : Nat)
  | hxCfg | hxPort (n : Nat) | modeThr | xtThr | laserStat (i : Nat) | wlStat (port w : Nat)
  | fabEpoch | planStat | fenceCnt | fabDiscard | fabNbr (port : Nat) | fenceList (i : Nat)
  | plGrp (p : Nat) | plCtx (p : Nat) | plMc (p : Nat)
  | layBase (p : Nat) | layCfg (p : Nat) | govCfg (p : Nat) | shardCfg (p : Nat)
  | cdRec (p : Nat) | cdRex (p : Nat) | cdCfg (p : Nat)
  | ktCap | ktCtrl | ktStat | ktPin | ktCore (l : Nat)
  | mbCtrl | mbAsync | mbData (i : Nat)
  deriving DecidableEq, Repr

/-- The register of a partition's FN_PART_ window at a word offset (R381). -/
def partWindow (p off : Nat) : Option Reg :=
  match off with
  | 0x00 => some (.partCtl p)
  | 0x04 => some (.partStatus p)
  | 0x08 => some (.partRings p)
  | 0x0C => some (.partORings p)
  | 0x10 => some (.partEvt p)
  | 0x14 => some (.partQuota p)
  | 0x18 => some (.partTimeout p)
  | 0x1C => some (.partEvring p)
  | 0x20 => some (.partStatring p)
  | 0x24 => some (.seedLo p)
  | 0x28 => some (.seedHi p)
  | _ => none

/-- ID_, FN_ and QE_ registers (R377). -/
def regLow (o : Nat) : Option Reg :=
  match o with
  | 0x00000 => some .idModule
  | 0x00008 => some .idStatus
  | 0x00010 => some .idIfver
  | 0x00020 => some .idBlk0
  | 0x00024 => some .idBlk1
  | 0x00030 => some .idCap0
  | 0x00034 => some .idCap1
  | 0x00040 => some .idCores
  | 0x10000 => some .fnDrvif
  | 0x10004 => some .fnStatus
  | 0x10008 => some .fnFlr
  | 0x10010 => some .fnHold
  | 0x10014 => some .fnFabOwner
  | 0x20000 => some .qeWake
  | 0x20004 => some .qeSweep
  | _ => none

/-- The register at a word offset of a PF's BAR0 (R377). -/
def regAt (o : Nat) : Option Reg :=
  if o % 4 ≠ 0 then none
  else if 0x11000 ≤ o && o < 0x11200 then partWindow ((o - 0x11000) / 0x40) (o % 0x40)
  else if 0x12000 ≤ o && o < 0x12200 then some (.partCores ((o - 0x12000) / 0x40) (o % 0x40 / 4))
  else if 0x20010 ≤ o && o < 0x20050 then (if o % 8 = 0 then some (.dbLo ((o - 0x20010) / 8)) else some (.dbHi ((o - 0x20010) / 8)))
  else if o < 0x28000 then regLow o
  else if o < 0x2C000 then
    let i := (o - 0x28000) / 16
    (match o % 16 with
    | 0 => some (.oBaseLo i)
    | 4 => some (.oBaseHi i)
    | 8 => some (.oCfg i)
    | _ => some (.oDb i))
  else if 0x30000 ≤ o && o < 0x40000 then
    let i := (o - 0x30000) / 16
    (match o % 16 with
    | 0 => some (.rBaseLo i)
    | 4 => some (.rBaseHi i)
    | 8 => some (.rCfg i)
    | _ => some (.rDb i))
  else if o = 0x40000 then some .irqSum
  else if o = 0x40004 then some .irqMask
  else if (0x40008 ≤ o && o < 0x40020) || o = 0x4002C then some (.irqLevel2 o)
  else if (0x40020 ≤ o && o < 0x4002C) || (0x41000 ≤ o && o < 0x41500) || (0x42000 ≤ o && o < 0x42024) then some (.irqLeaf o)
  else if 0x81000 ≤ o && o < 0x83000 then
    let i := (o - 0x81000) / 16
    (match o % 16 with
    | 0 => some (.regionCfg i)
    | 4 => some (.regionPda i)
    | 8 => some (.regionSlot i)
    | _ => none)
  else if 0xC1000 ≤ o && o < 0xC1800 then some (.chStat ((o - 0xC1000) / 4))
  else if 0xC1800 ≤ o && o < 0xC2000 then some (.chRows ((o - 0xC1800) / 4))
  else if o = 0x100000 then some .hxCfg
  else if 0x100100 ≤ o && o < 0x100130 then some (.hxPort ((o - 0x100100) / 4))
  else if o = 0x140000 then some .modeThr
  else if o = 0x140004 then some .xtThr
  else if 0x140100 ≤ o && o < 0x140160 then some (.laserStat ((o - 0x140100) / 4))
  else if 0x141000 ≤ o && o < 0x141180 then some (.wlStat ((o - 0x141000) / 0x20) (o % 0x20 / 4))
  else if o = 0x160000 then some .fabEpoch
  else if o = 0x160004 then some .planStat
  else if o = 0x160008 then some .fenceCnt
  else if o = 0x160010 then some .fabDiscard
  else if 0x160100 ≤ o && o < 0x160130 then some (.fabNbr ((o - 0x160100) / 4))
  else if 0x161000 ≤ o && o < 0x161400 then some (.fenceList ((o - 0x161000) / 4))
  else if 0x180000 ≤ o && o < 0x180200 then
    let p := (o - 0x180000) / 0x40
    (match o % 0x40 with
    | 0 => some (.plGrp p)
    | 4 => some (.plCtx p)
    | 8 => some (.plMc p)
    | _ => none)
  else if 0x1D0000 ≤ o && o < 0x1D0200 then
    let p := (o - 0x1D0000) / 0x40
    (match o % 0x40 with
    | 0 => some (.layBase p)
    | 4 => some (.layCfg p)
    | 8 => some (.govCfg p)
    | 0xC => some (.shardCfg p)
    | _ => none)
  else if 0x1E0000 ≤ o && o < 0x1E0200 then
    let p := (o - 0x1E0000) / 0x40
    (match o % 0x40 with
    | 0 => some (.cdRec p)
    | 4 => some (.cdRex p)
    | 8 => some (.cdCfg p)
    | _ => none)
  else if o = 0x200000 then some .ktCap
  else if o = 0x200004 then some .ktCtrl
  else if o = 0x200008 then some .ktStat
  else if o = 0x20000C then some .ktPin
  else if 0x201000 ≤ o && o < 0x201800 then some (.ktCore ((o - 0x201000) / 4))
  else if o = 0x280000 then some .mbCtrl
  else if o = 0x280004 then some .mbAsync
  else if 0x280100 ≤ o && o < 0x280200 then some (.mbData ((o - 0x280100) / 4))
  else none

/-- Where a VF's offset lies: a register, a partition window of a VF without partition, or nothing. -/
inductive VfPlace where
  | reg (r : Reg)
  | noPart
  | none

def ofReg (r : Option Reg) : VfPlace :=
  match r with
  | some x => .reg x
  | none => .none

/-- The partition-relative windows of a VF's BAR0 (R384, R385). -/
def vfPartReg (s : State) (p o : Nat) : Option Reg :=
  let r := getPart s p
  if 0x1040 ≤ o && o < 0x1070 then partWindow p (o - 0x1040)
  else if 0x1080 ≤ o && o < 0x10C0 then some (.partCores p ((o - 0x1080) / 4))
  else if 0x3200 ≤ o && o < 0x3300 then
    let k := (o - 0x3200) / 8
    if k < r.ringCount then some (.irqLeaf (0x41000 + 8 * (r.ringFirst + k) + o % 8)) else none
  else if 0x3400 ≤ o && o < 0x3500 then
    let k := (o - 0x3400) / 8
    if k < r.ringCount then some (.irqLeaf (0x41200 + 8 * (r.ringFirst + k) + o % 8)) else none
  else if 0x3600 ≤ o && o < 0x3680 then
    let k := (o - 0x3600) / 4
    if k < r.orCount then some (.irqLeaf (0x41400 + 4 * (r.orFirst + k))) else none
  else if 0x4000 ≤ o && o < 0x4400 then regAt (0x81000 + 16 * (64 * p) + (o - 0x4000))
  else if 0x4400 ≤ o && o < 0x4410 then regAt (0x1D0000 + 0x40 * p + (o - 0x4400))
  else if 0x4410 ≤ o && o < 0x441C then regAt (0x1E0000 + 0x40 * p + (o - 0x4410))
  else if 0x4420 ≤ o && o < 0x442C then regAt (0x180000 + 0x40 * p + (o - 0x4420))
  else if 0x6000 ≤ o && o < 0x8000 then
    let k := (o - 0x6000) / 16
    if k < 16 * r.orCount then regAt (0x28000 + 16 * (16 * r.orFirst + k) + o % 16) else none
  else if 0x8000 ≤ o && o < 0x10000 then
    let k := (o - 0x8000) / 16
    if k < 64 * r.ringCount then regAt (0x30000 + 16 * (64 * r.ringFirst + k) + o % 16) else none
  else none

/-- Offsets of the partition-relative windows. -/
def vfRelative (o : Nat) : Bool :=
  (0x1040 ≤ o && o < 0x1070) || (0x1080 ≤ o && o < 0x10C0) || (0x3200 ≤ o && o < 0x3300) || (0x3400 ≤ o && o < 0x3500)
    || (0x3600 ≤ o && o < 0x3680) || (0x4000 ≤ o && o < 0x4400 && o % 16 ≠ 12) || (0x4400 ≤ o && o < 0x441C) || (0x4420 ≤ o && o < 0x442C) || (0x6000 ≤ o && o < 0x10000)

/-- The place of an offset in a VF's 64 KiB BAR0. -/
def vfPlace (s : State) (f o : Nat) : VfPlace :=
  if o % 4 ≠ 0 then .none
  else if o < 0x100 then ofReg (regAt o)
  else if 0x1000 ≤ o && o < 0x1010 then ofReg (regAt (0x10000 + (o - 0x1000)))
  else if 0x2000 ≤ o && o < 0x2050 then ofReg (regAt (0x20000 + (o - 0x2000)))
  else if 0x3000 ≤ o && o < 0x3030 then ofReg (regAt (0x40000 + (o - 0x3000)))
  else if 0x5000 ≤ o && o < 0x5200 then ofReg (regAt (0x280000 + (o - 0x5000)))
  else if vfRelative o then
    (match ownedPart s f with
    | some p => ofReg (vfPartReg s p o)
    | none => .noPart)
  else .none

/-- The place of an offset in a function's BAR0. -/
def placeAt (s : State) (f o : Nat) : VfPlace := if isPf f then ofReg (regAt o) else vfPlace s f o

/-! ### Reading -/

def b2n (b : Bool) : Nat := if b then 1 else 0

/-- Holes and free spares (ID_CORES). -/
def holeCount (s : State) : Nat := sumN 512 (fun l => b2n (corePhys s l).isNone)
def boundPhys (s : State) : List Nat := s.cores.map.filterMap (fun e => e.2)
def spareCount (s : State) : Nat := (s.cores.good.filter (fun x => !(boundPhys s).contains x)).length

/-- A group bit: some leaf of the group is set. `w` is the group's size in bytes. -/
def groupBits (r : FnRegs) (base w first n : Nat) : Nat :=
  sumN n (fun g => if anyLeaf r (base + w * (first + g)) (base + w * (first + g + 1)) then 2 ^ g else 0)

/-- The level-2 pairs as 64-bit values; a VF's are relative to its partition (R384). -/
def level2 (s : State) (f base w : Nat) (rings : Bool) : Nat :=
  let r := getFn s f
  if isPf f then groupBits r base w 0 64
  else match ownedPart s f with
    | some p =>
      let x := getPart s p
      if rings then groupBits r base w x.ringFirst x.ringCount else groupBits r base w x.orFirst x.orCount
    | none => 0

/-- The mode of a lane that a register reports: a lane drained, swept, kept off or retired is off (R308, R310, R311). -/
def laneMode (s : State) (port w : Nat) : Nat := if laneUsable s port w then (getLane s port w).mode else 0

def layModes (s : State) (port mode : Nat) : Nat := sumN 8 (fun w => if laneMode s port w = mode then 2 ^ w else 0)

def linkCode (l : LinkState) : Nat :=
  match l with
  | .off => 0
  | .probe => 1
  | .ramp => 2
  | .acquire => 3
  | .up => 4

def committing (s : State) : Bool :=
  match s.fab.change with
  | some c => !c.isFence
  | none => false

def stageCode (s : State) : Nat := if committing s then 2 else if s.fab.staged.isSome then 1 else 0

def word16 (z : Int) : Nat := unsgn 16 z

/-- READY of FAB_PLAN_STAT: the active plan is agreed (R283). -/
def planReady (s : State) : Bool :=
  match s.fab.active with
  | none => false
  | some img => planAgreed s img

/-- FIRST and COUNT fields of a unit register; a VF reads FIRST relative to its own partition. -/
def unitField (f first count : Nat) (relative : Bool) : Nat := 64 * count + (if relative && !isPf f then 0 else first)

/-- The value that function f reads from a register. ID_CORES.HOLES holds the count modulo 64 where there are 64 holes or more, which
the field's 0 to 63 leaves open (DESIGN CHOICE, log 141). -/
def regValue (s : State) (f : Nat) (g : Reg) : Nat :=
  let fr := getFn s f
  match g with
  | .idModule => 0x0512 * 2 ^ 16 + variantField s.part.variant * 2 ^ 14 + b2n s.power.x8x8 * 2 ^ 13 + fnPort f * 2 ^ 12
  | .idStatus => b2n (s.power.ready && !s.power.resetting) * 2 ^ 31 + b2n (s.power.phase = .recovery) * 2 ^ 30 + s.power.slot * 2 ^ 29
      + b2n s.power.fallback * 2 ^ 28 + s.power.step * 2 ^ 24 + s.power.fault * 2 ^ 16 + s.power.cause * 2 ^ 8 + s.power.warmCount
  | .idIfver => 2 * 2 ^ 24 + curMinorOf s * 2 ^ 16 + 1 * 2 ^ 8 + prevMinorOf s
  | .idBlk0 => 0x11111111
  | .idBlk1 => 0x00111111
  | .idCap0 => 8 * 2 ^ 28 + 0x40 * 2 ^ 20 + 0x40 * 2 ^ 12 + 0x40 * 2 ^ 4
  | .idCap1 => 0x4000 * 2 ^ 17 + 0x100 * 2 ^ 8 + 7 * 2 ^ 4
  | .idCores => holeCount s * 2 ^ 26 + spareCount s * 2 ^ 20 + s.part.mappedOut.length * 2 ^ 15 + 544
  | .fnDrvif => b2n fr.accepted * 2 ^ 31 + b2n fr.refused * 2 ^ 30 + fr.drvMajor * 2 ^ 8 + fr.drvMinor
  | .fnStatus => (match ownedPart s f with
      | some p => 2 ^ 31 + p * 2 ^ 28
      | none => 0) + b2n fr.badAccess * 4 + b2n fr.foreign * 2 + b2n fr.lateWrite
  | .fnFlr => b2n fr.flrValid * 2 ^ 31 + b2n fr.flrNoPart * 2 ^ 30 + fr.flrPart * 2 ^ 27 + fr.flrOps
  | .fnHold => (getPort s (fnPort f)).holdMs
  | .fnFabOwner => b2n s.fabOwner.isSome * 2 ^ 31 + s.fabOwnerPart
  | .partCtl p => b2n (partEnabled s p) * 2 ^ 31 + (getPart s p).owner
  | .partStatus p =>
      let r := getPart s p
      (match r.state with
        | .disabled => 0
        | .enabling => 1
        | .enabled => 2
        | .disabling => 3) * 2 ^ 30 + b2n r.conflict * 2 ^ 29 + b2n s.dram.capacity * 2 ^ 28 + b2n r.held * 2 ^ 27 + r.cause
  | .partRings p => unitField f (getPart s p).ringFirst (getPart s p).ringCount true
  | .partORings p => unitField f (getPart s p).orFirst (getPart s p).orCount true
  | .partEvt p => unitField f (getPart s p).evFirst (getPart s p).evCount false
  | .partQuota p => (getPart s p).quota
  | .partTimeout p => (getPart s p).timeout
  | .partEvring p =>
      let r := getPart s p
      b2n r.evValid * 2 ^ 31 + (if isPf f then r.evRing else r.evRing - 16 * r.orFirst)
  | .partStatring p =>
      let r := getPart s p
      b2n r.stValid * 2 ^ 31 + (if isPf f then r.stRing else r.stRing - 16 * r.orFirst)
  | .seedLo p => (getPart s p).seed.toNat % 2 ^ 32
  | .seedHi p => (getPart s p).seed.toNat / 2 ^ 32
  | .partCores p w => field (getPart s p).cores.toNat (32 * w) 32
  | .qeWake => 0
  | .qeSweep => fr.sweep
  | .dbLo n =>
      let x := tget {} fr.pages n
      x.addr % 2 ^ 32 + b2n x.valid
  | .dbHi n => (tget {} fr.pages n).addr / 2 ^ 32
  | .oBaseLo o => (getORing s o).base % 2 ^ 32
  | .oBaseHi o => (getORing s o).base / 2 ^ 32
  | .oCfg o =>
      let x := getORing s o
      b2n x.enable * 2 ^ 31 + x.size * 2 ^ 26 + x.recsz * 2 ^ 24
  | .oDb o => (getORing s o).dbPage * 2 ^ 10 + (getORing s o).dbSlot
  | .rBaseLo r => (getRing s r).base % 2 ^ 32
  | .rBaseHi r => (getRing s r).base / 2 ^ 32
  | .rCfg r =>
      let x := getRing s r
      let out := if isPf f then x.cfgOut else match ownedPart s f with
        | some p => x.cfgOut - 16 * (getPart s p).orFirst
        | none => 0
      b2n x.enable * 2 ^ 31 + x.cfgSize * 2 ^ 26 + x.cfgTarget * 2 ^ 16 + out * 2 ^ 6
  | .rDb r => (getRing s r).dbPage * 2 ^ 10 + (getRing s r).dbSlot
  | .irqSum => (irqSum fr (isPf f)).toNat
  | .irqMask => fr.irqMask.toNat
  | .irqLevel2 o =>
      if o = 0x4002C then (if isPf f then groupBits fr 0x42000 4 0 9 else 0)
      else
        let v := if o < 0x40010 then level2 s f 0x41000 8 true
          else if o < 0x40018 then level2 s f 0x41200 8 true else level2 s f 0x41400 4 false
        if o % 8 = 0 then v % 2 ^ 32 else v / 2 ^ 32
  | .irqLeaf o => (tget 0#32 fr.leaves o).toNat
  | .regionCfg rid =>
      let r := getRegion s rid
      b2n (r.enable || r.state = 3) * 2 ^ 31 + r.state * 2 ^ 29 + r.regCls * 2 ^ 27 + r.regSize
  | .regionPda rid => (getRegion s rid).regBase
  | .regionSlot rid => (getRegion s rid).slot
  | .chStat l =>
      let c := getChannel s l
      c.state * 2 ^ 30 + c.phys * 2 ^ 24 + c.reserveFree * 2 ^ 12 + tget 0 s.dram.lanes (physOf s l) * 2 ^ 9
  | .chRows l =>
      let c := getChannel s l
      c.retired * 2 ^ 20 + spareMin s (physOf s l) * 2 ^ 13 + tget 0 s.dram.remaps (physOf s l)
  | .hxCfg => 0x00110000 + s.links.minWl
  | .hxPort n =>
      let x := getLink s n
      linkCode x.state * 2 ^ 29 + (if x.state = .up then x.version else 0) * 2 ^ 25 + layModes s n 2 * 2 ^ 17 + layModes s n 1 * 2 ^ 9 + b2n x.loop * 2 ^ 8 + x.replays
  | .modeThr => s.links.q16Up * 2 ^ 24 + s.links.q16Down * 2 ^ 16 + s.links.qpskUp * 2 ^ 8 + s.links.qpskDown
  | .xtThr => s.links.xt16 * 2 ^ 8 + s.links.xtOff
  | .laserStat i =>
      let x := getLaser s i
      x.role * 2 ^ 30 + b2n x.warm * 2 ^ 29 + b2n x.locked * 2 ^ 28 + word16 x.delta
  | .wlStat port w =>
      let x := getLane s port w
      laneMode s port w * 2 ^ 30 + b2n x.resweep * 2 ^ 29 + b2n x.retired * 2 ^ 28 + x.enob * 2 ^ 20 + x.xt * 2 ^ 12
  | .fabEpoch => s.fab.prevEpoch * 2 ^ 16 + s.fab.epoch
  | .planStat => stageCode s * 2 ^ 30 + b2n (planReady s) * 2 ^ 29 + b2n (match s.fab.change with
      | some c => c.draining
      | none => false) * 2 ^ 28 + b2n s.fab.prevKept * 2 ^ 27 + s.fab.missing.toNat * 2 ^ 12 + s.fab.extra.toNat
  | .fenceCnt => s.fab.fence.length
  | .fabDiscard => s.fab.discHdr * 2 ^ 24 + s.fab.discMsg * 2 ^ 16 + s.fab.discExp * 2 ^ 8 + s.fab.discRoute
  | .fabNbr port =>
      let x := tget {} s.fab.nbrs port
      b2n x.seen * 2 ^ 31 + b2n x.agreed * 2 ^ 30 + x.coord * 2 ^ 12 + x.port * 2 ^ 8 + x.hxver
  | .fenceList i => s.fab.fence.getD i 0
  | .plGrp p => 64 * (getPart s p).grpCount + (getPart s p).grpFirst
  | .plCtx p => ((s.pl.groups.filter (fun e => e.2.valid && groupInPart s p e.1)).map (fun e => e.2.quota)).sum * 2 ^ 16
      + (getPart s p).contexts
  | .plMc p => 64 * (getPart s p).mcCount + (getPart s p).mcFirst
  | .layBase p => (getPart s p).layBase
  | .layCfg p =>
      let r := getPart s p
      r.layState * 2 ^ 29 + r.layErrKind * 2 ^ 25 + r.layErrEntry * 2 ^ 13 + r.layCount * 2 ^ 7 + r.layFirst
  | .govCfg p => (getPart s p).ufLimit
  | .shardCfg p => (getPart s p).shCount * 2 ^ 6 + (getPart s p).shFirst
  | .cdRec p => (getPart s p).regRec
  | .cdRex p => (getPart s p).regRexSize * 2 ^ 20 + (getPart s p).regRexBase
  | .cdCfg p => b2n (getPart s p).cdEnable * 2 ^ 31 + (getPart s p).cdState * 2 ^ 29 + (getPart s p).cdEntries
  | .ktCap => effectiveCap s * 2 ^ 16 + s.kt.hostCap
  | .ktCtrl => b2n s.kt.det
  | .ktStat => s.kt.f * 2 ^ 24 + maxCodeOf s.part.variant * 2 ^ 21 + floorCodeOf s.part.variant * 2 ^ 18
      + b2n (s.kt.depth ≠ 0) * 2 ^ 17 + b2n s.kt.thermal * 2 ^ 16 + b2n (decide (floorLevel s < s.kt.f)) * 2 ^ 15
      + s.kt.converters * 2 ^ 12 + b2n (s.kt.depth = 2) * 2 ^ 11
  | .ktPin => s.kt.volts * 2 ^ 16 + s.kt.watts
  | .ktCore l =>
      (match corePhys s l with
      | none => 0x3FF * 2 ^ 22
      | some x => x * 2 ^ 22 + domainOf x * 2 ^ 17 + (getCore s l).code * 2 ^ 14 + fuseOf s x * 2 ^ 11)
  | .mbCtrl => b2n fr.mbGo * 2 ^ 31 + b2n fr.mbBusy * 2 ^ 30
  | .mbAsync =>
      (match fr.mbAsync with
      | [] => 0
      | n :: _ => 2 ^ 31 + n.code * 2 ^ 16 + n.arg) + b2n fr.mbOverflow * 2 ^ 30
  | .mbData i => (tget 0#32 fr.mbData i).toNat

/-- A read by function f at an offset of its BAR0. -/
def barRead (s : State) (f o : Nat) : Word32 :=
  match placeAt s f o with
  | .reg g => BitVec.ofNat 32 (regValue s f g)
  | _ => 0#32

/-- The register is the low word of a pair (R5). -/
def isLowWord (g : Reg) : Bool :=
  match g with
  | .seedLo _ => true
  | .dbLo _ => true
  | .oBaseLo _ => true
  | .rBaseLo _ => true
  | .irqLevel2 o => o % 8 = 0
  | .irqLeaf o => 0x41000 ≤ o && o < 0x41400 && o % 8 = 0
  | _ => false

end Sys2Proof.Machine
end

