-- ==== Sys2Proof/Machine/Regs.lean ====
section
/-! DEFINITION. Writing registers: width (R378), write authority (R379), partitions (R381), rings (R116, R123, R399), the
other registers with behaviour of their own, and the register rows of the table. -/

namespace Sys2Proof.Machine

open Sys2Proof

/-! ### Authority (R379) -/

inductive Auth where
  | ok
  | foreign
  | late
  deriving DecidableEq, Repr

def modAuth (s : State) (f : Nat) : Auth :=
  if !isPf f then .foreign else if anyPartEnabled s then .late else .ok

def portAuth (s : State) (f : Nat) : Auth :=
  if !isPf f then .foreign
  else if anyN 8 (fun p => partEnabled s p && fnPort (getPart s p).owner = fnPort f) then .late else .ok

def partResAuth (s : State) (f p : Nat) : Auth :=
  if !isPf f then .foreign
  else if !partEnabled s p then .ok
  else if fnPort (getPart s p).owner = fnPort f then .late else .foreign

/-- A submission ring of the partition holds work (R379). -/
def partBusy (s : State) (p : Nat) : Bool :=
  s.q.ops.any (fun o => o.part = p && o.phase ≠ .recordHeld)
    || s.q.rings.any (fun e => ringIn (getPart s p) e.1 && (!e.2.waiting.isEmpty || e.2.producer ≠ e.2.consumed))

def partSetAuth (s : State) (f p : Nat) : Auth :=
  if !partEnabled s p || (getPart s p).owner ≠ f then .foreign else if partBusy s p then .late else .ok

def ringAuth (s : State) (f r : Nat) (off : Bool) : Auth :=
  match ringPart s r with
  | some p => if (getPart s p).owner ≠ f then .foreign else if (getRing s r).enable && !off then .late else .ok
  | none => .foreign

def oringAuth (s : State) (f o : Nat) (off : Bool) : Auth :=
  match oringPart s o with
  | some p => if (getPart s p).owner ≠ f then .foreign else if (getORing s o).enable && !off then .late else .ok
  | none => .foreign

/-- Rings of the function are enabled: their doorbell slots lie in its pages. -/
def fnAuth (s : State) (f : Nat) : Auth :=
  match ownedPart s f with
  | some p => if (enabledRings s p).isEmpty && (enabledORings s p).isEmpty then .ok else .late
  | none => .ok

/-- Write under an authority: refused writes leave their mark in FN_STATUS. -/
def guarded (s : State) (f : Nat) (a : Auth) (g : State) : State :=
  match a with
  | .ok => g
  | .foreign => updFn s f (fun r => { r with foreign := true })
  | .late => updFn s f (fun r => { r with lateWrite := true })

/-! ### Partitions (R381) -/

/-- Some other enabled partition passes a test. -/
def otherPart (s : State) (p : Nat) (t : PartRegs → Bool) : Bool := anyN 8 (fun q => q ≠ p && partEnabled s q && t (getPart s q))

/-- The sum of a number over the enabled partitions and p. -/
def sumParts (s : State) (p : Nat) (g : PartRegs → Nat) : Nat := sumN 8 (fun q => if q = p || partEnabled s q then g (getPart s q) else 0)

/-- The first check of R381 that an enable of p by the PF f fails; 0 none. A function that a handover under way makes an
owner counts as one, so that it never owns two partitions (R111; DESIGN CHOICE, log 164). -/
def enableCause (s : State) (f p : Nat) : Nat :=
  let r := getPart s p
  if fnPort r.owner ≠ fnPort f || !fnExists s r.owner || (ownedPart s r.owner).isSome || handedTo s r.owner then 1
  else if s.dram.capacity then 2
  else if 64 < r.ringFirst + r.ringCount || 64 < r.orFirst + r.orCount || 64 < r.evFirst + r.evCount || 32 < r.shFirst + r.shCount
      || 64 < r.grpFirst + r.grpCount || 64 < r.mcFirst + r.mcCount then 3
  else if otherPart s p (fun x => decide (x.cores &&& r.cores ≠ 0#512)) then 4
  else if otherPart s p (fun x => overlap r.ringFirst r.ringCount x.ringFirst x.ringCount) then 5
  else if otherPart s p (fun x => overlap r.orFirst r.orCount x.orFirst x.orCount) then 6
  else if otherPart s p (fun x => overlap r.evFirst r.evCount x.evFirst x.evCount) then 7
  else if 16384 < sumParts s p (·.quota) then 8
  else if otherPart s p (fun x => overlap r.shFirst r.shCount x.shFirst x.shCount) then 9
  else if otherPart s p (fun x => overlap r.grpFirst r.grpCount x.grpFirst x.grpCount) || 256 < sumParts s p (·.contexts) then 10
  else if otherPart s p (fun x => overlap r.mcFirst r.mcCount x.mcFirst x.mcCount) then 11
  else if 65536 < sumParts s p (·.cdEntries) then 12
  else if !isPf r.owner && (32 < r.ringCount || 32 < r.orCount) then 13 else 0

/-- ENABLE = 1: enabled, or refused with its cause. (DESIGN CHOICE, log 54.) -/
def partEnable (s : State) (f p owner : Nat) : State :=
  let s1 := updPart s p (fun r => { r with owner })
  let c := enableCause s1 f p
  if c = 0 then updPart s1 p (fun r => { r with state := .enabled, conflict := false, cause := 0 })
  else updPart s1 p (fun r => { r with state := .disabled, conflict := true, cause := c })

/-- ENABLE = 0 of a region: disabled where it is enabled; a refused enable no longer reads back (R141). -/
def regionOff (s : State) (rid : Nat) : State :=
  if (getRegion s rid).enable then regionDisable s rid else setRegion s rid { getRegion s rid with state := 0 }

/-- ENABLE = 0 on an enabled partition: R132 steps 1 to 5, then its enables are cleared (R381). -/
def partDisable (s0 : State) (p : Nat) : State :=
  let s := handFail p s0
  let n := endedOps s p
  let s1 := flrReport (wipePart s p) (getPart s p).owner (some p) n
  let r := getPart s1 p
  let s2 := mapORings (mapRings s1 r (fun x => { x with enable := false, state := 0 })) r (fun x => { x with enable := false })
  let s3 := forN 64 (fun i t => regionOff t (64 * p + i)) s2
  updPart s3 p (fun r => { r with state := .disabled, held := false, cdEnable := false, cdState := 0 })

/-- FN_PART_CTL. -/
def writePartCtl (s : State) (f p v : Nat) : State :=
  let en := bit v 31
  if !partEnabled s p then
    guarded s f (partResAuth s f p) (if en then partEnable s f p (field v 0 4) else updPart s p (fun r => { r with owner := field v 0 4 }))
  else if isPf f && fnPort (getPart s p).owner = fnPort f then
    (if en then updFn s f (fun r => { r with lateWrite := true }) else partDisable s p)
  else updFn s f (fun r => { r with foreign := true })

/-! ### Rings (R116, R120, R123, R399) -/

/-- A doorbell slot is named by another enabled ring of the partition. -/
def slotTaken (s : State) (p page slot : Nat) (ring oring : Option Nat) : Bool :=
  (enabledRings s p).any (fun e => some e.1 ≠ ring && e.2.dbPage = page && e.2.dbSlot = slot)
    || (enabledORings s p).any (fun e => some e.1 ≠ oring && e.2.dbPage = page && e.2.dbSlot = slot)

/-- The checks of a submission ring's enable (R116). -/
def ringChecks (s : State) (f p ring : Nat) : Bool :=
  let r := getRing s ring
  let o := getORing s r.outRing
  6 ≤ r.size && r.size ≤ 16 && (r.target < 512 || r.target = netTarget)
    && oringPart s r.outRing = some p && o.enable && o.recsz = 0
    && (tget {} (getFn s f).pages r.dbPage).valid && !slotTaken s p r.dbPage r.dbSlot (some ring) none

/-- Enable a submission ring, or report ERROR 3. SIZE, TARGET and OUTRING come into force as they were last written, and
no slot counts as ready until a sweep has read the ring's producer index again (R116; DEDUCED, log 165). -/
def ringStart (s : State) (f p ring : Nat) : State :=
  let s1 := updRing s ring (fun r => { r with size := r.cfgSize, target := r.cfgTarget, outRing := r.cfgOut })
  if ringChecks s1 f p ring then
    ringStatus (updRing s1 ring (fun r => { r with enable := true, state := 1, error := 0, producer := r.consumed })) ring
  else ringStatus (updRing s1 ring (fun r => { r with error := 3 })) ring

/-- Fetched descriptors that were not dispatched complete ABORTED_RESET (R399). -/
def abortWaiting (p ring : Nat) (fs : List Fetched) (s : State) : State :=
  fs.foldl (fun t f => completeUndispatched t p ring f.pos f.bytes (evtsOk t p f.bytes) stAborted 1) s

/-- ENABLE = 0: fetch stops at once (R399). -/
def ringStop (s : State) (p ring : Nat) : State :=
  let fs := (getRing s ring).waiting
  abortWaiting p ring fs (ringStatus (updRing s ring (fun r => { r with enable := false, state := 0, waiting := [] })) ring)

/-- QE_RING_CFG. An ENABLE of 1 is ignored before negotiation and before Ready. SIZE, TARGET and OUTRING are stored, also
by the write of 0 that stops an enabled ring, whose operations still complete by the values in force (R6, R379, R399;
DEDUCED, log 138). -/
def writeRingCfg (s : State) (f ring v : Nat) : State :=
  let en := bit v 31
  guarded s f (ringAuth s f ring (!en))
    (if en && !((getFn s f).accepted && s.power.ready && !s.power.resetting) then s
     else match ringPart s ring with
      | none => s
      | some p =>
        let base := if isPf f then 0 else 16 * (getPart s p).orFirst
        let s1 := updRing s ring (fun r => { r with cfgSize := field v 26 5, cfgTarget := field v 16 10, cfgOut := base + field v 6 10 })
        if (getRing s ring).enable then ringStop s1 p ring
        else if en then ringStart s1 f p ring else s1)

/-- The record size an output ring's role asks for (R123, QE_ORING_CFG). -/
def oringWants (r : PartRegs) (o : Nat) : Nat :=
  if r.evValid && r.evRing = o then 1 else if r.stValid && r.stRing = o then 2 else 0

/-- The checks of an output ring's enable. -/
def oringChecks (s : State) (f p o : Nat) : Bool :=
  let x := getORing s o
  6 ≤ x.size && x.size ≤ 16 && x.recsz = oringWants (getPart s p) o
    && (tget {} (getFn s f).pages x.dbPage).valid && !slotTaken s p x.dbPage x.dbSlot none (some o)

/-- QE_ORING_CFG. If its checks fail, ENABLE reads back 0. -/
def writeORingCfg (s : State) (f o v : Nat) : State :=
  let en := bit v 31
  guarded s f (oringAuth s f o (!en))
    (match oringPart s o with
      | none => s
      | some p =>
        let s1 := updORing s o (fun x => { x with size := field v 26 5, recsz := field v 24 2, enable := false })
        if en && oringChecks s1 f p o then updORing s1 o (fun x => { x with enable := true }) else s1)

/-! ### Caddy enable (R183) -/

/-- The enable of a Caddy is refused. -/
def caddyRefused (s : State) (p : Nat) : Bool :=
  let r := getPart s p
  let m := 2 ^ 20
  r.cdEntries = 0 || !inClass s p (r.regRec * m) (8192 * r.cdEntries) 0
    || (r.regRexSize ≠ 0 && !inClass s p (r.regRexBase * m) (r.regRexSize * m) 2)
    || 65536 < sumN 8 (fun q => if q = p || (getPart s q).cdState = 1 then (getPart s q).cdEntries else 0)

/-- Free every stash entry of a partition (R183, R132 step 4). -/
def freeStashes (s : State) (p : Nat) : State :=
  (s.tr.stash.filter (fun e => e.1 / 2 ^ 32 = p)).foldl (fun t e => dropStash t p (e.1 % 2 ^ 32)) s

/-- CD_PART_CFG.ENABLE. An enable that is not refused puts CD_PART_REC and CD_PART_REX in force. -/
def writeCaddy (s : State) (p : Nat) (en : Bool) : State :=
  let was := (getPart s p).cdEnable
  if en && !was then
    (if caddyRefused s p then updPart s p (fun r => { r with cdEnable := true, cdState := 2 })
     else updPart s p (fun r => { r with cdEnable := true, cdState := 1, recBase := r.regRec, rexBase := r.regRexBase, rexSize := r.regRexSize }))
  else if !en && was then updPart (freeStashes s p) p (fun r => { r with cdEnable := false, cdState := 0 })
  else s

/-! ### Function registers -/

/-- FN_DRVIF: only the first write counts (R6, R131). Of a refused MAJOR the MINOR reads back as written (DESIGN CHOICE,
log 140). -/
def negotiate (s : State) (f v : Nat) : State :=
  if (getFn s f).drvWritten then s else
  let major := field v 8 8
  let minor := field v 0 8
  let top := if major = 2 then curMinorOf s else prevMinorOf s
  let known := major = 2 || major = 1
  updFn s f (fun r => { r with drvWritten := true, drvMajor := major, drvMinor := if known then min minor top else minor,
                               accepted := known, refused := !known })

/-- Clear RW1C leaf bits, or write the mask; both are interrupt writes (R128). -/
def clearLeaf (s : State) (f o : Nat) (v : Word32) : State :=
  updFn s f (fun r => settleIrq (isPf f) true { r with leaves := tset 0#32 o (tget 0#32 r.leaves o &&& ~~~v) r.leaves })

def writeMask (s : State) (f : Nat) (v : Word32) : State :=
  updFn s f (fun r => settleIrq (isPf f) true { r with irqMask := v &&& 0x7F#32 })

/-- DBX_MB_ASYNC: a removal lets the next notice appear, which sets ASYNC again (R382). -/
def writeAsync (s : State) (f v : Nat) : State :=
  let l := (getFn s f).mbAsync
  let s1 := updFn s f (fun r => { r with mbAsync := if bit v 31 then r.mbAsync.drop 1 else r.mbAsync
                                         mbOverflow := r.mbOverflow && !bit v 30 })
  if bit v 31 && !(l.drop 1).isEmpty then setLeaf s1 f 0x40024 2 else s1

/-- DET on or off: f is pinned at the floor, a held level too. Where the limiter skips as it is turned on, that is a
breach (R331). (DEDUCED, log 107.) -/
def writeDet (s : State) (on : Bool) : State :=
  let s1 := { s with kt := { s.kt with det := on, f := if on then floorLevel s else s.kt.f
                                       heldF := if on then s.kt.heldF.map (fun _ => floorLevel s) else s.kt.heldF } }
  if on && !s.kt.det && s.kt.depth ≠ 0 then raiseBreach s1 else s1

/-- The pages that a value of QE_WAKE names (R122). -/
def wakePages (v : Nat) : Nat := if field v 0 8 = 0 then 0xFF else field v 0 8

/-- Set a field of an address pair. -/
def putLow (old v : Nat) : Nat := old / 2 ^ 32 * 2 ^ 32 + (v / 2 ^ 12 * 2 ^ 12) % 2 ^ 32
def putHigh (old v : Nat) : Nat := v * 2 ^ 32 + old % 2 ^ 32

/-- Replace word w of a core mask. -/
def putCores (c : BitVec 512) (w v : Nat) : BitVec 512 := BitVec.ofNat 512 (putField c.toNat (32 * w) 32 v)

/-- A ring that FN_PART_EVRING or FN_PART_STATRING may name. -/
def namedORing (s : State) (f p v : Nat) : Nat := (if isPf f then 0 else 16 * (getPart s p).orFirst) + field v 0 10

/-- FN_PART_EVRING and FN_PART_STATRING: a ring of another partition makes the write FOREIGN, and so does VALID = 1 for
a ring that is not the partition's. -/
def writeNamedRing (s : State) (f p v : Nat) (set : Bool → Nat → PartRegs → PartRegs) : State :=
  let o := namedORing s f p v
  let own := oringPart s o = some p
  let a := partSetAuth s f p
  guarded s f (if a = .ok && !own && (bit v 31 || (oringPart s o).isSome) then .foreign else a) (updPart s p (set (bit v 31) o))

/-- WV_REGION_CFG: CLASS and SIZE are stored; ENABLE enables a region that is off, or disables one (R141). -/
def writeRegionCfg (s : State) (rid v : Nat) : State :=
  let s1 := setRegion s rid { getRegion s rid with regCls := field v 27 2, regSize := field v 0 15 }
  if bit v 31 then (if (getRegion s rid).enable then s1 else regionEnable s1 rid)
  else regionOff s1 rid

/-- The authority over a word that holds fields of two classes: that of the class the function may write; else in the
wrong state, where one class is only late. -/
def wordAuth (a b : Auth) : Auth := if a = .ok || b = .ok then .ok else if a = .late || b = .late then .late else .foreign

/-- A field of a word of two classes counts as written when its value changes; a word over which the function has no
authority at all leaves its mark in any case (DEDUCED, log 48). -/
def changed (s : State) (f : Nat) (same : Bool) (a word : Auth) (g : State) : State :=
  if same then guarded s f word s else guarded s f a g

/-- A register of the set-up of rings. -/
def ringSetup (g : Reg) : Bool :=
  match g with
  | .oBaseLo _ | .oBaseHi _ | .oCfg _ | .oDb _ | .rBaseLo _ | .rBaseHi _ | .rCfg _ | .rDb _ => true
  | _ => false

/-- A function whose driver was refused has no set-up of rings (R131). -/
def refusedFn (s : State) (f : Nat) : Bool := (getFn s f).refused && !(getFn s f).accepted

/-- A whole-word write of function f to a register (R379). (DEDUCED, log 48.) (DEDUCED, log 52.) -/
def writeReg (s : State) (f : Nat) (g : Reg) (w : Word32) (mem : MemIn) : State :=
  let v := w.toNat
  if ringSetup g && refusedFn s f then s else
  match g with
  | .qeWake => sweep s {} f (wakePages v)
  | .fnDrvif => guarded s f (fnAuth s f) (negotiate s f v)
  | .fnStatus => updFn s f (fun r => { r with badAccess := r.badAccess && !bit v 2, foreign := r.foreign && !bit v 1,
                                              lateWrite := r.lateWrite && !bit v 0 })
  | .fnHold => guarded s f (portAuth s f) (updPort s (fnPort f) (fun r => { r with holdMs := field v 0 14 }))
  | .fnFabOwner => guarded s f (modAuth s f)
      { s with fabOwner := if bit v 31 then some (field v 0 3) else none, fabOwnerPart := field v 0 3 }
  | .partCtl p => writePartCtl s f p v
  | .partRings p => guarded s f (partResAuth s f p) (updPart s p (fun r => { r with ringCount := field v 6 7, ringFirst := field v 0 6 }))
  | .partORings p => guarded s f (partResAuth s f p) (updPart s p (fun r => { r with orCount := field v 6 7, orFirst := field v 0 6 }))
  | .partEvt p => guarded s f (partResAuth s f p) (updPart s p (fun r => { r with evCount := field v 6 7, evFirst := field v 0 6 }))
  | .partQuota p => guarded s f (partResAuth s f p) (updPart s p (fun r => { r with quota := field v 0 15 }))
  | .partCores p i => guarded s f (partResAuth s f p) (updPart s p (fun r => { r with cores := putCores r.cores i v }))
  | .partTimeout p => guarded s f (partSetAuth s f p)
      (let c := field v 0 8; if c = 0 || timeoutBad c then s else updPart s p (fun r => { r with timeout := c }))
  | .partEvring p => writeNamedRing s f p v (fun ok o r => { r with evValid := ok, evRing := o })
  | .partStatring p => writeNamedRing s f p v (fun ok o r => { r with stValid := ok, stRing := o })
  | .seedLo p => guarded s f (partSetAuth s f p)
      (updPart s p (fun r => { r with seed := BitVec.ofNat 64 (r.seed.toNat / 2 ^ 32 * 2 ^ 32 + v) }))
  | .seedHi p => guarded s f (partSetAuth s f p) (updPart s p (fun r => { r with seed := BitVec.ofNat 64 (putHigh r.seed.toNat v) }))
  | .qeSweep => guarded s f (fnAuth s f)
      (let i := field v 0 6; if i = 0 || 32 < i then s else updFn s f (fun r => { r with sweep := i }))
  | .dbLo n => guarded s f (fnAuth s f) (updFn s f (fun r =>
      let x := tget {} r.pages n
      { r with pages := tset {} n { x with valid := bit v 0, addr := putLow x.addr v } r.pages }))
  | .dbHi n => guarded s f (fnAuth s f) (updFn s f (fun r =>
      let x := tget {} r.pages n
      { r with pages := tset {} n { x with addr := putHigh x.addr v } r.pages }))
  | .oBaseLo o => guarded s f (oringAuth s f o false) (updORing s o (fun x => { x with base := putLow x.base v }))
  | .oBaseHi o => guarded s f (oringAuth s f o false) (updORing s o (fun x => { x with base := putHigh x.base v }))
  | .oCfg o => writeORingCfg s f o v
  | .oDb o => guarded s f (oringAuth s f o false) (updORing s o (fun x => { x with dbPage := field v 10 3, dbSlot := field v 0 10 }))
  | .rBaseLo r => guarded s f (ringAuth s f r false) (updRing s r (fun x => { x with base := putLow x.base v }))
  | .rBaseHi r => guarded s f (ringAuth s f r false) (updRing s r (fun x => { x with base := putHigh x.base v }))
  | .rCfg r => writeRingCfg s f r v
  | .rDb r => guarded s f (ringAuth s f r false) (updRing s r (fun x => { x with dbPage := field v 10 3, dbSlot := field v 0 10 }))
  | .irqMask => writeMask s f w
  | .irqLeaf o => clearLeaf s f o w
  | .regionCfg rid => guarded s f (partSetAuth s f (rid / 64))
      (writeRegionCfg s rid v)
  | .regionPda rid => guarded s f (partSetAuth s f (rid / 64))
      (setRegion s rid { getRegion s rid with regBase := field v 0 16 })
  | .hxCfg => guarded s f (modAuth s f)
      (let m := field v 0 4; if m < 4 || 8 < m then s else { s with links := { s.links with minWl := m } })
  | .modeThr => guarded s f (modAuth s f)
      (let a := field v 24 8; let b := field v 16 8; let c := field v 8 8; let d := field v 0 8
       if b < a && c ≤ b && d < c then { s with links := { s.links with q16Up := a, q16Down := b, qpskUp := c, qpskDown := d } } else s)
  | .xtThr => guarded s f (modAuth s f)
      (let a := field v 8 8; let b := field v 0 8; if b < a then { s with links := { s.links with xt16 := a, xtOff := b } } else s)
  | .plGrp p => guarded s f (partResAuth s f p) (updPart s p (fun r => { r with grpCount := field v 6 7, grpFirst := field v 0 6 }))
  | .plCtx p => guarded s f (partResAuth s f p) (updPart s p (fun r => { r with contexts := field v 0 9 }))
  | .plMc p => guarded s f (partResAuth s f p) (updPart s p (fun r => { r with mcCount := field v 6 7, mcFirst := field v 0 6 }))
  | .layBase p => guarded s f (partSetAuth s f p) (updPart s p (fun r => { r with layBase := field v 0 20 }))
  | .layCfg p =>
      let r := getPart s p
      let s1 := changed s f (r.layCount = field v 7 6 && r.layFirst = field v 0 6) (partResAuth s f p)
        (wordAuth (partResAuth s f p) (partSetAuth s f p)) (updPart s p (fun r => { r with layCount := field v 7 6, layFirst := field v 0 6 }))
      if bit v 31 then guarded s1 f (partSetAuth s1 f p) (layerLoad s1 p mem) else s1
  | .govCfg p => guarded s f (partSetAuth s f p) (updPart s p (fun r => { r with ufLimit := field v 0 20 }))
  | .shardCfg p => guarded s f (partResAuth s f p) (updPart s p (fun r => { r with shCount := field v 6 6, shFirst := field v 0 5 }))
  | .cdRec p => guarded s f (partSetAuth s f p)
      (updPart s p (fun r => { r with regRec := field v 0 20 }))
  | .cdRex p => guarded s f (partSetAuth s f p)
      (updPart s p (fun r => { r with regRexSize := field v 20 12, regRexBase := field v 0 20 }))
  | .cdCfg p =>
      let r := getPart s p
      let a := wordAuth (partResAuth s f p) (partSetAuth s f p)
      let s1 := changed s f (r.cdEntries = field v 0 17) (partResAuth s f p) a (updPart s p (fun r => { r with cdEntries := field v 0 17 }))
      changed s1 f (r.cdEnable = bit v 31) (partSetAuth s1 f p) a (writeCaddy s1 p (bit v 31))
  | .ktCap => guarded s f (modAuth s f) (let c := field v 0 16; if c < 100 then s else { s with kt := { s.kt with hostCap := c } })
  | .ktCtrl => guarded s f (modAuth s f) (writeDet s (bit v 0))
  | .mbCtrl => updFn s f (fun r => if bit v 31 && !r.mbBusy then { r with mbGo := true, mbBusy := true } else r)
  | .mbAsync => writeAsync s f v
  | .mbData i => updFn s f (fun r => if r.mbBusy then r else { r with mbData := tset 0#32 i w r.mbData })
  | _ => s

/-- The function takes BAR0 accesses: it exists, is in D0, its port is up, and the ports are released (R109, R110, R338). -/
def fnAnswers (s : State) (f : Nat) : Bool :=
  fnExists s f && !(getFn s f).d3hot && (getPort s (fnPort f)).up && portsOut s

/-- A register row: the write reaches the register if the function takes it. -/
def regRow (s : State) (f : Nat) (g : Reg) (w : Word32) (mem : MemIn) : Out :=
  .next (if fnAnswers s f then writeReg s f g w mem else s)

/-! ### The register rows -/

/-- REGISTER_WRITE (R377 to R379, R385): a write that does not cover one aligned word is discarded; offsets that hold no
register discard it. -/
def execRegisterWrite (fn offset : Nat) (enables : BitVec 4) (value : Word32) (s : State) : Out :=
  if !fnAnswers s fn then .next s
  else if enables ≠ 0xF#4 || offset % 4 ≠ 0 then .next (updFn s fn (fun r => { r with badAccess := true }))
  else match placeAt s fn offset with
    | .reg g => .next (writeReg s fn g value {})
    | .noPart => .next (updFn s fn (fun r => { r with foreign := true }))
    | .none => .next s

/-- RING_ENABLE: a write of QE_RING_CFG with ENABLE = 1; another value is not this row. -/
def execRingEnable (fn ring : Nat) (value : Word32) (s : State) : Out :=
  if value.getLsbD 31 then regRow s fn (.rCfg ring) value {} else .next s
/-- RING_DISABLE: a write of QE_RING_CFG with ENABLE = 0. -/
def execRingDisable (fn ring : Nat) (value : Word32) (s : State) : Out :=
  if value.getLsbD 31 then .next s else regRow s fn (.rCfg ring) value {}
/-- ORING_ENABLE. -/
def execOringEnable (fn oring : Nat) (value : Word32) (s : State) : Out :=
  if value.getLsbD 31 then regRow s fn (.oCfg oring) value {} else .next s
/-- ORING_DISABLE. -/
def execOringDisable (fn oring : Nat) (value : Word32) (s : State) : Out :=
  if value.getLsbD 31 then .next s else regRow s fn (.oCfg oring) value {}
/-- DRIVER_NEGOTIATE. -/
def execDriverNegotiate (fn : Nat) (value : Word32) (s : State) : Out := regRow s fn .fnDrvif value {}
/-- PARTITION_ENABLE: a write of FN_PART_CTL with ENABLE = 1. -/
def execPartitionEnable (fn p : Nat) (value : Word32) (s : State) : Out :=
  if value.getLsbD 31 && decide (p < 8) then regRow s fn (.partCtl p) value {} else .next s
/-- PARTITION_DISABLE: a write of FN_PART_CTL with ENABLE = 0. -/
def execPartitionDisable (fn p : Nat) (value : Word32) (s : State) : Out :=
  if value.getLsbD 31 || decide (8 ≤ p) then .next s else regRow s fn (.partCtl p) value {}
/-- REGION_ENABLE. -/
def execRegionEnable (fn rid : Nat) (value : Word32) (s : State) : Out :=
  if value.getLsbD 31 && decide (rid < 512) then regRow s fn (.regionCfg rid) value {} else .next s
/-- REGION_DISABLE. -/
def execRegionDisable (fn rid : Nat) (value : Word32) (s : State) : Out :=
  if value.getLsbD 31 || decide (512 ≤ rid) then .next s else regRow s fn (.regionCfg rid) value {}
/-- REGION_INIT_DONE: an initialising region becomes Ready (R141). -/
def execRegionInitDone (rid : Nat) (s : State) : Out :=
  let r := getRegion s rid
  .next (if r.enable && r.state = 1 then setRegion s rid { r with state := 2 } else s)
/-- LAYER_TABLE_LOAD. -/
def execLayerTableLoad (fn p : Nat) (value : Word32) (mem : MemIn) (s : State) : Out :=
  if value.getLsbD 31 && decide (p < 8) then regRow s fn (.layCfg p) value mem else .next s
/-- CADDY_ENABLE. -/
def execCaddyEnable (fn p : Nat) (value : Word32) (s : State) : Out :=
  if value.getLsbD 31 && decide (p < 8) then regRow s fn (.cdCfg p) value {} else .next s
/-- CADDY_DISABLE. -/
def execCaddyDisable (fn p : Nat) (value : Word32) (s : State) : Out :=
  if value.getLsbD 31 || decide (8 ≤ p) then .next s else regRow s fn (.cdCfg p) value {}
/-- DET_MODE_WRITE. -/
def execDetModeWrite (fn : Nat) (value : Word32) (s : State) : Out := regRow s fn .ktCtrl value {}
/-- MB_ASYNC_REMOVE. -/
def execMbAsyncRemove (fn : Nat) (value : Word32) (s : State) : Out := regRow s fn .mbAsync value {}
/-- IRQ_LEAF_CLEAR: `offset` is the leaf's offset in the function's own BAR0; another offset is not this row. -/
def execIrqLeafClear (fn offset : Nat) (value : Word32) (s : State) : Out :=
  match placeAt s fn offset with
  | .reg (.irqLeaf o) => regRow s fn (.irqLeaf o) value {}
  | _ => .next s
/-- IRQ_MASK_WRITE. -/
def execIrqMaskWrite (fn : Nat) (value : Word32) (s : State) : Out := regRow s fn .irqMask value {}
/-- QE_WAKE: the named pages, or every page, are swept (R122). -/
def execQeWake (fn : Nat) (value : Word32) (host : HostIn) (s0 : State) : Out :=
  let s := hostStores s0 host
  .next (if fnAnswers s fn then sweep s host fn (wakePages value.toNat) else s)

/-- A read of one register word: the value, and the pair's high word latched where it is the low word of one; a latched
high word is returned once (R5). (DESIGN CHOICE, log 3.) -/
def readWord (s : State) (fn offset : Nat) : State × Word32 :=
  let v := (tget none (getFn s fn).latch offset).getD (barRead s fn offset)
  let low := match placeAt s fn offset with
    | .reg g => isLowWord g
    | _ => false
  (updFn s fn (fun r => { r with
    latch := (if low then tset none (offset + 4) (some (barRead s fn (offset + 4))) r.latch else tset none offset none r.latch) }), v)

/-- The words from a word offset upward, lowest first. -/
def readWords (fn : Nat) : Nat → Nat → State → State × Bytes
  | 0, _, s => (s, [])
  | n + 1, offset, s =>
    let (s1, v) := readWord s fn offset
    let (s2, b) := readWords fn n (offset + 4) s1
    (s2, leBytes 4 v.toNat ++ b)

/-- LOW_WORD_READ: an aligned word, or the addressed bytes of the words that contain them (R5, R378). -/
def execLowWordRead (fn : Nat) (at_ : BarSpan) (s : State) : Out :=
  if !fnAnswers s fn then .next { s with lastRead := .unsupported }
  else if at_.offset % 4 = 0 && at_.len = 4 then
    let (s1, v) := readWord s fn at_.offset
    .next { s1 with lastRead := .word v }
  else
    let first := at_.offset / 4
    let (s1, b) := readWords fn (cdiv (at_.offset + at_.len) 4 - first) (4 * first) s
    .next { s1 with lastRead := .bytes ((b.drop (at_.offset % 4)).take at_.len) false }

end Sys2Proof.Machine
end

