-- ==== Sys2Proof/Machine/Bar2.lean ====
section
/-! DEFINITION. The BAR2 aperture (R114, R115, R140, R178). -/

namespace Sys2Proof.Machine

open Sys2Proof

/-- The partition that a BAR2 access reaches: the function owns it, and every byte lies in an enabled Ready region
below the partition size and the function's aperture (R114, R140). -/
def bar2Part (s : State) (f addr len : Nat) : Option Nat :=
  if !fnAnswers s f then none else
  match ownedPart s f with
  | some p => if addr + len ≤ partSize s p && addr + len ≤ 2 ^ (30 + (getFn s f).bar2) && covered s p addr len then some p else none
  | none => none

/-- Some byte lies in a view whose slot holds no version (R179). -/
def viewEmpty (s : State) (p addr len : Nat) : Bool :=
  (viewsHit s p addr len).any (fun x => (slotVersion (getVer s x.1) (viewSlot s [] x.1 x.2.1)).isNone)

/-- A BAR2 access that completes as Unsupported Request; the function's AER status notes it. -/
def bar2Refused (s : State) (fn : Nat) : State := noteAer { s with lastRead := .unsupported } fn aerUnsupported

/-- BAR2_READ: data with its EP bit, or Unsupported Request. A read of a view whose slot holds no version waits, and is
answered in a later step that finds no command waiting (R179; DESIGN CHOICE, log 46). -/
def bar2Read (s : State) (fn addr len : Nat) (mem : MemIn) : State :=
  match bar2Part s fn addr len with
  | none => bar2Refused s fn
  | some p =>
    if viewEmpty s p addr len then { s with reads := s.reads ++ [(fn, addr, len)] }
    else
      let c : ExecCtx := { part := p, mem }
      let (s1, bad) := checkRange s c false addr len
      { s1 with lastRead := .bytes (devBytes s1 c false addr len) bad.isSome }

def execBar2Read (fn addr len : Nat) (mem : MemIn) (s : State) : Out := .next (bar2Read (dramUpsets s mem) fn addr len mem)

/-- The waiting reads are tried again, in their order. -/
def readsFinish (s : State) : State := s.reads.foldl (fun t r => bar2Read t r.1 r.2.1 r.2.2 {}) { s with reads := [] }

/-- The slot ranges of p's versioned layers. -/
def slotSpans (s : State) (p : Nat) : List (Nat × Nat) :=
  s.tr.layers.flatMap (fun e =>
    let l := e.2
    if l.valid && l.versioned && layerHeld s p e.1 then [(l.slot0, l.len), (l.slot1, l.len)] else [])

/-- BAR2_WRITE: bytes of slot ranges are discarded, the others written; a write that reaches no partition completes as
Unsupported Request. -/
def execBar2Write (fn addr : Nat) (w : Bar2Data) (s0 : State) : Out :=
  let s := dramUpsets s0 w.mem
  .next (match bar2Part s fn addr w.bytes.length with
    | none => noteAer s fn aerUnsupported
    | some p => (cutAll [(addr, w.bytes.length)] (slotSpans s p)).foldl
        (fun t x => devWrite t { part := p, mem := w.mem } false x.1 ((w.bytes.drop (x.1 - addr)).take x.2)) s)

end Sys2Proof.Machine
end

