-- ==== Sys2Proof/Machine/CoreFault.lean ====
section
/-! DEFINITION. Late core failures and SRAM errors (03): stopping a core, binding a spare and re-running its replay
window (R69 to R72). -/

namespace Sys2Proof.Machine

open Sys2Proof

/-- Step 1 of R70: dispatch to the core stops; its operations end without completions, to be executed again. -/
def stopCore (s : State) (core : Nat) : State :=
  let s1 := updCore s core (fun c => { c with stopped := true })
  { s1 with q := { s1.q with ops := s1.q.ops.map (fun o =>
      if o.core = core && decide (o.phase ≠ .recordHeld) then { o with phase := .stopped } else o) } }

/-- A bound core that serves. -/
def coreServes (s : State) (core : Nat) : Bool := (corePhys s core).isSome && !(getCore s core).stopped

/-- CORE_ACK_TIMEOUT: no acknowledgement within 10 µs is a failure detected. -/
def execCoreAckTimeout (core : Nat) (s : State) : Out := .next (if coreServes s core then stopCore s core else s)

/-- CORE_FAILURE. -/
def execCoreFailure (core : Nat) (s : State) : Out := .next (if coreServes s core then stopCore s core else s)

/-- Management descriptors and a stash's puts and frees are not re-run (R70): they write no SRAM, or only a
TIMESTAMP's. A STASH_GET that meets a persistent mismatch is not re-executed by its re-run, which fails (R71; DESIGN CHOICE,
log 170). -/
def rerunOne (s : State) (core : Nat) (env : Env) (w : WinEntry) : State × Bool :=
  let c : ExecCtx := { part := w.part, latches := w.latches, mem := env.mem, only := some core }
  let d := w.desc
  if !w.latches.all (latchHolds s) then (s, false)
  else if dBase d = 0x0003 then
    if tsHost d then (s, true)
    else
      let r := refAt d 0x10
      (devWrite s c r.sram r.addr (leBytes 8 w.tick.toNat), true)
  else if dBase d = 0x6181 then
    (match getStash s w.part (fld d 0x18 4) with
    | none => (s, false)
    | some e =>
      match stashDecode s { part := w.part, mem := env.mem } e with
      | (s1, none, xs) => (getWrite s1 c d e xs, true)
      | (s1, some _, _) => (s1, false))
  else if dClass d = 0 || dClass d = 6 then (s, true)
  else
    let x := runDesc s c env.host d
    (x.s, x.fail.isNone)

/-- The descriptor wrote the core's SRAM. A STASH_GET's is told by its references alone: its entry may be gone, and its
re-run then fails (R71, R191). -/
def wroteSram (s : State) (core : Nat) (w : WinEntry) : Bool :=
  let here (r : Ref) : Bool := r.sram && decide (r.core = core)
  if dBase w.desc = 0x6181 then here (refAt w.desc 0x10) || (hasPlane (refAt w.desc 0x10).fmt && here (planeRef w.desc 0))
  else (outExts (usesOf s w.part w.desc)).any (fun e => e.sram && e.base / 2 ^ 21 = core)

/-- Step 3 of R70: the window's successful descriptors that wrote the SRAM run again in dispatch order; the Bool says
that none failed. -/
def rerunAll (core : Nat) (env : Env) : List WinEntry → State → State × Bool
  | [], s => (s, true)
  | w :: t, s =>
    let done := w.status = some stOk || w.status = some stDegraded
    if !done || !wroteSram s core w then rerunAll core env t s
    else match rerunOne s core env w with
      | (s1, true) => rerunAll core env t s1
      | (s1, false) => (s1, false)

/-- Steps 3 and 4: the SRAM is rebuilt, or not trusted (R71); the operations that were stopped run again. (DEDUCED, log 110.) -/
def replayCore (s : State) (core : Nat) (env : Env) : State :=
  let w := getWindow s core
  let (s1, ok) := if w.replayable then rerunAll core env w.entries s else (s, false)
  let s2 := if ok then s1 else updWindow s1 core (fun w => { w with untrusted := true })
  let s3 := updCore s2 core (fun c => { c with stopped := false })
  { s3 with q := { s3.q with ops := s3.q.ops.map (fun o =>
      if o.core = core && decide (o.phase = .stopped) then { o with phase := .running } else o) } }

def clearSram (s : State) (core : Nat) : State :=
  { s with cores := { s.cores with sram := s.cores.sram.filter (fun e => e.1 / 2 ^ 21 ≠ core) } }

/-- A rebinding counts a late failure of the failed core (R348), and the map is recorded. -/
def recordFailure (s : State) (phys : Nat) : State :=
  queueRecord (queueRecord s (.lateFailure phys (lateCount s phys + 1))) (.coreMap s.cores.map)

/-- No spare: the number becomes a hole, and the map is recorded; operations of the core complete NO_RESOURCE (R71). Nothing
is rebound, so no late failure is counted (R348). -/
def makeHole (s : State) (core phys : Nat) : State :=
  let s1 := { s with cores := { s.cores with map := tset none core none s.cores.map, good := s.cores.good.filter (fun x => x ≠ phys) } }
  let s2 := raiseMod (queueRecord s1 (.coreMap s1.cores.map)) 0x0905 (leBytes 2 core ++ leBytes 2 phys)
  let s3 := (s2.q.ops.filter (fun o => o.core = core && decide (o.phase ≠ .recordHeld))).foldl (fun t o => match findOp t o.id with
    | some x => complete (freePins t x) x stNoRes 2 0
    | none => t) s2
  updCore { s3 with q := { s3.q with windows := tset {} core {} s3.q.windows } } core (fun c => { c with stopped := false })

/-- Step 2: the number is bound to a spare, which receives the current code of its domain, limited under R320 (R336). The window, and
with it the words that met a double-bit error, goes on: the spare's first such error at one of them counts as the second
(DESIGN CHOICE, log 149). -/
def bindSpare (s : State) (core phys new : Nat) : State :=
  let s1 := { s with cores := { s.cores with map := tset none core (some new) s.cores.map, good := s.cores.good.filter (fun x => x ≠ phys) } }
  let s2 := updCore (clearSram s1 core) core (fun c => { c with code := codeAtLevel s s.kt.f new })
  raiseMod (recordFailure s2 phys) 0x0904 (leBytes 2 core ++ leBytes 2 phys ++ leBytes 2 new)

/-- Candidates not bound to a number. -/
def freeSpares (s : State) : List Nat := s.cores.good.filter (fun x => !s.cores.map.any (fun e => e.2 = some x))

/-- CORE_REBIND: the Drabex decides, so it waits for a restart to end (R349). -/
def execCoreRebind (core : Nat) (env : Env) (s0 : State) : Out :=
  let s := envIn s0 env
  match corePhys s core with
  | none => .next s
  | some x =>
    if !(getCore s core).stopped || !s.power.drabexUp then .next s
    else match nearestFree (freeSpares s) (domainOf x) with
      | none => .next (makeHole s core x)
      | some y => .next (countSbe (replayCore (bindSpare s core x y) core env) core env.sbe)

/-- SRAM_DOUBLE_BIT_ERROR: the window is re-run on the same core; a second error at one word within the window is a
core failure (R72). -/
def execSramDoubleBitError (core word : Nat) (env : Env) (s0 : State) : Out :=
  let s := envIn s0 env
  if !coreServes s core then .next s
  else if (getWindow s core).dbeWords.contains word then .next (stopCore s core)
  else
    let s1 := updWindow (stopCore s core) core (fun w => { w with dbeWords := w.dbeWords ++ [word] })
    .next (countSbe (replayCore s1 core env) core env.sbe)

end Sys2Proof.Machine
end

