-- ==== Sys2Proof/Machine/Handover.lean ====
section
/-! DEFINITION. PART_HANDOVER (R136, R137): a partition's rings move to a function of the requester's port. -/

namespace Sys2Proof.Machine

open Sys2Proof

/-- Submission rings, then output rings, of a partition. (DEDUCED, log 121.) -/
def subRings (r : PartRegs) : List Nat := (List.range (64 * r.ringCount)).map (fun i => 64 * r.ringFirst + i)
def outRings (r : PartRegs) : List Nat := (List.range (16 * r.orCount)).map (fun i => 16 * r.orFirst + i)

def handEntries (r : PartRegs) : Nat := 64 * r.ringCount + 16 * r.orCount

/-- Entry i of an image: ring, doorbell page and slot, base. -/
def handOff (i : Nat) : Nat := 8 + 16 * i
def handRing (img : Bytes) (i : Nat) : Nat := fld img (handOff i) 2
def handDb (img : Bytes) (i : Nat) : Nat := fld img (handOff i + 2) 2
def handBase (img : Bytes) (i : Nat) : Nat := fld img (handOff i + 8) 8

/-- The entries name the partition's rings in order; reserved fields are 0 and bases are multiples of 4 KiB. -/
def handImageOk (r : PartRegs) (img : Bytes) : Bool :=
  let rs := subRings r ++ outRings r
  zeroAt img 1 7 && allN rs.length (fun i => decide (handRing img i = rs.getD i 0) && decide (handDb img i < 2 ^ 13) && zeroAt img (handOff i + 4) 4
    && decide (handBase img i % 4096 = 0))

/-- The handover record: the next fetch position of each submission ring, PRODUCED of each output ring. -/
def handRecord (s : State) (r : PartRegs) : Bytes :=
  [1#8] ++ zeros 7 ++ (subRings r).flatMap (fun k => leBytes 2 k ++ zeros 2 ++ leBytes 4 (getRing s k).consumed)
    ++ (outRings r).flatMap (fun k => leBytes 2 k ++ zeros 2 ++ leBytes 4 (getORing s k).produced)

/-- STATE 4 in the old status block of an enabled ring; one of a ring that is not enabled stays (DESIGN CHOICE, log 21). -/
def oldStatus (port : Nat) (s : State) (k : Nat) : State :=
  let x := getRing s k
  if !x.enable then s
  else hostWrite s port (x.base + 64 * 2 ^ x.size) (leBytes 4 x.consumed ++ leBytes 1 4 ++ leBytes 1 x.error ++ [1#8] ++ zeros 57)

/-- Step 3 for one entry. The new host's indices start at POS. -/
def moveSub (img : Bytes) (s : State) (e : Nat × Nat) : State :=
  updRing s e.1 (fun x => { x with base := handBase img e.2, dbPage := handDb img e.2 / 1024, dbSlot := handDb img e.2 % 1024, producer := x.consumed })
def moveOut (img : Bytes) (s : State) (e : Nat × Nat) : State :=
  updORing s e.1 (fun x => { x with base := handBase img e.2, dbPage := handDb img e.2 / 1024, dbSlot := handDb img e.2 % 1024, consumer := x.produced })

/-- Held records go to the new output ring while it has room. -/
def releaseHeld (oring : Nat) : Nat → State → State
  | 0, s => s
  | n + 1, s => match execHeldRecordRelease oring s with
    | .next t => releaseHeld oring n t
    | _ => s

/-- Steps 3 to 6. -/
def handOverTo (s : State) (p : Nat) (h : HandOver) : State :=
  let r := getPart s p
  let old := fnPort r.owner
  let subs := subRings r
  let outs := outRings r
  let s1 := if (getPort s old).up then subs.foldl (oldStatus old) s else s
  let s2 := subs.zipIdx.foldl (fun t e => moveSub h.image t (e.1, e.2)) s1
  let s3 := outs.zipIdx.foldl (fun t e => moveOut h.image t (e.1, subs.length + e.2)) s2
  let s4 := hostWrite s3 (fnPort h.newFn) h.record (handRecord s r)
  let s5 := updPart s4 p (fun x => { x with owner := h.newFn, held := false, hand := none })
  let s6 := outs.foldl (fun t k => releaseHeld k (getORing t k).held.length t) s5
  setLeaf (setLeaf s6 h.newFn 0x40028 2) h.ep 0x40028 2

/-- A handover under way completes, and its mailbox is answered. -/
def handFinish (p : Nat) (s : State) : State :=
  match (getPart s p).hand with
  | none => s
  | some h =>
    let s1 := handOverTo s p h
    if h.reply then respond s1 h.ep (mailBytes 7 h.tag {}) else s1

/-- Every handover under way completes. -/
def handsFinish (s : State) : State := forN 8 handFinish s

/-- The new owner is a function of the requester's port with an accepted driver and no partition, none coming to it by
another handover (log 164), and a VF only for a
partition within its limits (R136, R385). -/
def handTarget (s : State) (port p newFn : Nat) : Bool :=
  let r := getPart s p
  fnPort newFn = port && fnExists s newFn && (getFn s newFn).accepted && (ownedPart s newFn).isNone && !handedTo s newFn
    && (isPf newFn || (r.ringCount ≤ 32 && r.orCount ≤ 32))

/-- Steps 1 and 2 (R136): the refusals in the order of R11, or the handover is under way, without an answer yet.
(DESIGN CHOICE, log 15.) (DEDUCED, log 120.) -/
def handoverAct (ep : Nat) (tag : BitVec 16) (p newFn force image record : Nat) (host : HostIn) (s0 : State) : State × Option Reply :=
  let r := getPart s0 p
  let s := mailPoison (hostStores s0 host) host ep image (8 + 16 * handEntries r)
  let port := fnPort ep
  let img := mailHostRead s host port image (8 + 16 * handEntries r)
  let read := img.2.isNone
  if read && byteAt img.1 0 ≠ 1 then (s, some { st := stVersion, xs := 0x14 })
  else if force = 0 && !(!r.held && partPortUp s p) then (s, some { st := stBad, xs := 0x12 })
  else if read && !handImageOk r img.1 then (s, some { st := stBad, xs := 0x14 })
  else if !partEnabled s p then (s, some { st := stPerm, xs := 0x10 })
  else if !handTarget s port p newFn then (s, some { st := stPerm, xs := 0x11 })
  else if r.hand.isSome then (s, some { st := stNoRes, xs := 5 })
  else match img.2 with
    | some e => (s, some e)
    | none =>
      if hostRejects s host port record (8 + 8 * handEntries r) then (s, some { st := stCheck, xs := 3 })
      else (updFn (updPart s p (fun x => { x with hand := some { ep, tag, newFn, record, image := img.1 } })) ep (fun x => { x with mbGo := true, mbBusy := true }), none)

def mailPartHandover (ep : Nat) (tag : BitVec 16) (part newFn force : Byte) (image record : BitVec 64) (host : HostIn) (reply : Bool) (s : State) : State :=
  let bad := if 7 < part.toNat then some 0x10 else if 15 < newFn.toNat then some 0x11 else if 1 < force.toNat then some 0x12 else none
  if !reply then s else
  match mailRefusal s bad (fromPf ep) false with
  | some r => respond s ep (mailBytes 7 tag r)
  | none =>
    match handoverAct ep tag part.toNat newFn.toNat force.toNat image.toNat record.toNat host s with
    | (s1, some r) => respond s1 ep (mailBytes 7 tag r)
    | (s1, none) => s1

/-- PART_HANDOVER: steps 1 and 2. Steps 3 to 6 come with the passing of time, in the next step that finds no command
waiting (R136, R137; DESIGN CHOICE, log 15). -/
def execPartHandover (ep : Nat) (tag : BitVec 16) (part newFn force : Byte) (image record : BitVec 64) (host : HostIn) (s : State) : Out :=
  .next (mailRow (.partHandover ep tag part newFn force image record host) ep false (mailPartHandover ep tag part newFn force image record host true) s)

end Sys2Proof.Machine
end

