-- ==== Sys2Proof/Machine/Drabex.lean ====
section
/-! DEFINITION. The Drabex restart and the log's way to the flash (R349, R360, R361). -/

namespace Sys2Proof.Machine

open Sys2Proof

/-- Serve a held request. -/
def serveHeld (s : State) (q : HeldReq) : State :=
  match q.req with
  | .getInfo ep tag => mailGetInfo ep tag q.reply s
  | .sensorRead ep tag first count => mailSensorRead ep tag first count q.reply s
  | .logRead ep tag seq count addr host => mailLogRead ep tag seq count addr host q.reply s
  | .setMgmtCap ep tag cap => mailSetMgmtCap ep tag cap q.reply s
  | .reset ep tag domain => mailReset ep tag domain q.reply s
  | .partReset ep tag part => mailPartReset ep tag part q.reply s
  | .partHandover ep tag part newFn force image record host => mailPartHandover ep tag part newFn force image record host q.reply s
  | .coreReconfig ep tag => mailCoreReconfig ep tag q.reply s
  | .bootPlanSet ep tag addr len wait host => mailBootPlanSet ep tag addr len wait host q.reply s
  | .alertMask ep tag mask => mailAlertMask ep tag mask q.reply s
  | .mviewRead ep tag => mailMviewRead ep tag q.reply s
  | .mviewClear ep tag block leaves => mailMviewClear ep tag block leaves q.reply s
  | .fwUpdate ep tag addr len flags ok host => mailFwUpdate ep tag addr len flags ok host q.reply s
  | .fwStatus ep tag => mailFwStatus ep tag q.reply s
  | .fwActivate ep tag slot => mailFwActivate ep tag slot q.reply s
  | .svnCommit ep tag => mailSvnCommit ep tag q.reply s
  | .unlistedMailboxOp ep req => mailUnlisted ep req q.reply s
  | .getCerts port object => serveCerts port object s
  | .measure port object => serveMeasure port object s
  | .mctpControlMessage ep msg => serveMctp ep msg s
  | .pldmDiscovery ep command => serveDiscovery ep command s
  | .pldmGetSensorReading ep sensorId => serveReading ep sensorId s
  | .pldmRequestUpdate ep manifest len ok => serveRequestUpdate ep manifest len ok s
  | .pldmActivateFirmware ep => serveActivate ep s
  | _ => s

/-- DRABEX_WATCHDOG_EXPIRY: the Drabex restarts; an update in progress leaves its target invalid (R370). -/
def execDrabexWatchdogExpiry (s : State) : Out :=
  if !s.power.drabexUp then .next s
  else
    let s1 := match s.dbx.update with
      | some u => setSlot { s with dbx := { s.dbx with update := none } } u.target { getSlot s u.target with state := 0 }
      | none => s
    .next { s1 with power := { s1.power with drabexUp := false } }

/-- The Drabex had started, so that its not running is a restart. -/
def drabexStarted (s : State) : Bool :=
  match s.power.phase with
  | .off => false
  | .stopped => decide (4 ≤ s.power.step)
  | _ => true

/-- DBX_RESTART: the event, the notices, the decisions that waited, then the held requests in order of arrival (R349). -/
def execDbxRestart (s : State) : Out :=
  if s.power.drabexUp || !drabexStarted s then .next s
  else
    let n := s.power.restarts + 1
    let s1 := { s with power := { s.power with drabexUp := true, restarts := n } }
    let s2 := raiseMod s1 0x0907 (leBytes 2 (n % 2 ^ 16))
    let s3 := forN (8 * portCount s) (fun f t => postNotice t f 3 (n % 2 ^ 16)) s2
    let s4 := decideLasers s3
    .next (s4.dbx.heldReqs.foldl serveHeld { s4 with dbx := { s4.dbx with heldReqs := [], doeBusy := [] } })

/-- Append to the flash log; when it is full the oldest 2,048 entries are erased first (R360). -/
def logAppend (log : List LogEntry) (e : LogEntry) : List LogEntry := (if 262144 ≤ log.length then log.drop 2048 else log) ++ [e]

/-- LOG_ENTRY_WRITE: the oldest entry in SRAM reaches the flash; not during a Drabex restart. (DEDUCED, log 128.) -/
def execLogEntryWrite (s : State) : Out :=
  .next (match s.dbx.logHeld with
    | [] => s
    | e :: t => if !s.power.drabexUp && s.power.phase ≠ .off then s
      else { s with dbx := { s.dbx with log := logAppend s.dbx.log e, logHeld := t } })

end Sys2Proof.Machine
end

