-- ==== Sys2Proof/Machine/Kettle.lean ====
section
/-! DEFINITION. The Kettle's commands (12): the cap loop, the limiter, codes, droop, temperature and supply faults. -/

namespace Sys2Proof.Machine

open Sys2Proof

def updKt (s : State) (g : Kettle → Kettle) : State := { s with kt := g s.kt }

/-! ### The limiter (R324, R331) -/

/-- The effective cap in W. -/
def capWatts (s : State) : Nat := 10 * effectiveCap s

/-- Skipping in deterministic mode raises KT_DET_BREACH with the time skipped so far: as it begins and as it ends (R331).
(DEDUCED, log 107.) -/
def detBreach (s : State) : State := if s.kt.det then raiseBreach s else s

/-- Depth 1 begins; skipping starts, and the operations that execute note it (R330). -/
def startSkip (s : State) : State :=
  let s1 := updKt s (fun k => { k with depth := 1, depthF := k.f, skipTick := s.power.tick.toNat, overs := 0 })
  detBreach { s1 with q := { s1.q with ops := s1.q.ops.map (fun o => if o.started then { o with skipped := true } else o) } }

/-- Skipping ends. -/
def endSkip (s : State) : State := updKt (detBreach s) (fun k => { k with depth := 0, overs := 0 })

/-- Depth 2 begins; at f = 224 it raises KT_CAP_UNMET. -/
def startDeep (s : State) : State :=
  let s1 := updKt s (fun k => { k with depth := 2, overs := 0 })
  if s.kt.f = 224 then raiseMod s1 0x0801 (leBytes 2 s.kt.watts ++ leBytes 2 (capWatts s)) else s1

/-- LIMITER_SAMPLE: more than 1.1 × C ÷ V_in in four samples in a row, 2 µs. (DEDUCED, log 106.) -/
def execLimiterSample (milliamps : Nat) (s : State) : Out :=
  let isOver := decide (11 * capWatts s * 100000 < milliamps * s.kt.volts * 10)
  if !isOver then .next (updKt s (fun k => { k with overs := 0 }))
  else if s.kt.overs + 1 < 4 then .next (updKt s (fun k => { k with overs := k.overs + 1 }))
  else match s.kt.depth with
    | 0 => .next (startSkip s)
    | 1 => .next (startDeep s)
    | _ => .next (updKt s (fun k => { k with overs := 4 }))

/-- A period's end moves the limiter by one depth (R324). A hot die keeps depth 1 (R333). -/
def limiterPeriod (s : State) (p : Nat) (currentBelow : Bool) : State :=
  let c := capWatts s
  match s.kt.depth with
  | 0 => s
  | 1 =>
    if s.kt.f = 224 && c < p then startDeep s
    else if currentBelow && p ≤ c && s.kt.depthF + 4 ≤ s.kt.f && !s.kt.dieHot then endSkip s else s
  | _ => if 100 * p ≤ 45 * c then updKt s (fun k => { k with depth := 1, overs := 0 }) else s

/-! ### The cap loop (R321 to R323, R331, R335) -/

/-- f of the next period. -/
def nextLevel (s : State) (p quiet : Nat) : Nat :=
  let c := capWatts s
  let k := s.kt
  let f := if c < p || k.depth ≠ 0 then k.f + 4
    else if 98 * c < 100 * p then k.f + 1
    else if k.thermal then k.f + 1
    else if 100 * p < 96 * c && 10 ≤ quiet then k.f - 1 else k.f
  if k.det then floorLevel s else min 224 (max (startLevel s) f)

/-- The cause that KT_BELOW_FLOOR names (R356, DESIGN CHOICE, log 63). -/
def floorCause (s : State) : Nat :=
  if s.kt.heldF.any (fun f => decide (floorLevel s < f)) then 4 else if s.kt.depth ≠ 0 then 3
  else if supplyCap s.kt.converters < min (variantCap s.part.variant) (min s.kt.hostCap (s.kt.mgmtNow.getD 300)) then 2
  else if s.kt.thermal then 1 else 0

/-- KT_BELOW_FLOOR, at most once a millisecond (R330). -/
def belowFloor (s : State) : State :=
  let t := s.power.tick.toNat
  if !(decide (floorLevel s < s.kt.f) || s.kt.depth ≠ 0) then s
  else if s.kt.belowTick = 0 || s.kt.belowTick - 1 + 100000 ≤ t then
    raiseMod (updKt s (fun k => { k with belowTick := t + 1 })) 0x0802 (leBytes 1 s.kt.f ++ leBytes 1 (floorCause s))
  else s

/-- Telemetry of a period: missing for three periods, f is held; back again, the loop resumes from it (R335). -/
def telemetry (s : State) (missingRail : Option Nat) : State :=
  match missingRail with
  | none => updKt s (fun k => { k with missing := 0, heldF := none })
  | some rail =>
    let n := s.kt.missing + 1
    let s1 := updKt s (fun k => { k with missing := n })
    if n = 3 then
      let f := max (floorLevel s) s.kt.f
      raiseMod (updKt s1 (fun k => { k with heldF := some f, f := f })) 0x0807 (leBytes 1 rail)
    else s1

/-- The regulators' reports, by rail number: sensors 0x0100, 0x0140 and 0x0180 on (R317, R359). A rail that does not
report has none. (DESIGN CHOICE, log 159.) -/
def takeRails (s : State) (missing : Option Nat) (rails : List RailReport) : State :=
  let put (r : Nat) (m : Tbl Reading) (x : RailReport) : Tbl Reading :=
    let got (v : Int) : Reading := if missing = some r then .unavailable else .valid v
    tset .unavailable (0x180 + r) (got x.temp) (tset .unavailable (0x140 + r) (got x.ma) (tset .unavailable (0x100 + r) (got x.mv) m))
  let sensors := (List.range (min 42 rails.length)).foldl (fun m r => put r m (rails.getD r { mv := 0, ma := 0, temp := 0 })) s.dbx.sensors
  { s with dbx := { s.dbx with sensors } }

/-- CAP_LOOP_PERIOD. A new management cap applies from here (R336). -/
def execCapLoopPeriod (watts centivolts : Nat) (currentBelow : Bool) (report : Telemetry) (s0 : State) : Out :=
  let s := telemetry (updKt (takeRails s0 report.missing report.rails) (fun k => { k with
    watts := watts % 2 ^ 16, volts := centivolts % 2 ^ 16, mgmtNow := k.mgmtCap })) report.missing
  let quiet := if 100 * watts < 96 * capWatts s then s.kt.quiet + 1 else 0
  let s1 := updKt s (fun k => { k with quiet, f := if k.heldF.isSome then k.f else nextLevel s watts quiet })
  .next (belowFloor (limiterPeriod { s1 with power := { s1.power with inputMv := 10 * s1.kt.volts } } watts currentBelow))

/-! ### Codes and droop (R322, R326, R327, R336) -/

/-- The core is at an operation boundary: it executes none (R53, R65). -/
def atBoundary (s : State) (core : Nat) : Bool := !s.q.ops.any (fun o => decide (o.core = core) && o.started && decide (o.phase = .running))

/-- CORE_CODE_SWITCH: at an operation boundary the core takes the code that f gives it. -/
def execCoreCodeSwitch (core : Nat) (s : State) : Out :=
  .next (match corePhys s core with
    | some x => if !atBoundary s core then s else updCore s core (fun c => { c with code := codeAtLevel s s.kt.f x })
    | none => s)

/-- VCORE_DROOP: VCORE, in mV, is 4 % below its set point (R327). -/
def execVcoreDroop (rail : DomainVolts) (s : State) : Out :=
  .next (if 32 ≤ rail.domain || 96 * domainMv s rail.domain < 100 * rail.mv || s.cores.droop.contains rail.domain then s
    else { s with cores := { s.cores with droop := s.cores.droop ++ [rail.domain] } })

/-- DROOP_STRETCH_END: VCORE has held within 2 % of its set point for 100 ns (R327). -/
def execDroopStretchEnd (rail : DomainVolts) (s : State) : Out :=
  .next (if 100 * rail.mv < 98 * domainMv s rail.domain then s
    else { s with cores := { s.cores with droop := s.cores.droop.filter (fun d => d ≠ rail.domain) } })

/-! ### Temperature (R333, R334, R335) -/

/-- A reading's temperature in 0.001 °C; a failed sensor takes the hottest neighbour with 3 °C of guard. (DEDUCED, log 108.) -/
def tempAt (l : List Reading) (i : Nat) : Option Int :=
  let val (r : Option Reading) : Option Int := match r with
    | some (.valid v) => some v
    | _ => none
  match l[i]? with
  | some (.valid v) => some v
  | _ =>
    match (if i = 0 then none else val l[i - 1]?), val l[i + 1]? with
    | some a, some b => some (max a b + 3000)
    | some a, none => some (a + 3000)
    | none, some b => some (b + 3000)
    | none, none => none

def temps (l : List Reading) : List (Nat × Int) :=
  (List.range l.length).filterMap (fun i => (tempAt l i).map (fun v => (i, v)))

/-- Keep the readings of a scan from a sensor number on; a sensor newly failed raises KT_SENSOR_FAIL (event sensor
numbers from `ev`). -/
def keepReadings (num ev : Nat) (l : List Reading) (s : State) : State :=
  (List.range l.length).foldl (fun t i =>
    let r := l.getD i .unavailable
    let old := tget .unavailable t.dbx.sensors (num + i)
    let t1 := { t with dbx := { t.dbx with sensors := tset .unavailable (num + i) r t.dbx.sensors } }
    if r = .failed && old ≠ .failed then raiseMod t1 0x0808 (leBytes 1 (ev + i)) else t1) s

/-- Refresh of the stacks (R173). -/
def setRefresh (ts : List (Nat × Int)) (s : State) : State :=
  ts.foldl (fun t x =>
    let on := if 85000 ≤ x.2 then true else if x.2 < 83000 then false else tget false t.dram.refresh x.1
    { t with dram := { t.dram with refresh := tset false x.1 on t.dram.refresh } }) s

/-- OPT_LASER_HOT when the laser bank reaches 70 °C. -/
def laserHot (r : Reading) (s : State) : State :=
  match r with
  | .valid v =>
    let s1 := { s with links := { s.links with laserTemp := v } }
    if 70000 ≤ v && s.links.laserTemp < 70000 then raiseMod s1 0x0306 (leBytes 2 (unsgn 16 (v / 100))) else s1
  | _ => s

/-- THERMAL_SENSOR_SCAN. -/
def execThermalSensorScan (die stack : List Reading) (laserBank : Reading) (s0 : State) : Out :=
  let s := laserHot laserBank (keepReadings 0x50 80 [laserBank] (keepReadings 0x40 64 stack (keepReadings 0 0 die s0)))
  let ds := temps (die.take 64)
  let ss := temps (stack.take 16)
  match ss.find? (fun x => decide (95000 ≤ x.2)), ds.find? (fun x => decide (105000 ≤ x.2)) with
  | some x, _ => .next (thermalTrip s (64 + x.1) x.2)
  | none, some x => .next (thermalTrip s x.1 x.2)
  | none, none =>
    let ask := ss.any (fun x => decide (90000 ≤ x.2)) || ds.any (fun x => decide (100000 ≤ x.2))
    let calm := ss.all (fun x => decide (x.2 < 88000)) && ds.all (fun x => decide (x.2 < 98000))
    let hot := ds.any (fun x => decide (103000 ≤ x.2))
    let cool := ds.all (fun x => decide (x.2 < 101000))
    let s1 := setRefresh ss s
    let s2 := updKt s1 (fun k => { k with thermal := if ask then true else if calm then false else k.thermal
                                          dieHot := if hot then true else if cool then false else k.dieHot })
    .next (if hot && s2.kt.depth = 0 then startSkip s2 else s2)

/-! ### Supply faults (R316, R335) -/

/-- CONVERTER_FAIL. The loss of the last converter shuts stage 2 down and asserts ALERT_N (R335). -/
def execConverterFail (converter : Nat) (s : State) : Out :=
  if 4 ≤ converter || s.kt.failedConv.contains converter then .next s
  else
    let n := s.kt.converters - 1
    let s1 := updKt s (fun k => { k with converters := n, failedConv := k.failedConv ++ [converter] })
    let s2 := raiseMod s1 0x0805 (leBytes 1 converter ++ leBytes 1 n)
    .next (if n = 0 then alertOn (shutDown s2 2 2 s2.power.inputMv) else s2)

/-- PHASE_FAIL: the phase is shed. -/
def execPhaseFail (rail phase : Nat) (s : State) : Out :=
  .next (if s.kt.shedPhases.contains (rail, phase) then s
    else raiseMod (updKt s (fun k => { k with shedPhases := k.shedPhases ++ [(rail, phase)] })) 0x0806 (leBytes 1 rail ++ leBytes 1 phase))

end Sys2Proof.Machine
end

