-- ==== Sys2Proof/Machine/Mgmt.lean ====
section
/-! DEFINITION. The management class (R107) and its traces in a replay window (R70). -/

namespace Sys2Proof.Machine

open Sys2Proof

/-- NOP: nothing but its wait and its signal. -/
def execNop (op : Nat) (env : Env) (s : State) : Out :=
  runOp s op 0x0000 env (fun s o => finishOk s o env 0 0)

/-- EVT_SET: the counter takes VALUE and loses its poison. The null counter keeps nothing (R82). -/
def execEvtSet (op : Nat) (env : Env) (s : State) : Out :=
  runOp s op 0x0001 env (fun s o =>
    let e := fld o.desc 0x10 2
    let s1 := if e = 0xFFFF then s else setEvt s e { value := BitVec.ofNat 32 (fld o.desc 0x14 4), poison := false }
    finishOk s1 o env 0 0)

/-- EVT_ADD: the counter rises by VALUE modulo 2^32; its poison stays. -/
def execEvtAdd (op : Nat) (env : Env) (s : State) : Out :=
  runOp s op 0x0002 env (fun s o =>
    let e := fld o.desc 0x10 2
    let c := getEvt s e
    let s1 := if e = 0xFFFF then s else setEvt s e { c with value := c.value + BitVec.ofNat 32 (fld o.desc 0x14 4) }
    finishOk s1 o env 0 0)

/-- The window keeps the TICK that a TIMESTAMP wrote (R70). -/
def windowTick (s : State) (core id : Nat) : State :=
  if core = netTarget then s else
  updWindow s core (fun w =>
    { w with entries := listUpdate (fun e => e.op = id) (fun e => { e with tick := s.power.tick }) w.entries })

def tickBytes (s : State) : Bytes := leBytes 8 s.power.tick.toNat

/-- TIMESTAMP: TICK at execution is written to DST, in device or host memory. -/
def execTimestamp (op : Nat) (env : Env) (s : State) : Out :=
  runOp s op 0x0003 env (fun s o =>
    let r := refAt o.desc 0x10
    let port := fnPort (getPart s o.part).owner
    if tsHost o.desc then
      if !(getPort s port).up || env.host.rejects.any (fun x => overlap x.1 x.2 (hostKey port r.addr) 8) then
        failRun s o env stCheck 3
      else finishOk (hostWrite s port r.addr (tickBytes s)) o env 0 0
    else finishOk (windowTick (devWrite s (ctxOf o env) r.sram r.addr (tickBytes s)) o.core o.id) o env 0 0)

end Sys2Proof.Machine
end

