-- ==== Sys2Proof/Machine/Timeout.lean ====
section
/-! DEFINITION. A descriptor's timer expires (R76, R87, R88, R179, R191, R197, R225, R227, R251, R283). -/

namespace Sys2Proof.Machine

open Sys2Proof

/-- A descriptor fetched and not yet dispatched: it writes nothing (R89). A STEP_VOTE that ends so decides nothing (R225). -/
def timeoutWaiting (s : State) (ring index : Nat) : State :=
  match ringPart s ring, (getRing s ring).waiting[index]? with
  | some p, some f =>
    let d := f.bytes
    let s1 := updRing s ring (fun r => { r with waiting := r.waiting.eraseIdx index })
    let s2 := completeUndispatched s1 p ring f.pos d (evtsOk s p d) stTimeout (if waitDone s (dWaitEvt d) (dWaitVal d) then 6 else 1)
    if dBase d = 0x8207 then stepUndecided s2 p d else s2
  | _, _ => s

/-- A claim of the arming waits on a reader's or a pin's fence (R18). -/
def claimFenced (s : State) (a : Arming) : Bool :=
  (armLayers s a).any (fun l => !a.claimed.contains l && decide (fenceOf s l (1 - (getVer s l).cur) ≠ 0))

/-- An ST_ARM's timer: STEP_STALE where a fence blocked its claim, else TIMEOUT (R227). -/
def timeoutArm (s : State) (o : Op) : State :=
  match findArming s o.id with
  | some a => if claimFenced s a then failArming s a stStale 2 (armInfo a) else failArming s a stTimeout 3 (armInfo a)
  | none => complete s o stTimeout 2 0

/-- A collective's timer (R251): waiting for its slot or an earlier number, or on another module. -/
def timeoutColl (s : State) (o : Op) : State :=
  match ctxByOp s o.id with
  | some x => failColl s x stTimeout 3 0
  | none =>
    let s1 := if o.started then failRun s o {} stTimeout 5 else complete s o stTimeout 5 0
    if cOp o.desc = 7 then voteUndecided s1 o else s1

/-- A PLAN_COMMIT or FENCE in progress: no agreement gives 0x82; the previous epoch stays in force (R283). (DEDUCED, log 109.) -/
def timeoutChange (s : State) (o : Op) (c : EpochChange) : State :=
  let s1 := { s with fab := { s.fab with change := none } }
  inject (if c.draining then complete s1 o stTimeout 2 0 else complete s1 o 0x82 0 0)

/-- An operation after its dispatch. -/
def timeoutOp (s : State) (o : Op) : State :=
  let d := o.desc
  if o.phase = .recordHeld then s
  else if o.phase = .freeing then
    let entry := fld d 0x10 4
    let s1 := match getStash s o.part entry with
      | some e => setStash s o.part entry (some { e with freeing := some o.id })
      | none => s
    complete (drawFree s1 1) o stTimeout 2 (infoOf (freeClocks s1) 0)
  else if dBase d = 0x71C0 && o.phase = .registered then timeoutArm s o
  else if !o.started && (enforceState s o.part d = 1 || (latchesFor s o.part (usesOf s o.part d)).isNone) then
    complete s o stTimeout 4 0
  else if isColl d then timeoutColl s o
  else if o.phase = .registered then
    (match s.fab.change with
    | some c => if c.op = some o.id then timeoutChange s o c else complete s o stTimeout 2 0
    | none => complete s o stTimeout 2 0)
  else if o.started then failTimed s o stTimeout 2
  else complete s o stTimeout 2 0

/-- DESCRIPTOR_TIMEOUT. (DESIGN CHOICE, log 14.) -/
def execDescriptorTimeout (at_ : TimerOf) (s : State) : Out :=
  .next (match at_ with
    | .waiting ring index => timeoutWaiting s ring index
    | .dispatched op => match findOp s op with
      | some o => timeoutOp s o
      | none => s)

end Sys2Proof.Machine
end

