-- ==== Sys2Proof/Machine/Dispatch.lean ====
section
/-! DEFINITION. What each command does: one arm per constructor, one call of its meaning. -/

namespace Sys2Proof.Machine

open Sys2Proof

def exec (i : Instr) (s : State) : Host.Outcome State Fault Refusal :=
  match i with
  | .descriptorFetch ring host => Sys2Proof.Machine.execDescriptorFetch ring host s
  | .dispatch ring => Sys2Proof.Machine.execDispatch ring s
  | .descriptorTimeout at_ => Sys2Proof.Machine.execDescriptorTimeout at_ s
  | .heldRecordRelease oring => Sys2Proof.Machine.execHeldRecordRelease oring s
  | .doorbellSweep fn host => Sys2Proof.Machine.execDoorbellSweep fn host s
  | .qeWake fn value host => Sys2Proof.Machine.execQeWake fn value host s
  | .irqLeafClear fn offset value => Sys2Proof.Machine.execIrqLeafClear fn offset value s
  | .irqMaskWrite fn value => Sys2Proof.Machine.execIrqMaskWrite fn value s
  | .ringEnable fn ring value => Sys2Proof.Machine.execRingEnable fn ring value s
  | .ringDisable fn ring value => Sys2Proof.Machine.execRingDisable fn ring value s
  | .oringEnable fn oring value => Sys2Proof.Machine.execOringEnable fn oring value s
  | .driverNegotiate fn value => Sys2Proof.Machine.execDriverNegotiate fn value s
  | .partitionEnable fn p value => Sys2Proof.Machine.execPartitionEnable fn p value s
  | .partitionDisable fn p value => Sys2Proof.Machine.execPartitionDisable fn p value s
  | .regionEnable fn rid value => Sys2Proof.Machine.execRegionEnable fn rid value s
  | .regionInitDone rid => Sys2Proof.Machine.execRegionInitDone rid s
  | .regionDisable fn rid value => Sys2Proof.Machine.execRegionDisable fn rid value s
  | .layerTableLoad fn p value mem => Sys2Proof.Machine.execLayerTableLoad fn p value mem s
  | .caddyEnable fn p value => Sys2Proof.Machine.execCaddyEnable fn p value s
  | .caddyDisable fn p value => Sys2Proof.Machine.execCaddyDisable fn p value s
  | .detModeWrite fn value => Sys2Proof.Machine.execDetModeWrite fn value s
  | .mbAsyncRemove fn value => Sys2Proof.Machine.execMbAsyncRemove fn value s
  | .registerWrite fn offset enables value => Sys2Proof.Machine.execRegisterWrite fn offset enables value s
  | .bar2Read fn addr len mem => Sys2Proof.Machine.execBar2Read fn addr len mem s
  | .bar2Write fn addr data => Sys2Proof.Machine.execBar2Write fn addr data s
  | .nop op env => Sys2Proof.Machine.execNop op env s
  | .evtSet op env => Sys2Proof.Machine.execEvtSet op env s
  | .evtAdd op env => Sys2Proof.Machine.execEvtAdd op env s
  | .timestamp op env => Sys2Proof.Machine.execTimestamp op env s
  | .gemm op env => Sys2Proof.Machine.execGemm op env s
  | .expr op env => Sys2Proof.Machine.execExpr op env s
  | .rowReduce op env => Sys2Proof.Machine.execRowReduce op env s
  | .colReduce op env => Sys2Proof.Machine.execColReduce op env s
  | .softmaxFwd op env => Sys2Proof.Machine.execSoftmaxFwd op env s
  | .softmaxBwd op env => Sys2Proof.Machine.execSoftmaxBwd op env s
  | .normFwd op env => Sys2Proof.Machine.execNormFwd op env s
  | .normBwd op env => Sys2Proof.Machine.execNormBwd op env s
  | .copy op env => Sys2Proof.Machine.execCopy op env s
  | .transpose op env => Sys2Proof.Machine.execTranspose op env s
  | .pack op env => Sys2Proof.Machine.execPack op env s
  | .unpack op env => Sys2Proof.Machine.execUnpack op env s
  | .gather op env => Sys2Proof.Machine.execGather op env s
  | .scatterAdd op env => Sys2Proof.Machine.execScatterAdd op env s
  | .hostRead op env => Sys2Proof.Machine.execHostRead op env s
  | .hostWrite op env => Sys2Proof.Machine.execHostWrite op env s
  | .rngUniform op env => Sys2Proof.Machine.execRngUniform op env s
  | .rngNormal op env => Sys2Proof.Machine.execRngNormal op env s
  | .rngBernoulli op env => Sys2Proof.Machine.execRngBernoulli op env s
  | .stashPut op env => Sys2Proof.Machine.execStashPut op env s
  | .stashGet op env => Sys2Proof.Machine.execStashGet op env s
  | .stashFree op env => Sys2Proof.Machine.execStashFree op env s
  | .stArm op env => Sys2Proof.Machine.execStArm op env s
  | .stShardSet op env => Sys2Proof.Machine.execStShardSet op env s
  | .stSchedSet op env => Sys2Proof.Machine.execStSchedSet op env s
  | .allReduce op env => Sys2Proof.Machine.execAllReduce op env s
  | .reduceScatter op env => Sys2Proof.Machine.execReduceScatter op env s
  | .allGather op env => Sys2Proof.Machine.execAllGather op env s
  | .broadcast op env => Sys2Proof.Machine.execBroadcast op env s
  | .reduce op env => Sys2Proof.Machine.execReduce op env s
  | .allToAll op env => Sys2Proof.Machine.execAllToAll op env s
  | .barrier op env => Sys2Proof.Machine.execBarrier op env s
  | .stepVote op env => Sys2Proof.Machine.execStepVote op env s
  | .send op env => Sys2Proof.Machine.execSend op env s
  | .recv op env => Sys2Proof.Machine.execRecv op env s
  | .mcastPut op env => Sys2Proof.Machine.execMcastPut op env s
  | .groupSet op env => Sys2Proof.Machine.execGroupSet op env s
  | .planStage op env => Sys2Proof.Machine.execPlanStage op env s
  | .planCommit op env => Sys2Proof.Machine.execPlanCommit op env s
  | .fence op env => Sys2Proof.Machine.execFence op env s
  | .mcastSet op env => Sys2Proof.Machine.execMcastSet op env s
  | .getInfo ep tag => Sys2Proof.Machine.execGetInfo ep tag s
  | .sensorRead ep tag first count => Sys2Proof.Machine.execSensorRead ep tag first count s
  | .logRead ep tag seq count addr host => Sys2Proof.Machine.execLogRead ep tag seq count addr host s
  | .setMgmtCap ep tag cap => Sys2Proof.Machine.execSetMgmtCap ep tag cap s
  | .reset ep tag domain => Sys2Proof.Machine.execReset ep tag domain s
  | .partReset ep tag part => Sys2Proof.Machine.execPartReset ep tag part s
  | .partHandover ep tag part newFn force image record host => Sys2Proof.Machine.execPartHandover ep tag part newFn force image record host s
  | .coreReconfig ep tag => Sys2Proof.Machine.execCoreReconfig ep tag s
  | .bootPlanSet ep tag addr len wait host => Sys2Proof.Machine.execBootPlanSet ep tag addr len wait host s
  | .alertMask ep tag mask => Sys2Proof.Machine.execAlertMask ep tag mask s
  | .mviewRead ep tag => Sys2Proof.Machine.execMviewRead ep tag s
  | .mviewClear ep tag block leaves => Sys2Proof.Machine.execMviewClear ep tag block leaves s
  | .fwUpdate ep tag addr len flags signatureOk host => Sys2Proof.Machine.execFwUpdate ep tag addr len flags signatureOk host s
  | .fwUpdateStepDone ending => Sys2Proof.Machine.execFwUpdateStepDone ending s
  | .fwStatus ep tag => Sys2Proof.Machine.execFwStatus ep tag s
  | .fwActivate ep tag slot => Sys2Proof.Machine.execFwActivate ep tag slot s
  | .svnCommit ep tag => Sys2Proof.Machine.execSvnCommit ep tag s
  | .inputPowerApplied bu => Sys2Proof.Machine.execInputPowerApplied bu s
  | .bootWaitExpiry => Sys2Proof.Machine.execBootWaitExpiry  s
  | .brownOutTrip mv => Sys2Proof.Machine.execBrownOutTrip mv s
  | .overvoltageTrip mv => Sys2Proof.Machine.execOvervoltageTrip mv s
  | .bladeWithdrawal mv => Sys2Proof.Machine.execBladeWithdrawal mv s
  | .rootPllLoss bu => Sys2Proof.Machine.execRootPllLoss bu s
  | .coldReset bu => Sys2Proof.Machine.execColdReset bu s
  | .warmReset bu => Sys2Proof.Machine.execWarmReset bu s
  | .fabricReset bu => Sys2Proof.Machine.execFabricReset bu s
  | .computeReset => Sys2Proof.Machine.execComputeReset  s
  | .functionLevelReset fn => Sys2Proof.Machine.execFunctionLevelReset fn s
  | .perstAssert port => Sys2Proof.Machine.execPerstAssert port s
  | .d3hotReturn fn => Sys2Proof.Machine.execD3hotReturn fn s
  | .portDlDown port => Sys2Proof.Machine.execPortDlDown port s
  | .portHoldExpiry port => Sys2Proof.Machine.execPortHoldExpiry port s
  | .coreAckTimeout core => Sys2Proof.Machine.execCoreAckTimeout core s
  | .coreFailure core => Sys2Proof.Machine.execCoreFailure core s
  | .coreRebind core env => Sys2Proof.Machine.execCoreRebind core env s
  | .sramDoubleBitError core word env => Sys2Proof.Machine.execSramDoubleBitError core word env s
  | .channelRepairMark channel cause => Sys2Proof.Machine.execChannelRepairMark channel cause s
  | .liveMigrationStart channel => Sys2Proof.Machine.execLiveMigrationStart channel s
  | .migrationSwitch channel ending => Sys2Proof.Machine.execMigrationSwitch channel ending s
  | .offlineRetrainDone stack phys passed => Sys2Proof.Machine.execOfflineRetrainDone stack phys passed s
  | .inPlaceRetrain channel passed => Sys2Proof.Machine.execInPlaceRetrain channel passed s
  | .patrolScrub rid granule block mem => Sys2Proof.Machine.execPatrolScrub rid granule block mem s
  | .wcEntryFlush channel index mem => Sys2Proof.Machine.execWcEntryFlush channel index mem s
  | .repairRecordWrite => Sys2Proof.Machine.execRepairRecordWrite  s
  | .stashReexecution op env => Sys2Proof.Machine.execStashReexecution op env s
  | .stashFreeDeferred op => Sys2Proof.Machine.execStashFreeDeferred op s
  | .slotClaim op layer => Sys2Proof.Machine.execSlotClaim op layer s
  | .reducedChunkApply coll chunk env => Sys2Proof.Machine.execReducedChunkApply coll chunk env s
  | .shardFinish op entry env => Sys2Proof.Machine.execShardFinish op entry env s
  | .ruleVResume op entry env => Sys2Proof.Machine.execRuleVResume op entry env s
  | .computeValuesReceive mcast src msg => Sys2Proof.Machine.execComputeValuesReceive mcast src msg s
  | .computeValuesAck op member msg answer => Sys2Proof.Machine.execComputeValuesAck op member msg answer s
  | .computeValuesResend op => Sys2Proof.Machine.execComputeValuesResend op s
  | .statisticsExchange op host mem => Sys2Proof.Machine.execStatisticsExchange op host mem s
  | .voteContribute op => Sys2Proof.Machine.execVoteContribute op s
  | .voteDecision op record => Sys2Proof.Machine.execVoteDecision op record s
  | .collectiveOpen op env => Sys2Proof.Machine.execCollectiveOpen op env s
  | .chunkReceive via bytes => Sys2Proof.Machine.execChunkReceive via bytes s
  | .grantReceive coll fromRank count => Sys2Proof.Machine.execGrantReceive coll fromRank count s
  | .ackReceive coll fromRank ack => Sys2Proof.Machine.execAckReceive coll fromRank ack s
  | .nakReceive coll fromRank key => Sys2Proof.Machine.execNakReceive coll fromRank key s
  | .chunkResendTimeout coll toRank key => Sys2Proof.Machine.execChunkResendTimeout coll toRank key s
  | .abortNoticeReceive coll kind rank => Sys2Proof.Machine.execAbortNoticeReceive coll kind rank s
  | .voteRecordReceive via bytes => Sys2Proof.Machine.execVoteRecordReceive via bytes s
  | .packetReceive via bytes => Sys2Proof.Machine.execPacketReceive via bytes s
  | .packetTransmit seg turn => Sys2Proof.Machine.execPacketTransmit seg turn s
  | .creditReturn port tag => Sys2Proof.Machine.execCreditReturn port tag s
  | .expressAnnounce port tag => Sys2Proof.Machine.execExpressAnnounce port tag s
  | .expressBusy port tag => Sys2Proof.Machine.execExpressBusy port tag s
  | .expressRetry seg vc => Sys2Proof.Machine.execExpressRetry seg vc s
  | .expressEnd port tag => Sys2Proof.Machine.execExpressEnd port tag s
  | .expressIdleKeepalive seg => Sys2Proof.Machine.execExpressIdleKeepalive seg s
  | .epochSwitch => Sys2Proof.Machine.execEpochSwitch  s
  | .previousBankRetire => Sys2Proof.Machine.execPreviousBankRetire  s
  | .identityRecordSend port => Sys2Proof.Machine.execIdentityRecordSend port s
  | .identityRecordReceive port bytes => Sys2Proof.Machine.execIdentityRecordReceive port bytes s
  | .neighbourRecordTimeout port => Sys2Proof.Machine.execNeighbourRecordTimeout port s
  | .fabLinkDown port => Sys2Proof.Machine.execFabLinkDown port s
  | .routeFaultNotice payload => Sys2Proof.Machine.execRouteFaultNotice payload s
  | .flitReceive seg lane index light => Sys2Proof.Machine.execFlitReceive seg lane index light s
  | .relayAck port tag => Sys2Proof.Machine.execRelayAck port tag s
  | .relayNak port tag => Sys2Proof.Machine.execRelayNak port tag s
  | .replayTimeout seg seq => Sys2Proof.Machine.execReplayTimeout seg seq s
  | .lanesFrame port tag => Sys2Proof.Machine.execLanesFrame port tag s
  | .laneRetrainDone seg lane => Sys2Proof.Machine.execLaneRetrainDone seg lane s
  | .enobWindowEnd seg lane enob xt => Sys2Proof.Machine.execEnobWindowEnd seg lane enob xt s
  | .keepSend port => Sys2Proof.Machine.execKeepSend port s
  | .keepFrame port tag => Sys2Proof.Machine.execKeepFrame port tag s
  | .loopOpenTimeout port => Sys2Proof.Machine.execLoopOpenTimeout port s
  | .portTrainingTimeout port => Sys2Proof.Machine.execPortTrainingTimeout port s
  | .ringLockCheck port lane tone margin marker => Sys2Proof.Machine.execRingLockCheck port lane tone margin marker s
  | .ringSweepDone port lane => Sys2Proof.Machine.execRingSweepDone port lane s
  | .laserPowerSample laser delta => Sys2Proof.Machine.execLaserPowerSample laser delta s
  | .laserStop laser => Sys2Proof.Machine.execLaserStop laser s
  | .spareWarmDone laser => Sys2Proof.Machine.execSpareWarmDone laser s
  | .spareLockTimeout laser => Sys2Proof.Machine.execSpareLockTimeout laser s
  | .laserChangeoverDone wavelength => Sys2Proof.Machine.execLaserChangeoverDone wavelength s
  | .tagEmitterFailure port => Sys2Proof.Machine.execTagEmitterFailure port s
  | .capLoopPeriod watts centivolts currentBelow report => Sys2Proof.Machine.execCapLoopPeriod watts centivolts currentBelow report s
  | .limiterSample milliamps => Sys2Proof.Machine.execLimiterSample milliamps s
  | .coreCodeSwitch core => Sys2Proof.Machine.execCoreCodeSwitch core s
  | .vcoreDroop rail => Sys2Proof.Machine.execVcoreDroop rail s
  | .thermalSensorScan die stack laserBank => Sys2Proof.Machine.execThermalSensorScan die stack laserBank s
  | .converterFail converter => Sys2Proof.Machine.execConverterFail converter s
  | .phaseFail rail phase => Sys2Proof.Machine.execPhaseFail rail phase s
  | .drabexWatchdogExpiry => Sys2Proof.Machine.execDrabexWatchdogExpiry  s
  | .dbxRestart => Sys2Proof.Machine.execDbxRestart  s
  | .logEntryWrite => Sys2Proof.Machine.execLogEntryWrite  s
  | .getCerts port object => Sys2Proof.Machine.execGetCerts port object s
  | .measure port object => Sys2Proof.Machine.execMeasure port object s
  | .doeAbort port => Sys2Proof.Machine.execDoeAbort port s
  | .doeDiscovery port index => Sys2Proof.Machine.execDoeDiscovery port index s
  | .mctpControlMessage ep msg => Sys2Proof.Machine.execMctpControlMessage ep msg s
  | .pldmDiscovery ep command => Sys2Proof.Machine.execPldmDiscovery ep command s
  | .pldmGetSensorReading ep request => Sys2Proof.Machine.execPldmGetSensorReading ep request s
  | .pldmRequestUpdate ep manifest len signatureOk => Sys2Proof.Machine.execPldmRequestUpdate ep manifest len signatureOk s
  | .pldmActivateFirmware ep => Sys2Proof.Machine.execPldmActivateFirmware ep s
  | .jtagInstruction instr => Sys2Proof.Machine.execJtagInstruction instr s
  | .d3hotEntry fn => Sys2Proof.Machine.execD3hotEntry fn s
  | .perstDeassert port => Sys2Proof.Machine.execPerstDeassert port s
  | .portLinkUp port => Sys2Proof.Machine.execPortLinkUp port s
  | .oringDisable fn oring value => Sys2Proof.Machine.execOringDisable fn oring value s
  | .reverseRelayFrame port tag => Sys2Proof.Machine.execReverseRelayFrame port tag s
  | .droopStretchEnd rail => Sys2Proof.Machine.execDroopStretchEnd rail s
  | .lowWordRead fn at_ => Sys2Proof.Machine.execLowWordRead fn at_ s
  | .bladeInsertion bu => Sys2Proof.Machine.execBladeInsertion bu s
  | .unlistedMailboxOp ep req => Sys2Proof.Machine.execUnlistedMailboxOp ep req s

end Sys2Proof.Machine
end

