-- ==== Sys2Proof/Machine/Idle.lean ====
section
/-! DEFINITION. What an empty queue does: TICK counts while the root PLL runs (R318), and what was begun and needs only
time completes. -/

namespace Sys2Proof.Machine

open Sys2Proof

/-- The root clock runs: the power-on sequence has passed step 2 and no shut-down holds (R317, R337). -/
def clockRuns (s : State) : Bool :=
  match s.power.phase with
  | .off => false
  | .tripped => false
  | .stopped => decide (3 ≤ s.power.step)
  | _ => true

/-- One idle period of the root clock: handovers under way complete (log 15), waiting BAR2 reads
are tried again (log 46), and TICK rises by 1 (DESIGN CHOICE, log 11). -/
def idle (s : State) : State :=
  if clockRuns s then
    let t := readsFinish (handsFinish s)
    { t with power := { t.power with tick := t.power.tick + 1#64 } }
  else s

end Sys2Proof.Machine
end

