-- ==== Sys2Proof/Safety.lean ====
section
/-! DEFINITION. What a sound state of the module is: properties that every command and every idle period keep. -/

namespace Sys2Proof

open Sys2Proof.Machine

/-- The byte memories (host as seen, DRAM, its upsets, core SRAM) are in their canonical form. -/
def memoriesOk (s : State) : Bool :=
  Memory.wf s.host && Memory.wf s.dram.cells && Memory.wf s.dram.flips && Memory.wf s.cores.sram

/-- The fine level and the two levels the Kettle keeps of it lie from 0 to 224 (R322). -/
def levelsOk (s : State) : Bool :=
  decide (s.kt.f ≤ 224) && decide (s.kt.depthF ≤ 224) && s.kt.heldF.all (fun f => decide (f ≤ 224))

/-- Log entries, first those in the flash and then those held in SRAM, carry SEQ numbers that rise and were all given
out before the next one; the SRAM holds at most 4,096 of them and the flash 262,144 (R358, R360, R361). -/
abbrev logOk (s : State) : Prop :=
  ((s.dbx.log ++ s.dbx.logHeld).map (·.seq)).Pairwise (· < ·) ∧ (∀ e ∈ s.dbx.log ++ s.dbx.logHeld, e.seq < s.dbx.logSeq)
    ∧ s.dbx.logHeld.length ≤ 4096 ∧ s.dbx.log.length ≤ 262144

/-- READY = 1 only after step 13: never at a bring-up fault, in recovery, after a trip or without input (R339 to R341). -/
def readyOk (s : State) : Bool := !s.power.ready || decide (s.power.phase = .ready)

/-- Part data other than SVN_MIN, as fused at manufacture. -/
def fusedPart (p : PartData) : PartData := { p with svnMin := 0 }

/-- From `s` to `t` the dispatched operation `o` completes with a status (R84, R125, R233): its counter is signalled, and
poisoned by a failure; its record goes to its output ring, or is held there; it leaves the in-flight table unless its
record is held; other operations, counters and everything outside the queues stay but for the fences its latches held and
the numbers of its collective. -/
structure Completed (s t : State) (o : Op) (st xs info : Nat) : Prop where
  evts : ∀ e, getEvt t e = if e = dSigEvt o.desc ∧ e ≠ 0xFFFF then
    { value := (getEvt s e).value + 1#32, poison := (getEvt s e).poison || stFail st } else getEvt s e
  silent : dCmpl o.desc = false → st = stOk → t.q.orings = s.q.orings ∧ t.host = s.host ∧ findOp t o.id = none
  written : dCmpl o.desc = true ∨ st ≠ stOk → oringOpen s o.part (getRing s o.ring).outRing = true →
    (getORing t (getRing s o.ring).outRing).produced = ((getORing s (getRing s o.ring).outRing).produced + 1) % 2 ^ 32
      ∧ ((findOp s o.id).all (fun x => x.phase ≠ .recordHeld) = true → findOp t o.id = none)
      ∧ (let r := getORing s (getRing s o.ring).outRing
         r.base + 2 ^ r.size * recSize r.recsz + 64 ≤ 2 ^ 64 →
         mread t.host (hostKey (fnPort (getPart s o.part).owner) (r.base + r.produced % 2 ^ r.size * recSize r.recsz)) 16
          = completionRecord o.desc o.ring st xs info)
  held : dCmpl o.desc = true ∨ st ≠ stOk → oringOpen s o.part (getRing s o.ring).outRing = false →
    (∃ h, (getORing t (getRing s o.ring).outRing).held = (getORing s (getRing s o.ring).outRing).held ++ [h]
      ∧ h.bytes = completionRecord o.desc o.ring st xs info)
      ∧ (findOp t o.id).all (fun x => x.phase = .recordHeld) = true
  others : ∀ x ∈ s.q.ops, x.id ≠ o.id → x ∈ t.q.ops
  frame : t = { s with fns := t.fns, host := t.host, q := t.q, pl := { s.pl with groups := t.pl.groups }, tr := { s.tr with vers := t.tr.vers } }

end Sys2Proof
end

