-- ==== Sys2Proof/Certificates/Slice0/Obligations.lean ====
section
/-! DEFINITION. The statements for the provers: rules of the spec and properties of the whole module, about `exec` and
`step`. -/

open Sys2Proof
open Sys2Proof.Machine

/-! ### The whole module -/

/-- A step takes the command at the front of the queue and executes it on the state with the queue's rest. -/
def Obligations.StepExecutesFrontCommand : Prop :=
  ∀ (c : Instr) (rest : List Instr) (s : State), s.pending = c :: rest → step s = exec c { s with pending := rest }

/-- Every command answers a next state: that no command faults and none is refused, in any state, is the model's choice (log
17). A step then removes exactly the front command, and the commands behind it wait on, in their order. -/
def Obligations.EveryCommandCompletes : Prop :=
  (∀ (c : Instr) (s : State), ∃ t, exec c s = .next t) ∧ (∀ s t : State, step s = .next t → t.pending = s.pending.tail)

/-- Every step keeps the byte memories (host as seen, DRAM with its upsets, core SRAM) in their canonical form. -/
def Obligations.StepKeepsMemoriesCanonical : Prop :=
  ∀ s t : State, memoriesOk s = true → step s = .next t → memoriesOk t = true

/-- R322: the Kettle's fine level, and the levels it keeps of it, stay from 0 to 224 in every step. -/
def Obligations.StepKeepsFineLevel : Prop := ∀ s t : State, levelsOk s = true → step s = .next t → levelsOk t = true

/-- R360, R361: in every step the SEQ numbers of the log rise, each below the next to be given out, which never falls, and
the SRAM holds at most 4,096 entries. -/
def Obligations.StepKeepsLogOrder : Prop :=
  ∀ s t : State, logOk s → step s = .next t → logOk t ∧ s.dbx.logSeq ≤ t.dbx.logSeq

/-- READY reads 1 only when the power-on sequence has reached step 13: in every step, READY = 1 goes with the phase after
it (R339 to R341). -/
def Obligations.StepKeepsReadyMeaning : Prop := ∀ s t : State, readyOk s = true → step s = .next t → readyOk t = true

/-- The state at reset meets every invariant above. -/
def Obligations.ResetMeetsInvariants : Prop :=
  memoriesOk State.reset = true ∧ levelsOk State.reset = true ∧ logOk State.reset ∧ readyOk State.reset = true

/-- R368: no step lowers SVN_MIN, and no step changes any other fused or programmed part data (R51, R320). -/
def Obligations.StepKeepsFuses : Prop :=
  ∀ s t : State, step s = .next t → s.part.svnMin ≤ t.part.svnMin ∧ fusedPart t.part = fusedPart s.part

/-- R318: on an empty queue a step is one period of TICK's clock: TICK rises by 1 modulo 2^64 while the root clock runs, and
no other power state changes (that an empty queue stands for the passing of time is the model's choice, log 11); with no
handover under way and no read waiting, nothing else changes at all. In a step that executes a command TICK stays, or
restarts at 0 in a cold reset. -/
def Obligations.StepTick : Prop :=
  (∀ s : State, s.pending = [] →
    ∃ t, step s = .next t ∧ t.power = { s.power with tick := if clockRuns s then s.power.tick + 1#64 else s.power.tick }
      ∧ t.pending = [] ∧ ((∀ p, p < 8 → (getPart s p).hand = none) → s.reads = [] → t = { s with power := t.power }))
  ∧ (∀ s t : State, s.pending ≠ [] → step s = .next t → t.power.tick = s.power.tick ∨ t.power.tick = 0#64)

/-- The values that the register reference states for reset. -/
def Obligations.ResetValues : Prop :=
  (∀ f, (getFn State.reset f).irqMask = 0x7F#32 ∧ (getFn State.reset f).sweep = 2 ∧ (getFn State.reset f).mbBusy = false)
    ∧ (∀ p, (getPart State.reset p).timeout = 0x54 ∧ (getPart State.reset p).quota = 0 ∧ (getPart State.reset p).state = .disabled
      ∧ (getPart State.reset p).ufLimit = 0x419)
    ∧ (∀ r, (getRing State.reset r).enable = false ∧ (getRing State.reset r).state = 0 ∧ (getRing State.reset r).consumed = 0)
    ∧ (∀ o, (getORing State.reset o).enable = false ∧ (getORing State.reset o).produced = 0)
    ∧ (∀ p, (getPort State.reset p).holdMs = 0x3E8)
    ∧ State.reset.links.minWl = 4 ∧ State.reset.links.q16Up = 0x58 ∧ State.reset.links.q16Down = 0x50 ∧ State.reset.links.qpskUp = 0x30
    ∧ State.reset.links.qpskDown = 0x28 ∧ State.reset.links.xt16 = 0x48 ∧ State.reset.links.xtOff = 0x30
    ∧ State.reset.kt.det = false ∧ State.reset.power.ready = false ∧ State.reset.power.tick = 0#64 ∧ State.reset.pending = []

/-! ### The queue engine -/

namespace Sys2Proof.Claims

/-- An event of the code has been raised: its bit of the management view is set (R353). -/
def raised (t : State) (code : Nat) : Prop := (tget 0#32 t.dbx.mview (code / 256 - 1)).getLsbD (code % 256 - 1) = true

/-- From `s` to `t` a descriptor of a ring completes before its dispatch (R84, R85, R89, R125): its counter, where it lies in
the partition's range, is signalled and poisoned; its record stands in the host's slot of the output ring, or is held there;
the module's memory, its operations and everything outside the queues stay but for the numbers of its collective (R233). -/
def endsUndispatched (s t : State) (p ring : Nat) (d : Bytes) (st xs : Nat) : Prop :=
  let out := (getRing s ring).outRing
  let x := getORing s out
  let record := completionRecord d ring st xs 0
  (∀ e, getEvt t e = if evtsOk s p d = true ∧ e = dSigEvt d ∧ e ≠ 0xFFFF then
      { value := (getEvt s e).value + 1#32, poison := true } else getEvt s e)
    ∧ (oringOpen s p out = true →
      (getORing t out).produced = (x.produced + 1) % 2 ^ 32
        ∧ (x.base + 2 ^ x.size * recSize x.recsz + 64 ≤ 2 ^ 64 →
          mread t.host (hostKey (fnPort (getPart s p).owner) (x.base + x.produced % 2 ^ x.size * recSize x.recsz)) 16 = record))
    ∧ (oringOpen s p out = false → ∃ h, (getORing t out).held = x.held ++ [h] ∧ h.bytes = record)
    ∧ (∀ o, o ≠ out → getORing t o = getORing s o) ∧ (∀ k, k ≠ ring → getRing t k = getRing s k)
    ∧ t = { s with fns := t.fns, host := t.host, pl := { s.pl with groups := t.pl.groups }
                   q := { s.q with rings := t.q.rings, orings := t.q.orings, evts := t.q.evts } }

end Sys2Proof.Claims

/-- R117: the slots ready are counted modulo 2^32, and index i names slot i mod 2^SIZE. A fetch from an enabled running ring
with ready slots takes one descriptor of one slot, or of two (R116, R118): CONSUMED passes its slots, and the ring's status
block shows it. A count above the ring's slots stops the ring with ERROR 1 and sets its ring-error leaf. Where the producer
index splits an extended descriptor, nothing is fetched of it. R119: the ring is the one whose turn it is, and the turn then
passes on (that it passes on after an overrun and after a split descriptor is the model's reading, log 137); a ring whose
turn it is not fetches nothing. Nothing but the ring, the turn, that leaf and host memory changes. -/
def Obligations.FetchFollowsProducerIndex : Prop :=
  ∀ (ring : Nat) (host : HostIn) (s : State) (p n : Nat) (b d : Bytes),
    let r := getRing s ring
    let port := fnPort (getPart s p).owner
    let slot := r.consumed % 2 ^ r.size
    let ready := (r.producer + 2 ^ 32 - r.consumed) % 2 ^ 32
    let from_ (k : Nat) : HostData := hostRead (hostStores s host) host port (r.base + 64 * k) 64
    let passed : Queues := { s.q with nextPart := p + 1, nextRing := tset 0 p (ring + 1) s.q.nextRing }
    (fetchTurn s ≠ some (p, ring) → ringPart s ring = some p → exec (.descriptorFetch ring host) s = .next (hostStores s host))
    ∧ (fetchTurn s = some (p, ring) →
      ringPart s ring = some p ∧ r.enable = true ∧ r.state = 1 ∧ partReachable s p = true ∧ fnRuns s (getPart s p).owner = true ∧ ready ≠ 0)
    ∧ (fetchTurn s = some (p, ring) → ready ≤ 2 ^ r.size → from_ slot = .data b →
      ((dExt b = false ∨ slot + 1 = 2 ^ r.size) ∧ n = 1 ∧ d = b
        ∨ dExt b = true ∧ slot + 1 ≠ 2 ^ r.size ∧ 2 ≤ ready ∧ n = 2 ∧ ∃ b2, from_ (slot + 1) = .data b2 ∧ d = b ++ b2) →
      ∃ t, exec (.descriptorFetch ring host) s = .next t
        ∧ (getRing t ring).consumed = (r.consumed + n) % 2 ^ 32
        ∧ (getRing t ring).waiting = r.waiting ++ [{ pos := r.consumed, bytes := d }]
        ∧ mread t.host (hostKey port (r.base + 64 * 2 ^ r.size)) 4 = leBytes 4 ((r.consumed + n) % 2 ^ 32)
        ∧ (∀ k, k ≠ ring → getRing t k = getRing s k)
        ∧ t = { s with host := t.host, q := { passed with rings := t.q.rings } })
    ∧ (fetchTurn s = some (p, ring) → 2 ^ r.size < ready →
      ∃ t, exec (.descriptorFetch ring host) s = .next t
        ∧ (getRing t ring).state = 2 ∧ (getRing t ring).error = 1
        ∧ (getRing t ring).consumed = r.consumed ∧ (getRing t ring).waiting = r.waiting
        ∧ (tget 0#32 (getFn t (getPart s p).owner).leaves (0x41200 + 8 * (ring / 64) + 4 * ((ring % 64) / 32))).getLsbD (ring % 32) = true
        ∧ (∀ k, k ≠ ring → getRing t k = getRing s k)
        ∧ t = { s with fns := t.fns, host := t.host, q := { passed with rings := t.q.rings } })
    ∧ (fetchTurn s = some (p, ring) → ready = 1 → from_ slot = .data b → dExt b = true → slot + 1 ≠ 2 ^ r.size →
      exec (.descriptorFetch ring host) s = .next { hostStores s host with q := passed })

/-- R82, R126: the head descriptor of a ring is dispatched once its checks pass and nothing holds it back: it takes a
slot of the in-flight table as an operation of its ring's core, and leaves the ring. Memory, registers and the other
rings stay. -/
def Obligations.DispatchStartsHeadDescriptor : Prop :=
  ∀ (ring : Nat) (s : State) (p : Nat) (f : Fetched) (rest : List Fetched),
    let r := getRing s ring
    let d := f.bytes
    ringPart s ring = some p → r.waiting = f :: rest → headRefusal s p r.target d (wrapsRing d) = none →
    waitDone s (dWaitEvt d) (dWaitVal d) = true →
    (dWaitEvt d = 0xFFFF ∨ (getEvt s (dWaitEvt d)).poison = false ∨ dPass d = true) →
    lateRefusal s p r.target d = none → (dOrder d = false ∨ ringDone s ring = true) → partOps s p < (getPart s p).quota →
    (r.target = netTarget ∨ (getCore s r.target).stopped = false) → r53Free s p r.target d = true →
    ∃ t o, exec (.dispatch ring) s = .next t
      ∧ o ∈ t.q.ops ∧ o.id = s.q.opSeq ∧ o.part = p ∧ o.ring = ring ∧ o.core = r.target ∧ o.pos = f.pos ∧ o.desc = d
      ∧ o.phase = .running ∧ t.q.opSeq = s.q.opSeq + 1 ∧ (∀ x ∈ s.q.ops, x.id ≠ s.q.opSeq → x ∈ t.q.ops)
      ∧ (getRing t ring).waiting = rest ∧ (∀ k, k ≠ ring → getRing t k = getRing s k)
      ∧ t = { s with q := t.q, tr := t.tr }

/-- R83, R11: where the awaited counter's poison bit is set when the wait is satisfied, and PASS = 0, the head descriptor is not
executed and completes POISONED_INPUT with XSTATUS 0x01, unless a check that is made then fails: it completes with that
check's status, which ranks before. Either way it leaves the ring, its own counter is signalled and poisoned, the
module's memory stays, and its record is written to its output ring, or held there. That this happens at once, whatever ORDER,
the quota and running operations would have it wait for, is the model's reading (log 19). -/
def Obligations.DispatchPropagatesPoison : Prop :=
  ∀ (ring st xs : Nat) (s : State) (p : Nat) (f : Fetched) (rest : List Fetched),
    let r := getRing s ring
    let d := f.bytes
    ringPart s ring = some p → r.waiting = f :: rest → headRefusal s p r.target d (wrapsRing d) = none →
    waitDone s (dWaitEvt d) (dWaitVal d) = true →
    (lateRefusal s p r.target d = some (st, xs)
      ∨ lateRefusal s p r.target d = none ∧ dWaitEvt d ≠ 0xFFFF ∧ (getEvt s (dWaitEvt d)).poison = true ∧ dPass d = false
        ∧ st = stPoison ∧ xs = 1) →
    ∃ t, exec (.dispatch ring) s = .next t
      ∧ (getRing t ring).waiting = rest ∧ (getRing t ring).consumed = r.consumed ∧ Claims.endsUndispatched s t p ring d st xs

/-- R76, R87 to R89: a descriptor whose timer expires before its dispatch leaves the ring and completes TIMEOUT, with XSTATUS 1
where it still waited for its counter and 6 where not (R87); it writes no memory of the module. A STEP_VOTE that ends so decides
nothing (R225): its step is discarded, or, once the member has contributed, raised as STEP_UNDECIDED. The timer of a dispatched
operation ends it with TIMEOUT: XSTATUS 4 where it waited for a layer's slot or format, 2 where it runs (its outputs then
undefined, R89), 5 for a collective that has not opened and 3 for one that has; a change of epoch that did not drain to
its end is not agreed (0x82, R283). An ST_ARM that a fence kept from its slot ends STEP_STALE (R227). The command brings no
clock count, so INFO's time is a free value (the model's choice of the moment and the value, logs 14, 24); that a change's timer
leaves the epoch in force is the model's reading (log 109). -/
def Obligations.TimeoutEndsWaitingDescriptor : Prop :=
  (∀ (ring index : Nat) (s : State) (p : Nat) (f : Fetched),
    let d := f.bytes
    let xs := if waitDone s (dWaitEvt d) (dWaitVal d) then 6 else 1
    ringPart s ring = some p → (getRing s ring).waiting[index]? = some f →
    ∃ v t, exec (.descriptorTimeout (.waiting ring index)) s = .next t
      ∧ (getRing v ring).waiting = (getRing s ring).waiting.eraseIdx index ∧ Claims.endsUndispatched s v p ring d stTimeout xs
      ∧ (dBase d ≠ 0x8207 → t = v)
      ∧ (dBase d = 0x8207 → (recordFor (getVote s p) (cStep d)).isSome = true →
        cStep d ∈ (getVote t p).undecided ∧ Claims.raised t 0x0603 ∧ t.dram = s.dram ∧ t.tr = s.tr)
      ∧ (dBase d = 0x8207 → recordFor (getVote s p) (cStep d) = none →
        cStep d ∈ (getVote t p).discarded ∧ (∀ l ∈ claimedFor s p (cStep d), (getVer t l).claim = none)))
  ∧ (∀ (id : Nat) (s : State) (o : Op),
    let d := o.desc
    let c : Instr := .descriptorTimeout (.dispatched id)
    let ends (v : State) (st xs info : Nat) : Prop := ∃ t, exec c s = .next t ∧ Completed v t o st xs info
    let blocked : Prop := o.started = false ∧ (enforceState s o.part d = 1 ∨ latchesFor s o.part (usesOf s o.part d) = none)
    findOp s id = some o →
    (o.phase = .recordHeld → exec c s = .next s)
    ∧ (o.phase = .freeing →
      ∃ v info, ends v stTimeout 2 info ∧ v.dram = s.dram ∧ v.cores = s.cores
        ∧ ∀ e, getStash s o.part (fld d 0x10 4) = some e → getStash v o.part (fld d 0x10 4) = some { e with freeing := some o.id })
    ∧ (o.phase ≠ .recordHeld → o.phase ≠ .freeing → (dBase d = 0x71C0 → o.phase ≠ .registered) →
      (blocked → ends s stTimeout 4 0)
      ∧ (¬ blocked → isColl d = false → o.phase ≠ .registered →
        (o.started = false → ends s stTimeout 2 0)
        ∧ (o.started = true → ∃ info, ends (freePins (freeOuts (drawFree s 1) o { cycles := freeClocks s }) o) stTimeout 2 info))
      ∧ (¬ blocked → isColl d = true → ctxByOp s id = none →
        ∃ w t, Completed (if o.started then freePins (freeOuts s o {}) o else s) w o stTimeout 5 0 ∧ exec c s = .next t
          ∧ t = (if cOp d = 7 then stepUndecided w o.part d else w))
      ∧ (∀ x, ¬ blocked → isColl d = true → ctxByOp s id = some x →
        ∃ v w t, Completed v w o stTimeout 3 0 ∧ ctxByOp v id = none ∧ exec c s = .next t
          ∧ t = (if x.code = 7 then stepUndecided w o.part d else w))
      ∧ (¬ blocked → isColl d = false → o.phase = .registered →
        ((∀ e, s.fab.change = some e → e.op ≠ some id) → ends s stTimeout 2 0)
        ∧ (∀ e, s.fab.change = some e → e.op = some id →
          ∃ w, Completed { s with fab := { s.fab with change := none } } w o (if e.draining then stTimeout else 0x82) (if e.draining then 2 else 0) 0
            ∧ exec c s = .next (inject w))))
    ∧ (o.phase = .registered → dBase d = 0x71C0 →
      (findArming s id = none → ends s stTimeout 2 0)
      ∧ (∀ a, findArming s id = some a →
        ∃ v, findArming v id = none ∧ v.dram = s.dram ∧ v.tr = s.tr
          ∧ (claimFenced s a = true → ends v stStale 2 (armInfo a)) ∧ (claimFenced s a = false → ends v stTimeout 3 (armInfo a)))))

/-- R125: the oldest held record of an output ring is written to its slot once the ring is enabled and has room, PRODUCED
rises by 1, and a held completion record frees its operation's slot of the in-flight table. -/
def Obligations.HeldRecordIsWritten : Prop :=
  ∀ (oring : Nat) (s : State) (p : Nat) (h : HeldRec) (rest : List HeldRec),
    let x := getORing s oring
    let port := fnPort (getPart s p).owner
    oringPart s oring = some p → x.held = h :: rest → x.enable = true → oringFull x = false → partReachable s p = true →
    h.bytes.length = recSize x.recsz → x.base + 2 ^ x.size * recSize x.recsz + 64 ≤ 2 ^ 64 →
    ∃ t, exec (.heldRecordRelease oring) s = .next t
      ∧ (getORing t oring).held = rest ∧ (getORing t oring).produced = (x.produced + 1) % 2 ^ 32
      ∧ mread t.host (hostKey port (x.base + x.produced % 2 ^ x.size * recSize x.recsz)) (recSize x.recsz) = h.bytes
      ∧ mread t.host (hostKey port (x.base + 2 ^ x.size * recSize x.recsz)) 4 = leBytes 4 ((x.produced + 1) % 2 ^ 32)
      ∧ (∀ k, k ≠ oring → getORing t k = getORing s k)
      ∧ (match h.kind with
        | .completion _ _ (some i) => t.q.ops = s.q.ops.filter (fun o => o.id ≠ i)
        | _ => t.q.ops = s.q.ops)
      ∧ t.dram = s.dram ∧ t.cores = s.cores ∧ t.power = s.power ∧ t.parts = s.parts ∧ t.q.rings = s.q.rings ∧ t.q.evts = s.q.evts

/-- R117, R120 to R123: a sweep, timed or woken, takes the producer index of every enabled submission ring of the function's
partition, and the consumer index of every enabled output ring, from its doorbell slot, page by page; here no read of host
memory fails. A ring whose index runs more than 2^SIZE ahead of CONSUMED stops with ERROR 1, its ring-error leaf is set, and
its status block says so. QE_WAKE sweeps the pages it names, or all of them. The host's configuration writes that come with a
timed sweep take effect before it (the model's choice, log 162); an MSI-X message that waited is sent when its vector is
unmasked (R128; the standard's rule, log 7). -/
def Obligations.SweepReadsProducerIndices : Prop :=
  ∀ (fn : Nat) (host : HostIn) (value : Word32) (c : Instr) (pages : Nat) (s : State) (p : Nat),
    (∀ s1, (c = .doorbellSweep fn host ∧ s1 = configWrites (hostStores s host) host ∧ pages = 0xFF
        ∨ c = .qeWake fn value host ∧ s1 = hostStores s host ∧ fnAnswers s fn = true
          ∧ pages = (if field value.toNat 0 8 = 0 then 0xFF else field value.toNat 0 8)) →
      let page (n : Nat) : DbPage := tget {} (getFn s1 fn).pages n
      let index (n slot : Nat) : Nat := fld (mread s1.host (hostKey (fnPort fn) ((page n).addr + 64 * (slot / 16))) 64) (4 * (slot % 16)) 4
      let swept (n : Nat) : Prop := n < 8 ∧ bit pages n = true ∧ (page n).valid = true
      let ringSwept (k : Nat) : Prop := ringPart s k = some p ∧ (getRing s k).enable = true ∧ swept (getRing s k).dbPage
      let next (k : Nat) : Ring := { getRing s k with producer := index (getRing s k).dbPage (getRing s k).dbSlot }
      let overrun (k : Nat) : Prop := (getRing s k).state = 1 ∧ 2 ^ (getRing s k).size < ((next k).producer + 2 ^ 32 - (getRing s k).consumed) % 2 ^ 32
      let keeps (t : State) : Prop :=
        t.q.ops = s.q.ops ∧ t.q.evts = s.q.evts ∧ t.dram = s.dram ∧ t.cores = s.cores ∧ t.power = s.power ∧ t.parts = s.parts ∧ t.dbx = s.dbx
      host.rejects = [] → host.poisons = [] → ownedPart s fn = some p → fnRuns s1 fn = true → partReachable s p = true →
      ((∀ k, ringSwept k → ¬ overrun k) →
        ∃ t, exec c s = .next t ∧ (∀ k, ringSwept k → getRing t k = next k)
          ∧ (∀ k, oringPart s k = some p → (getORing s k).enable = true → swept (getORing s k).dbPage →
            getORing t k = { getORing s k with consumer := index (getORing s k).dbPage (getORing s k).dbSlot })
          ∧ t.host = s1.host ∧ keeps t)
      ∧ (∀ ring, ringSwept ring → overrun ring → (∀ k, k ≠ ring → ringSwept k → ¬ overrun k) →
        ∃ t, exec c s = .next t ∧ getRing t ring = { next ring with state := 2, error := 1 }
          ∧ (tget 0#32 (getFn t fn).leaves (0x41200 + 8 * (ring / 64) + 4 * ((ring % 64) / 32))).getLsbD (ring % 32) = true
          ∧ mread t.host (hostKey (fnPort fn) ((getRing s ring).base + 64 * 2 ^ (getRing s ring).size)) 6
            = leBytes 4 (getRing s ring).consumed ++ [2#8, 1#8]
          ∧ keeps t))
    ∧ (∀ on masked, host.config = [(fn, .msix on masked)] → fnExists s fn = true → (getPort s (fnPort fn)).up = true → ownedPart s fn = none →
      ∃ t, exec (.doorbellSweep fn host) s = .next t
        ∧ getFn t fn = { getFn s fn with
            msixOn := on, msixMasked := masked
            msix := if on = true ∧ masked = false ∧ (getFn s fn).msixPend = true then (getFn s fn).msix + 1 else (getFn s fn).msix
            msixPend := (getFn s fn).msixPend && !(on && !masked) }
        ∧ (∀ f, f ≠ fn → getFn t f = getFn s f) ∧ t = { s with host := t.host, fns := t.fns })
/-! ### Registers -/

/-- R128: clearing bits of an interrupt leaf, or writing IRQ_MASK, changes that word alone, and sends one MSI-X message
where it leaves the masked IRQ_SUM non-zero. A message that waits behind the vector's mask is dropped once the masked IRQ_SUM
is zero (the PCIe standard's rule, log 7). -/
def Obligations.InterruptWrites : Prop :=
  ∀ (fn offset o : Nat) (value : Word32) (s : State), fnAnswers s fn = true →
    let r := getFn s fn
    let sends (a b : FnRegs) : Prop :=
      if irqMasked b (isPf fn) = 0#32 then b.msix = a.msix ∧ b.msixPend = false
      else if !r.msixOn then b.msix = a.msix ∧ b.msixPend = a.msixPend
      else if r.msixMasked then b.msix = a.msix ∧ b.msixPend = true else b.msix = a.msix + 1 ∧ b.msixPend = a.msixPend
    (placeAt s fn offset = .reg (.irqLeaf o) →
      ∃ t, exec (.irqLeafClear fn offset value) s = .next t
        ∧ tget 0#32 (getFn t fn).leaves o = tget 0#32 r.leaves o &&& ~~~value
        ∧ (∀ k, k ≠ o → tget 0#32 (getFn t fn).leaves k = tget 0#32 r.leaves k)
        ∧ (getFn t fn).irqMask = r.irqMask ∧ sends r (getFn t fn)
        ∧ (∀ f, f ≠ fn → getFn t f = getFn s f) ∧ t = { s with fns := t.fns })
    ∧ ∃ t, exec (.irqMaskWrite fn value) s = .next t
        ∧ (getFn t fn).irqMask = value &&& 0x7F#32 ∧ (getFn t fn).leaves = r.leaves ∧ sends r (getFn t fn)
        ∧ (∀ f, f ≠ fn → getFn t f = getFn s f) ∧ t = { s with fns := t.fns }

/-- R6, R131: the first write of FN_DRVIF fixes what a driver negotiates: a known MAJOR is accepted at the lower of the
two minor versions, another refused, whose minor stands as written (the model's choice, log 140). Later writes change nothing. The
minor versions are the part's, or those of a bundle since written to the boot slot (free values of its bytes, log 179). -/
def Obligations.DriverNegotiation : Prop :=
  ∀ (fn : Nat) (value : Word32) (s : State), fnAnswers s fn = true → fnAuth s fn = .ok →
    let major := field value.toNat 8 8
    let minor := field value.toNat 0 8
    ((getFn s fn).drvWritten = true → exec (.driverNegotiate fn value) s = .next s)
    ∧ ((getFn s fn).drvWritten = false →
      ∃ t, exec (.driverNegotiate fn value) s = .next t
        ∧ getFn t fn = { getFn s fn with
            drvWritten := true, drvMajor := major, accepted := decide (major = 1 ∨ major = 2), refused := decide (¬(major = 1 ∨ major = 2))
            drvMinor := if major = 2 then min minor (curMinorOf s) else if major = 1 then min minor (prevMinorOf s) else minor }
        ∧ (∀ f, f ≠ fn → getFn t f = getFn s f) ∧ t = { s with fns := t.fns })
    ∧ ((getSlot s s.power.slot).image = none → curMinorOf s = s.part.curMinor ∧ prevMinorOf s = s.part.prevMinor)

/-- R362, R331: writing DBX_MB_ASYNC removes the oldest notice (bit 31) and clears OVERFLOW (bit 30); a notice that then
appears sets the leaf's ASYNC bit. Writing KT_CTRL.DET by a PF with no partition enabled pins the fine level at the floor, also
one that lost telemetry holds; clearing it leaves the level. DET set while clocks are skipped raises KT_DET_BREACH (the
model's reading, log 107). Nothing else changes. -/
def Obligations.AsyncAndDetWrites : Prop :=
  ∀ (fn : Nat) (value : Word32) (s : State), fnAnswers s fn = true →
    let r := getFn s fn
    let after : FnRegs := { r with
      mbAsync := if value.getLsbD 31 then r.mbAsync.tail else r.mbAsync
      mbOverflow := r.mbOverflow && !value.getLsbD 30 }
    let on := value.getLsbD 0
    let floor := 32 * floorCodeOf s.part.variant
    let kt : Kettle := { s.kt with
      det := on, f := if on then floor else s.kt.f, heldF := if on then s.kt.heldF.map (fun _ => floor) else s.kt.heldF }
    ((value.getLsbD 31 = false ∨ r.mbAsync.tail = []) →
      ∃ t, exec (.mbAsyncRemove fn value) s = .next t ∧ getFn t fn = after ∧ (∀ f, f ≠ fn → getFn t f = getFn s f) ∧ t = { s with fns := t.fns })
    ∧ (value.getLsbD 31 = true → r.mbAsync.tail ≠ [] →
      ∃ t, exec (.mbAsyncRemove fn value) s = .next t
        ∧ (let g := getFn t fn
           g = { after with leaves := g.leaves, msix := g.msix, msixPend := g.msixPend, lastSum := g.lastSum }
            ∧ tget 0#32 g.leaves 0x40024 = tget 0#32 r.leaves 0x40024 ||| 2#32 ∧ ∀ k, k ≠ 0x40024 → tget 0#32 g.leaves k = tget 0#32 r.leaves k)
        ∧ (∀ f, f ≠ fn → getFn t f = getFn s f) ∧ t = { s with fns := t.fns })
    ∧ (isPf fn = true → anyPartEnabled s = false →
      (on = false ∨ s.kt.det = true ∨ s.kt.depth = 0 → exec (.detModeWrite fn value) s = .next { s with kt := kt })
      ∧ (on = true → s.kt.det = false → s.kt.depth ≠ 0 →
        ∃ t, exec (.detModeWrite fn value) s = .next t ∧ t.kt = kt ∧ Claims.raised t 0x0803
          ∧ t = { s with kt := t.kt, dbx := t.dbx, fns := t.fns, host := t.host, q := t.q }))

namespace Sys2Proof.Claims

/-- The writable fields of the registers that take a value and do nothing else: (lowest bit, width) (R6, R379). -/
def plainFields : Reg → List (Nat × Nat)
  | .fnHold => [(0, 14)]
  | .fnFabOwner => [(0, 3), (31, 1)]
  | .partRings _ | .partORings _ | .partEvt _ | .plGrp _ | .plMc _ => [(0, 6), (6, 7)]
  | .partQuota _ => [(0, 15)]
  | .partTimeout _ => [(0, 8)]
  | .seedLo _ | .seedHi _ | .partCores _ _ | .dbHi _ | .oBaseHi _ | .rBaseHi _ | .mbData _ => [(0, 32)]
  | .qeSweep => [(0, 6)]
  | .dbLo _ => [(0, 1), (12, 20)]
  | .oBaseLo _ | .rBaseLo _ => [(12, 20)]
  | .oDb _ | .rDb _ => [(0, 10), (10, 3)]
  | .regionPda _ => [(0, 16)]
  | .hxCfg => [(0, 4)]
  | .modeThr => [(0, 8), (8, 8), (16, 8), (24, 8)]
  | .xtThr => [(0, 8), (8, 8)]
  | .plCtx _ => [(0, 9)]
  | .layBase _ | .govCfg _ | .cdRec _ => [(0, 20)]
  | .shardCfg _ => [(0, 5), (6, 6)]
  | .cdRex _ => [(0, 20), (20, 12)]
  | .ktCap => [(0, 16)]
  | _ => []

/-- Who may write such a register, and when (R379). -/
def authority (s : State) (fn : Nat) : Reg → Option Auth
  | .fnHold => some (portAuth s fn)
  | .fnFabOwner | .hxCfg | .modeThr | .xtThr | .ktCap => some (modAuth s fn)
  | .partRings p | .partORings p | .partEvt p | .partQuota p | .partCores p _ | .plGrp p | .plCtx p | .plMc p | .shardCfg p =>
    some (partResAuth s fn p)
  | .partTimeout p | .seedLo p | .seedHi p | .layBase p | .govCfg p | .cdRec p | .cdRex p => some (partSetAuth s fn p)
  | .regionPda rid => some (partSetAuth s fn (rid / 64))
  | .qeSweep | .dbLo _ | .dbHi _ => some (fnAuth s fn)
  | .oBaseLo o | .oBaseHi o | .oDb o => some (oringAuth s fn o false)
  | .rBaseLo r | .rBaseHi r | .rDb r => some (ringAuth s fn r false)
  | .mbData _ => some .ok
  | _ => none

/-- The values that a register takes; the mailbox data is fixed while it is busy. -/
def takes (s : State) (fn : Nat) (g : Reg) (v : Nat) : Prop :=
  match g with
  | .partTimeout _ => field v 0 8 ≠ 0 ∧ (field v 0 6 ≠ 0 ∨ field v 6 2 = 0)
  | .qeSweep => 1 ≤ field v 0 6 ∧ field v 0 6 ≤ 32
  | .hxCfg => 4 ≤ field v 0 4 ∧ field v 0 4 ≤ 8
  | .modeThr => field v 16 8 < field v 24 8 ∧ field v 8 8 ≤ field v 16 8 ∧ field v 0 8 < field v 8 8
  | .xtThr => field v 0 8 < field v 8 8
  | .ktCap => 100 ≤ field v 0 16
  | .mbData _ => (getFn s fn).mbBusy = false
  | _ => True

/-- Registers that no write changes (RO). -/
def readOnly : Reg → Bool
  | .idModule | .idStatus | .idIfver | .idBlk0 | .idBlk1 | .idCap0 | .idCap1 | .idCores | .fnFlr | .partStatus _ | .irqSum | .irqLevel2 _
  | .regionSlot _ | .chStat _ | .chRows _ | .hxPort _ | .laserStat _ | .wlStat _ _ | .fabEpoch | .planStat | .fenceCnt | .fabDiscard
  | .fabNbr _ | .fenceList _ | .ktStat | .ktPin | .ktCore _ => true
  | _ => false

end Sys2Proof.Claims

/-- R6, R378, R379: a write that does not cover one aligned word is discarded and sets FN_STATUS.BAD_ACCESS. A plain register
takes the value written, every writable field of it, where the function has the authority and the value is one the register
takes; without the authority the write is discarded and sets FOREIGN or LATE_WRITE. FN_STATUS clears the bits written 1; a 1
sets GO and BUSY of a mailbox that is not busy (when GO clears is the model's choice, log 139); a partition window of a VF without
partition sets FOREIGN, and a read-only register and an empty offset take nothing. Nothing else of the module changes. A read of
another width than one aligned word returns the addressed bytes of the words it lies in (R378). -/
def Obligations.RegisterWriteAuthority : Prop :=
  ∀ (fn offset : Nat) (enables : BitVec 4) (value : Word32) (s : State), fnAnswers s fn = true →
    let w := Instr.registerWrite fn offset enables value
    let v := value.toNat
    let marks (g : FnRegs → FnRegs) : Prop :=
      ∃ t, exec w s = .next t ∧ getFn t fn = g (getFn s fn) ∧ (∀ f, f ≠ fn → getFn t f = getFn s f) ∧ t = { s with fns := t.fns }
    (enables ≠ 0xF#4 ∨ offset % 4 ≠ 0 → marks (fun r => { r with badAccess := true }))
    ∧ (enables = 0xF#4 → offset % 4 = 0 →
      (∀ g, placeAt s fn offset = .reg g → (getFn s fn).refused = false ∨ (getFn s fn).accepted = true →
        (Claims.authority s fn g = some .foreign → marks (fun r => { r with foreign := true }))
        ∧ (Claims.authority s fn g = some .late → marks (fun r => { r with lateWrite := true }))
        ∧ (Claims.authority s fn g = some .ok → Claims.takes s fn g v →
          ∃ t, exec w s = .next t ∧ (∀ b ∈ Claims.plainFields g, field (regValue t fn g) b.1 b.2 = field v b.1 b.2)
            ∧ t = { s with
                fns := t.fns, ports := t.ports, parts := t.parts, fabOwner := t.fabOwner, fabOwnerPart := t.fabOwnerPart
                q := { s.q with rings := t.q.rings, orings := t.q.orings }, dram := { s.dram with regions := t.dram.regions }
                links := { s.links with minWl := t.links.minWl, q16Up := t.links.q16Up, q16Down := t.links.q16Down, qpskUp := t.links.qpskUp,
                                        qpskDown := t.links.qpskDown, xt16 := t.links.xt16, xtOff := t.links.xtOff }
                kt := { s.kt with hostCap := t.kt.hostCap } }))
      ∧ (placeAt s fn offset = .reg .ktCap → isPf fn = true → anyPartEnabled s = false → 100 ≤ field v 0 16 →
          exec w s = .next { s with kt := { s.kt with hostCap := field v 0 16 } })
      ∧ (placeAt s fn offset = .reg .fnStatus → marks (fun r => { r with
          badAccess := r.badAccess && !bit v 2, foreign := r.foreign && !bit v 1, lateWrite := r.lateWrite && !bit v 0 }))
      ∧ (placeAt s fn offset = .reg .mbCtrl → marks (fun r => { r with
          mbGo := r.mbGo || (bit v 31 && !r.mbBusy), mbBusy := r.mbBusy || bit v 31 }))
      ∧ (placeAt s fn offset = .noPart → marks (fun r => { r with foreign := true }))
      ∧ (placeAt s fn offset = .none ∨ (∃ g, placeAt s fn offset = .reg g ∧ Claims.readOnly g = true) → exec w s = .next s))
    ∧ (∀ at_ : BarSpan, ¬ (at_.offset % 4 = 0 ∧ at_.len = 4) →
      let first := at_.offset / 4
      let n := cdiv (at_.offset + at_.len) 4 - first
      let latched (t : State) (k : Nat) : Option Word32 := tget none (getFn t fn).latch k
      (∀ i, i < n → latched s (4 * (first + i)) = none ∧ ∀ g, placeAt s fn (4 * (first + i)) = .reg g → isLowWord g = false) →
      ∃ t, exec (.lowWordRead fn at_) s = .next t
        ∧ t.lastRead = .bytes ((((List.range n).flatMap (fun i => leBytes 4 (barRead s fn (4 * (first + i))).toNat)).drop (at_.offset % 4)).take at_.len) false
        ∧ (∀ k, latched t k = latched s k) ∧ getFn t fn = { getFn s fn with latch := (getFn t fn).latch }
        ∧ (∀ f, f ≠ fn → getFn t f = getFn s f) ∧ t = { s with lastRead := t.lastRead, fns := t.fns })

/-- R379, R384: whatever a VF writes, and wherever, the module's own registers stay: the Kettle, link thresholds, port hold
times, the fabric owner, part data and power state. -/
def Obligations.VfNeverWritesModuleRegisters : Prop :=
  ∀ (fn offset : Nat) (enables : BitVec 4) (value : Word32) (s t : State), isPf fn = false →
    exec (.registerWrite fn offset enables value) s = .next t →
    t.kt = s.kt ∧ t.links = s.links ∧ t.ports = s.ports ∧ t.fabOwner = s.fabOwner ∧ t.part = s.part ∧ t.power = s.power

/-- R116, R120: writing QE_RING_CFG with ENABLE = 1 to a disabled ring of the function's partition takes SIZE, TARGET and
the output ring; the ring runs if its checks pass, else ERROR reads 3 and it stays disabled. Other rings stay. R131: with no
accepted driver, or with READY = 0, the write is ignored. That a ring just enabled has no slot ready until a sweep reads its
producer index is the model's reading (log 165). -/
def Obligations.RingEnableRunsRing : Prop :=
  ∀ (fn ring : Nat) (value : Word32) (s : State) (p : Nat), fnAnswers s fn = true → value.getLsbD 31 = true →
    ringPart s ring = some p → (getPart s p).owner = fn → (getRing s ring).enable = false →
    ((getFn s fn).accepted = false ∨ s.power.ready = false ∨ s.power.resetting = true → exec (.ringEnable fn ring value) s = .next s)
    ∧ ((getFn s fn).accepted = true → s.power.ready = true → s.power.resetting = false →
    let v := value.toNat
    let out := (if isPf fn then 0 else 16 * (getPart s p).orFirst) + field v 6 10
    let cfg : Ring := { getRing s ring with
      cfgSize := field v 26 5, cfgTarget := field v 16 10, cfgOut := out, size := field v 26 5, target := field v 16 10, outRing := out }
    let ok := ringChecks (setRing s ring cfg) fn p ring
    ∃ t, exec (.ringEnable fn ring value) s = .next t
      ∧ getRing t ring = (if ok then { cfg with enable := true, state := 1, error := 0, producer := cfg.consumed } else { cfg with error := 3 })
      ∧ (∀ k, k ≠ ring → getRing t k = getRing s k) ∧ t = { s with host := t.host, q := { s.q with rings := t.q.rings } })

/-- R399: writing ENABLE = 0 to an enabled ring stops it at once: descriptors not dispatched are no longer waiting and complete
ABORTED_RESET, in their order: their counters are signalled and poisoned, and their records are written to the ring's output
ring as long as it has room, then held there. Dispatched operations go on. The register takes SIZE, TARGET and OUTRING as written,
and those in force stay (the model's reading, log 138). Other rings go on as they are. R131: a function whose driver was refused
sets up no ring. -/
def Obligations.RingDisableStopsRing : Prop :=
  ∀ (fn ring : Nat) (value : Word32) (s : State) (p : Nat), fnAnswers s fn = true → value.getLsbD 31 = false →
    ringPart s ring = some p → (getPart s p).owner = fn → (getRing s ring).enable = true →
    ((getFn s fn).refused = true → (getFn s fn).accepted = false → exec (.ringDisable fn ring value) s = .next s)
    ∧ ((getFn s fn).refused = false ∨ (getFn s fn).accepted = true →
      let v := value.toNat
      let r := getRing s ring
      let x := getORing s r.outRing
      let records := r.waiting.map (fun f => completionRecord f.bytes ring stAborted 1 0)
      let ended (e : Nat) : Nat := r.waiting.countP (fun f => evtsOk s p f.bytes && decide (e = dSigEvt f.bytes ∧ e ≠ 0xFFFF))
      let slot (i : Nat) : Nat := x.base + (x.produced + i) % 2 ^ 32 % 2 ^ x.size * recSize x.recsz
      ∃ t, exec (.ringDisable fn ring value) s = .next t
        ∧ getRing t ring = { r with
            enable := false, state := 0, waiting := [], recent := (getRing t ring).recent
            cfgSize := field v 26 5, cfgTarget := field v 16 10, cfgOut := (if isPf fn then 0 else 16 * (getPart s p).orFirst) + field v 6 10 }
        ∧ (∀ k, k ≠ ring → getRing t k = getRing s k)
        ∧ (∀ e, getEvt t e = { value := (getEvt s e).value + BitVec.ofNat 32 (ended e), poison := (getEvt s e).poison || decide (0 < ended e) })
        ∧ (∃ w, w ≤ records.length ∧ (oringOpen s p r.outRing = false → w = 0) ∧ (oringOpen s p r.outRing = true → r.waiting ≠ [] → 1 ≤ w)
          ∧ (getORing t r.outRing).produced = (if w = 0 then x.produced else (x.produced + w) % 2 ^ 32)
          ∧ (getORing t r.outRing).held.map (·.bytes) = x.held.map (·.bytes) ++ records.drop w
          ∧ (x.size ≤ 32 → w ≤ 2 ^ x.size → x.base + 2 ^ x.size * recSize x.recsz + 64 ≤ 2 ^ 64 →
            ∀ i, i < w → mread t.host (hostKey (fnPort fn) (slot i)) 16 = records.getD i []))
        ∧ (∀ o, o ≠ r.outRing → getORing t o = getORing s o)
        ∧ t = { s with fns := t.fns, host := t.host, pl := { s.pl with groups := t.pl.groups }
                       q := { s.q with rings := t.q.rings, orings := t.q.orings, evts := t.q.evts } })

/-- R123: writing QE_ORING_CFG takes SIZE and RECSZ, and with ENABLE = 1 the output ring is enabled exactly if its checks
pass; with ENABLE = 0 it is disabled. Its indices stay. -/
def Obligations.OutputRingConfiguration : Prop :=
  ∀ (fn oring : Nat) (value : Word32) (s : State) (p : Nat), fnAnswers s fn = true → oringPart s oring = some p → (getPart s p).owner = fn →
    (getFn s fn).refused = false ∨ (getFn s fn).accepted = true →
    let v := value.toNat
    let cfg : ORing := { getORing s oring with size := field v 26 5, recsz := field v 24 2, enable := false }
    let lands (c : Instr) (x : ORing) : Prop :=
      ∃ t, exec c s = .next t ∧ getORing t oring = x ∧ (∀ k, k ≠ oring → getORing t k = getORing s k)
        ∧ t = { s with q := { s.q with orings := t.q.orings } }
    (value.getLsbD 31 = true → (getORing s oring).enable = false →
      lands (.oringEnable fn oring value) { cfg with enable := oringChecks (setORing s oring cfg) fn p oring })
    ∧ (value.getLsbD 31 = false → lands (.oringDisable fn oring value) cfg)

/-- R381: ENABLE = 1 on a disabled partition names its owner, and STATE, CONFLICT and CAUSE tell the first check that
fails, or that none does. Other partitions stay. -/
def Obligations.PartitionEnableReportsCause : Prop :=
  ∀ (fn p : Nat) (value : Word32) (s : State), fnAnswers s fn = true → value.getLsbD 31 = true → p < 8 → isPf fn = true →
    partEnabled s p = false →
    let named : PartRegs := { getPart s p with owner := field value.toNat 0 4 }
    let cause := enableCause (setPart s p named) fn p
    ∃ t, exec (.partitionEnable fn p value) s = .next t
      ∧ getPart t p = { named with state := if cause = 0 then .enabled else .disabled, conflict := decide (cause ≠ 0), cause }
      ∧ (∀ k, k ≠ p → getPart t k = getPart s k) ∧ t = { s with parts := t.parts }

/-- R132, R381: ENABLE = 0 on an enabled partition by a PF of its owner's port ends its operations, zeroes its regions and
leaves it disabled; operations of other partitions, power, links and the Kettle stay. -/
def Obligations.PartitionDisableWipes : Prop :=
  ∀ (fn p : Nat) (value : Word32) (s : State), fnAnswers s fn = true → value.getLsbD 31 = false → p < 8 → isPf fn = true →
    partEnabled s p = true → fnPort (getPart s p).owner = fnPort fn →
    ∃ t, exec (.partitionDisable fn p value) s = .next t
      ∧ (getPart t p).state = .disabled ∧ (getPart t p).held = false ∧ (getPart t p).hand = none ∧ (getPart t p).cdState = 0
      ∧ t.q.ops = s.q.ops.filter (fun o => o.part ≠ p) ∧ (∀ e ∈ t.dram.cells, e.1 / 2 ^ 40 / 64 ≠ p)
      ∧ t.power = s.power ∧ t.links = s.links ∧ t.kt = s.kt ∧ t.part = s.part ∧ t.ports = s.ports

/-- R141: ENABLE = 1 on a region that fits gives it the lowest free range of channel slots and starts its initialisation;
it is then Ready. Where no free range is large enough, STATE reads 3. ENABLE = 0 frees it. Other regions stay. -/
def Obligations.RegionLifecycle : Prop :=
  ∀ (fn rid : Nat) (value : Word32) (s : State), rid < 512 →
    let v := value.toNat
    let cls := field v 27 2
    let size := field v 0 15
    let kept : Region := { getRegion s rid with regCls := cls, regSize := size }
    let shape : Region := { kept with cls := cls, size := size, base := kept.regBase }
    let others (t : State) : Prop := ∀ k, k ≠ rid → getRegion t k = getRegion s k
    (fnAnswers s fn = true → partSetAuth s fn (rid / 64) = .ok →
      (∀ a, value.getLsbD 31 = true → (getRegion s rid).enable = false → cls ≠ 3 → 1 ≤ size → size ≤ 32686 →
          shape.base + shape.size ≤ 2 ^ 16 → regionClash s rid shape = false →
          lowestSlots (slotRanges s) (slotsPerUnit cls * size) = some a →
        ∃ t, exec (.regionEnable fn rid value) s = .next t
          ∧ getRegion t rid = { shape with enable := true, state := 1, slot := a } ∧ others t ∧ t = { s with dram := t.dram })
      ∧ (value.getLsbD 31 = true → (getRegion s rid).enable = false → lowestSlots (slotRanges s) (slotsPerUnit cls * size) = none →
        ∃ t, exec (.regionEnable fn rid value) s = .next t
          ∧ getRegion t rid = { kept with enable := false, state := 3 } ∧ others t ∧ t = { s with dram := t.dram })
      ∧ (value.getLsbD 31 = false → (getRegion s rid).enable = true →
        ∃ t, exec (.regionDisable fn rid value) s = .next t
          ∧ getRegion t rid = { kept with enable := false, state := 0 } ∧ others t ∧ t = { s with dram := t.dram })
      ∧ (value.getLsbD 31 = false → (getRegion s rid).enable = false →
        ∃ t, exec (.regionDisable fn rid value) s = .next t
          ∧ getRegion t rid = { kept with state := 0 } ∧ others t ∧ t = { s with dram := { s.dram with regions := t.dram.regions } }))
    ∧ ((getRegion s rid).enable = true → (getRegion s rid).state = 1 →
      ∃ t, exec (.regionInitDone rid) s = .next t ∧ getRegion t rid = { getRegion s rid with state := 2 } ∧ others t
        ∧ t = { s with dram := { s.dram with regions := t.dram.regions } })

/-- R175: a layer table that lies in a class W region, reads without error and has no bad entry is installed, with STATE 2;
one whose blocks do not fit, or clash with another partition's table in force, is refused with STATE 3 and KIND 1, one whose
base lies in no class W region with KIND 2, one that cannot be read with KIND 3, and one with a bad entry with KIND 0 and that
entry. R183: the Caddy's enable takes STATE 1, with the bases as they are written, or 2 where it is refused, and its disable
frees the partition's stash entries. -/
def Obligations.LayerLoadAndCaddyEnable : Prop :=
  ∀ (fn p : Nat) (value : Word32) (mem : MemIn) (s : State), fnAnswers s fn = true → p < 8 → partSetAuth s fn p = .ok →
    (∀ s1, value.getLsbD 31 = true → (getPart s p).layCount = field value.toNat 7 6 → (getPart s p).layFirst = field value.toNat 0 6 →
      let n := 64 * layCountOf (getPart s p)
      let base := (getPart s p).layBase * 2 ^ 20
      (getPart s p).layFirst + layCountOf (getPart s p) ≤ 64 → blocksClash s p = false → inClass s p base (64 * n) 0 = true →
      tableRead { part := p, mem } base (n / 2) (dramUpsets s mem) = (s1, none) →
      let es := (List.range n).map (fun i => devBytes s1 { part := p, mem } false (base + 64 * i) 64)
      firstBadEntry s1 p es = none →
      ∃ t, exec (.layerTableLoad fn p value mem) s = .next t
        ∧ (getPart t p).layState = 2 ∧ (getPart t p).layInForce = true
        ∧ (getPart t p).forceFirst = (getPart s p).layFirst ∧ (getPart t p).forceCount = layCountOf (getPart s p)
        ∧ (∀ i, i < n → getLayer t (64 * (getPart s p).layFirst + i) = parseLayer (es.getD i []))
        ∧ t.power = s.power ∧ t.q = s1.q ∧ t.host = s1.host ∧ t.dram = s1.dram ∧ t.kt = s.kt ∧ t.links = s.links)
    ∧ (∀ kind, value.getLsbD 31 = true → (getPart s p).layCount = field value.toNat 7 6 → (getPart s p).layFirst = field value.toNat 0 6 →
      (kind = 1 ∧ (64 < (getPart s p).layFirst + layCountOf (getPart s p) ∨ blocksClash s p = true)
        ∨ kind = 2 ∧ (getPart s p).layFirst + layCountOf (getPart s p) ≤ 64 ∧ blocksClash s p = false
          ∧ inClass s p ((getPart s p).layBase * 2 ^ 20) (64 * (64 * layCountOf (getPart s p))) 0 = false) →
      ∃ t, exec (.layerTableLoad fn p value mem) s = .next t
        ∧ getPart t p = { getPart s p with layState := 3, layErrKind := kind, layErrEntry := 0 }
        ∧ (∀ k, k ≠ p → getPart t k = getPart s k) ∧ t = { s with parts := t.parts })
    ∧ (∀ s1 kind entry, value.getLsbD 31 = true → (getPart s p).layCount = field value.toNat 7 6 → (getPart s p).layFirst = field value.toNat 0 6 →
      let n := 64 * layCountOf (getPart s p)
      let base := (getPart s p).layBase * 2 ^ 20
      (getPart s p).layFirst + layCountOf (getPart s p) ≤ 64 → blocksClash s p = false → inClass s p base (64 * n) 0 = true →
      (kind = 3 ∧ tableRead { part := p, mem } base (n / 2) (dramUpsets s mem) = (s1, some entry)
        ∨ kind = 0 ∧ tableRead { part := p, mem } base (n / 2) (dramUpsets s mem) = (s1, none)
          ∧ firstBadEntry s1 p ((List.range n).map (fun i => devBytes s1 { part := p, mem } false (base + 64 * i) 64)) = some entry) →
      ∃ t, exec (.layerTableLoad fn p value mem) s = .next t
        ∧ (getPart t p).layState = 3 ∧ (getPart t p).layErrKind = kind ∧ (getPart t p).layErrEntry = entry
        ∧ (∀ k, k ≠ p → getPart t k = getPart s1 k) ∧ t = { s1 with parts := t.parts })
    ∧ (value.getLsbD 31 = true → (getPart s p).cdEntries = field value.toNat 0 17 → (getPart s p).cdEnable = false →
      ∃ t, exec (.caddyEnable fn p value) s = .next t
        ∧ getPart t p = (let r := getPart s p
            if caddyRefused s p then { r with cdEnable := true, cdState := 2 }
            else { r with cdEnable := true, cdState := 1, recBase := r.regRec, rexBase := r.regRexBase, rexSize := r.regRexSize })
        ∧ (∀ k, k ≠ p → getPart t k = getPart s k) ∧ t = { s with parts := t.parts })
    ∧ (value.getLsbD 31 = false → (getPart s p).cdEntries = field value.toNat 0 17 → (getPart s p).cdEnable = true →
      ∃ t, exec (.caddyDisable fn p value) s = .next t
        ∧ getPart t p = { getPart s p with cdEnable := false, cdState := 0 }
        ∧ (∀ e, e < 2 ^ 32 → getStash t p e = none) ∧ (∀ k, k ≠ p → getPart t k = getPart s k)
        ∧ t = { s with parts := t.parts, tr := t.tr })

/-- R5: reading the low word of a pair returns it and latches the high word; the next read of the high word returns the
latched value, once, whatever the register then holds, and whatever other pairs are read between. A read of another register
returns its value. Nothing else changes. -/
def Obligations.LowWordReadLatches : Prop :=
  ∀ (fn offset : Nat) (g : Reg) (s : State), fnAnswers s fn = true → offset % 4 = 0 → placeAt s fn offset = .reg g →
    let latched (t : State) (k : Nat) : Option Word32 := tget none (getFn t fn).latch k
    let reads (w : Word32) (k : Nat) (x : Option Word32) : Prop :=
      ∃ t, exec (.lowWordRead fn { offset }) s = .next t ∧ t.lastRead = .word w ∧ latched t k = x ∧ (∀ j, j ≠ k → latched t j = latched s j)
        ∧ getFn t fn = { getFn s fn with latch := (getFn t fn).latch } ∧ (∀ f, f ≠ fn → getFn t f = getFn s f)
        ∧ t = { s with lastRead := t.lastRead, fns := t.fns }
    (isLowWord g = true → latched s offset = none → reads (barRead s fn offset) (offset + 4) (some (barRead s fn (offset + 4))))
    ∧ (∀ w, isLowWord g = false → latched s offset = some w → reads w offset none)
    ∧ (isLowWord g = false → latched s offset = none → reads (barRead s fn offset) offset none)

/-- R109, R114, R140, R179: through BAR2 the owner of a partition reads the bytes of its enabled Ready regions that lie in its
aperture, with EP set where a block cannot be corrected, and writes bytes there, those of slot ranges discarded. An access
that reaches none of its partition is an Unsupported Request, and a write then stores nothing; the function's AER status notes
it (the bit is the PCIe standard's, log 7). A read of a view whose slot holds no version waits, and is answered, in a later idle
step (the model's choice of the moment, log 46), once the slot holds one. -/
def Obligations.Bar2Access : Prop :=
  ∀ (fn addr len : Nat) (mem : MemIn) (data : Bytes) (s : State),
    let s1 := dramUpsets s mem
    let noted (t : State) : Prop :=
      (fnExists s fn = true → getFn t fn = { getFn s fn with aer := (getFn s fn).aer ||| 0x100000#32 })
        ∧ (fnExists s fn = false → getFn t fn = getFn s fn) ∧ (∀ f, f ≠ fn → getFn t f = getFn s f)
    (bar2Part s1 fn addr len = none →
      ∃ t, exec (.bar2Read fn addr len mem) s = .next t ∧ t.lastRead = .unsupported ∧ noted t
        ∧ t = { s1 with lastRead := t.lastRead, fns := t.fns })
    ∧ (∀ p, bar2Part s1 fn addr len = some p →
      (viewEmpty s1 p addr len = true → exec (.bar2Read fn addr len mem) s = .next { s1 with reads := s.reads ++ [(fn, addr, len)] })
      ∧ (viewEmpty s1 p addr len = false →
        let r := checkRange s1 { part := p, mem } false addr len
        ∃ t, exec (.bar2Read fn addr len mem) s = .next t
          ∧ t = { r.1 with lastRead := .bytes (devBytes r.1 { part := p, mem } false addr len) r.2.isSome }
          ∧ ((∀ q, q < 8 → (getPart s q).evValid = false) → t.host = s.host)
          ∧ t.dram.cells = s.dram.cells ∧ t.power = s.power ∧ t.parts = s.parts ∧ t.cores = s.cores ∧ t.kt = s.kt
          ∧ t.links = s.links ∧ t.fab = s.fab))
    ∧ (∀ p, s.pending = [] → clockRuns s = true → (∀ q, q < 8 → (getPart s q).hand = none) → s.reads = [(fn, addr, len)] →
      bar2Part s fn addr len = some p → viewEmpty s p addr len = false →
      let r := checkRange { s with reads := [] } { part := p } false addr len
      ∃ t, step s = .next t ∧ t.reads = [] ∧ t.lastRead = .bytes (devBytes r.1 { part := p } false addr len) r.2.isSome)
    ∧ (bar2Part s1 fn addr data.length = none →
      ∃ t, exec (.bar2Write fn addr { bytes := data, mem }) s = .next t ∧ noted t ∧ t = { s1 with fns := t.fns })
    ∧ (∀ p, bar2Part s1 fn addr data.length = some p →
      exec (.bar2Write fn addr { bytes := data, mem }) s = .next ((cutAll [(addr, data.length)] (slotSpans s1 p)).foldl
        (fun t x => devWrite t { part := p, mem } false x.1 ((data.drop (x.1 - addr)).take x.2)) s1))
/-! ### Descriptor operations -/

namespace Sys2Proof.Claims

/-- The state in which an operation row executes its operation, once it may (R82, R53, R71): host stores and DRAM upsets
come first, the operation holds the views it latched, and the core counts its single-bit errors (R55). None where it still
waits or is refused, or where the core's rebuilt SRAM is not trusted (R71). -/
def begins (s : State) (id opcode : Nat) (env : Env) : Option (State × Op) :=
  let u := envIn s env
  match opRunning u id opcode with
  | none => none
  | some o =>
    if o.core ≠ netTarget ∧ (getWindow u o.core).untrusted = true then none
    else match tryStart u o with
      | .go s1 o1 => some (countSbe (windowLatch s1 o1.core o1.id o1.latches) (sbeCore s1 o1) env.sbe, o1)
      | _ => none

/-- OK, or DEGRADED_OK where the operation waited for a channel (R87) or ran below the core domain's floor (R330). -/
def success (u : State) (o : Op) (env : Env) : Nat := if degradeBits u o env = 0 then stOk else stDegraded

/-- The memories of two states agree: DRAM, the cores with their SRAM, and host memory. -/
def sameMemory (v r : State) : Prop := v.dram = r.dram ∧ v.cores = r.cores ∧ v.host = r.host

/-- An operand's element as an FP32 value; `absent` where the operand is absent. -/
def elem (s : State) (x : ExecCtx) (eqv : Bool) (u : Option Use) (absent : F32) (r c : Nat) : F32 :=
  match u with
  | some v => opndF32 s x eqv v.trans v.view r c
  | none => absent

/-! #### The reductions (R97, R98) -/

/-- The largest of a list of values, and the smallest; a NaN among them gives the canonical NaN (R95). -/
def largest (eqv : Bool) (xs : List F32) : F32 := xs.tail.foldl (fMax eqv) (toF32 eqv (vIn eqv (xs.headD zero32)))
def smallest (eqv : Bool) (xs : List F32) : F32 := xs.tail.foldl (fMin eqv) (toF32 eqv (vIn eqv (xs.headD zero32)))

/-- R97: FN of ROW_REDUCE and COL_REDUCE: 0 sum, 1 maximum, 2 minimum, 3 sum of squares, 4 maximum of the absolute values. -/
def lineResult (eqv : Bool) (fn : Nat) (xs : List F32) : F32 :=
  if fn = 0 then fSum eqv xs
  else if fn = 1 then largest eqv xs
  else if fn = 2 then smallest eqv xs
  else if fn = 3 then fSum eqv (xs.map (fun a => fMul eqv a a))
  else (xs.tail.map (fAbs eqv)).foldl (fMax eqv) (fAbs eqv (xs.headD zero32))

/-- R98: an element z[c] of SOFTMAX_FWD's row r, masked where CAUSAL is set and c > r + OFFSET. -/
def softmaxIn (eqv : Bool) (d : Bytes) (x : Nat → Nat → F32) (r c : Nat) : F32 :=
  if bit (byteAt d 0x3F) 5 = true ∧ (r : Int) + sgn 32 (fld d 0x1C 4) < (c : Int) then negInf32
  else fMul eqv (BitVec.ofNat 32 (fld d 0x18 4)) (x r c)

/-- R98: what a row of an opcode of class 0x3 gives. `x`, `y` are IN0 and IN1 by row and column, `g` and `b` gain and bias by
column, `st` the statistics that NORM_BWD reads; the first function is OUT0 by row and column, the second OUT1. -/
def reduceValues (eqv : Bool) (d : Bytes) (opcode : Nat) (x y : Nat → Nat → F32) (g b : Nat → F32) (st : Nat → Nat → F32) :
    (Nat → Nat → F32) × (Nat → Nat → F32) :=
  let rows := fld d 0x38 3
  let cols := fld d 0x3C 3
  let fn := field (byteAt d 0x3F) 2 3
  let line (f : Nat → F32) : List F32 := (List.range cols).map f
  let mean (f : Nat → F32) : F32 := fDiv eqv (fSum eqv (line f)) (fOfNat cols)
  let none2 : Nat → Nat → F32 := fun _ _ => zero32
  if opcode = 0x30C0 then (fun r _ => lineResult eqv fn (line (x r)), none2)
  else if opcode = 0x30C1 then (fun _ c => lineResult eqv fn ((List.range rows).map (fun r => x r c)), none2)
  else if opcode = 0x30C2 then
    let z := softmaxIn eqv d x
    let m (r : Nat) : F32 := largest eqv (line (z r))
    let e (r c : Nat) : F32 := fExp eqv (fSub eqv (z r c) (m r))
    let total (r : Nat) : F32 := fSum eqv (line (e r))
    (fun r c => if m r = negInf32 then zero32 else fDiv eqv (e r c) (total r),
     fun _ r => if m r = negInf32 then negInf32 else fAdd eqv (m r) (fLog eqv (total r)))
  else if opcode = 0x30C3 then
    let dd (r : Nat) : F32 := fSum eqv (line (fun c => fMul eqv (x r c) (y r c)))
    (fun r c => fMul eqv (BitVec.ofNat 32 (fld d 0x20 4)) (fMul eqv (x r c) (fSub eqv (y r c) (dd r))), none2)
  else if opcode = 0x30C4 then
    let mu (r : Nat) : F32 := if fn = 0 then mean (x r) else zero32
    let xc (r c : Nat) : F32 := fSub eqv (x r c) (mu r)
    let v (r : Nat) : F32 := mean (fun c => fMul eqv (xc r c) (xc r c))
    let rs (r : Nat) : F32 := fRsqrt eqv (fAdd eqv (v r) (toF32 false (.fin false 1 (-(byteAt d 0x3B : Int)))))
    (fun r c => fFma eqv (fMul eqv (xc r c) (rs r)) (g c) (b c), fun r j => if j = 0 then mu r else rs r)
  else
    let xh (r c : Nat) : F32 := fMul eqv (fSub eqv (x r c) (st r 0)) (st r 1)
    let u (r c : Nat) : F32 := fMul eqv (g c) (y r c)
    let a (r : Nat) : F32 := if fn = 0 then mean (u r) else zero32
    let bb (r : Nat) : F32 := mean (fun c => fMul eqv (u r c) (xh r c))
    (fun r c => fMul eqv (st r 1) (fSub eqv (fSub eqv (u r c) (a r)) (fMul eqv (xh r c) (bb r))), none2)

/-- The state in which an opcode of class 0x3 has written OUT0 (one value a row, one a column, or as many as IN0) under RND,
and then OUT1 where it is an output: a log-sum-exp a row as one row of values (log 172), or mean and r of each row. -/
def reduceWrites (w : State) (x : ExecCtx) (d : Bytes) (opcode : Nat) (out : Use) : State :=
  let us := (planReduce d).uses
  let eqv := dEqv d
  let rows := fld d 0x38 3
  let cols := fld d 0x3C 3
  let gain : Option Use := if opcode = 0x30C4 then useAt us 0x18 else useAt us 0x20
  let vs := reduceValues eqv d opcode (elem w x eqv (useAt us 0x10) zero32) (elem w x eqv (useAt us 0x18) zero32)
    (elem w x eqv gain one32 0) (elem w x eqv (useAt us 0x20) zero32 0) (elem w x eqv (useAt us 0x30) zero32)
  let out0 := tabulate (if opcode = 0x30C1 then 1 else rows) (if opcode = 0x30C0 then 1 else cols) vs.1
  let out1 := if opcode = 0x30C2 then tabulate 1 rows vs.2 else if opcode = 0x30C4 then tabulate rows 2 vs.2 else []
  let w1 := emit w x d out (field (byteAt d 0x3F) 0 2) (streamOf d) (elemIndex d) out0
  match useAt us 0x30 with
  | some v => if v.out = true then emit w1 x d v 0 (streamOf d + 1) (elemIndex d) out1 else w1
  | none => w1

/-! #### EXPR (R93 to R95) -/

/-- The result of a node other than a leaf, from its sources (R95). -/
def nodeResult (eqv : Bool) (nop imm : Nat) (a b c : F32) : F32 :=
  if nop = 0x02 then toF32 eqv (vIn eqv (BitVec.ofNat 32 imm))
  else if nop = 0x10 then fAdd eqv a b
  else if nop = 0x11 then fSub eqv a b
  else if nop = 0x12 then fMul eqv a b
  else if nop = 0x13 then fDiv eqv a b
  else if nop = 0x14 then fFma eqv a b c
  else if nop = 0x15 then fMax eqv a b
  else if nop = 0x16 then fMin eqv a b
  else if nop = 0x17 then fNeg eqv a
  else if nop = 0x18 then fAbs eqv a
  else if nop = 0x19 then toF32 eqv (vIn eqv (if fGt eqv a zero32 = true then b else c))
  else if nop = 0x1A then (if fGt eqv a b = true then one32 else zero32)
  else if nop = 0x1B then (if fEq eqv a b = true then one32 else zero32)
  else if nop = 0x1C then (if vIsFinite (vIn eqv a) = true then one32 else zero32)
  else if nop = 0x1D then fFloor eqv a
  else if nop = 0x20 then fSqrt eqv a
  else if nop = 0x21 then fRsqrt eqv a
  else if nop = 0x22 then fRecip eqv a
  else if nop = 0x23 then fExp eqv a
  else if nop = 0x24 then fLog eqv a
  else if nop = 0x25 then fTanh a
  else if nop = 0x26 then fSigmoid a
  else if nop = 0x27 then fErf a
  else if nop = 0x28 then fSin a
  else fCos a

/-- R93, R94: leaf k read for row r and column c: the element at the same position, element c of a row vector of W, element
r of a column vector of COUNT ÷ W, or element 0. -/
def leafValue (w : State) (x : ExecCtx) (d : Bytes) (k mode r c : Nat) : F32 :=
  let count := fld d 0x38 4
  let len := fld d 0x3C 2
  let shape : Nat × Nat :=
    if mode = 0 then (if len = 0 then (1, count) else (count / len, len))
    else if mode = 1 then (1, len)
    else if mode = 2 then (1, count / len)
    else (1, 1)
  let u := (useOf d (0x18 + 8 * k) k false shape.1 shape.2 0).head?
  if mode = 0 then elem w x (dEqv d) u zero32 r c
  else if mode = 1 then elem w x (dEqv d) u zero32 0 c
  else if mode = 2 then elem w x (dEqv d) u zero32 0 r
  else elem w x (dEqv d) u zero32 0 0

/-- The values `val r c i` are those of the program's nodes for every element: a leaf's element, or the node's result on its
source nodes, which stand before it. -/
def nodeValues (w : State) (x : ExecCtx) (d : Bytes) (ns : List Node) (val : Nat → Nat → Nat → F32) : Prop :=
  ∀ (r c i : Nat) (n : Node), ns[i]? = some n →
    let src (j : Nat) : F32 := if j < i then val r c j else zero32
    val r c i = if n.op = 0x01 then leafValue w x d (field n.imm 0 2) (field n.imm 2 2) r c
      else nodeResult (dEqv d) n.op n.imm (src n.a) (src n.b) (src n.c)

/-! #### Random numbers (R46, R102) -/

/-- cⱼ >> 8 for an element: the counter-based generator under the job seed, TENSOR_ID, STEP and stream S + 8 + j. -/
def draw (u : State) (p : Nat) (d : Bytes) (element j : Nat) : Nat :=
  (crg (getPart u p).seed (xTensor d) element (xStep d) (streamOf d + 8 + j)).toNat / 256

/-- T of RNG_BERNOULLI: P1 × 2²⁴ truncated to an integer, from 0 to 2²⁴. -/
def keepBelow (p1 : F32) : Nat :=
  match vOf p1 with
  | .inf neg => if neg = true then 0 else 2 ^ 24
  | .fin true _ _ => 0
  | .fin false m e => min (2 ^ 24) (if 0 ≤ e + 24 then m * 2 ^ (e + 24).toNat else m / 2 ^ (-(e + 24)).toNat)
  | .nan => 0

/-- R102: an element of RNG_UNIFORM (whose rounding can give P2 itself, log 173), RNG_NORMAL or RNG_BERNOULLI. -/
def rngElement (opcode : Nat) (p1 p2 : F32) (n0 n1 : Nat) : F32 :=
  let frac (n : Nat) : F32 := toF32 false (.fin false n (-24))
  if opcode = 0x5140 then fFma false (fSub false p2 p1) (frac n0) p1
  else if opcode = 0x5141 then
    fAdd false p1 (fMul false (fMul false p2 (fSqrt false (fMul false 0xC0000000#32
      (fLog false (fAdd false (frac n0) (toF32 false (.fin false 1 (-24))))))))
      (fCos (fMul false 0x40C90FDB#32 (frac n1))))
  else if n0 < keepBelow p1 then p2 else zero32

/-- The state in which an RNG opcode has written OUT: rows of TCOLS where it is square, else one row of COUNT elements. -/
def rngWrites (u : State) (x : ExecCtx) (d : Bytes) (opcode : Nat) (out : Use) : State :=
  let len := if out.view.square = true then xTcols d else fld d 0x18 4
  let index (r c : Nat) : Nat := elemIndex d 0 0 + r * len + c
  emit u x d out 0 (streamOf d) index (tabulate (fld d 0x18 4 / len) len (fun r c =>
    rngElement opcode (BitVec.ofNat 32 (fld d 0x20 4)) (BitVec.ofNat 32 (fld d 0x24 4))
      (draw u x.part d (index r c) 0) (draw u x.part d (index r c) 1)))

/-- A command leads to a next state in which `o`, whose effect gave `v`, is completed with a status. -/
def completes (c : Instr) (s v : State) (o : Op) (st : Nat) : Prop :=
  ∃ t xs info, exec c s = .next t ∧ Completed v t o st xs info

/-- The rows a core executes: opcode, operation, environment and run. -/
def coreRow : Instr → Option (Nat × Nat × Env × (State → Op → Ran))
  | .gemm id env => some (0x1040, id, env, fun u o => runGemm u (ctxOf o env) o.desc)
  | .expr id env => some (0x2080, id, env, fun u o => runExpr u (ctxOf o env) o.desc)
  | .rowReduce id env => some (0x30C0, id, env, fun u o => runReduce u (ctxOf o env) o.desc)
  | .colReduce id env => some (0x30C1, id, env, fun u o => runReduce u (ctxOf o env) o.desc)
  | .softmaxFwd id env => some (0x30C2, id, env, fun u o => runReduce u (ctxOf o env) o.desc)
  | .softmaxBwd id env => some (0x30C3, id, env, fun u o => runReduce u (ctxOf o env) o.desc)
  | .normFwd id env => some (0x30C4, id, env, fun u o => runReduce u (ctxOf o env) o.desc)
  | .normBwd id env => some (0x30C5, id, env, fun u o => runReduce u (ctxOf o env) o.desc)
  | .copy id env => some (0x4100, id, env, fun u o => runCopy u (ctxOf o env) o.desc)
  | .transpose id env => some (0x4101, id, env, fun u o => runCopy u (ctxOf o env) o.desc)
  | .pack id env => some (0x4102, id, env, fun u o => runCopy u (ctxOf o env) o.desc)
  | .unpack id env => some (0x4103, id, env, fun u o => runCopy u (ctxOf o env) o.desc)
  | .gather id env => some (0x4104, id, env, fun u o => runIndexed u (ctxOf o env) o.desc)
  | .scatterAdd id env => some (0x4105, id, env, fun u o => runIndexed u (ctxOf o env) o.desc)
  | .hostRead id env => some (0x4106, id, env, fun u o => runHostRead u (ctxOf o env) env.host o.desc)
  | .hostWrite id env => some (0x4107, id, env, fun u o => runHostWrite u (ctxOf o env) env.host o.desc)
  | .rngUniform id env => some (0x5140, id, env, fun u o => runRng u (ctxOf o env) o.desc)
  | .rngNormal id env => some (0x5141, id, env, fun u o => runRng u (ctxOf o env) o.desc)
  | .rngBernoulli id env => some (0x5142, id, env, fun u o => runRng u (ctxOf o env) o.desc)
  | _ => none

/-- The commands of a core, of the queue engine and of the memory: they execute a descriptor, fetch or dispatch one, sweep
doorbells, write a held record, scrub memory or flush a write-combining entry. -/
def coreCommand : Instr → Bool
  | .nop _ _ | .evtSet _ _ | .evtAdd _ _ | .timestamp _ _ | .gemm _ _ | .expr _ _ | .rowReduce _ _ | .colReduce _ _
  | .softmaxFwd _ _ | .softmaxBwd _ _ | .normFwd _ _ | .normBwd _ _ | .copy _ _ | .transpose _ _ | .pack _ _ | .unpack _ _
  | .gather _ _ | .scatterAdd _ _ | .hostRead _ _ | .hostWrite _ _ | .rngUniform _ _ | .rngNormal _ _ | .rngBernoulli _ _
  | .stashPut _ _ | .stashGet _ _ | .stashFree _ _ | .dispatch _ | .descriptorFetch _ _ | .heldRecordRelease _
  | .doorbellSweep _ _ | .qeWake _ _ _ | .patrolScrub _ _ _ _ | .wcEntryFlush _ _ _ => true
  | _ => false

end Sys2Proof.Claims

/-- R84, R107: NOP does nothing; EVT_SET sets a counter's value and clears its poison; EVT_ADD adds to its value and leaves
its poison; TIMESTAMP stores TICK, 8 bytes, in the module's memory or in host memory. Each then completes. -/
def Obligations.QueueOperationResults : Prop :=
  ∀ (id : Nat) (env : Env) (s u : State) (o : Op),
    let e := fld o.desc 0x10 2
    let n := BitVec.ofNat 32 (fld o.desc 0x14 4)
    let r := refAt o.desc 0x10
    let port := fnPort (getPart u o.part).owner
    let tick := leBytes 8 u.power.tick.toNat
    let done (c : Instr) (v : State) : Prop := Claims.completes c s v o (Claims.success u o env)
    (Claims.begins s id 0x0000 env = some (u, o) → done (.nop id env) u)
    ∧ (Claims.begins s id 0x0001 env = some (u, o) → done (.evtSet id env) (if e = 0xFFFF then u else setEvt u e { value := n, poison := false }))
    ∧ (Claims.begins s id 0x0002 env = some (u, o) →
        done (.evtAdd id env) (if e = 0xFFFF then u else setEvt u e { value := (getEvt u e).value + n, poison := (getEvt u e).poison }))
    ∧ (Claims.begins s id 0x0003 env = some (u, o) →
        (tsHost o.desc = false → ∃ v, done (.timestamp id env) v ∧ v.dram = (devWrite u (ctxOf o env) r.sram r.addr tick).dram
          ∧ v.cores = (devWrite u (ctxOf o env) r.sram r.addr tick).cores ∧ v.host = (devWrite u (ctxOf o env) r.sram r.addr tick).host)
        ∧ (tsHost o.desc = true → (getPort u port).up = true → env.host.rejects = [] → r.addr + 8 ≤ 2 ^ 64 →
            ∃ v, done (.timestamp id env) v ∧ mread v.host (hostKey port r.addr) 8 = tick ∧ v.dram = u.dram ∧ v.cores = u.cores))

/-- R84, R87, R89: an operation that a core may start and whose run meets no failure completes OK, or DEGRADED_OK, with
what the run wrote and what its statistics measured; one whose run fails completes with the failure's status, its output
ranges left to free values. On readable operands EXPR writes the value of its program's last node for each element (R93 to R95),
the opcodes of class 0x3 what R97 and R98 compute of each row or column, and the RNG opcodes the generator's values (R102); the
special functions are the model's constants within R95's errors (logs 1, 2). That OUT1 of SOFTMAX_FWD is one row of ROWS values
is the model's choice (log 172), and so is RNG_UNIFORM's P2 by rounding (log 173). -/
def Obligations.CoreOperationCompletes : Prop :=
  ∀ (c : Instr) (opcode id : Nat) (env : Env) (run : State → Op → Ran) (s u : State) (o : Op),
    Claims.coreRow c = some (opcode, id, env, run) → Claims.begins s id opcode env = some (u, o) →
    (opcode = 0x2080 → lateRefusal u o.part o.core o.desc = none) →
    let x := run u o
    let d := o.desc
    let cx := ctxOf o env
    let writes (r : State) : Prop := ∃ v, Claims.completes c s v o (Claims.success u o env) ∧ Claims.sameMemory v r
    (x.fail = none → Claims.completes c s (Machine.measure x.s o.part d x.rows).1 o (Claims.success u o env))
    ∧ (∀ st xs info, x.fail = some (st, xs, info) →
        Claims.completes c s (freeOuts x.s o env) o st)
    ∧ (∀ (ns : List Node) (w : State) (out : Use) (val : Nat → Nat → Nat → F32), opcode = 0x2080 →
        readProgram u { cx with places := [] } d = some ns → 0 < ns.length →
        checkExts u cx (inExts (planExpr d (some ns)).uses) = (w, none) → useAt (planExpr d (some ns)).uses 0x30 = some out →
        Claims.nodeValues w cx d ns val →
        let len := fld d 0x3C 2
        let count := fld d 0x38 4
        writes (emit w cx d out (field (byteAt d 0x3E) 0 2) (streamOf d) (elemIndex d)
          (tabulate (if len = 0 then 1 else count / len) (if len = 0 then count else len) (fun r c => val r c (ns.length - 1)))))
    ∧ (∀ (w : State) (out : Use), 0x30C0 ≤ opcode → opcode ≤ 0x30C5 →
        checkExts u cx (inExts (planReduce d).uses) = (w, none) → useAt (planReduce d).uses 0x28 = some out →
        writes (Claims.reduceWrites w cx d opcode out))
    ∧ (∀ (out : Use), 0x5140 ≤ opcode → opcode ≤ 0x5142 → useAt (planRng d).uses 0x10 = some out →
        writes (Claims.rngWrites u cx d opcode out))

/-- R91, R41: GEMM on readable operands writes D, each element the exact products of a row of op(A) and a column of op(B)
accumulated in the fixed order, plus C where it is present, narrowed to D's format with its rounding; then it completes. -/
def Obligations.GemmWritesProducts : Prop :=
  ∀ (id : Nat) (env : Env) (s u w : State) (o : Op) (a b d : Use),
    let us := (planGemm o.desc).uses
    let x := ctxOf o env
    let eqv := dEqv o.desc
    let ctrl := fld o.desc 0x38 2
    Claims.begins s id 0x1040 env = some (u, o) → checkExts u x (inExts us) = (w, none) →
    useAt us 0x10 = some a → useAt us 0x18 = some b → useAt us 0x28 = some d →
    let sum (i j : Nat) : F32 := accumulate eqv ((List.range (fld o.desc 0x34 4)).map (fun k =>
      vMul (opndVal w x eqv a.trans a.view i k) (opndVal w x eqv b.trans b.view k j)))
    let value (i j : Nat) : F32 :=
      match useAt us 0x20 with
      | some c => fAdd eqv (sum i j) (opndF32 w x eqv c.trans c.view i j)
      | none => sum i j
    let out := emit w x o.desc d (field ctrl 0 2) (streamOf o.desc) (elemIndex o.desc) (tabulate (fld o.desc 0x30 2) (fld o.desc 0x32 2) value)
    ∃ v, Claims.completes (.gemm id env) s v o (Claims.success u o env) ∧ v.dram = out.dram ∧ v.cores = out.cores ∧ v.host = out.host

/-- R99: COPY and TRANSPOSE on readable operands move the stored codes (a NaN as the canonical one, R29, and with EQV a
subnormal as zero, R49: log 37); PACK and UNPACK write the operand's values in the destination's format; GATHER moves row AUX[i]
to row i and SCATTER_ADD adds row i to row AUX[i] from +0 in increasing i (R100), unless an index is at or beyond TROWS, whose
position INFO then holds (R101); HOST_READ writes each row of the host's bytes, its rows SSTRIDE apart, to DST, HOST_WRITE each
row of SRC to host memory, where rows that do not overlap read back as sent. -/
def Obligations.MovementMovesBytes : Prop :=
  ∀ (id : Nat) (env : Env) (s u w : State) (o : Op) (src dst : Use),
    let d := o.desc
    let us := (planMove d).uses
    let x := ctxOf o env
    let port := ownerPort u o.part
    let rows := fld d 0x28 4
    let cols := fld d 0x2C 4
    let trows := fld d 0x38 4
    let rnd := field (fld d 0x3C 2) 0 2
    let value (t : State) (r c : Nat) : F32 := opndF32 t x (dEqv d) src.trans src.view r c
    let idx (t : State) : List Nat := words rows (devBytes t x (refAt d 0x20).sram (refAt d 0x20).addr (4 * rows))
    let writes (c : Instr) (r : State) : Prop := ∃ v, Claims.completes c s v o (Claims.success u o env) ∧ Claims.sameMemory v r
    let valueWrites (m n : Nat) (f : Nat → Nat → F32) : State :=
      emit w x d dst rnd (streamOf d) (elemIndex d) (tabulate m n f)
    let both : Prop := useAt us 0x10 = some src ∧ useAt us 0x18 = some dst
    (both → checkExts u x (inExts us) = (w, none) →
      (Claims.begins s id 0x4100 env = some (u, o) → writes (.copy id env) (moveCodes w x (dEqv d) src dst (fun r c => (r, c))))
      ∧ (Claims.begins s id 0x4101 env = some (u, o) → writes (.transpose id env) (moveCodes w x (dEqv d) src dst (fun r c => (c, r))))
      ∧ (Claims.begins s id 0x4102 env = some (u, o) → writes (.pack id env) (valueWrites rows cols (value w)))
      ∧ (Claims.begins s id 0x4103 env = some (u, o) → writes (.unpack id env) (valueWrites rows cols (value w))))
    ∧ (∀ u1, both → checkExts u x (inExts (us.filter (fun y => y.off = 0x20))) = (u1, none) →
        ((∀ j ∈ idx u1, j < trows) →
          (Claims.begins s id 0x4104 env = some (u, o) →
            checkExts u1 x ((idx u1).flatMap (fun j => rowExts src j cols)) = (w, none) →
            writes (.gather id env) (moveCodes w x (dEqv d) src dst (fun r c => ((idx u1).getD r 0, c))))
          ∧ (Claims.begins s id 0x4105 env = some (u, o) → checkExts u1 x src.view.exts = (w, none) →
            writes (.scatterAdd id env) (valueWrites trows cols (fun j c =>
              ((List.range rows).filter (fun i => (idx u1).getD i 0 = j)).foldl (fun a i => fAdd (dEqv d) a (value w i c)) zero32))))
        ∧ (∀ i j, (idx u1)[i]? = some j → trows ≤ j → (∀ k n, k < i → (idx u1)[k]? = some n → n < trows) →
          (Claims.begins s id 0x4104 env = some (u, o) →
            ∃ t, exec (.gather id env) s = .next t ∧ Completed (freeOuts u1 o env) t o 0x80 0 i)
          ∧ (Claims.begins s id 0x4105 env = some (u, o) →
            ∃ t, exec (.scatterAdd id env) s = .next t ∧ Completed (freeOuts u1 o env) t o 0x80 0 i)))
    ∧ (Claims.begins s id 0x4106 env = some (u, o) → useAt us 0x18 = some dst →
        hostPoisoned env.host port (hostRows d 0x10 0x30) = false → hostRejected u env.host port (hostRows d 0x10 0x30) = false →
        let pitch := if fld d 0x30 4 = 0 then cols else fld d 0x30 4
        let step := if dst.view.stride = 0 then dst.view.cols else dst.view.stride
        writes (.hostRead id env) ((List.range rows).foldl (fun t r =>
          devWrite t x dst.view.sram (dst.view.base + r * step) (mread u.host (hostKey port (fld d 0x10 8 + r * pitch)) cols)) u))
    ∧ (Claims.begins s id 0x4107 env = some (u, o) → checkExts u x (inExts us) = (w, none) → useAt us 0x10 = some src →
        hostRejected w env.host port (hostRows d 0x18 0x34) = false →
        let pitch := if fld d 0x34 4 = 0 then cols else fld d 0x34 4
        cols ≤ pitch → fld d 0x18 8 + rows * pitch ≤ 2 ^ 64 →
        ∃ v, Claims.completes (.hostWrite id env) s v o (Claims.success u o env)
          ∧ v.dram = w.dram ∧ v.cores = w.cores
          ∧ ∀ r, r < rows → mread v.host (hostKey port (fld d 0x18 8 + r * pitch)) cols
              = devBytes w x src.view.sram (src.view.base + r * (if src.view.stride = 0 then src.view.cols else src.view.stride)) cols)

/-- No command of a core, of the queue engine or of the memory changes power, pins, part data, partitions, regions, ports (but
for the number of VFs that a configuration write sets), the layer table, the core map, plans and routing, links, the Kettle,
collectives' contexts, shards and armings, or the firmware slots (R52, R140: an operation reaches only its operands). -/
def Obligations.CoreCommandsKeepModule : Prop :=
  ∀ (c : Instr) (s t : State), Claims.coreCommand c = true → exec c s = .next t →
    t.part = s.part ∧ t.power = s.power ∧ (∀ p, getPort t p = { getPort s p with vfs := (getPort t p).vfs, vfsLost := (getPort t p).vfsLost }) ∧ t.parts = s.parts
      ∧ t.fabOwner = s.fabOwner ∧ { t.cores with sram := [], sbe := [] } = { s.cores with sram := [], sbe := [] } ∧ t.dram.regions = s.dram.regions ∧ t.tr.layers = s.tr.layers
      ∧ t.st = s.st ∧ t.pl.ctxs = s.pl.ctxs ∧ t.fab = s.fab ∧ t.links = s.links ∧ t.kt = s.kt
      ∧ t.dbx.slots = s.dbx.slots ∧ t.dbx.update = s.dbx.update ∧ t.dbx.nextBoot = s.dbx.nextBoot

/-! ### The Caddy and the Steeper -/

/-- R103, R183 to R186, R188, R191: STASH_PUT of a new entry with room stores the encoded elements and the entry's record, pins
its slots, and completes; STASH_GET of a readable entry in a format it may take writes the elements it decodes; STASH_FREE of an entry no
STASH_GET reads removes it. A second STASH_PUT of an entry in use ends 0x81, and STASH_GET and STASH_FREE of one not in use
end 0x80; the first leaves its destination undefined (R89). The layout of the entry's record in its 8 KiB slot is the model's
choice (log 49). -/
def Obligations.StashOperations : Prop :=
  ∀ (id : Nat) (env : Env) (s u : State) (o : Op),
    let d := o.desc
    let x := ctxOf o env
    let src := refAt d 0x10
    let ok := Claims.success u o env
    (Claims.begins s id 0x6180 env = some (u, o) → putBefore u o (fld d 0x24 4) = false →
      ((getStash u o.part (fld d 0x24 4)).isSome = true → Claims.completes (.stashPut id env) s (freeOuts u o env) o 0x81)
      ∧ (∀ w, getStash u o.part (fld d 0x24 4) = none → stashCount u o.part < (getPart u o.part).cdEntries →
          (∀ q ∈ pinsOf u (prodsOf u d), fenceOf u q.layer q.slot < 65535) → checkExts u x (inExts (usesOf u o.part d)) = (w, none) →
          ∃ v e, Claims.completes (.stashPut id env) s v o ok ∧ getStash v o.part (fld d 0x24 4) = some e
            ∧ e.codec = byteAt d 0x2A ∧ e.count = fld d 0x20 4 ∧ e.fmt = src.fmt ∧ e.dst = (refAt d 0x18).addr
            ∧ e.pins = pinsOf u (prodsOf u d) ∧ e.prods = prodsOf u d
            ∧ (let w2 := writeRuns w x e.dst (stashEncode e.codec e.fmt (flatCodes w x (flatView src.fmt (fld d 0x20 4) src.sram src.addr)))
               let w3 := e.pins.foldl (fun t y => fenceAdd t y.layer y.slot) w2
               v.dram = (writeRecord w3 x (fld d 0x24 4) e).dram)))
    ∧ (Claims.begins s id 0x6181 env = some (u, o) →
      (getStash u o.part (fld d 0x18 4) = none → Claims.completes (.stashGet id env) s u o 0x80)
      ∧ (∀ e w xs, getStash u o.part (fld d 0x18 4) = some e → getRefusal u o.part d e = none →
          stashDecode u { part := o.part, mem := env.mem } e = (w, none, xs) →
          ∃ v, Claims.completes (.stashGet id env) s v o ok ∧ v.dram = (getWrite w x d e xs).dram ∧ v.cores = (getWrite w x d e xs).cores
            ∧ getStash v o.part (fld d 0x18 4) = some e))
    ∧ (Claims.begins s id 0x6182 env = some (u, o) → fld d 0x10 4 < 2 ^ 32 →
      (getStash u o.part (fld d 0x10 4) = none → Claims.completes (.stashFree id env) s u o 0x80)
      ∧ ((getStash u o.part (fld d 0x10 4)).isSome = true → getRuns u o.part (fld d 0x10 4) = false →
          ∃ v, Claims.completes (.stashFree id env) s v o ok ∧ getStash v o.part (fld d 0x10 4) = none
            ∧ (∀ e, e < 2 ^ 32 → e ≠ fld d 0x10 4 → getStash v o.part e = getStash u o.part e) ∧ v.dram = u.dram ∧ v.cores = u.cores))

/-- R190, R191: a STASH_GET waiting for its re-execution whose entry now reads clean is restored and completes DEGRADED_OK;
with no re-execution buffer the entry is lost and it completes STASH_LOST; where the core's rebuilt SRAM is not trusted it
completes CHECK_UNRECOVERED (R71). A waiting STASH_FREE removes its entry and completes OK once no STASH_GET reads it; one that
completed before, by its timer, only has its entry removed then, its record held or not (log 57). -/
def Obligations.StashWaitingOperations : Prop :=
  ∀ (id : Nat) (env : Env) (s : State) (o : Op) (e : Stash),
    let u := envIn s env
    let x : ExecCtx := { part := o.part, mem := env.mem }
    let distrust (v : State) : Prop := o.core ≠ netTarget ∧ (getWindow v o.core).untrusted = true
    (findOp u id = some o → o.phase = .reexecute → dBase o.desc = 0x6181 → distrust u →
      Claims.completes (.stashReexecution id env) s (freeOuts u o env) o stCheck)
    ∧ (findOp u id = some o → o.phase = .reexecute → ¬ distrust u → getStash u o.part (fld o.desc 0x18 4) = some e →
      (∀ w xs, stashDecode u x e = (w, none, xs) →
        ∃ v, Claims.completes (.stashReexecution id env) s v o stDegraded ∧ v.dram = (getWrite w (ctxOf o env) o.desc e xs).dram
          ∧ v.cores = (getWrite w (ctxOf o env) o.desc e xs).cores)
      ∧ (∀ w err xs, stashDecode u x e = (w, some err, xs) → (getPart u o.part).rexSize = 0 →
        ∃ v, Claims.completes (.stashReexecution id env) s v o stStashLost))
    ∧ (∀ k, (∀ y, findOp s id = some y → y.phase ≠ .freeing) → lateFree s id = some k → getRuns s (k / 2 ^ 32) (k % 2 ^ 32) = false →
      ∃ t, exec (.stashFreeDeferred id) s = .next t ∧ getStash t (k / 2 ^ 32) (k % 2 ^ 32) = none ∧ t.dram = s.dram ∧ t.q = s.q)
    ∧ (findOp s id = some o → o.phase = .freeing → ¬ distrust s → getStash s o.part (fld o.desc 0x10 4) = some e → getRuns s o.part (fld o.desc 0x10 4) = false →
      ∃ v, Claims.completes (.stashFreeDeferred id) s v o stOk ∧ getStash v o.part (fld o.desc 0x10 4) = none ∧ v.dram = s.dram)

/-- R204, R205, R208, R210, R221, R227: ST_SHARD_SET and ST_SCHED_SET with readable, valid images load the table entries they
name and no others, and complete; with an image that fails its checks they load nothing and complete with its status (which
images are judged where some cannot be read is the model's reading, log 58). ST_ARM over loaded entries that no arming holds,
for a step not yet voted, registers its arming, whose operation waits for the vote; over an entry not loaded it completes 0x82,
over a held one 0x83, and too late for its step STEP_STALE, with its step in INFO. -/
def Obligations.SteeperTables : Prop :=
  ∀ (id : Nat) (env : Env) (s u w : State) (o : Op) (bs : List (Option Bytes)),
    let d := o.desc
    let ok := Claims.success u o env
    let first := fld d 0x1C 2
    let count := fld d 0x1E 2
    let step := fld d 0x10 6
    let named (e : Nat) : Prop := first ≤ e ∧ e < first + count
    let ends (st xs : Nat) : Prop := ∃ t, exec (.stArm id env) s = .next t ∧ Completed u t o st xs step
    (∀ w2, Claims.begins s id 0x71C1 env = some (u, o) → imagesOf u o env 64 (fld d 0x1A 2) = (w, none, bs) →
      (shardFail o.part env.mem bs (fld d 0x18 2) (w, false) = (w2, false, none) →
        ∃ v, Claims.completes (.stShardSet id env) s v o ok
          ∧ (∀ i, i < bs.length → getShard v (fld d 0x18 2 + i) = (bs.getD i none).getD [])
          ∧ (∀ k, (k < fld d 0x18 2 ∨ fld d 0x18 2 + bs.length ≤ k) → getShard v k = getShard w2 k) ∧ v.dram = w2.dram)
      ∧ (∀ bad st xs e, shardFail o.part env.mem bs (fld d 0x18 2) (w, false) = (w2, bad, some (st, xs, e)) →
        ∃ t, exec (.stShardSet id env) s = .next t ∧ Completed w2 t o st xs e))
    ∧ (Claims.begins s id 0x71C2 env = some (u, o) → imagesOf u o env 64 (byteAt d 0x19) = (w, none, bs) →
      (schedFail w o.part bs (byteAt d 0x18) = none →
        ∃ v, Claims.completes (.stSchedSet id env) s v o ok
          ∧ (∀ i, i < bs.length → getSched v o.part (byteAt d 0x18 + i) = (bs.getD i none).getD []) ∧ v.st.shards = w.st.shards ∧ v.dram = w.dram)
      ∧ (∀ st xs i, schedFail w o.part bs (byteAt d 0x18) = some (st, xs, i) →
        ∃ t, exec (.stSchedSet id env) s = .next t ∧ Completed w t o st xs i))
    ∧ (Claims.begins s id 0x71C0 env = some (u, o) →
      ((∃ e, named e ∧ shRule (getShard u e) = 0) → ends 0x82 0)
      ∧ ((∀ e, named e → shRule (getShard u e) ≠ 0) →
        ((∃ e, named e ∧ shardHeld u e = true) → ends 0x83 0)
        ∧ ((∀ e, named e → shardHeld u e = false) →
          (armLate u o.part step = true → ends stStale 3)
          ∧ (armLate u o.part step = false →
            ∃ t a, exec (.stArm id env) s = .next t ∧ t.st.armings = u.st.armings ++ [a]
              ∧ a.op = o.id ∧ a.part = o.part ∧ a.step = step ∧ a.group = fld d 0x16 2 ∧ a.seq = fld d 0x18 4
              ∧ a.first = first ∧ a.count = count ∧ a.mcast = fld d 0x20 2 ∧ a.claimed = [] ∧ a.bound = false
              ∧ (∀ x, findOp t o.id = some x → x.phase = .registered) ∧ t.dram = u.dram ∧ t.cores = u.cores ∧ t.q.evts = u.q.evts))))

/-- R179, R180, R210: an arming claims a layer's other slot, which then holds no version, once no reader or pin holds a
fence on it and no other step claims it. R211 to R213: a reduced chunk that its Steeper may apply is recorded as applied,
with what applying it wrote. R210 step 5: with every element of an entry here, Rules A, M and F give its pending half its
header, and the compute copy fills the claimed slot; Rule V stages the current half and signals its counter. R216: Rule V
resumes when its descriptors signal, and its entry finishes as the others do; a poisoned signal ends the arming
POISONED_INPUT. R227: where the pending half's master weights cannot be read, the arming ends. -/
def Obligations.SteeperApplies : Prop :=
  ∀ (id layer entry chunk : Nat) (coll : CollRef) (env : Env) (s : State) (a : Arming),
    let u := envIn s env
    let img := getShard u entry
    let finishes (c : Instr) (v : State) (xb : Nat) : Prop :=
      let w := steepWrite v a.part env.mem (pendAddr v img) (halfHeader (shRule img) xb a.step)
      (∀ w2, mastersCheck w a.part env.mem (pendAddr w img) img = (w2, false) →
        ∃ t x, exec c s = .next t ∧ findArming t id = some x ∧ tget .filling x.entries entry = .finished
          ∧ t.dram = ((computeRuns w2 a.part img a.step).foldl
              (fun y r => fillSlot y a.part env.mem (shLayer img) (shToff img + r.1) r.2) w2).dram)
      ∧ (∀ w2, mastersCheck w a.part env.mem (pendAddr w img) img = (w2, true) → ∃ t, exec c s = .next t ∧ findArming t id = none)
    let flagged (v : State) (nf : Bool) : State := updArming v id (fun y => { y with nonfinite := y.nonfinite || nf })
    (findArming s id = some a → a.op = id → layer ∈ armLayers s a → layer ∉ a.claimed → (getVer s layer).claim = none →
      fenceOf s layer (1 - (getVer s layer).cur) = 0 → (getVer s layer).cur ≤ 1 →
      ∃ t, exec (.slotClaim id layer) s = .next t ∧ (getVer t layer).claim = some a.step ∧ (getVer t layer).cur = (getVer s layer).cur
        ∧ slotVersion (getVer t layer) (1 - (getVer s layer).cur) = none ∧ t.dram = s.dram)
    ∧ (∀ x o vals w v a2, findCtx u coll = some x → findOp u x.op = some o → steeperFed o.desc = true →
      chunk < segChunks x o.desc true x.rank → (x.rank, chunk) ∉ x.written → rootVals x o.desc x.rank chunk = some vals →
      armOf u x = some a →
      let start := chunk * chunkElems (nodeFmt o.desc)
      let es := touched u a start vals.length
      es.foldl (fun t e => let (s1, b) := steepCheck t.1 a.part env.mem (curAddr t.1 (getShard t.1 e)) 64; (s1, t.2 || b)) (u, false) = (w, false) →
      (∀ e ∈ es, lastApplied w a.part (getShard w e) < a.step ∧ (a.gap = true ∨ a.step ≤ lastApplied w a.part (getShard w e) + 1)) →
      es.foldl (applyEntry env.mem start vals) (w, a, false) = (v, a2, false) →
      ∃ t, exec (.reducedChunkApply coll chunk env) s = .next t ∧ t.dram = v.dram
        ∧ t.st.armings = (updArming v a.op (fun _ => { a2 with done := a2.done ++ [chunk] })).st.armings
        ∧ (∀ y ∈ t.pl.ctxs, y.op = x.op → (x.rank, chunk) ∈ y.written))
    ∧ (findArming u id = some a → a.op = id → a.bound = true → entry ∈ armEntries a → tget .filling a.entries entry = .filling →
      tget 0 a.applied entry = shN img →
      (shRule img = 2 ∨ shRule img = 3 → finishes (.shardFinish id entry env) u 0)
      ∧ (∀ w1 w2, shRule img = 1 → shN img ≠ 0 → steepCheck u a.part env.mem (curAddr u img) (halfSize img 0) = (w1, false) →
        steepCheck w1 a.part env.mem (shStage img) (4 * shN img) = (w2, false) →
        let r := applyRuleF w2 a.part env.mem img a.step
        finishes (.shardFinish id entry env) (flagged r.1 r.2) 0)
      ∧ (∀ w, shRule img = 4 → shVevt img < 65535 → readHalf u a.part env.mem img = (w, false) →
        ∃ t x, exec (.shardFinish id entry env) s = .next t ∧ findArming t id = some x ∧ tget .filling x.entries entry = .waitingV
          ∧ getEvt t (shVevt img) = { getEvt w (shVevt img) with value := (getEvt w (shVevt img)).value + 1#32 }
          ∧ getEvt t (shVevt img + 1) = { value := 0#32, poison := false }))
    ∧ (findArming u id = some a → a.op = id → entry ∈ armEntries a → tget .filling a.entries entry = .waitingV →
      (getEvt u (shVevt img + 1)).value ≠ 0#32 →
      (∀ o, (getEvt u (shVevt img + 1)).poison = true → findOp u id = some o →
        ∃ v, Claims.completes (.ruleVResume id entry env) s v o stPoison ∧ findArming v id = none)
      ∧ (∀ w w1 xb, (getEvt u (shVevt img + 1)).poison = false → readHeader u a.part env.mem img = (w, false, xb) →
        steepCheck w a.part env.mem (stageOut img xb) (bodySize img xb) = (w1, false) →
        let b := steepBytes w1 a.part (stageOut img xb) (bodySize img xb)
        let exps := (b.drop (planeOff img xb 1 - 1024)).take (roundUp (shN img) 32 / 32)
        finishes (.ruleVResume id entry env)
          (flagged (steepWrite w1 a.part env.mem (pendAddr w1 img + 1024) b) (exps.any (fun x => x = 0xFF#8))) xb))

/-- R218: compute values for a layer claimed for their step are written to the claimed slot and acknowledged, others are
refused; an acknowledgement drops the kept values, a refusal marks them, and a resend clears the marks. R194, R198: an arming
whose entries are finished begins its statistics exchange with its own entries; that of a group of one member closes at once
and gives every layer of the arming its statistics. -/
def Obligations.ComputeValuesAndStatistics : Prop :=
  ∀ (id mcast src member : Nat) (msg : ComputeValues) (env : Env) (s : State) (a : Arming),
    let u := takeDelivered s (valuesBytes msg)
    ((tget {} u.fab.mcast mcast).loc = false → exec (.computeValuesReceive mcast src msg) s = .next u)
    ∧ ((tget {} u.fab.mcast mcast).loc = true →
      (∀ p, valuesPart u msg.layer = some p → (getVer u msg.layer).claim = some msg.step →
        msg.off + msg.data.length ≤ (getLayer u msg.layer).len →
        ∃ t, exec (.computeValuesReceive mcast src msg) s = .next t ∧ t = answerValues (fillSlot u p {} msg.layer msg.off msg.data) src msg 0
          ∧ (msg.data ≠ [] → (msg.off, msg.data.length) ∈ (getVer t msg.layer).filled))
      ∧ ((getVer u msg.layer).claim ≠ some msg.step ∨ valuesPart u msg.layer = none ∨ (getLayer u msg.layer).len < msg.off + msg.data.length →
        exec (.computeValuesReceive mcast src msg) s = .next (answerValues u src msg 1)))
    ∧ (findArming s id = some a → a.op = id →
      (∃ t x, exec (.computeValuesAck id member msg .acknowledged) s = .next t ∧ findArming t id = some x
        ∧ x = { a with sent := a.sent.filter (fun y => !isValues member msg y) } ∧ t = { s with st := { s.st with armings := t.st.armings } })
      ∧ (∃ t x, exec (.computeValuesAck id member msg .refused) s = .next t ∧ findArming t id = some x
        ∧ (∀ y ∈ a.sent, isValues member msg y = true → ∃ z ∈ x.sent, isValues member msg z = true ∧ z.refused = true)
        ∧ t = { s with st := { s.st with armings := t.st.armings } })
      ∧ (∃ t x, exec (.computeValuesResend id) s = .next t ∧ findArming t id = some x
        ∧ x = { a with sent := a.sent.map (fun y => { y with refused := false }) } ∧ t.dram = s.dram))
    ∧ (let v := envIn s env
       ∀ x o w, findArming v id = some a → a.op = id →
        v.pl.ctxs.find? (fun y => y.part = a.part && y.coll.group = a.group && y.coll.seq = a.seq && y.code = 1) = some x →
        findOp v x.op = some o → x.stats = none → a.exchanged = false → a.bound = true → allFinished a = true →
        sumsCheck v a env.mem = (w, false) →
        let x1 : Ctx := { x with stats := some (ownStats w a) }
        let r := grantFree o.desc 4 (putCtx (takeAccs w a) x1, x1)
        exec (.statisticsExchange id env.host env.mem) s = .next (pump (putCtx r.1 r.2) r.2)
        ∧ (x.size = 1 → x.rank = 0 → x.absent = [] → x.lost = [] → x.sent = [] → xGlayer o.desc = 0xFFFF → steeperFed o.desc = true → armOf v x = some a →
          ∃ t, exec (.statisticsExchange id env.host env.mem) s = .next t ∧ (∀ y ∈ t.pl.ctxs, y.op ≠ x.op)
            ∧ (∀ y, findArming t id = some y → y.exchanged = true)
            ∧ ∀ l ∈ armLayers v a, ∃ es e, (getGov t l).exchanged = some (a.step, es) ∧ (a.group * 2 ^ 32 + a.seq, e, false) ∈ es))

/-- R223, R224, R225: a member contributes the record of its step to the vote; a record that commits makes every claimed
slot of the step current with the next version, at once, and a record that skips the step frees the claims and leaves the
current slots. The partition then remembers the outcome. -/
def Obligations.VoteDecidesStep : Prop :=
  ∀ (id : Nat) (record : Bytes) (s : State) (x : Ctx) (o : Op),
    let p := o.part
    let step := cStep o.desc
    ctxByOp s id = some x → findOp s id = some o → x.code = 7 →
    (∀ r cs, x.own = none → contribution s o x.rank = some (r, cs) →
      let s1 := cs.foldl (fun t a => updArming t a.op (fun a => { a with counted := true })) s
      let kept := (getVote s1 p).contributed.filter (fun e => e.1 ≠ step)
      let s2 := setVote s1 p { getVote s1 p with contributed := kept ++ [(step, r)] }
      (pumpRecords (putCtx s2 { x with own := some r }) { x with own := some r } o.desc).2.2 = none →
      ∃ t, exec (.voteContribute id) s = .next t ∧ recordFor (getVote t p) step = some r
        ∧ (∀ k, k ≠ step → recordFor (getVote t p) k = recordFor (getVote s p) k) ∧ t.dram = s.dram ∧ t.tr = s.tr)
    ∧ (x.result = some record → (claimedFor s p step).Nodup →
      (skipCause record (!(fencedRanks x).isEmpty) = none →
        ∃ t, exec (.voteDecision id record) s = .next t
          ∧ (getVote t p).lastStep = some step ∧ (getVote t p).lastCommit = true
          ∧ (∀ l ∈ claimedFor s p step, (getVer s l).cur ≤ 1 → (getVer t l).claim = none ∧ (getVer t l).cur = 1 - (getVer s l).cur
              ∧ slotVersion (getVer t l) (getVer t l).cur = some (((slotVersion (getVer s l) (getVer s l).cur).getD 0 + 1) % 2 ^ 48))
          ∧ t.dram.cells = s.dram.cells)
      ∧ (∀ xs, skipCause record (!(fencedRanks x).isEmpty) = some xs → (∀ a ∈ armingsOf s p step, a.counted = true) →
        ∃ t, exec (.voteDecision id record) s = .next t
          ∧ (getVote t p).lastStep = some step ∧ (getVote t p).lastCommit = false
          ∧ (∀ l ∈ claimedFor s p step, (getVer t l).claim = none ∧ (getVer t l).cur = (getVer s l).cur)
          ∧ t.dram.cells = s.dram.cells))

/-! ### Fabric tables and collectives -/

/-- R229 to R231: GROUP_SET with readable images whose groups load, and whose quotas the contexts hold, sets those group-table
entries, and completes; quotas beyond the contexts end it NO_RESOURCE, and else an image that fails ends it with that image's
status and loads nothing. R275: MCAST_SET sets one entry of the multicast table and no other. R259, R279, R280, R286: PLAN_STAGE
with a readable, valid image stages it, judges the neighbours and classes the ports anew (the model's reading, logs 62 and 91);
PLAN_COMMIT of a newer epoch, and FENCE with a readable list of coordinates, start the change of epoch, which their operation
waits for; that a PLAN_COMMIT keeps the fence list in force is the model's choice (log 88). -/
def Obligations.NetworkTables : Prop :=
  ∀ (id : Nat) (env : Env) (s u w : State) (o : Op),
    let d := o.desc
    let x := ctxOf o env
    let ok := Claims.success u o env
    (∀ bs w2 gs, Claims.begins s id 0x820B env = some (u, o) → imagesOf u o env 64 (fld d 0x1A 2) = (w, none, bs) →
      let quotas := quotaWith w2 o.part (fld d 0x18 2) (bs.map (fun b => b.getD []))
      (∀ st xs e lost, loadGroups o.part env.mem bs (fld d 0x18 2) [] none w = (w2, .inr (st, xs, e), lost) →
        quotas ≤ (getPart u o.part).contexts →
        ∃ t, exec (.groupSet id env) s = .next t ∧ Completed w2 t o st xs (if st = stVersion then 0 else e))
      ∧ (loadGroups o.part env.mem bs (fld d 0x18 2) [] none w = (w2, .inl gs, none) →
      let v := gs.foldl (fun t g => dropEarly (setGroup t g.1 g.2) g.1 g.2.seq0) w2
      (quotas ≤ (getPart u o.part).contexts → Claims.completes (.groupSet id env) s v o ok ∧ ∀ g ∈ gs, getGroup v g.1 = g.2)
      ∧ ((getPart u o.part).contexts < quotas → Claims.completes (.groupSet id env) s w2 o stNoRes)))
    ∧ (Claims.begins s id 0x9243 env = some (u, o) →
      ∃ v, Claims.completes (.mcastSet id env) s v o ok
        ∧ tget {} v.fab.mcast (fld d 0x10 2) = { ports := BitVec.ofNat 12 (fld d 0x12 2), loc := bit (byteAt d 0x14) 0 }
        ∧ (∀ k, k ≠ fld d 0x10 2 → tget {} v.fab.mcast k = tget {} u.fab.mcast k) ∧ v = { u with fab := { u.fab with mcast := v.fab.mcast } })
    ∧ (Claims.begins s id 0x9240 env = some (u, o) → u.fab.change = none →
      let r := refAt d 0x10
      checkRange u x r.sram r.addr (fld d 0x18 4) = (w, none) →
      let img := devBytes w x r.sram r.addr (fld d 0x18 4)
      byteAt img 0 = 1 → planFault img (fld d 0x18 4) = none →
      let v := newPlan { w with fab := { w.fab with staged := some img } }
      Claims.completes (.planStage id env) s v o ok ∧ v.fab.staged = some img ∧ v.fab.active = w.fab.active ∧ v.fab.epoch = w.fab.epoch
        ∧ v.fab.fence = w.fab.fence ∧ v.dram = w.dram)
    ∧ (∀ img, Claims.begins s id 0x9241 env = some (u, o) → u.fab.change = none → epochNewer u.fab.epoch (fld d 0x10 2) = true →
      u.fab.staged = some img →
      ∃ t, exec (.planCommit id env) s = .next t
        ∧ t.fab = { u.fab with change := some { op := some o.id, epoch := fld d 0x10 2, fence := u.fab.fence, isFence := false, draining := planAgreed u img } }
        ∧ (∀ y, findOp t o.id = some y → y.phase = .registered) ∧ t = { u with fab := t.fab, q := { u.q with ops := t.q.ops } })
    ∧ (Claims.begins s id 0x9242 env = some (u, o) → u.fab.change = none → epochNewer u.fab.epoch (fld d 0x10 2) = true →
      fld d 0x12 2 ≤ 256 →
      let list := field (fld d 0x18 8) 0 40
      checkRange u x false list (4 * fld d 0x12 2) = (w, none) →
      let ws := words (fld d 0x12 2) (devBytes w x false list (4 * fld d 0x12 2))
      badFenceWord w (ws.map some) = none →
      ∃ t, exec (.fence id env) s = .next t
        ∧ t.fab = { w.fab with change := some { op := some o.id, epoch := fld d 0x10 2, fence := ws, isFence := true, draining := true } }
        ∧ (∀ y, findOp t o.id = some y → y.phase = .registered) ∧ t.dram = w.dram)

namespace Sys2Proof.Claims

/-- The eleven collectives: opcode, operation and environment. -/
def collRow : Instr → Option (Nat × Nat × Env)
  | .allReduce id env => some (0x8200, id, env)
  | .reduceScatter id env => some (0x8201, id, env)
  | .allGather id env => some (0x8202, id, env)
  | .broadcast id env => some (0x8203, id, env)
  | .reduce id env => some (0x8204, id, env)
  | .allToAll id env => some (0x8205, id, env)
  | .barrier id env => some (0x8206, id, env)
  | .stepVote id env => some (0x8207, id, env)
  | .send id env => some (0x8208, id, env)
  | .recv id env => some (0x8209, id, env)
  | .mcastPut id env => some (0x820A, id, env)
  | _ => none

end Sys2Proof.Claims

/-- R233, R234: a collective whose group is set, whose SEQ none of its sequence spaces has passed and no dispatched
collective has, is registered and waits to open; in an unset group it ends 0x80, with an old or a dispatched SEQ 0x81
SEQ_STALE (that a dispatched one does is the model's reading, log 64), and its DST is undefined (R89; in an unset group DST has
the size for one member, log 161). A registered collective opens once its SEQ is next in its spaces and its slot is free: the
numbers are then consumed, its context is that of its group, and an abort notice kept from before (log 71) ends it (R245). No
memory is written by the registration. -/
def Obligations.CollectivesRegisterAndOpen : Prop :=
  ∀ (c : Instr) (opcode id : Nat) (env : Env) (s : State) (o : Op),
    (∀ u, Claims.collRow c = some (opcode, id, env) → Claims.begins s id opcode env = some (u, o) →
      let g := getGroup u (cGroup o.desc)
      let old := (seqSpaces g o.desc).any (fun sp => decide (seqDiff (cSeq o.desc) (nextSeq g sp) < 0)) || seqTaken u o
      (g.valid = false → Claims.completes c s (freeOuts u o env) o 0x80)
      ∧ (g.valid = true → old = true → Claims.completes c s (freeOuts u o env) o 0x81)
      ∧ (g.valid = true → old = false → (∀ a ∈ u.st.armings, a.op ≠ o.id) →
        ∃ t y, exec c s = .next t ∧ y ∈ t.q.ops ∧ y.id = o.id ∧ y.phase = .registered ∧ t.dram = u.dram ∧ t.cores = u.cores
          ∧ t.pl.ctxs = u.pl.ctxs))
    ∧ (let u := envIn s env
       let d := o.desc
       let g := getGroup u (cGroup d)
       ∀ w w2, findOp u id = some o → isColl d = true → o.phase = .registered → ctxByOp u id = none →
        (∀ a ∈ u.st.armings, ∀ y ∈ u.q.ops, y.id = a.op → isColl y.desc = false) → g.valid = true →
        groupInPart u o.part (cGroup d) = true → (∀ sp ∈ seqSpaces g d, nextSeq g sp = cSeq d) →
        slotFree u (cGroup d) (cSeq d % (if g.quota = 0 then 4 else g.quota)) = true →
        checkRange (consumeSeq u o.part d) { part := o.part, mem := env.mem } false g.list (4 * g.size) = (w, none) →
        checkExts (countSbe w (sbeCore w o) env.sbe) (ctxOf o env) (inExts (usesOf w o.part d)) = (w2, none) →
        let x := newCtx w2 o env
        ∃ t, exec (.collectiveOpen id env) s = .next t
          ∧ (∀ sp ∈ seqSpaces g d, nextSeq (getGroup t (cGroup d)) sp = (cSeq d + 1) % 2 ^ 32)
          ∧ (earlyAbort w2 x.coll = none → ∀ y ∈ t.pl.ctxs, y.op = id → y.coll = collRefOf g.myRank d ∧ y.code = cOp d ∧ y.rank = g.myRank
              ∧ y.size = g.size ∧ y.coords = x.coords ∧ y.absent = x.absent ∧ y.src = x.src ∧ y.plane = x.plane)
          ∧ (∀ k, earlyAbort w2 x.coll = some k → ∀ y ∈ t.pl.ctxs, y.op ≠ id))

/-- R235, R244 to R248, R252: a data or statistics chunk whose CRC is bad is answered with a NAK and changes nothing else of the
collective; one for a collective that is not open, or received before, is acknowledged, the latter returning the buffers its
first acknowledgement returned (R247); a due chunk that fits is taken once. A member's first chunk whose digest is not the
operation's ends the collective MEMBER_MISMATCH. So do vote and barrier records, and a vote record of another VVER (R8, R222).
That the digest is looked at first, that a chunk not due is acknowledged and that one of a wrong length, format or later digest
is refused with a NAK are the model's readings (log 72); which rank a record comes from is log 70, and which buffers an
acknowledgement returns log 69. -/
def Obligations.ChunksReceived : Prop :=
  ∀ (via : SegId) (bytes : Bytes) (s : State),
    let u := takeDelivered s bytes
    let came := cameOn s bytes
    let h := parseChunk bytes
    let key := keyOf h
    (64 ≤ bytes.length → h.kind = 1 ∨ h.kind = 7 →
      let leads (t : State) : Prop := exec (.chunkReceive via bytes) s = .next t
      (chunkOk bytes = false → leads (answerChunk u came 4 0 h))
      ∧ (chunkOk bytes = true → findCtx u (chunkRef u h) = none → leads (answerChunk u came 3 1 h))
      ∧ (∀ x o, chunkOk bytes = true → findCtx u (chunkRef u h) = some x → findOp u x.op = some o →
          let told := x.digests.find? (fun e => e.1 = digestKey h)
          let expected := collDigest x o.desc (if key.stat then 0x0F else digestOp x.code)
          (told = none → h.digest ≠ expected → ∃ t, leads t ∧ ∀ y ∈ t.pl.ctxs, y.op ≠ x.op)
          ∧ (∀ e, told = some e → e.2 ≠ h.digest → leads (answerChunk u came 4 0 h))
          ∧ ((told = none ∧ h.digest = expected) ∨ told = some (digestKey h, h.digest) →
            (dueUnder x o.desc key = none → leads (answerChunk u came 3 1 h))
            ∧ (∀ due, dueUnder x o.desc key = some due →
              (∀ g, x.got.find? (fun g => g.key = key) = some g → leads (answerChunk u came 3 g.returned h))
              ∧ (x.got.any (fun g => g.key = key) = false → chunkFits x o.desc due h.wfmt (bytes.length - 64) = false →
                leads (answerChunk u came 4 0 h))
              ∧ (x.got.any (fun g => g.key = key) = false → chunkFits x o.desc due h.wfmt (bytes.length - 64) = true →
                (u.pl.ctxs.map (·.op)).Nodup →
                let x1 : Ctx := { x with
                  got := x.got ++ [{ key := due.key, red := due.red, wfmt := h.wfmt, payload := bytes.drop 64 }]
                  digests := tset 0#64 (digestKey h) h.digest x.digests
                  received := x.received + 1
                  degraded := x.degraded || !segFullRx u via };
                ∃ t, leads t ∧ ∀ y ∈ t.pl.ctxs, y.op = x.op → y.received = x.received + 1
                  ∧ y.got = x.got ++ [{ key := due.key, red := due.red, wfmt := h.wfmt, payload := bytes.drop 64, returned := returned x1 o.desc h.src }]
                  ∧ tget 0#64 y.digests (digestKey h) = h.digest)))))
    ∧ (64 ≤ bytes.length → h.kind = 6 →
      let leads (t : State) : Prop := exec (.voteRecordReceive via bytes) s = .next t
      (chunkOk bytes = false → leads (answerChunk u { came with vc := 0 } 4 0 h))
      ∧ (chunkOk bytes = true → findCtx u (chunkRef u h) = none → leads (answerChunk u { came with vc := 0 } 3 1 h))
      ∧ (∀ x o, chunkOk bytes = true → findCtx u (chunkRef u h) = some x → findOp u x.op = some o →
          let top := topLevel x 0 x.rank
          let x1 : Ctx := { x with degraded := x.degraded || !segFullRx u via }
          let up : Prop := h.level < top ∧ home x 0 h.level (otherHalf x.rank h.level) = h.src
          let down : Prop := top < treeLevels x.size ∧ h.level = top ∧ home x 0 (top + 1) (blockOf x.rank (top + 1)) = h.src
          let foreign : Prop := x.code = 7 ∧ byteAt bytes 64 ≠ 1
          (h.digest ≠ collDigest x o.desc x.code ∨ ((up ∨ down) ∧ foreign) → ∃ t, leads t ∧ ∀ y ∈ t.pl.ctxs, y.op ≠ x.op)
          ∧ (h.digest = collDigest x o.desc x.code → ¬ foreign →
            (up → x.records.any (fun r => r.1 = h.src) = false →
              let x2 : Ctx := { x1 with records := x1.records ++ [(h.src, bytes.drop 64)] }
              leads (pump (putCtx (answerChunk u { came with vc := 0 } 3 1 h) x2) x2))
            ∧ (x.result = none → x.code = 7 → down →
              let x2 : Ctx := { x1 with result := some (bytes.drop 64) }
              (pumpRecords (putCtx (answerChunk u { came with vc := 0 } 3 1 h) x2) x2 o.desc).2.2 = none →
              ∃ t y, leads t ∧ y ∈ t.pl.ctxs ∧ y.op = x.op ∧ y.result = some (bytes.drop 64)))))

/-- R235, R245, R247, R249, R250: an acknowledgement marks the sent chunk and gives its grants; a NAK, or no answer within
100 µs, sends the chunk again with RESENT set and counts it, and the fourth failure stops the collective; a grant or an
abort notice for a collective that has not opened is kept for it (log 71), and the notice stops its unacknowledged records; the
records of a collective that has completed are kept and sent again until acknowledged (log 70). -/
def Obligations.ChunksAnswered : Prop :=
  ∀ (coll : CollRef) (rank n : Nat) (key : ChunkKey) (kind : AbortKind) (s : State),
    (findCtx s coll = none → collAhead s coll = true →
      exec (.grantReceive coll rank n) s = .next { s with pl := { s.pl with early := s.pl.early ++ [{ coll, rank, grants := n }] } }
      ∧ exec (.abortNoticeReceive coll kind rank) s
        = .next { s with pl := { s.pl with kept := s.pl.kept.filter (fun k => k.coll ≠ coll), early := s.pl.early ++ [{ coll, rank, abort := some (kind, rank) }] } })
    ∧ (findCtx s coll = none → exec (.ackReceive coll rank ⟨key, n⟩) s
        = .next { s with pl := { s.pl with kept := s.pl.kept.filter (fun k => !(k.coll = coll && isSent rank key k.chunk)) } })
    ∧ (∀ x o c, findCtx s coll = some x → findOp s x.op = some o → (s.pl.ctxs.map (·.op)).Nodup →
        x.sent.find? (isSent rank key) = some c →
      (let x1 : Ctx := { x with
          sent := listUpdate (isSent rank key) (fun c => { c with acked := true }) x.sent
          grants := if isRecordOp x.code || !x.sent.any (fun c => isSent rank key c && !c.acked) then x.grants else tset 0 rank (tget 0 x.grants rank + n) x.grants };
        let u : State := { s with pl := { s.pl with kept := s.pl.kept.filter (fun k => !(k.coll = coll && isSent rank key k.chunk)) } };
        exec (.ackReceive coll rank ⟨key, n⟩) s = .next (pump (putCtx u x1) x1))
      ∧ (let x1 : Ctx := { x with grants := tset 0 rank (tget 0 x.grants rank + n) x.grants };
        exec (.grantReceive coll rank n) s = .next (pump (putCtx s x1) x1))
      ∧ (∀ r : Instr, (r = .nakReceive coll rank key ∨ r = .chunkResendTimeout coll rank key) → c.acked = false →
        (c.sends < 4 → ∃ t y z, exec r s = .next t ∧ y ∈ t.pl.ctxs ∧ y.op = x.op ∧ y.resends = x.resends + 1
          ∧ y.sent.find? (isSent rank key) = some z ∧ z.sends = c.sends + 1 ∧ z.bytes = markResent c.bytes)
        ∧ (4 ≤ c.sends → ∃ t, exec r s = .next t ∧ ∀ y ∈ t.pl.ctxs, y.op ≠ x.op))
      ∧ (∃ t, exec (.abortNoticeReceive coll kind rank) s = .next t ∧ ∀ y ∈ t.pl.ctxs, y.op ≠ x.op))
    ∧ (∀ r : Instr, (r = .nakReceive coll rank key ∨ r = .chunkResendTimeout coll rank key) → findCtx s coll = none →
        ∀ k, s.pl.kept.find? (fun y => y.coll = coll && isSent rank key y.chunk) = some k → k.chunk.sends < 4 →
        ∃ t, exec r s = .next t ∧ t.pl.kept = s.pl.kept.filter (fun y => !(y.coll = coll && isSent rank key y.chunk))
          ++ [{ k with chunk := { k.chunk with bytes := markResent k.chunk.bytes, sends := k.chunk.sends + 1 } }])

/-! ### The mailbox -/

namespace Sys2Proof.Claims

/-- The Drabex serves the endpoint's requests now: no other request of it is in progress (R363, R366). -/
def served (s : State) (ep : Nat) : Prop :=
  s.power.phase ≠ .off ∧ s.power.drabexUp = true ∧ epLive s ep = true ∧ s.power.phase ≠ .recovery ∧ inProgress s ep = false

/-- A record stands in the configuration flash, and none under its name is due to be written (R358). -/
def recorded (s v : State) (r : RepairRec) : Prop :=
  (∃ x ∈ v.dbx.flashRecs, x.rcd = r) ∧ v.dram.pendingRecs = s.dram.pendingRecs.filter (fun x => !sameRecord x r)

/-- What step 4 of an update writes to its slot: the image that host memory or the update agent supplies (R369). -/
def suppliedImage (s : State) (u : Update) (e : StepEnd) (img : Bytes) : Prop :=
  match u.source with
  | .host f addr => mailHostRead (hostStores s e.host) e.host (fnPort f) addr u.len = (img, none)
  | .pldm _ => u.len ≤ e.data.length ∧ img = e.data.take u.len

/-- A response (R362): MVER, OP, TAG, the body's length, STATUS, XSTATUS, reserved bytes, the body. -/
def response (op : Nat) (tag : BitVec 16) (st xs : Nat) (body : Bytes) : Bytes :=
  [1#8] ++ leBytes 1 op ++ leBytes 2 tag.toNat ++ leBytes 2 body.length ++ leBytes 1 st ++ leBytes 1 xs ++ zeros 8 ++ body

/-- The command's effect is `v`, and its response reaches its endpoint: DBX_MB_DATA of a function, with BUSY clear and the
response leaf set, or the out-of-band channel. -/
def answers (c : Instr) (s v : State) (ep op : Nat) (tag : BitVec 16) (st xs : Nat) (body : Bytes) : Prop :=
  let b := response op tag st xs body
  (16 ≤ ep → exec c s = .next { v with dbx := { v.dbx with responses := v.dbx.responses ++ [{ ep, bytes := b }] } })
  ∧ (ep < 16 → ∃ t, exec c s = .next t ∧ (getFn t ep).mbBusy = false ∧ (tget 0#32 (getFn t ep).leaves 0x40024).getLsbD 0 = true
    ∧ (∀ i, i < cdiv b.length 4 → tget 0#32 (getFn t ep).mbData i = BitVec.ofNat 32 (fld b (4 * i) 4))
    ∧ (∀ f, f ≠ ep → getFn t f = getFn v f) ∧ t = { v with fns := t.fns })

end Sys2Proof.Claims

/-- R359, R360, R362 to R364, R371: outside recovery the Drabex answers GET_INFO, SENSOR_READ of 1 to 29 sensors, LOG_READ into
the response, MVIEW_READ and FW_STATUS with what they ask for; SET_MGMT_CAP, ALERT_MASK, MVIEW_CLEAR and BOOT_PLAN_SET with
LEN = 0 set what they name and nothing else, the last two and ALERT_MASK in the configuration flash too (R358). A VF that sends
one of the requests of a PF is answered PERMISSION, and an unlisted request BAD_DESCRIPTOR or VERSION. The XSTATUS of a PERMISSION
is the model's reading (logs 114, 115), and so are LOG_READ's entries of the flash alone and the form of its body (log 117); the
sensors that no command brings read free values (log 129), fixed rails R317's voltage (log 159). -/
def Obligations.MailboxReadsAndSettings : Prop :=
  ∀ (ep : Nat) (tag first cap mask wait : BitVec 16) (count block : Byte) (seq leaves : Word32) (addr : BitVec 64) (host : HostIn) (req : Bytes) (s : State),
    Claims.served s ep →
    let does (c : Instr) (v : State) (op : Nat) (body : Bytes) : Prop := Claims.answers c s v ep op tag 0 0 body
    let refuses (c : Instr) (op st xs : Nat) : Prop := Claims.answers c s s ep op tag st xs []
    (ep < 16 → does (.getInfo ep tag) s 0x01 (infoBody s))
    ∧ (fromPf ep = true ∨ 16 ≤ ep →
      (1 ≤ count.toNat → count.toNat ≤ 29 →
          does (.sensorRead ep tag first count) (readSensors count.toNat first.toNat s).1 0x02 (readSensors count.toNat first.toNat s).2)
      ∧ (1 ≤ cap.toNat → cap.toNat ≤ 7 →
          let es := (s.dbx.log.filter (fun e => decide (seq.toNat ≤ e.seq))).take cap.toNat
          does (.logRead ep tag seq cap 0#64 host) (hostStores s host) 0x03 (logHead es seq.toNat ++ es.flatMap logBytes))
      ∧ (cap.toNat = 0 ∨ 100 ≤ cap.toNat →
          does (.setMgmtCap ep tag cap) { s with kt := { s.kt with mgmtCap := if cap.toNat = 0 then none else some cap.toNat } } 0x04 [])
      ∧ (1 ≤ cap.toNat → cap.toNat ≤ 99 → refuses (.setMgmtCap ep tag cap) 0x04 stBad 0x10)
      ∧ (∃ v, does (.alertMask ep tag mask) v 0x0A [] ∧ Claims.recorded s v (.alertMask mask)
          ∧ v = { s with dbx := { s.dbx with alertMask := mask, flashRecs := v.dbx.flashRecs }, dram := { s.dram with pendingRecs := v.dram.pendingRecs } })
      ∧ does (.mviewRead ep tag) s 0x0B ((List.range 9).flatMap (fun k => leBytes 4 (tget 0#32 s.dbx.mview k).toNat))
      ∧ (block.toNat ≤ 8 → ∃ v, does (.mviewClear ep tag block leaves) v 0x0C []
          ∧ (∀ k, tget 0#32 v.dbx.mview k = if k = block.toNat then tget 0#32 s.dbx.mview k &&& ~~~leaves else tget 0#32 s.dbx.mview k)
          ∧ v = { s with dbx := { s.dbx with mview := v.dbx.mview, sev3 := v.dbx.sev3 } })
      ∧ does (.fwStatus ep tag) s 0x0E (fwStatusBody s))
    ∧ (fromPf ep = true →
      let u := hostStores s host
      ∃ v, does (.bootPlanSet ep tag addr 0#32 wait host) v 0x09 [] ∧ Claims.recorded u v (.bootPlan none s.fab.bootWait)
        ∧ v = { u with
            fab := { s.fab with bootPlan := none }
            dbx := { u.dbx with flashRecs := v.dbx.flashRecs }
            dram := { u.dram with pendingRecs := v.dram.pendingRecs } })
    ∧ (fromPf ep = false → ep < 16 →
      refuses (.mviewRead ep tag) 0x0B stPerm 1 ∧ refuses (.alertMask ep tag mask) 0x0A stPerm 1 ∧ refuses (.coreReconfig ep tag) 0x08 stPerm 1)
    ∧ (byteAt req 0 = 1 → (byteAt req 1 = 0 ∨ 16 < byteAt req 1) →
      Claims.answers (.unlistedMailboxOp ep req) s s ep (byteAt req 1) (BitVec.ofNat 16 (fld req 2 2)) stBad 1 [])
    ∧ (byteAt req 0 ≠ 1 → Claims.answers (.unlistedMailboxOp ep req) s s ep (byteAt req 1) (BitVec.ofNat 16 (fld req 2 2)) stVersion 0 [])

/-- R136, R342, R344, R363, R368 to R370: what the requests of a PF that act on the module do. RESET makes its domain's reset
due; PART_RESET ends the partition's work (before Ready it answers NO_RESOURCE, the model's choice, log 178); PART_HANDOVER with a
readable image that suits the partition's rings is under way, its mailbox busy, and as time passes changes the partition's owner
and is answered (that an empty queue stands for the passing of time is the model's choice, log 15, the order of the checks and
of the image's entries its reading, logs 120 and 121, and that a function to which a handover is under way takes no second
partition is log 164); CORE_RECONFIG with no partition enabled rebuilds the core map and records it at once (log 130); FW_UPDATE with
a manifest that passes its checks begins an update at step 2, whose steps mark, erase, write and verify the target slot, and whose
failed step invalidates it (logs 122, 123); FW_ACTIVATE names a bootable slot; SVN_COMMIT raises SVN_MIN to the running bundle's
SVN. -/
def Obligations.MailboxActions : Prop :=
  ∀ (ep : Nat) (tag : BitVec 16) (part newFn force domain slot flags : Byte) (image record addr : BitVec 64) (len : Word32) (signatureOk : Bool)
    (host : HostIn) (s : State),
    Claims.served s ep → fromPf ep = true →
    let u := hostStores s host
    let does (c : Instr) (v : State) (op : Nat) : Prop := Claims.answers c s v ep op tag 0 0 []
    let does1 (c : Instr) (op st xs : Nat) : Prop := Claims.answers c s s ep op tag st xs []
    (domain.toNat ≤ 3 → s.power.ready = true → s.power.phase = .ready →
      does (.reset ep tag domain) { s with dbx := { s.dbx with resetDue := some domain.toNat } } 0x05)
    ∧ (part.toNat ≤ 7 → s.power.ready = false → does1 (.partReset ep tag part) 0x06 stNoRes 6)
    ∧ (part.toNat ≤ 7 → s.power.ready = true → partEnabled s part.toNat = true → fnPort (getPart s part.toNat).owner = fnPort ep →
      ∃ v, does (.partReset ep tag part) v 0x06 ∧ v.q.ops = s.q.ops.filter (fun o => o.part ≠ part.toNat)
        ∧ (∀ e ∈ v.dram.cells, e.1 / 2 ^ 40 / 64 ≠ part.toNat) ∧ (getPart v part.toNat).owner = (getPart s part.toNat).owner
        ∧ v.power = s.power ∧ v.kt = s.kt ∧ v.part = s.part)
    ∧ (∀ img, part.toNat ≤ 7 → newFn.toNat ≤ 15 → force.toNat = 1 → partEnabled u part.toNat = true →
      fnPort newFn.toNat = fnPort ep → fnExists u newFn.toNat = true → (getFn u newFn.toNat).accepted = true → ownedPart u newFn.toNat = none →
      handedTo u newFn.toNat = false →
      mailHostRead u host (fnPort ep) image.toNat (8 + 16 * handEntries (getPart u part.toNat)) = (img, none) → byteAt img 0 = 1 →
      handImageOk (getPart u part.toNat) img = true →
      hostRejects u host (fnPort ep) record.toNat (8 + 8 * handEntries (getPart u part.toNat)) = false →
      (getPart u part.toNat).hand = none → (isPf newFn.toNat = true ∨ ((getPart u part.toNat).ringCount ≤ 32 ∧ (getPart u part.toNat).orCount ≤ 32)) →
      ∃ t, exec (.partHandover ep tag part newFn force image record host) s = .next t
        ∧ (getPart t part.toNat).hand = some { ep, tag, newFn := newFn.toNat, record := record.toNat, image := img }
        ∧ (getPart t part.toNat).owner = (getPart u part.toNat).owner ∧ (getFn t ep).mbBusy = true
        ∧ (∀ k, k ≠ part.toNat → getPart t k = getPart u k) ∧ (∀ f, f ≠ ep → getFn t f = getFn u f)
        ∧ t = { u with parts := t.parts, fns := t.fns })
    ∧ (∀ p hand, s.pending = [] → clockRuns s = true → p < 8 → (getPart s p).hand = some hand →
      (∀ k, k < 8 → k ≠ p → (getPart s k).hand = none) →
      ∃ t, step s = .next t ∧ (getPart t p).hand = none ∧ (getPart t p).owner = hand.newFn ∧ (getPart t p).held = false
        ∧ (getPart t p).state = (getPart s p).state ∧ (∀ k, k ≠ p → getPart t k = getPart s k)
        ∧ (s.reads = [] → t.dram = s.dram ∧ t.cores = s.cores ∧ t.tr = s.tr)
        ∧ (tget 0#32 (getFn t hand.newFn).leaves 0x40028).getLsbD 1 = true ∧ (tget 0#32 (getFn t hand.ep).leaves 0x40028).getLsbD 1 = true
        ∧ (hand.ep < 16 → hand.reply = true → (getFn t hand.ep).mbBusy = false)
        ∧ (∀ i, i < (subRings (getPart s p)).length → let k := (subRings (getPart s p)).getD i 0
            (getRing t k).base = handBase hand.image i ∧ (getRing t k).dbPage = handDb hand.image i / 1024 ∧ (getRing t k).dbSlot = handDb hand.image i % 1024
              ∧ (getRing t k).consumed = (getRing s k).consumed ∧ (getRing t k).producer = (getRing s k).consumed))
    ∧ (anyPartEnabled s = false → ∃ v, does (.coreReconfig ep tag) v 0x08 ∧ v.cores.map = buildMap none s.cores.good
        ∧ v.cores.recorded = some (buildMap none s.cores.good) ∧ Claims.recorded s v (.coreMap (buildMap none s.cores.good)) ∧ v.cores.sram = s.cores.sram ∧ v.part = s.part)
    ∧ (∀ m, len.toNat ≤ slotBytes → flags.toNat ≤ 1 → s.dbx.update = none →
      mailHostRead u host (fnPort ep) addr.toNat (min len.toNat manifestMax) = (m, none) → bundleCheck u m signatureOk = none →
      ∃ v x, does (.fwUpdate ep tag addr len flags signatureOk host) v 0x0D ∧ v.dbx.update = some x
        ∧ x = { step := 2, target := 1 - s.power.slot, activate := flags.getLsbD 0, source := .host ep addr.toNat, len := len.toNat
                bver := mfBver m }
        ∧ v.dbx.slots = s.dbx.slots ∧ v.part = s.part)
    ∧ (∀ x e, s.dbx.update = some x →
      let slotOf (t : State) : Slot := tget {} t.dbx.slots x.target
      let goes (P : State → Prop) : Prop :=
        ∃ t, exec (.fwUpdateStepDone e) s = .next t ∧ t.dbx.update = some { x with step := x.step + 1 } ∧ t.part = s.part ∧ P t
      let fails : Prop := ∃ t, exec (.fwUpdateStepDone e) s = .next t ∧ t.dbx.update = none
        ∧ (slotOf t).state = 0 ∧ t.dbx.lastStatus = stCheck ∧ t.dbx.lastXstatus = x.step ∧ t.part = s.part
      (e.failed = true → fails)
      ∧ (e.failed = false →
        (x.step = 2 → goes (fun t => slotOf t = { slotOf s with state := 2 }
          ∧ t.dbx.nextBoot = if s.dbx.nextBoot = x.target then 1 - x.target else s.dbx.nextBoot))
        ∧ (x.step = 3 → goes (fun t => slotOf t = { state := 2, image := some [] }))
        ∧ (∀ img, x.step = 4 → Claims.suppliedImage s x e img →
          goes (fun t => slotOf t = { state := 2, image := some img, bver := mfBver img, svn := mfSvn img, hash := manifestHash img }))
        ∧ (∀ img, x.step = 5 → (slotOf s).image = some img →
          (bundleCheck s img e.signed = none → componentsMatch img = true → goes (fun t => slotOf t = slotOf s))
          ∧ (bundleCheck s img e.signed ≠ none ∨ componentsMatch img = false → fails))
        ∧ (x.step = 6 → ∃ t, exec (.fwUpdateStepDone e) s = .next t ∧ t.dbx.update = none ∧ slotOf t = { slotOf s with state := 1 }
          ∧ t.dbx.nextBoot = (if x.activate then x.target else s.dbx.nextBoot))))
    ∧ (slot.toNat ≤ 1 → s.dbx.update = none → (tget {} s.dbx.slots slot.toNat).state = 1 → s.part.svnMin ≤ (tget {} s.dbx.slots slot.toNat).svn →
      does (.fwActivate ep tag slot) { s with dbx := { s.dbx with nextBoot := slot.toNat } } 0x0F)
    ∧ (s.dbx.update = none →
      does (.svnCommit ep tag) { s with part := { s.part with svnMin := max s.part.svnMin (tget {} s.dbx.slots s.power.slot).svn } } 0x10)

/-! ### Power and resets -/

namespace Sys2Proof.Claims

/-- The candidates of a power-on sequence (R342): what was not yet written to the flash is lost with the cold reset. -/
def coldGood (s : State) (bu : BringUp) : List Nat := (List.range 544).filter (candidate { s with dram := {} } bu)

/-- A power-on sequence that meets no fault: the voltage lies in the range, every regulator, clock, part, bundle and channel
does its work, and the flash reads as written (R337 to R343); enough cores are candidates, and no boot plan is recorded. -/
def faultFree (s : State) (bu : BringUp) : Prop :=
  46000 ≤ bu.inputMv ∧ bu.inputMv ≤ 59500 ∧ bu.regulatorFail = none ∧ bu.pllFail = false ∧ bu.flashFail = false
    ∧ bu.bistQueue = false ∧ bu.bistNetwork = false ∧ slotVerdict s bu s.dbx.nextBoot = .pass ∧ s.dbx.update = none
    ∧ bu.flashUpsets = [] ∧ holesOf (buildMap s.cores.recorded (coldGood s bu)) ≤ 63
    ∧ (∀ k, k < 16 → 32 ≤ (trainedChannels bu k).length) ∧ s.fab.bootPlan = none

end Sys2Proof.Claims

/-- R337 to R343, R345: input power, the insertion of a blade, a lost root clock and a cold reset run the power-on sequence; without
a fault it reaches step 13 with READY = 1, the boot slot and the core map of R342, TICK at 0, no operation, and CAUSE telling
what started it: that of the trip which ended the last power-on (log 100), 4 after the tripped state, which only a RESET
accepted in it or new input power ends (R334). -/
def Obligations.PowerOnReachesReady : Prop :=
  ∀ (c : Instr) (cause : Nat) (bu : BringUp) (s : State),
    let runs : Prop := s.power.phase ≠ .off ∧ s.power.phase ≠ .tripped
    let ofInput : Nat := if s.power.cause = 0 then 1 else s.power.cause
    (c = .inputPowerApplied bu ∧ s.power.phase = .off ∧ s.power.pwrEn = true ∧ cause = ofInput
      ∨ c = .inputPowerApplied bu ∧ s.power.phase = .tripped ∧ cause = 4
      ∨ c = .bladeInsertion bu ∧ s.power.phase = .off ∧ cause = ofInput
      ∨ c = .rootPllLoss bu ∧ runs ∧ cause = 5
      ∨ c = .coldReset bu ∧ runs ∧ cause = 6
      ∨ c = .coldReset bu ∧ s.power.phase = .tripped ∧ s.dbx.resetDue = some 0 ∧ cause = 4) →
    Claims.faultFree s bu →
    ∃ t, exec c s = .next t ∧ t.power.ready = true ∧ t.power.phase = .ready ∧ t.power.step = 13 ∧ t.power.fault = 0 ∧ t.power.cause = cause
      ∧ t.power.slot = s.dbx.nextBoot ∧ t.power.boots = (s.power.boots + 1) % 2 ^ 16 ∧ t.power.tick = 0#64
      ∧ t.cores.map = buildMap s.cores.recorded (Claims.coldGood s bu) ∧ t.cores.sram = [] ∧ t.q.ops = []
      ∧ (∀ p, getPart t p = {}) ∧ t.part = s.part

/-- R316, R343 to R347, R393: a brown-out, an overvoltage and the withdrawal of a blade shut the module down: everything is lost
but the flash, and the power-failure entry is held in the log with the TICK and BOOT of the power-on that ends; CAUSE is the
trip's, of a withdrawal 1 (log 100), in the tripped state 4 (R334). The wait for a boot plan ends in Ready. A warm reset ends all
work and any handover under way, and returns to Ready with the links and f as they are (R336, R345; log 103), a rebinding not yet
recorded too (R350); a fabric reset ends contexts and starts the fabric again, with f at its start, or at the floor in
deterministic mode (R331), and is absorbed while step 12 of one waits (R346); a compute reset ends contexts and handovers, and
clears the cores' windows and SRAM, power and links stay. -/
def Obligations.ModuleResetsAndTrips : Prop :=
  ∀ (c : Instr) (code next mv : Nat) (bu : BringUp) (s : State),
    ((c = .brownOutTrip mv ∧ code = 2 ∧ next = 2 ∨ c = .overvoltageTrip mv ∧ code = 3 ∧ next = 3 ∨ c = .bladeWithdrawal mv ∧ code = 2 ∧ next = 1) →
      s.power.phase ≠ .off →
      ∃ t e, exec c s = .next t ∧ t.power.phase = .off ∧ t.power.ready = false ∧ t.power.cause = (if s.power.phase = .tripped then 4 else next) ∧ t.power.inputMv = mv
        ∧ t.power.pwrEn = (match c with
          | .bladeWithdrawal _ => false
          | _ => s.power.pwrEn)
        ∧ t.dbx.logHeld = [e] ∧ e.kind = 2 ∧ e.code = code ∧ e.tick = logTick s ∧ e.boot = s.power.boots ∧ t.dbx.log = s.dbx.log ∧ t.dbx.slots = (drabexCold s.dbx).slots
        ∧ t.q = {} ∧ t.dram = {} ∧ t.tr = {} ∧ t.parts = [] ∧ t.cores.sram = [] ∧ t.part = s.part)
    ∧ (∀ e, s.fab.change = some e → e.op = none → e.draining = false → s.power.phase = .bootWait →
      ∃ t, exec .bootWaitExpiry s = .next t ∧ t.power.ready = true ∧ t.power.step = 13 ∧ t.fab.change = none ∧ t.fab.staged = s.fab.staged)
    ∧ (s.power.ready = true → s.power.phase = .ready →
      (bu.bistQueue = false → bu.bistNetwork = false → holesOf (buildMap (knownMap s) ((List.range 544).filter (candidate s bu))) ≤ 63 →
        ∃ t, exec (.warmReset bu) s = .next t ∧ t.power.ready = true ∧ t.power.step = 13 ∧ t.power.warmCount = sat 255 (s.power.warmCount + 1)
          ∧ t.cores.map = buildMap (knownMap s) ((List.range 544).filter (candidate s bu))
          ∧ t.q.ops = [] ∧ t.pl.ctxs = [] ∧ t.cores.sram = [] ∧ (∀ p, p < 8 → (getPart t p).hand = none) ∧ t.links = s.links ∧ t.kt = s.kt ∧ t.power.tick = s.power.tick ∧ t.part = s.part)
      ∧ ((∃ e, s.fab.change = some e ∧ e.op = none) →
        ∃ t, exec (.fabricReset bu) s = .next t ∧ t = { s with dbx := { s.dbx with resetDue := t.dbx.resetDue } })
      ∧ (s.fab.bootPlan = none → (∀ e, s.fab.change = some e → e.op ≠ none) →
        ∃ t, exec (.fabricReset bu) s = .next t ∧ t.fab.epoch = 0 ∧ t.fab.active = none ∧ t.fab.change = none ∧ t.pl.ctxs = []
          ∧ t.kt = { s.kt with f := if s.kt.det then floorLevel s else startLevel s } ∧ t.power = s.power ∧ t.part = s.part)
      ∧ (∃ t, exec .computeReset s = .next t ∧ t.pl.ctxs = [] ∧ t.q.windows = [] ∧ t.cores.sram = [] ∧ t.cores.map = s.cores.map
          ∧ (∀ p, p < 8 → (getPart t p).hand = none ∧ (getPart t p).owner = (getPart s p).owner)
          ∧ t.power = s.power ∧ t.links = s.links ∧ t.kt = s.kt ∧ t.part = s.part))

namespace Sys2Proof.Claims

/-- A function of a port exists, or did until the port went down: a Function Level Reset reaches it (R134, R135). -/
def resetHere (s : State) (f : Nat) : Prop :=
  f < 8 * portCount s ∧ f % 8 ≤ max (getPort s (fnPort f)).vfs (getPort s (fnPort f)).vfsLost

/-- After a Function Level Reset (R132, R134) from `s`, function `f` of `t` has its registers and its PCIe configuration at
their reset values, with its report and AER status kept; the work of the partition it owns has ended without records, its
memory is zeroed and its rings are reset. -/
def fnReset (s t : State) (f : Nat) : Prop :=
  (getFn t f).flrValid = true ∧ (getFn t f).drvWritten = false ∧ (getFn t f).accepted = false ∧ (getFn t f).d3hot = false
    ∧ (getFn t f).mbAsync = [] ∧ (getFn t f).mbBusy = false ∧ (getFn t f).irqMask = 0x7F#32 ∧ (getFn t f).msixOn = false
    ∧ (getFn t f).aer = (getFn s f).aer ∧ (∀ x ∈ t.reads, x.1 ≠ f)
    ∧ (match ownedPart s f with
      | some p => (getFn t f).flrNoPart = false ∧ (getFn t f).flrPart = p ∧ (∀ o ∈ t.q.ops, o.part ≠ p)
        ∧ (∀ e ∈ t.dram.cells, e.1 / 2 ^ 40 / 64 ≠ p) ∧ (∀ k, ringIn (getPart s p) k = true → getRing t k = {})
      | none => (getFn t f).flrNoPart = true)

/-- The function's PCIe configuration is lost with its port (R135). -/
def pcieLost (t : State) (f : Nat) : Prop :=
  (getFn t f).d3hot = false ∧ (getFn t f).msixOn = false ∧ (getFn t f).msixMasked = true ∧ (getFn t f).mps = 0
    ∧ (getFn t f).mrrs = 2 ∧ (getFn t f).bar2 = 0

end Sys2Proof.Claims

/-- R109, R110, R116, R132 to R137, R365: a Function Level Reset, or a return from D3hot, resets the function, and that of a
PF every function of its port, whose VFs are then off (the standard's, log 7); of a VF alone, it reports how many operations it ended, and other work goes on. Entry to
D3hot only marks the function. A port that goes down loses its functions' PCIe configuration, holds the partitions they own
and ends handovers to them; a hold's expiry resets the held partitions that no handover moves, once the module is Ready (R350);
PERST_N resets every function of the port, the VFs that its going down took away too, and ends its holds; a port that comes up
frees nothing, and status blocks of held partitions report STATE 3. The other port's PF is told of HELD and HOLD_END (which one,
and when HELD clears, is the model's reading, log 105). What the standard's PCIe configuration is, is log 7. -/
def Obligations.FunctionAndPortResets : Prop :=
  ∀ (fn port : Nat) (s : State),
    let onPort (p : Nat) : Bool := partEnabled s p && decide (fnPort (getPart s p).owner = port)
    let told (t : State) (bit : Nat) : Prop := 1 - port < portCount s → (tget 0#32 (getFn t (8 * (1 - port))).leaves 0x40028).getLsbD bit = true
    let pin (t : State) (on : Bool) : Prop :=
      t.power = (if port = 0 then { s.power with perst0 := on } else if port = 1 then { s.power with perst1 := on } else s.power)
    (∀ c : Instr, (c = .functionLevelReset fn ∨ c = .d3hotReturn fn ∧ (getFn s fn).d3hot = true) → fnExists s fn = true →
      ∃ t, exec c s = .next t ∧ t.power = s.power ∧ t.links = s.links ∧ t.kt = s.kt ∧ t.part = s.part
        ∧ (∀ f, f = fn ∨ (isPf fn = true ∧ fnPort f = fnPort fn ∧ Claims.resetHere s f) → Claims.fnReset s t f)
        ∧ (isPf fn = true → (getPort t (fnPort fn)).vfs = 0)
        ∧ (isPf fn = false → match ownedPart s fn with
          | some p => (getFn t fn).flrOps = min (endedOps s p) 16384 ∧ t.q.ops = s.q.ops.filter (fun o => o.part ≠ p)
          | none => t.q.ops = s.q.ops ∧ t.dram = s.dram))
    ∧ (fnExists s fn = true →
      ∃ t, exec (.d3hotEntry fn) s = .next t ∧ getFn t fn = { getFn s fn with d3hot := true } ∧ (∀ f, f ≠ fn → getFn t f = getFn s f)
        ∧ t = { s with fns := t.fns })
    ∧ (port < portCount s → (getPort s port).up = true →
      ∃ t, exec (.portDlDown port) s = .next t ∧ (getPort t port).up = false ∧ (getPort t port).vfs = 0
        ∧ (getPort t port).vfsLost = max (getPort s port).vfsLost (getPort s port).vfs
        ∧ (∀ k, k ≠ port → getPort t k = getPort s k)
        ∧ (∀ f, fnPort f = port → Claims.pcieLost t f ∧ (getFn t f).accepted = (getFn s f).accepted ∧ (getFn t f).aer = (getFn s f).aer)
        ∧ (∀ p, p < 8 → (match (getPart s p).hand with
            | some h => if fnPort h.newFn = port
                then (getPart t p).hand = none ∧ (getPart t p).held = (((getPart s p).held && !partPortUp s p) || onPort p)
                else (getPart t p).hand = some h ∧ (getPart t p).held = ((getPart s p).held || onPort p)
            | none => (getPart t p).hand = none ∧ (getPart t p).held = ((getPart s p).held || onPort p)))
        ∧ ((∃ p, p < 8 ∧ onPort p = true) → told t 0)
        ∧ t = { s with ports := t.ports, parts := t.parts, fns := t.fns, dbx := t.dbx })
    ∧ (s.power.ready = false → exec (.portHoldExpiry port) s = .next s)
    ∧ (s.power.ready = true → ∃ t, exec (.portHoldExpiry port) s = .next t
        ∧ (∀ p, p < 8 → onPort p = true → (getPart s p).held = true →
          ((getPart s p).hand = none →
            (getPart t p).held = false ∧ (∀ o ∈ t.q.ops, o.part ≠ p) ∧ (∀ e ∈ t.dram.cells, e.1 / 2 ^ 40 / 64 ≠ p) ∧ told t 2)
          ∧ ((getPart s p).hand ≠ none → getPart t p = getPart s p))
        ∧ t.power = s.power ∧ t.ports = s.ports ∧ t.part = s.part)
    ∧ (port < portCount s →
      ∃ t, exec (.perstAssert port) s = .next t ∧ (getPort t port).up = false ∧ (getPort t port).vfs = 0
        ∧ (∀ f, fnPort f = port → Claims.pcieLost t f ∧ (Claims.resetHere s f → Claims.fnReset s t f))
        ∧ (∀ p, p < 8 → onPort p = true → (getPart s p).held = true → (getPart t p).held = false ∧ told t 2)
        ∧ pin t true ∧ t.links = s.links ∧ t.kt = s.kt ∧ t.part = s.part)
    ∧ (portCount s ≤ port → ∀ c : Instr, (c = .perstAssert port ∨ c = .perstDeassert port) →
      ∃ t, exec c s = .next t ∧ pin t (decide (c = .perstAssert port)) ∧ t = { s with power := t.power })
    ∧ (port < portCount s →
      (∃ t, exec (.perstDeassert port) s = .next t ∧ (getPort t port).up = ((getPort s port).up || portsOut s)
        ∧ (getPort t port).holdMs = (getPort s port).holdMs ∧ (∀ k, k ≠ port → getPort t k = getPort s k)
        ∧ pin t false ∧ t = { s with ports := t.ports, power := t.power })
      ∧ (portsOut s = true → (getPort s port).up = false → (if port = 0 then s.power.perst0 else s.power.perst1) = false →
        ∃ t, exec (.portLinkUp port) s = .next t ∧ getPort t port = { getPort s port with up := true }
          ∧ (∀ k, k ≠ port → getPort t k = getPort s k) ∧ t = { s with ports := t.ports, host := t.host }
          ∧ (∀ p k, onPort p = true → p < 8 → (getPart s p).held = true → k ∈ s.q.rings.map (·.1) → (getRing s k).enable = true → ringPart s k = some p →
            (getRing s k).base + 64 * 2 ^ (getRing s k).size + 64 ≤ 2 ^ 64 →
            (∀ j q, q < 8 → onPort q = true → (getPart s q).held = true → (getRing s j).enable = true → ringPart s j = some q → j ≠ k →
              (getRing s j).base + 64 * 2 ^ (getRing s j).size + 64 ≤ 2 ^ 64
              ∧ ((getRing s j).base + 64 * 2 ^ (getRing s j).size + 64 ≤ (getRing s k).base + 64 * 2 ^ (getRing s k).size
              ∨ (getRing s k).base + 64 * 2 ^ (getRing s k).size + 64 ≤ (getRing s j).base + 64 * 2 ^ (getRing s j).size)) →
            mread t.host (hostKey port ((getRing s k).base + 64 * 2 ^ (getRing s k).size)) 5 = leBytes 4 (getRing s k).consumed ++ [3#8])))

/-! ### Core faults and memory repair -/

namespace Sys2Proof.Claims

/-- R70 step 3: the operations of a window that completed and wrote SRAM of the core run again in order, on the state they
find, with the TICK a TIMESTAMP wrote; none where one fails or a slot version it read is gone (R71). -/
def rebuilt (core : Nat) (env : Env) : List WinEntry → State → Option State
  | [], s => some s
  | w :: l, s =>
    let c : ExecCtx := { part := w.part, latches := w.latches, mem := env.mem, only := some core }
    if ¬ (w.status = some stOk ∨ w.status = some stDegraded) ∨ wroteSram s core w = false then rebuilt core env l s
    else if w.latches.any (fun x => decide (slotVersion (getVer s x.layer) x.slot ≠ some x.version)) = true then none
    else if dBase w.desc = 0x0003 then
      (if tsHost w.desc = true then rebuilt core env l s
      else rebuilt core env l (devWrite s c (refAt w.desc 0x10).sram (refAt w.desc 0x10).addr (leBytes 8 w.tick.toNat)))
    else if dBase w.desc = 0x6181 then
      (match getStash s w.part (fld w.desc 0x18 4) with
      | none => none
      | some e => match stashDecode s { part := w.part, mem := env.mem } e with
        | (s1, none, xs) => rebuilt core env l (getWrite s1 c w.desc e xs)
        | _ => none)
    else if dClass w.desc = 0 ∨ dClass w.desc = 6 then rebuilt core env l s
    else if (runDesc s c env.host w.desc).fail = none then rebuilt core env l (runDesc s c env.host w.desc).s
    else none

end Sys2Proof.Claims

/-- R70 to R72, R348: a core that fails, or does not acknowledge, is stopped and its operations wait; a rebinding takes
the nearest free spare, whose SRAM, cleared, is rebuilt by running the window's operations again, or is not trusted, or makes the
number a hole, whose operations complete NO_RESOURCE; a first double-bit error at a word is noted and the core serves on with its
SRAM rebuilt, a second one stops it. That operations which had failed are not run again is the model's reading (log 110). -/
def Obligations.CoreFaults : Prop :=
  ∀ (core word : Nat) (env : Env) (s : State),
    let u := envIn s env
    let stops (c : Instr) (v : State) : Prop :=
      ∃ t, exec c s = .next t ∧ (getCore t core).stopped = true ∧ (∀ k, k ≠ core → getCore t k = getCore v k)
        ∧ t.q.ops = v.q.ops.map (fun o => if o.core = core ∧ o.phase ≠ .recordHeld then { o with phase := .stopped } else o)
        ∧ t = { v with cores := { v.cores with regs := t.cores.regs }, q := { v.q with ops := t.q.ops } }
    let rebuiltAs (t v : State) : Prop :=
      match Claims.rebuilt core env (getWindow u core).entries v with
      | some r => t.cores.sram = r.cores.sram ∧ t.dram = r.dram ∧ t.host = r.host
        ∧ (getWindow t core).untrusted = (getWindow u core).untrusted
      | none => (getWindow t core).untrusted = true
    let hit (o : Op) : Prop := o.core = core ∧ o.phase ≠ .recordHeld
    (coreServes s core = true → stops (.coreAckTimeout core) s ∧ stops (.coreFailure core) s)
    ∧ (∀ x, corePhys u core = some x → (getCore u core).stopped = true → u.power.drabexUp = true →
      (∀ y, nearestFree (freeSpares u) (domainOf x) = some y →
        ∃ t, exec (.coreRebind core env) s = .next t ∧ corePhys t core = some y ∧ (getCore t core).stopped = false
          ∧ x ∉ t.cores.good ∧ (∀ k, k ≠ core → corePhys t k = corePhys u k) ∧ t.part = u.part
          ∧ (∀ o ∈ t.q.ops, o.core = core → o.phase ≠ .stopped)
          ∧ ((getWindow u core).replayable = false →
            (getWindow t core).untrusted = true ∧ (∀ e ∈ t.cores.sram, e.1 / 2 ^ 21 ≠ core) ∧ t.dram.cells = u.dram.cells)
          ∧ ((getWindow u core).replayable = true → rebuiltAs t (bindSpare u core x y)))
      ∧ (nearestFree (freeSpares u) (domainOf x) = none →
        ∃ t, exec (.coreRebind core env) s = .next t ∧ corePhys t core = none ∧ (getCore t core).stopped = false
          ∧ (∀ k, k ≠ core → corePhys t k = corePhys u k) ∧ t.dram.cells = u.dram.cells ∧ t.part = u.part
          ∧ (∀ o ∈ u.q.ops, o.core ≠ core → o ∈ t.q.ops)
          ∧ ((u.q.ops.map (·.id)).Nodup → ∀ o ∈ u.q.ops, hit o →
            (findOp t o.id).all (fun y => y.phase = .recordHeld) = true
            ∧ (dSigEvt o.desc ≠ 0xFFFF → (getEvt t (dSigEvt o.desc)).poison = true))
          ∧ (∀ o, hit o → findOp u o.id = some o → (∀ y ∈ u.q.ops, hit y → y = o) → u.q.ops.count o = 1 →
            ∃ v w, Completed v w o stNoRes 2 0 ∧ v.q = u.q ∧ v.host = u.host ∧ v.parts = u.parts
              ∧ t = { w with cores := t.cores, q := { w.q with windows := t.q.windows } })))
    ∧ (coreServes u core = true →
      ((getWindow u core).dbeWords.contains word = true → stops (.sramDoubleBitError core word env) u)
      ∧ ((getWindow u core).dbeWords.contains word = false →
        ∃ t, exec (.sramDoubleBitError core word env) s = .next t ∧ word ∈ (getWindow t core).dbeWords ∧ (getCore t core).stopped = false
          ∧ t.cores.map = u.cores.map
          ∧ ((getWindow u core).replayable = true →
            rebuiltAs t (updWindow (stopCore u core) core (fun w => { w with dbeWords := w.dbeWords ++ [word] })))))

/-- R155, R156, R161 to R165, R169: a channel in service is marked; with a spare its live migration starts and, switched, runs on
the spare while the old channel is retrained offline; a new channel that failed is recorded, and the migration starts again
with the other spare, or waits for an in-place retrain; without a spare it is retrained in place, and lost where that fails. A
scrub reads one block of an enabled class W region. A flush takes one entry out of the write-combining buffer, and the check
bytes of its data enter it; one that cannot be sent stays and marks the channel. A repair record goes to the flash with its
CRC-32C and the copy it replaces (R358). What a copy does with blocks it cannot read is log 151, that a flush judges one entry
log 28, the granule of a scrub log 113, the form of a record log 177. -/
def Obligations.MemoryRepair : Prop :=
  ∀ (channel new rid granule block index phys : Nat) (cause : RepairCause) (mem : MemIn) (s : State),
    let k := channel / 32
    let x := k * 34 + phys
    let u := dramUpsets s mem
    (channel < 512 → (getChannel s channel).state ≠ 3 → s.dram.repairs.contains channel = false →
      exec (.channelRepairMark channel cause) s = .next { s with dram := { s.dram with repairs := s.dram.repairs ++ [channel] } })
    ∧ (∀ rest, tget [] s.dram.spares k = new :: rest → s.power.drabexUp = true → firstMarked s k = some channel → stackMigration s k = none →
      ∃ t, exec (.liveMigrationStart channel) s = .next t ∧ (getChannel t channel).state = 1
        ∧ (k, { channel, oldPhys := (getChannel s channel).phys, newPhys := new }) ∈ t.dram.migrations
        ∧ new ∉ tget [] t.dram.spares k ∧ channel ∉ t.dram.repairs ∧ t.dram.cells = s.dram.cells)
    ∧ (∀ m, stackMigration s k = some m → m.channel = channel →
      (∃ t, exec (.migrationSwitch channel ⟨false, mem⟩) s = .next t ∧ (getChannel t channel).state = 0 ∧ (getChannel t channel).phys = m.newPhys
        ∧ k * 34 + m.oldPhys ∈ t.dram.offline ∧ stackMigration t k = none ∧ ((∀ r, (getRegion s r).cls < 2) → t.dram.cells = s.dram.cells))
      ∧ (∃ t, exec (.migrationSwitch channel ⟨true, mem⟩) s = .next t ∧ k * 34 + m.newPhys ∈ t.dram.failed ∧ .physFailed (k * 34 + m.newPhys) ∈ t.dram.pendingRecs
        ∧ t.dram.cells = s.dram.cells
        ∧ (match (if s.power.drabexUp = true then tget [] s.dram.spares k else []) with
          | [] => (getChannel t channel).state = 0 ∧ stackMigration t k = none ∧ t.dram.repairs = channel :: s.dram.repairs
          | new :: _ => (getChannel t channel).state = 1 ∧ (k, { channel, oldPhys := (getChannel s channel).phys, newPhys := new }) ∈ t.dram.migrations)))
    ∧ (x ∈ s.dram.offline →
      (∃ t, exec (.offlineRetrainDone k phys true) s = .next t ∧ phys ∈ tget [] t.dram.spares k ∧ x ∉ t.dram.offline
        ∧ t = { s with dram := t.dram })
      ∧ (∃ t, exec (.offlineRetrainDone k phys false) s = .next t ∧ x ∈ t.dram.failed ∧ .physFailed x ∈ t.dram.pendingRecs ∧ x ∉ t.dram.offline
        ∧ t.dram.spares = s.dram.spares ∧ t.dram.cells = s.dram.cells))
    ∧ (s.power.drabexUp = true → channel ∈ s.dram.repairs → tget [] s.dram.spares k = [] → stackMigration s k = none →
      (∃ t, exec (.inPlaceRetrain channel true) s = .next t ∧ (getChannel t channel).state = 0 ∧ channel ∉ t.dram.repairs)
      ∧ (∃ t, exec (.inPlaceRetrain channel false) s = .next t ∧ (getChannel t channel).state = 3 ∧ channel ∉ t.dram.repairs
        ∧ t.dram.capacity = true ∧ .channelFailed channel ∈ t.dram.pendingRecs
        ∧ (∀ e ∈ t.dram.cells, weaveChannel (e.1 / 2 ^ 40) (e.1 % 2 ^ 40) = channel →
          (wcMask s (e.1 / 2 ^ 40) (e.1 % 2 ^ 40 / 128)).getLsbD (e.1 % 2 ^ 40 % 128) = true)))
    ∧ ((getRegion u rid).enable = true → (getRegion u rid).cls = 0 → block < 8 → granule * 1024 < (getRegion u rid).size * unit16 →
      ∃ t, exec (.patrolScrub rid granule block mem) s = .next t ∧ t = (readBlock u mem rid (8 * granule + block)).1 ∧ t.dram.cells = s.dram.cells)
    ∧ (∀ e, (tget [] u.dram.wc channel)[index]? = some e →
      let data (l : List WcEntry) : List WcEntry := l.filter (fun x => !x.check)
      (writeLost u mem channel e = true → exec (.wcEntryFlush channel index mem) s = .next (markRepair u channel))
      ∧ (writeLost u mem channel e = false → e.check = true →
        exec (.wcEntryFlush channel index mem) s = .next (setWc u channel ((tget [] u.dram.wc channel).eraseIdx index)))
      ∧ (writeLost u mem channel e = false → e.check = false →
        ∃ t, exec (.wcEntryFlush channel index mem) s = .next t ∧ data (tget [] t.dram.wc channel) = data ((tget [] u.dram.wc channel).eraseIdx index)
          ∧ ∀ k, k ≠ channel → tget [] t.dram.wc k = tget [] u.dram.wc k))
    ∧ (∀ r rest, s.dram.pendingRecs = r :: rest → s.power.drabexUp = true →
      ∃ t, exec .repairRecordWrite s = .next t ∧ t.dram = { s.dram with pendingRecs := rest }
        ∧ (∃ y ∈ t.dbx.flashRecs, y.rcd = r ∧ y.crc = recCrc r
          ∧ y.prev = (s.dbx.flashRecs.find? (fun z => sameRecord z.rcd r)).map (fun z => (z.rcd, z.crc)))
        ∧ (match r with
          | .coreMap m => t.cores.recorded = some m
          | .lateFailure p n => tget 0 t.cores.late p = n
          | _ => t.cores = s.cores)
        ∧ t.part = s.part ∧ t.power = s.power)


/-! ### Packets, express paths and discovery -/

namespace Sys2Proof.Claims

/-- The reassembly of messages on the packet's source, destination and VC holds nothing. -/
def freshSource (s : State) (p : Bytes) : Prop :=
  ∀ r ∈ s.fab.reasm, r.src = pktSrc p → r.vc = pktVc p → r.dst ≠ pktDst p

/-- A port's tag emitter works and the port is not dark. -/
def emits (s : State) (port : Nat) : Prop := (getLink s port).emitterFailed = false ∧ (getLink s port).state ≠ .off

/-- A neighbour's record apart from AGREED. -/
def record (s : State) (port : Nat) : Nbr := { tget {} s.fab.nbrs port with agreed := false }

/-- The rows of a tag frame that comes in on a port. -/
def tagRow : Instr → Option (Nat × BitVec 64)
  | .creditReturn port tag => some (port, tag)
  | .expressAnnounce port tag => some (port, tag)
  | .expressBusy port tag => some (port, tag)
  | .expressEnd port tag => some (port, tag)
  | .reverseRelayFrame port tag => some (port, tag)
  | .relayAck port tag => some (port, tag)
  | .relayNak port tag => some (port, tag)
  | .lanesFrame port tag => some (port, tag)
  | .keepFrame port tag => some (port, tag)
  | _ => none

/-- A packet of a VC leaves the head of its queue: its credits are spent, and its first n flits take the segment's next
numbers; those left wait for it to resume. -/
def starts (w t : State) (seg : SegId) (vc n : Nat) (q : QPacket) : Prop :=
  let k := vcKey seg.port seg.xid vc
  let rest := (tget [] w.fab.txq k).drop 1
  let flits := (packetFlits (tget {} (getSeg w seg).tail vc) q.bytes q.op.toList rest.isEmpty).1
  t.fab.txq = tset [] k rest w.fab.txq
    ∧ t.fab.spent = tset 0 k (tget 0 w.fab.spent k + creditsOf q.bytes.length) w.fab.spent
    ∧ (tget {} t.fab.cut k).flits = flits.drop n
    ∧ ((getSeg t seg).kept.drop (getSeg w seg).kept.length).map (fun x => (x.body, x.poff, x.ops)) = flits.take n
    ∧ t.fab = { w.fab with txq := t.fab.txq, spent := t.fab.spent, cut := t.fab.cut, rounds := t.fab.rounds }

end Sys2Proof.Claims

/-- R257, R262, R264, R266 to R268, R270 to R272, R276, R278 to R280, R282 to R285, R293, R294: packets are taken, sent on, sent
and credited, VC0 first and the other VCs in turn; express payloads are announced, refused, retried and ended; relay frames
go back through a pass-through, and without a plan straight across; banks retire; records and notices are exchanged, and a notice
with a reserved bit set is discarded (R7, R264); a lost link empties its queues. The round of the VCs and the fill of a last flit
are the model's choice (logs 92, 60), and so are the frames in which flits travel (log 155) and the idle flit (log 95); that an
announce without its entry is absorbed is log 93, what AGREED compares log 62. -/
def Obligations.FabricPackets : Prop :=
  ∀ (via seg : SegId) (p : Bytes) (vc port flits : Nat) (tag : BitVec 64) (payload : Word32) (s : State),
    let xid := tagXid tag
    let key := vcKey port xid (tagVc tag)
    let read := straight s xid = false ∧ tagOk tag = true
    let absorbed (t : State) : Prop := t.fab.discExp = sat 255 (s.fab.discExp + 1)
    -- PACKET_RECEIVE
    (malformed s p = true →
      ∃ t, exec (.packetReceive via p) s = .next t ∧ t.fab.discHdr = sat 255 (s.fab.discHdr + 1) ∧ t.fab.delivered = s.fab.delivered
        ∧ t.fab.txq = s.fab.txq ∧ t.fab.reasm = s.fab.reasm)
    ∧ (malformed s p = false → s.fab.fence.contains (pktSrc p) = true →
      ∃ t, exec (.packetReceive via p) s = .next t ∧ t.fab.discRoute = sat 255 (s.fab.discRoute + 1) ∧ t.fab.delivered = s.fab.delivered
        ∧ t.fab.txq = s.fab.txq)
    ∧ (∀ img, malformed s p = false → s.fab.fence.contains (pktSrc p) = false → bankFor s (pktEpoch p) = some img → pktMcast p = false →
      (pktDst p = planMyCoord img → pktFirst p = true → pktLast p = true → pktFrag p = 0 → Claims.freshSource s p →
        ∃ t, exec (.packetReceive via p) s = .next t
          ∧ t.fab.delivered = s.fab.delivered ++ [{ vc := pktVc p, kind := pktKind p, src := pktSrc p, bytes := p.drop 32 }]
          ∧ t.fab.txq = s.fab.txq ∧ t.fab.discHdr = s.fab.discHdr ∧ t.fab.discMsg = s.fab.discMsg)
      ∧ (∀ n, nextSeg img (planMyCoord img) (pktDst p) (route img (planMyCoord img) (pktDst p) (pktZyx p)) = some n →
        s.fab.fence.contains (pktDst p) = false → segDown s n.port n.xid = false →
        let k := vcKey n.port n.xid (pktVc p)
        ∃ t q, exec (.packetReceive via p) s = .next t ∧ q.bytes = hopPacket p ∧ q.via = some via
          ∧ t.fab.txq = tset [] k (tget [] s.fab.txq k ++ [q]) s.fab.txq ∧ t.fab.delivered = s.fab.delivered))
    -- PACKET_TRANSMIT and CREDIT_RETURN
    ∧ (let w := sendDuePort s seg.port
      (∀ q, headReady w seg 0 = some q →
        ∃ t, exec (.packetTransmit seg ⟨0, flits⟩) s = .next t ∧ Claims.starts w t seg 0 (q.bytes.length / 256 + 2) q)
      ∧ (vc ≠ 0 → vc0Ready w seg.port = true → exec (.packetTransmit seg ⟨vc, flits⟩) s = .next w)
      ∧ (vc ≠ 0 → vc0Ready w seg.port = false →
        (∀ q r, w.fab.cut.find? (fun e => e.1 / 4 / 4096 = seg.port) = none → headReady w seg vc = some q →
          takeTurn w seg.port 5 (tget {} w.fab.rounds seg.port) = some r → r.turn = vc → creditsOf q.bytes.length ≤ tget 0 r.left vc →
          ∃ t, exec (.packetTransmit seg ⟨vc, flits⟩) s = .next t ∧ Claims.starts w t seg vc (max 1 flits) q)
        ∧ (∀ e, w.fab.cut.find? (fun e => e.1 / 4 / 4096 = seg.port) = some e → e.1 = vcKey seg.port seg.xid vc → portSends w seg = true →
          roomFor w seg e.2.flits.length = true → tget {} w.fab.cut e.1 = e.2 →
          ∃ t, exec (.packetTransmit seg ⟨vc, flits⟩) s = .next t ∧ (tget {} t.fab.cut e.1).flits = e.2.flits.drop (max 1 flits)
            ∧ ((getSeg t seg).kept.drop (getSeg w seg).kept.length).map (fun x => (x.body, x.poff, x.ops)) = e.2.flits.take (max 1 flits)
            ∧ t.fab = { w.fab with cut := t.fab.cut })))
    ∧ (read → tagKind tag = 3 → tagRtype tag = 2 → launchedHere s (tagEpoch tag) ⟨port, xid⟩ = true →
      ∃ t, exec (.creditReturn port tag) s = .next t
        ∧ (let k := vcKey port xid (field (tagContent tag) 9 2)
          t.fab = { s.fab with spent := tset 0 k (tget 0 s.fab.spent k - field (tagContent tag) 0 9) s.fab.spent }))
    -- tag frames without a plan
    ∧ (∀ c, Claims.tagRow c = some (port, tag) → straight s xid = true → exec c s = .next (putWire s (.tag (acrossPort port) tag)))
    -- express light
    ∧ (∀ e, read → tagKind tag = 1 → expressEntry s (tagEpoch tag) xid port = some e →
      (e.out = 15 →
        ∃ t, exec (.expressAnnounce port tag) s = .next t
          ∧ t.fab = { s.fab with incoming := tset 0 (port * 4096 + xid) (tagFlits tag) s.fab.incoming })
      ∧ (e.out ≠ 15 → tagRem tag ≠ 0 → (getLink s e.out).state = .up →
        (getSwitch s e.out = .free → tagVc tag = 0 ∨ vc0Pending s e.out = false → (getLink s e.out).emitterFailed = false →
          ∃ t, exec (.expressAnnounce port tag) s = .next t
            ∧ t.fab = { s.fab with switches := tset .free e.out (.reserved xid (tagVc tag) port (tagEpoch tag)) s.fab.switches }
            ∧ t.links.wire = s.links.wire ++ [.tag e.out (mkTag 1 xid (tagVc tag) (tagRem tag - 1) (tagFlits tag) (tagEpoch tag) 0)])
        ∧ ((getSwitch s e.out ≠ .free ∧ (tagVc tag ≠ 0 ∨ ∀ x v i ep, getSwitch s e.out = .reserved x v i ep → v = 0))
            ∨ (tagVc tag ≠ 0 ∧ vc0Pending s e.out = true) → Claims.emits s port →
          ∃ t, exec (.expressAnnounce port tag) s = .next t ∧ absorbed t ∧ t.fab.switches = s.fab.switches
            ∧ t.links.wire = s.links.wire ++ [.tag port (busyTag xid (tagVc tag) (tagEpoch tag))])
        ∧ (∀ x v i ep, getSwitch s e.out = .reserved x v i ep → v ≠ 0 → tagVc tag = 0 →
          ∃ t, exec (.expressAnnounce port tag) s = .next t ∧ absorbed t ∧ getSwitch t e.out = .reserved xid 0 port (tagEpoch tag)
            ∧ (Claims.emits s i → .tag i (busyTag x v ep) ∈ t.links.wire)))
      ∧ (e.out ≠ 15 → tagRem tag = 0 ∨ (getLink s e.out).state ≠ .up →
        ∃ t, exec (.expressAnnounce port tag) s = .next t ∧ absorbed t ∧ t.fab.switches = s.fab.switches))
    ∧ (straight s xid = false → tagOk tag = false →
      ∃ t, exec (.expressAnnounce port tag) s = .next t ∧ absorbed t ∧ t.fab.switches = s.fab.switches ∧ t.fab.incoming = s.fab.incoming)
    ∧ (read → tagKind tag = 2 → xid ≠ 0 → (launchOf s (tagEpoch tag) ⟨port, xid⟩).isSome = true → s.fab.busy.contains key = false →
      ∃ t, exec (.expressBusy port tag) s = .next t ∧ t.fab = { s.fab with busy := s.fab.busy ++ [key] })
    ∧ (s.fab.busy.contains (vcKey seg.port seg.xid vc) = true → portSends s seg = true →
      ∃ t, exec (.expressRetry seg vc) s = .next t
        ∧ t.fab = { s.fab with busy := s.fab.busy.filter (fun x => x ≠ vcKey seg.port seg.xid vc) }
        ∧ (∀ k ∈ (getSeg s seg).kept, k.vc = vc →
          (vc = 0 ∨ vc0Ready s seg.port = false →
            ∃ j, .flit seg.port seg.xid k.lane j (slotLight (max 1 (txMode (getSeg s seg) k.lane)) k.lane j
              (encodeSlot (flitInfo seg.xid 1 k.vc k.poff k.seq k.body))) ∈ t.links.wire)
          ∧ (vc ≠ 0 → vc0Ready s seg.port = true → t.links.wire = s.links.wire ∧ k.seq ∈ (getSeg t seg).due)))
    ∧ (∀ e, read → tagKind tag = 3 → tagRtype tag = 3 → expressEntry s (tagEpoch tag) xid port = some e →
      (e.out = 15 →
        ∃ t, exec (.expressEnd port tag) s = .next t ∧ t.fab = { s.fab with incoming := tset 0 (port * 4096 + xid) 0 s.fab.incoming })
      ∧ (e.out ≠ 15 → ∃ t, exec (.expressEnd port tag) s = .next t
        ∧ (Claims.emits s e.out → .tag e.out tag ∈ t.links.wire)
        ∧ (∀ v ep, getSwitch s e.out = .reserved xid v port ep ∨ getSwitch s e.out = .carrying xid v port ep →
          getSwitch t e.out = .free ∧ (∀ o, o ≠ e.out → getSwitch t o = getSwitch s o))))
    ∧ (∀ e, launchOf s s.fab.epoch seg = some e → (getLink s seg.port).state = .up → (getLink s seg.port).emitterFailed = false →
      getSwitch s seg.port = .free →
      ∃ t j light, exec (.expressIdleKeepalive seg) s = .next t ∧ t.fab = s.fab
        ∧ t.links.wire = s.links.wire ++ [.tag seg.port (mkTag 1 seg.xid 0 (e.hlen - 1) 1 s.fab.epoch 0),
            .flit seg.port seg.xid (pickLane s seg 0) j light, .tag seg.port (relayTag seg.xid s.fab.epoch 3 0)])
    ∧ (∀ img e, read → tagKind tag = 3 → xid ≠ 0 → (tagRtype tag = 0 ∨ tagRtype tag = 1 ∨ tagRtype tag = 2 ∨ tagRtype tag = 5) →
      bankFor s (tagEpoch tag) = some img → (expresses img).find? (fun x => x.xid = xid && x.out = port) = some e → Claims.emits s e.inp →
      ∃ t, exec (.reverseRelayFrame port tag) s = .next t ∧ t.links.wire = s.links.wire ++ [.tag e.inp tag] ∧ t.fab = s.fab)
    -- epochs
    ∧ (∀ c, s.fab.change = some c → c.draining = true →
      ∃ u, exec .epochSwitch s = .next (inject (fenceContexts u)) ∧ u.fab.epoch = c.epoch ∧ u.fab.fence = c.fence ∧ u.fab.change = none
        ∧ u.fab.active = (if c.isFence then s.fab.active else s.fab.staged) ∧ u.fab.staged = (if c.isFence then s.fab.staged else none)
        ∧ u.fab.previous = s.fab.active ∧ u.fab.prevEpoch = s.fab.epoch ∧ u.fab.prevKept = true)
    ∧ (s.fab.prevKept = true →
      exec .previousBankRetire s = .next { s with fab := { s.fab with prevKept := false, previous := none } })
    -- discovery
    ∧ ((getLink s port).state ≠ .off → exec (.identityRecordSend port) s = .next (putWire s (.identity port (identityRecord s port))))
    ∧ (straight s 0 = true → exec (.identityRecordReceive port p) s = .next (putWire s (.identity (acrossPort port) p)))
    ∧ (straight s 0 = false →
      (recordOk p = false → exec (.identityRecordReceive port p) s = .next s)
      ∧ (recordOk p = true → port < 12 →
        ∃ t, exec (.identityRecordReceive port p) s = .next t ∧ Claims.record t port = nbrOf p
          ∧ (∀ k, k ≠ port → Claims.record t k = Claims.record s k)
          ∧ (tget {} t.fab.nbrs port).agreed = (match s.fab.active with
            | some img => decide (planRole img port ≠ 7) && nbrAgrees img port (nbrOf p)
            | none => false)))
    ∧ (port < 12 →
      ∃ t, exec (.neighbourRecordTimeout port) s = .next t ∧ (tget {} t.fab.nbrs port).seen = false
        ∧ (tget {} t.fab.nbrs port).agreed = false ∧ (∀ k, k ≠ port → Claims.record t k = Claims.record s k))
    -- lost links
    ∧ (∃ u, exec (.fabLinkDown port) s = .next (inject u) ∧ (getSeg u ⟨port, 0⟩).down = true
        ∧ ((getLink u port).state = .off ∨ (getLink u port).state = .probe) ∧ (∀ k, k / 4 / 4096 = port → tget [] u.fab.txq k = []))
    ∧ (let k := field payload.toNat 0 18 * 4 + field payload.toNat 18 2
      (field payload.toNat 21 11 ≠ 0 → ∃ t, exec (.routeFaultNotice payload) s = .next t
        ∧ t.fab.discHdr = sat 255 (s.fab.discHdr + 1) ∧ t.fab.pendRev = s.fab.pendRev ∧ t.fab.reversed = s.fab.reversed)
      ∧ (field payload.toNat 21 11 = 0 → ∃ t, exec (.routeFaultNotice payload) s = .next t
        ∧ t.fab.delivered = s.fab.delivered.eraseP (fun m => m.bytes = leBytes 4 payload.toNat)
        ∧ (if s.fab.reversed.contains k then t.fab.pendRev = s.fab.pendRev ∧ t.fab.reversed = s.fab.reversed
          else t.fab.pendRev = s.fab.pendRev ++ [k] ∧ t.fab.reversed = s.fab.reversed ++ [k])))

/-! ### Links and light -/

namespace Sys2Proof.Claims

/-- The collectives are as before, but that one whose chunk left below full rate may note it (R306). -/
def sameColls (s t : State) : Prop :=
  t.pl.ctxs.map (fun x => { x with degraded := false }) = s.pl.ctxs.map (fun x => { x with degraded := false })

/-- Nothing changed but the links, and notes of slow chunks. -/
def linksOnly (s t : State) : Prop := t = { s with links := t.links, pl := { s.pl with ctxs := t.pl.ctxs } } ∧ sameColls s t

/-- Nothing changed but the links with the express light on them, the queue of repair records, notes of slow chunks and what
reporting an event writes. -/
def onLinks (s t : State) : Prop :=
  t = { s with links := t.links, dbx := t.dbx, fns := t.fns, host := t.host, q := t.q, dram := { s.dram with pendingRecs := t.dram.pendingRecs }
               pl := { s.pl with ctxs := t.pl.ctxs }
               fab := { s.fab with switches := t.fab.switches, incoming := t.fab.incoming, discExp := t.fab.discExp, discTick := t.fab.discTick } }
    ∧ sameColls s t

/-- The flit leaves as the light of the next slot of its lane's frame, in the lane's mode (R289, R290, R292). -/
def flitSent (s t : State) (g : SegId) (k : KeptFlit) : Prop :=
  ∃ j, .flit g.port g.xid k.lane j (slotLight (max 1 (txMode (getSeg s g) k.lane)) k.lane j
    (encodeSlot (flitInfo g.xid 1 k.vc k.poff k.seq k.body))) ∈ t.links.wire

/-- A KEEP frame for the port's neighbour link arrives at a port that is not dark. -/
def keepHeard (s : State) (port : Nat) (tag : BitVec 64) : Prop :=
  tagOk tag = true ∧ tagKind tag = 3 ∧ tagRtype tag = 4 ∧ tagXid tag = 0 ∧ (getLink s port).state ≠ .off

/-- The flit of a slot is whole, of a type, with a SEQ. -/
def flitIs (xid : Nat) (info : Bytes) (ftype seq : Nat) : Prop :=
  let hi := fld info 4 4
  fld info 0 4 = flitCrc xid seq hi (info.drop 8) ∧ field hi 0 7 = 0 ∧ field hi 29 3 = ftype ∧ field hi 7 11 = seq

end Sys2Proof.Claims

/-- R257, R271, R272, R284, R291 to R293, R295, R296, R299, R302, R304, R314: without a plan express light passes straight across; a flit
passes through on its switch while the output is UP, is absorbed where no announce brought it, discarded where damaged, taken in SEQ
order and acknowledged, or settles the version in PROBE. An ACK frees the flits it covers; a NAK or a timeout sends its flit
again, once the port can send, and a fourth takes the lane out. A LANES frame sets the segment's lanes, a lane that it lowers is
reported, and a segment left below MIN_WL goes down; a retrained lane rejoins. Which light passes straight across is log 153, the
slots' frames log 155, the body of a training flit log 158, the fill of a last flit log 60; that flits wait behind VC0 packets, and
on which lane, logs 92 and 96, and that a segment comes up again with MIN_WL lanes log 98. -/
def Obligations.FlitsAndReplay : Prop :=
  ∀ (seg : SegId) (lane index seq : Nat) (light : Light) (port : Nat) (tag : BitVec 64) (s : State),
    let taken (t : State) : Prop := exec (.flitReceive seg lane index light) s = .next t
    let k := segKey seg
    let slot := lightSlot index light
    -- light of the segment that ends here, and the state that has counted it
    let ends : Prop := straight s seg.xid = false ∧ (seg.xid = 0 ∨ (switchOf s seg.xid seg.port = none ∧ tget 0 s.fab.incoming k ≠ 0))
    let u : State := if seg.xid = 0 then s
      else { s with fab := { s.fab with incoming := tset 0 k (tget 0 s.fab.incoming k - 1) s.fab.incoming } }
    let x := getSeg s seg
    let ack (t : State) (q : Nat) : Prop := Claims.emits s seg.port → .tag seg.port (relayTag seg.xid s.fab.epoch 0 q) ∈ t.links.wire
    (straight s seg.xid = true → taken (putWire s (.flit (acrossPort seg.port) seg.xid lane index light)))
    ∧ (straight s seg.xid = false → seg.xid ≠ 0 →
      (∀ out, switchOf s seg.xid seg.port = some out →
        ((getLink s out).state ≠ .up → taken s)
        ∧ ((getLink s out).state = .up →
          ∃ t, taken t ∧ t.links = { s.links with wire := s.links.wire ++ [.flit out seg.xid lane index light] }
            ∧ (∀ y vc i ep, getSwitch s out = .reserved y vc i ep → getSwitch t out = .carrying y vc i ep)
            ∧ t = { s with links := t.links, fab := { s.fab with switches := t.fab.switches } }))
      ∧ (switchOf s seg.xid seg.port = none → tget 0 s.fab.incoming k = 0 → taken s))
    ∧ (ends → decodeSlot slot = none → taken u)
    ∧ (∀ info, ends → decodeSlot slot = some info →
      (Claims.flitIs seg.xid info 1 seq →
        (x.rxNext = seq → x.rxHold = [] →
          ∃ t, taken t ∧ (getSeg t seg).rxNext = (seq + 1) % 2048 ∧ (getSeg t seg).rxHold = [] ∧ (getSeg t seg).kept = x.kept ∧ ack t seq
            ∧ t.kt = s.kt ∧ t.part = s.part)
        ∧ (0 < seqGap seq x.rxNext → seqGap seq x.rxNext < 1024 → x.rxHold = [] →
          ∃ t y, taken t ∧ (getSeg t seg).rxNext = x.rxNext ∧ (getSeg t seg).rxHold = [y] ∧ y.seq = seq ∧ y.body = info.drop 8
            ∧ ack t (seqGap x.rxNext 1) ∧ t = { u with links := t.links })
        ∧ (1024 ≤ seqGap seq x.rxNext → ∃ t, taken t ∧ (getSeg t seg).rxNext = x.rxNext ∧ ack t (seqGap x.rxNext 1) ∧ t = { u with links := t.links }))
      ∧ (∀ lo hi, Claims.flitIs seg.xid info 2 seq → lo = byteAt info 8 → hi = byteAt info 9 → (getLink s seg.port).state = .probe →
        (1 ≤ hi → lo ≤ 1 → ∃ t, taken t ∧ (getLink t seg.port).version = 1 ∧ (getLink t seg.port).verOk = true ∧ t = { u with links := t.links })
        ∧ (hi = 0 ∨ 1 < lo → ∃ t, taken t ∧ (getLink t seg.port).verOk = false ∧ Claims.raised t 0x0201)))
    ∧ (∀ g, straight s (tagXid tag) = false → relayFor s port tag 0 = some g →
      ∃ t, exec (.relayAck port tag) s = .next t
        ∧ getSeg t g = { getSeg s g with kept := (getSeg s g).kept.filter (fun k => decide (1024 ≤ seqGap (tagContent tag) k.seq)) }
        ∧ (∀ h, segKey h ≠ segKey g → getSeg t h = getSeg s h) ∧ t = { s with links := t.links })
    ∧ (∀ (c : Instr) (g : SegId) (k : KeptFlit),
      (c = .relayNak port tag ∧ straight s (tagXid tag) = false ∧ relayFor s port tag 1 = some g ∧ tagContent tag = seq) ∨ c = .replayTimeout g seq →
      (getSeg s g).kept.find? (fun x => x.seq = seq) = some k → k.lane ∈ laneSet s g →
      (k.replays < 3 →
        ∃ t, exec c s = .next t ∧ (getLink t g.port).replays = sat 255 ((getLink s g.port).replays + 1)
          ∧ (getSeg t g).kept = listUpdate (fun o => o.seq = seq) (fun o => { o with replays := o.replays + 1 }) (getSeg s g).kept
          ∧ (portSends s g = true → k.vc = 0 ∨ vc0Ready s g.port = false → Claims.flitSent s t g k)
          ∧ (portSends s g = false ∨ (k.vc ≠ 0 ∧ vc0Ready s g.port = true) → seq ∈ (getSeg t g).due)
          ∧ Claims.linksOnly s t)
      ∧ (3 ≤ k.replays → ∃ t, exec c s = .next t ∧ Claims.raised t 0x0203 ∧ Claims.onLinks s t))
    ∧ (∀ g x, straight s (tagXid tag) = false → relayFor s port tag 5 = some g →
      x = (if bit (tagContent tag) 10 then { getSeg s g with maskQ := BitVec.ofNat 8 (field (tagContent tag) 0 8) }
        else { getSeg s g with mask16 := BitVec.ofNat 8 (field (tagContent tag) 0 8) }) →
      let joins := ∀ w, w < 8 → txMode (getSeg s g) w = txMode x w ∨ txMode (getSeg s g) w = 0
      let few := (getLink s g.port).state = .up ∧ (laneSet (setSeg s g x) g).length < s.links.minWl
      (joins → ¬ few →
        ∃ t, exec (.lanesFrame port tag) s = .next t ∧ (getSeg t g).mask16 = x.mask16 ∧ (getSeg t g).maskQ = x.maskQ
          ∧ ((getLink s g.port).state = .up → (getSeg t g).ready = true ∧ (getSeg t g).down = false) ∧ Claims.linksOnly s t)
      ∧ (joins → few → x.down = false → x.ready = true →
        ∃ t, exec (.lanesFrame port tag) s = .next t ∧ (getSeg t g).down = true ∧ Claims.raised t 0x0202 ∧ Claims.onLinks s t)
      ∧ ((∃ w, w < 8 ∧ laneUsable s g.port w = true ∧ txMode x w < txMode (getSeg s g) w) →
        ∃ t, exec (.lanesFrame port tag) s = .next t ∧ Claims.raised t 0x0203 ∧ Claims.onLinks s t))
    ∧ (lane < 8 →
      let v := updSeg s seg (fun x => { x with out := x.out &&& ~~~(BitVec.ofNat 8 (2 ^ lane)) })
      let few := (getLink s seg.port).state = .up ∧ (laneSet v seg).length < s.links.minWl
      (¬ few → ∃ t, exec (.laneRetrainDone seg lane) s = .next t
        ∧ (∀ w, (getSeg t seg).out.getLsbD w = (decide (w ≠ lane) && (getSeg s seg).out.getLsbD w)) ∧ Claims.linksOnly s t)
      ∧ (few → x.down = false → x.ready = true →
        ∃ t, exec (.laneRetrainDone seg lane) s = .next t ∧ (getSeg t seg).down = true ∧ Claims.raised t 0x0202 ∧ Claims.onLinks s t))

/-- R290, R298, R299, R301 to R303, R307, R308, R314: 64 good windows raise a lane's mode and two bad ones lower it; a port that is
UP keeps MIN_WL lanes; KEEP frames go out, in PROBE with the training flit that carries the versions, and close and open the loop;
silence, a training timeout and a failed tag emitter lead to PROBE; rings that find their wavelength's tone 20 dB above the others and
their lane's marker lock, others sweep again, and one that fails twice within 1 s stays off until PROBE is left. When a lane of
RAMP or ACQUIRE counts as decided is the model's reading (log 97), and so is the training flit with KEEP_SEND (log 158). -/
def Obligations.LanesAndLoops : Prop :=
  ∀ (seg : SegId) (port lane enob xt tone margin : Nat) (marker : Byte) (tag : BitVec 64) (s : State),
    let l := s.links
    let moves (x y : Lane) : Prop :=
      (l.q16Up ≤ enob → l.xt16 ≤ xt → x.mode ≠ 2 → x.up16 = 63 → y.mode = 2)
        ∧ (l.qpskUp ≤ enob → l.xtOff ≤ xt → x.mode = 0 → x.up16 < 63 → x.upQ = 63 → y.mode = 1)
        ∧ (enob < l.q16Down ∨ xt < l.xt16 → x.mode = 2 → x.down = 1 → y.mode = 1)
        ∧ (enob < l.qpskDown ∨ xt < l.xtOff → x.mode = 1 → x.up16 < 63 → x.down = 1 → y.mode = 0)
    (lane < 8 → enob ≤ 255 → xt ≤ 255 →
      (seg.xid ≠ 0 → ∃ t, exec (.enobWindowEnd seg lane enob xt) s = .next t
        ∧ (getLane t (rxLane seg) lane).enob = enob ∧ (getLane t (rxLane seg) lane).xt = xt
        ∧ (laneUsable s seg.port lane = true → moves (getLane s (rxLane seg) lane) (getLane t (rxLane seg) lane))
        ∧ (laneUsable s seg.port lane = false → (getLane t (rxLane seg) lane).mode = (getLane s (rxLane seg) lane).mode)
        ∧ (∀ p w, laneKey p w ≠ laneKey (rxLane seg) lane → getLane t p w = getLane s p w) ∧ t = { s with links := t.links })
      ∧ (∃ t, exec (.enobWindowEnd ⟨port, 0⟩ lane enob xt) s = .next t ∧ (getLane t port lane).enob = enob ∧ (getLane t port lane).xt = xt
        ∧ (laneUsable s port lane = true → (getLink t port).state ≠ .probe → moves (getLane s port lane) (getLane t port lane))
        ∧ ((getLink t port).state = .up → (getLane t port lane).mode ≠ (getLane s port lane).mode → l.minWl ≤ modedLanes t port)
        ∧ ((getLink s port).state ≠ .up → (getLink t port).state = .up → l.minWl ≤ modedLanes t port
          ∧ (l.minWl ≤ (laneSet t ⟨port, 0⟩).length → (getSeg t ⟨port, 0⟩).ready = true ∧ (getSeg t ⟨port, 0⟩).down = false))
        ∧ Claims.onLinks s t))
    ∧ (let keep : Wire := .tag port (relayTag 0 s.fab.epoch 4 (field port 0 4 * 2 ^ 7 + (if (getLink s port).heard then 2 ^ 6 else 0)))
      ((getLink s port).state = .off → exec (.keepSend port) s = .next s)
      ∧ (Claims.emits s port → (getLink s port).state ≠ .probe →
        exec (.keepSend port) s = .next { s with links := { l with wire := l.wire ++ [keep] } })
      ∧ (Claims.emits s port → (getLink s port).state = .probe →
        ∃ t j, exec (.keepSend port) s = .next t ∧ t = { s with links := { l with wire := t.links.wire, frames := t.links.frames } }
          ∧ t.links.wire = l.wire ++ [keep, .flit port 0 0 j (slotLight (max 1 (txMode (getSeg s ⟨port, 0⟩) 0)) 0 j
              (encodeSlot (flitInfo 0 2 0 256 0 (padTo 256 [1#8, 1#8]))))]))
    ∧ (straight s 0 = false → Claims.keepHeard s port tag → bit (tagContent tag) 6 = true → (getLink s port).emitterFailed = false →
      ∃ t, exec (.keepFrame port tag) s = .next t ∧ (getLink t port).loop = true ∧ (getLink t port).heard = true
        ∧ ((getLink t port).state = (getLink s port).state ∨ ((getLink s port).state = .probe ∧ (getLink t port).state = .ramp)) ∧ t = { s with links := t.links })
    ∧ (∀ c : Instr, (c = .keepFrame port tag ∧ straight s 0 = false ∧ Claims.keepHeard s port tag ∧ bit (tagContent tag) 6 = false)
        ∨ c = .loopOpenTimeout port →
      (getLink s port).loop = true →
      ∃ t, exec c s = .next t ∧ (getLink t port).loop = false ∧ (getLink t port).state = .probe
        ∧ (getLink t port).heard = decide (c = .keepFrame port tag) ∧ Claims.raised t 0x0301 ∧ (∀ o, getSwitch t o ≠ getSwitch s o → getSwitch t o = .free)
        ∧ getSwitch t port = .free ∧ Claims.onLinks s t)
    ∧ ((getLink s port).loop = false →
      ∃ t, exec (.loopOpenTimeout port) s = .next t ∧ getLink t port = { getLink s port with heard := false } ∧ t = { s with links := t.links })
    ∧ ((getLink s port).state = .ramp ∨ (getLink s port).state = .acquire →
      ∃ t, exec (.portTrainingTimeout port) s = .next t ∧ (getLink t port).state = .probe ∧ (getLink t port).locked = 0#8 ∧ Claims.onLinks s t)
    ∧ (∃ t, exec (.tagEmitterFailure port) s = .next t ∧ (getLink t port).emitterFailed = true ∧ (getLink t port).loop = false
        ∧ ((getLink t port).state = .off ∨ (getLink t port).state = .probe) ∧ (getSeg t ⟨port, 0⟩).down = true ∧ Claims.raised t 0x0202
        ∧ Claims.onLinks s t)
    ∧ (lane < 8 →
      let locks := toneOk lane tone margin = true ∧ marker = laneMarker lane
      let last := (getLane s port lane).wrongTick
      (locks → (getLink s port).state = .ramp →
        ∃ t, exec (.ringLockCheck port lane tone margin marker) s = .next t ∧ (getLink t port).locked.getLsbD lane = true
          ∧ ((getLink t port).state = .ramp ∨ (getLink t port).state = .acquire) ∧ t = { s with links := t.links })
      ∧ (locks → (getLink s port).state ≠ .ramp → exec (.ringLockCheck port lane tone margin marker) s = .next (updLink s port id))
      ∧ (¬ locks →
        ∃ t, exec (.ringLockCheck port lane tone margin marker) s = .next t ∧ (getLane t port lane).resweep = true ∧ (getLane t port lane).mode = 0
          ∧ (getLane t port lane).wrongTick = s.power.tick.toNat + 1
          ∧ (getLane t port lane).keptOff = ((getLane s port lane).keptOff || (decide (last ≠ 0) && decide (s.power.tick.toNat < last - 1 + 100000000)))
          ∧ (getLink t port).state ≠ .ramp ∧ Claims.raised t 0x0302 ∧ Claims.onLinks s t)
      ∧ (∃ t, exec (.ringSweepDone port lane) s = .next t ∧ getLane t port lane = { getLane s port lane with resweep := false }
          ∧ (∀ p w, laneKey p w ≠ laneKey port lane → getLane t p w = getLane s p w) ∧ t = { s with links := t.links }))

/-- R309 to R312: an active laser's fade is reported once and its spare warmed up; a laser that stops is dark at once; a spare
takes over once warm and locked, is failed where it does not lock, and the old laser is off after the changeover, with
both roles recorded. While the Drabex restarts its decisions wait (R349). That a stop raises no fade event and that a laser R311
gives up gets role 3 is the model's reading (log 99). -/
def Obligations.LaserChangeover : Prop :=
  ∀ (laser wavelength i : Nat) (delta : Int) (s : State),
    let active (x : Laser) : Prop := x.role < 2 ∧ x.lit = true
    (laser < 24 → -32768 ≤ delta → delta < 32768 →
      ∃ t, exec (.laserPowerSample laser delta) s = .next t ∧ (getLaser t laser).delta = delta
        ∧ (active (getLaser s laser) → delta ≤ -80 → (getLaser t laser).fadeRaised = true ∧ ((getLaser s laser).fadeRaised = false → Claims.raised t 0x0303)
          ∧ (∀ sp, -150 < delta → s.power.drabexUp = true → (getLaser s laser).change = .none → freeSpare s (laser / 3) = some sp →
            (getLaser t laser).change = .warming sp false ∧ (getLaser t sp).warm = true ∧ (getLaser t sp).lit = true))
        ∧ (¬ active (getLaser s laser) ∨ -80 < delta → t = updLaser s laser (fun x => { x with delta := delta }))
        ∧ Claims.onLinks s t)
    ∧ (laser < 24 → active (getLaser s laser) →
      ∃ t, exec (.laserStop laser) s = .next t ∧ (getLaser t laser).lit = false ∧ (getLaser t laser).locked = false ∧ Claims.onLinks s t)
    ∧ (changingTo s laser = some i →
      (∃ t, exec (.spareWarmDone laser) s = .next t ∧ (getLaser t laser).warm = false ∧ (getLaser t laser).locked = true
        ∧ (getLaser t i).change = .switched laser ∧ Claims.onLinks s t)
      ∧ (∃ t, exec (.spareLockTimeout laser) s = .next t ∧ (getLaser t laser).role = 3 ∧ (getLaser t laser).lit = false
          ∧ (getLaser t i).change = (match (getLaser s i).change with
            | .warming _ true => if s.power.drabexUp = true then .none else .undecided
            | _ => .none)
          ∧ .laserRole laser 3 ∈ t.dram.pendingRecs ∧ Claims.onLinks s t))
    ∧ (∀ sp, (wavelengthLasers wavelength).find? (fun j => match (getLaser s j).change with
        | .switched _ => true
        | _ => false) = some i → (getLaser s i).change = .switched sp → sp ≠ i →
      ∃ t, exec (.laserChangeoverDone wavelength) s = .next t ∧ (getLaser t i).role = 3 ∧ (getLaser t i).lit = false ∧ (getLaser t i).change = .none
        ∧ (getLaser t sp).role = (getLaser s i).role ∧ Claims.raised t 0x0304
        ∧ t.dram.pendingRecs = s.dram.pendingRecs ++ [.laserRole i 3, .laserRole sp (getLaser s i).role] ∧ Claims.onLinks s t)

/-! ### The Kettle -/

namespace Sys2Proof.Claims

/-- Nothing changed but the Kettle and what reporting an event writes. -/
def onKettle (s t : State) : Prop := t = { s with kt := t.kt, dbx := t.dbx, fns := t.fns, host := t.host, q := t.q }

/-- A current sample above 1.1 × C ÷ V_in, in mA and units of 10 mV (R324). -/
def overLimit (s : State) (milliamps : Nat) : Prop := 11 * capWatts s * 100000 < milliamps * s.kt.volts * 10

end Sys2Proof.Claims

/-- R323: each period f follows P, the effective cap C (the least of the variant, host, management and supply caps, R321), the
limiter and the thermal request; it is clamped, and pinned at the floor in deterministic mode. Outside that mode a period
lowers f by 1 at most, and not at all under a thermal request. R336: a new management cap applies from the period's start.
R324: the period's end moves the limiter between its depths. R317: the rails' reports, and the input voltage, are kept as
their sensors' readings. Nothing but the Kettle changes and what its events write. Deterministic mode pins f whatever the
thermal request (log 107), and a rail that does not report keeps its reading (log 159): both are the model's choice. -/
def Obligations.CapLoopSetsLevel : Prop :=
  ∀ (watts volts : Nat) (below : Bool) (rails : List RailReport) (s : State),
    let v := s.part.variant
    let c := 10 * min (min (variantCap v) s.kt.hostCap) (min (s.kt.mgmtCap.getD (variantCap v)) (supplyCap s.kt.converters))
    let quiet := if 100 * watts < 96 * c then s.kt.quiet + 1 else 0
    let f := if c < watts ∨ s.kt.depth ≠ 0 then s.kt.f + 4
      else if 98 * c < 100 * watts then s.kt.f + 1
      else if s.kt.thermal then s.kt.f + 1
      else if 100 * watts < 96 * c ∧ 10 ≤ quiet then s.kt.f - 1 else s.kt.f
    ∃ t, exec (.capLoopPeriod watts volts below ⟨none, rails⟩) s = .next t
      ∧ t.kt.f = (if s.kt.det then 32 * floorCodeOf v else min 224 (max (32 * maxCodeOf v) f))
      ∧ (s.kt.det = false → s.kt.f ≤ 224 → s.kt.f ≤ t.kt.f + 1 ∧ (s.kt.thermal = true → s.kt.f ≤ t.kt.f))
      ∧ t.kt.quiet = quiet ∧ t.kt.watts = watts % 2 ^ 16 ∧ t.kt.volts = volts % 2 ^ 16 ∧ t.kt.mgmtNow = s.kt.mgmtCap
      ∧ t.kt.missing = 0 ∧ t.kt.heldF = none
      ∧ (∀ r x, r < 42 → rails[r]? = some x → tget .unavailable t.dbx.sensors (0x100 + r) = .valid x.mv
        ∧ tget .unavailable t.dbx.sensors (0x140 + r) = .valid x.ma ∧ tget .unavailable t.dbx.sensors (0x180 + r) = .valid x.temp)
      ∧ (s.kt.depth = 0 → t.kt.depth = 0)
      ∧ (s.kt.depth = 1 → t.kt.f = 224 → c < watts → t.kt.depth = 2 ∧ Claims.raised t 0x0801)
      ∧ (s.kt.depth = 1 → below = true → watts ≤ c → s.kt.depthF + 4 ≤ t.kt.f → s.kt.dieHot = false →
        t.kt.depth = 0 ∧ (s.kt.det = true → Claims.raised t 0x0803))
      ∧ (s.kt.depth = 2 → t.kt.depth = if 100 * watts ≤ 45 * c then 1 else 2)
      ∧ t.power = { s.power with inputMv := 10 * (volts % 2 ^ 16) } ∧ Claims.onKettle s { t with power := s.power }

/-- R320, R322, R324, R326, R327, R331, R333 to R335, R344: telemetry lost for three periods holds f; four samples over the
limit deepen the limiter, and skipping in deterministic mode is reported; at an operation boundary a core takes its domain's
code, within its fuse and the variant's maximum; a VCORE 4 % low marks its domain until it holds within 2 %; hot sensors ask
for f + 1, start the limiter or trip the module, whose Drabex, ports and mailbox stay; a lost converter or phase is reported,
and the last converter shuts the module down with ALERT_N asserted. What a sample counts as (log 106), the moments of
KT_DET_BREACH and KT_BELOW_FLOOR (logs 107, 63), ALERT_N after the last converter (log 32), the cause of a shut-down in the
tripped state (log 100) and a lost rail's reading (log 159) are the model's choice. -/
def Obligations.KettleRules : Prop :=
  ∀ (watts volts mA mv core x domain rail phase : Nat) (below : Bool) (rails : List RailReport) (die stack : List Reading) (bank : Reading) (s : State),
    let ds := temps (die.take 64)
    let ss := temps (stack.take 16)
    let trip := (∃ y ∈ ss, 95000 ≤ y.2) ∨ (∃ y ∈ ds, 105000 ≤ y.2)
    let ask := (∃ y ∈ ss, 90000 ≤ y.2) ∨ (∃ y ∈ ds, 100000 ≤ y.2)
    let calm := (∀ y ∈ ss, y.2 < 88000) ∧ (∀ y ∈ ds, y.2 < 98000)
    (∃ t, exec (.capLoopPeriod watts volts below ⟨some rail, rails⟩) s = .next t ∧ t.kt.missing = s.kt.missing + 1
      ∧ t.power = { s.power with inputMv := 10 * (volts % 2 ^ 16) } ∧ Claims.onKettle s { t with power := s.power }
      ∧ (∀ x, rail < 42 → rails[rail]? = some x → tget .unavailable t.dbx.sensors (0x100 + rail) = .unavailable)
      ∧ (s.kt.missing = 2 → t.kt.f = max (32 * floorCodeOf s.part.variant) s.kt.f ∧ t.kt.heldF = some t.kt.f ∧ Claims.raised t 0x0807)
      ∧ (s.kt.missing ≠ 2 → ∀ f, s.kt.heldF = some f → t.kt.f = s.kt.f))
    ∧ (¬ Claims.overLimit s mA → exec (.limiterSample mA) s = .next { s with kt := { s.kt with overs := 0 } })
    ∧ (Claims.overLimit s mA → s.kt.overs < 3 → exec (.limiterSample mA) s = .next { s with kt := { s.kt with overs := s.kt.overs + 1 } })
    ∧ (Claims.overLimit s mA → 3 ≤ s.kt.overs →
      ∃ t, exec (.limiterSample mA) s = .next t ∧ t.kt.depth = (if s.kt.depth = 0 then 1 else if s.kt.depth = 1 then 2 else s.kt.depth)
        ∧ (s.kt.depth = 0 → t.kt.depthF = s.kt.f ∧ (s.kt.det = true → Claims.raised t 0x0803)
          ∧ t.q.ops = s.q.ops.map (fun o => { o with skipped := o.skipped || o.started }))
        ∧ (s.kt.depth = 1 → s.kt.f = 224 → Claims.raised t 0x0801) ∧ t.kt.f = s.kt.f ∧ Claims.onKettle s t)
    ∧ ((∃ o ∈ s.q.ops, o.core = core ∧ o.started = true ∧ o.phase = .running) → exec (.coreCodeSwitch core) s = .next s)
    ∧ (corePhys s core = some x → (∀ o ∈ s.q.ops, o.core = core → o.started = true → o.phase ≠ .running) →
      ∃ t, exec (.coreCodeSwitch core) s = .next t
        ∧ getCore t core = { getCore s core with code := max (domainCode s.kt.f (domainOf x)) (max (fuseOf s x) (maxCodeOf s.part.variant)) }
        ∧ (∀ k, k ≠ core → getCore t k = getCore s k) ∧ t = { s with cores := { s.cores with regs := t.cores.regs } })
    ∧ (domain < 32 →
      (100 * mv ≤ 96 * domainMv s domain →
        ∃ t, exec (.vcoreDroop ⟨domain, mv⟩) s = .next t ∧ domain ∈ t.cores.droop ∧ t = { s with cores := { s.cores with droop := t.cores.droop } })
      ∧ (96 * domainMv s domain < 100 * mv → exec (.vcoreDroop ⟨domain, mv⟩) s = .next s)
      ∧ (98 * domainMv s domain ≤ 100 * mv →
        exec (.droopStretchEnd ⟨domain, mv⟩) s = .next { s with cores := { s.cores with droop := s.cores.droop.filter (fun d => d ≠ domain) } })
      ∧ (100 * mv < 98 * domainMv s domain → exec (.droopStretchEnd ⟨domain, mv⟩) s = .next s))
    ∧ (trip → s.power.phase ≠ .off → s.power.phase ≠ .tripped →
      ∃ t, exec (.thermalSensorScan die stack bank) s = .next t ∧ t.power.phase = .tripped ∧ t.power.ready = false ∧ Claims.raised t 0x0804
        ∧ t.dram.cells = [] ∧ t.cores.sram = [] ∧ t.q.ops = [] ∧ t.dbx.slots = s.dbx.slots ∧ t.dbx.update = s.dbx.update ∧ t.part = s.part
        ∧ t.dbx.resetDue = none ∧ t.power.drabexUp = s.power.drabexUp ∧ t.power.slot = s.power.slot ∧ t.power.fallback = s.power.fallback
        ∧ (∀ e ∈ t.ports, e.2 = { up := true } ∧ ∃ e' ∈ s.ports, e'.1 = e.1 ∧ e'.2.up = true)
        ∧ (∀ f, f < 16 → (getFn t f).mbBusy = (getFn s f).mbBusy ∧ (getFn t f).mbData = (getFn s f).mbData
          ∧ (getFn t f).mbAsync = (getFn s f).mbAsync))
    ∧ (¬ trip →
      ∃ t, exec (.thermalSensorScan die stack bank) s = .next t
        ∧ (ask → t.kt.thermal = true) ∧ (calm → t.kt.thermal = false) ∧ (¬ ask → ¬ calm → t.kt.thermal = s.kt.thermal)
        ∧ ((∃ y ∈ ds, 103000 ≤ y.2) → t.kt.dieHot = true
          ∧ (s.kt.depth = 0 → t.kt.depth = 1 ∧ (s.kt.det = true → Claims.raised t 0x0803)))
        ∧ ((∀ y ∈ ds, y.2 < 101000) → t.kt.dieHot = false) ∧ t.kt.f = s.kt.f ∧ t.power = s.power ∧ t.fab = s.fab ∧ t.part = s.part)
    ∧ (core < 4 → s.kt.failedConv.contains core = false →
      (2 ≤ s.kt.converters →
        ∃ t, exec (.converterFail core) s = .next t ∧ t.kt.converters = s.kt.converters - 1 ∧ t.kt.failedConv = s.kt.failedConv ++ [core]
          ∧ Claims.raised t 0x0805 ∧ Claims.onKettle s t)
      ∧ (s.kt.converters = 1 → s.power.phase ≠ .off →
        ∃ t, exec (.converterFail core) s = .next t ∧ t.power.phase = .off ∧ t.power.ready = false ∧ t.dram = {} ∧ t.dbx.sev3 = true
          ∧ t.power.cause = (if s.power.phase = .tripped then 4 else 2) ∧ t.part = s.part))
    ∧ (s.kt.shedPhases.contains (rail, phase) = false →
      ∃ t, exec (.phaseFail rail phase) s = .next t ∧ t.kt = { s.kt with shedPhases := s.kt.shedPhases ++ [(rail, phase)] }
        ∧ Claims.raised t 0x0806 ∧ Claims.onKettle s t)

/-! ### The Drabex, attestation and the out-of-band standards -/

namespace Sys2Proof.Claims

/-- A DOE instance takes a request now. -/
def doeTakes (s : State) (port : Nat) : Prop := doeLive s port = true ∧ s.dbx.doeBusy.contains port = false

/-- A data object bears Lerram's vendor ID and attestation's type, 0x01 (R374). -/
def doeNames (s : State) (object : Bytes) : Prop := object.take 3 = leBytes 2 s.part.vendorId.toNat ++ [1#8]

/-- A sensor's reading as PLDM answers it: the operational state and the three states, which are free, before the value. -/
def readingAnswer (s t : State) (ep : Nat) (op : Byte) (value : Bytes) : Prop :=
  ∃ states, states.length = 3
    ∧ t.dbx = { s.dbx with responses := s.dbx.responses ++ [{ ep, bytes := [0#8, 5#8, op, 0#8] ++ states ++ value }] }
    ∧ t = { s with dbx := t.dbx, free := t.free }

/-- A message of a standard is answered now. -/
def oobTakes (s : State) (ep : Nat) : Prop := 16 ≤ ep ∧ s.power.phase ≠ .off ∧ epLive s ep = true ∧ s.power.drabexUp = true

/-- The command's only effect is to answer bytes on an endpoint. -/
def replied (c : Instr) (s : State) (ep : Nat) (b : Bytes) : Prop :=
  exec c s = .next { s with dbx := { s.dbx with responses := s.dbx.responses ++ [{ ep, bytes := b }] } }

/-- A DOE request of a length is well-formed, of an attestation version and message. -/
def doeAsks (object : Bytes) (n msg : Nat) : Prop :=
  doeForm object n = true ∧ byteAt (doePayload object) 0 = 1 ∧ byteAt (doePayload object) 1 = msg

end Sys2Proof.Claims

/-- R349, R360, R361, R366, R370, R374 to R376, R391: the watchdog restarts the Drabex and ends an update, and the restart
serves what was held; the oldest log entry in SRAM reaches the flash; DOE answers discovery, GET_CERTS and MEASURE, holds them
in a restart, and forgets them at an abort; MCTP and PLDM are answered; JTAG reads its code, scans the pins, and enters EXTEST
only in reset. Reading the endpoints and the restart so (logs 116, 122, 151), the DOE object (logs 124, 125), the PLDM and MCTP formats and their completion
codes (log 124) and the scan (log 127) are the model's choice. -/
def Obligations.DrabexAndOutOfBand : Prop :=
  ∀ (port ep eid sensor len : Nat) (object manifest : Bytes) (index tid : Byte) (ok : Bool) (pins shifted : Sideband) (s : State),
    let req := doePayload object
    (s.power.drabexUp = true →
      ∃ t, exec .drabexWatchdogExpiry s = .next t ∧ t.power = { s.power with drabexUp := false } ∧ t.dbx.update = none
        ∧ (∀ u, s.dbx.update = some u → (getSlot t u.target).state = 0 ∧ ∀ i, i ≠ u.target → getSlot t i = getSlot s i)
        ∧ (s.dbx.update = none → t.dbx = s.dbx) ∧ t = { s with power := t.power, dbx := t.dbx })
    ∧ (s.power.drabexUp = false → drabexStarted s = true →
      ∃ u, exec .dbxRestart s = .next (s.dbx.heldReqs.foldl serveHeld u) ∧ u.power = { s.power with drabexUp := true, restarts := s.power.restarts + 1 }
        ∧ Claims.raised u 0x0907 ∧ u.dbx.heldReqs = [] ∧ u.dbx.doeBusy = [] ∧ u.dbx.update = s.dbx.update ∧ u.part = s.part)
    ∧ (∀ e rest, s.dbx.logHeld = e :: rest → s.power.drabexUp = true ∨ s.power.phase = .off →
      exec .logEntryWrite s = .next { s with dbx := { s.dbx with
        log := (if 262144 ≤ s.dbx.log.length then s.dbx.log.drop 2048 else s.dbx.log) ++ [e], logHeld := rest } })
    -- attestation
    ∧ (Claims.doeTakes s port → Claims.doeNames s object → s.power.drabexUp = true →
      (Claims.doeAsks object 12 1 → 1 ≤ fld req 0xA 2 → fld req 0xA 2 ≤ 1024 →
        let b := (certChain.drop (fld req 8 2)).take (fld req 0xA 2)
        Claims.replied (.getCerts port object) s (20 + port)
          (doeObject s (doeHead 0x81 0 req ++ leBytes 2 certChain.length ++ leBytes 2 b.length ++ padTo (roundUp b.length 4) b)))
      ∧ (Claims.doeAsks object 44 2 → fld req 0x28 4 < 128 →
        let b := measureBody s req
        Claims.replied (.measure port object) s (20 + port)
          (doeObject s (b ++ (leBytes 96 (Config.identitySign (sha384 (req ++ b))).toNat).reverse)))
      ∧ (doeLengthOk object = true → byteAt req 0 ≠ 1 →
        Claims.replied (.getCerts port object) s (20 + port) (doeObject s (doeHead 0xFF stVersion req))
        ∧ Claims.replied (.measure port object) s (20 + port) (doeObject s (doeHead 0xFF stVersion req))))
    ∧ (Claims.doeTakes s port → Claims.doeNames s object → s.power.drabexUp = false →
      let held (i : Instr) : Prop :=
        exec i s = .next { s with dbx := { s.dbx with heldReqs := s.dbx.heldReqs ++ [{ req := i }], doeBusy := s.dbx.doeBusy ++ [port] } }
      held (.getCerts port object) ∧ held (.measure port object))
    ∧ (¬ Claims.doeNames s object → exec (.getCerts port object) s = .next s ∧ exec (.measure port object) s = .next s)
    ∧ (∃ t, exec (.doeAbort port) s = .next t ∧ port ∉ t.dbx.doeBusy ∧ (∀ q ∈ t.dbx.heldReqs, doeOf q.req ≠ some port)
        ∧ (∀ q ∈ s.dbx.heldReqs, doeOf q.req ≠ some port → q ∈ t.dbx.heldReqs) ∧ t = { s with dbx := { s.dbx with heldReqs := t.dbx.heldReqs, doeBusy := t.dbx.doeBusy } })
    ∧ (Claims.doeTakes s port →
      Claims.replied (.doeDiscovery port index) s (20 + port) ([1#8, 0#8, 0#8, 0#8] ++ leBytes 4 3
        ++ (if index = 0#8 then [1#8, 0#8, 0#8, 1#8] else if index = 1#8 then leBytes 2 s.part.vendorId.toNat ++ [1#8, 0#8]
          else [0xFF#8, 0xFF#8, 0xFF#8, 0#8])))
    -- the out-of-band standards
    ∧ (Claims.oobTakes s ep →
      exec (.mctpControlMessage ep (.setEndpointId eid)) s = .next { s with dbx := { s.dbx with
        eids := tset 0 ep eid s.dbx.eids, responses := s.dbx.responses ++ [{ ep, bytes := [0#8, 0#8] ++ leBytes 1 eid ++ [0#8] }] } }
      ∧ Claims.replied (.mctpControlMessage ep .getEndpointId) s ep ([0#8] ++ leBytes 1 (tget 0 s.dbx.eids ep) ++ [0#8, 0#8])
      ∧ exec (.pldmDiscovery ep (.setTid tid)) s = .next { s with dbx := { s.dbx with
        tids := tset 0 ep tid.toNat s.dbx.tids, responses := s.dbx.responses ++ [{ ep, bytes := [0#8] }] } }
      ∧ Claims.replied (.pldmDiscovery ep .getTid) s ep ([0#8] ++ leBytes 1 (tget 0 s.dbx.tids ep))
      ∧ Claims.replied (.pldmDiscovery ep .getTypes) s ep ([0#8, 0x25#8] ++ zeros 7)
      ∧ (∀ v, sensor ≠ 0 → sensorOf s (sensor - 1) = some (.valid v) →
        ∃ t, exec (.pldmGetSensorReading ep (.reading sensor)) s = .next t ∧ Claims.readingAnswer s t ep 0#8 (leBytes 4 (unsgn 32 v)))
      ∧ (sensor ≠ 0 → sensorKnown (sensor - 1) = true → sensorOf s (sensor - 1) = some .unavailable →
        ∃ t, exec (.pldmGetSensorReading ep (.reading sensor)) s = .next t ∧ Claims.readingAnswer s t ep 2#8 (zeros 4))
      ∧ (sensor = 0 ∨ sensorKnown (sensor - 1) = false → Claims.replied (.pldmGetSensorReading ep (.reading sensor)) s ep [0x80#8])
      ∧ (s.dbx.update.isSome = true → Claims.replied (.pldmRequestUpdate ep manifest len ok) s ep [0x81#8])
      ∧ (s.dbx.update = none → len ≤ 24 * 2 ^ 20 → bundleCheck s (manifest.take manifestMax) ok = none →
        ∃ t u, exec (.pldmRequestUpdate ep manifest len ok) s = .next t ∧ t.dbx.update = some u ∧ u.step = 2 ∧ u.target = 1 - s.power.slot
          ∧ u.activate = false ∧ u.source = .pldm ep ∧ u.len = len
          ∧ t.dbx.responses = s.dbx.responses ++ [{ ep, bytes := zeros 4 }] ∧ t = { s with dbx := t.dbx })
      ∧ (s.dbx.update = none → slotBootable s (1 - s.power.slot) = true →
        exec (.pldmActivateFirmware ep) s = .next { s with dbx := { s.dbx with
          nextBoot := 1 - s.power.slot, responses := s.dbx.responses ++ [{ ep, bytes := [0#8] }] } }))
    -- JTAG
    ∧ (s.power.phase ≠ .off → s.power.extest = false →
      exec (.jtagInstruction .idcode) s = .next { s with power := { s.power with jtag := .idcode }, lastRead := .word 0x25120A17#32 }
      ∧ exec (.jtagInstruction .bypass) s = .next { s with power := { s.power with jtag := .bypass } }
      ∧ exec (.jtagInstruction (.samplePreload pins shifted)) s = .next { s with
        power := { s.power with jtag := .samplePreload pins shifted, scan := shifted }
        lastRead := .scan { pins with alertN := !alertAsserted s, pwrgd := pwrgd s, prsntN := false } }
      ∧ (perstAll s = false ∨ s.power.ready = true → exec (.jtagInstruction (.extest pins shifted)) s = .next s))
    ∧ (s.power.phase ≠ .off → s.power.extest = true ∨ (perstAll s = true ∧ s.power.ready = false) →
      exec (.jtagInstruction (.extest pins shifted)) s = .next { s with
        power := { s.power with jtag := .extest pins shifted, scan := shifted, extest := true }
        lastRead := .scan { pins with alertN := !alertAsserted s, pwrgd := pwrgd s, prsntN := false } })
    ∧ (s.power.extest = true → exec (.jtagInstruction .idcode) s = .next s ∧ exec (.jtagInstruction .bypass) s = .next s
      ∧ exec (.jtagInstruction (.samplePreload pins shifted)) s = .next s)

/-! ### The Weave -/

/-- R144, with the map of R143: in each stripe the map from granules to logical channels is a bijection, so a stripe places one
granule on every channel, and whole stripes as many granules on each; n granules place at most n/512, rounded up, and one
more on any channel; and 16 granules that follow one another in a stripe fall on 16 stacks. -/
def Obligations.WeaveIsBijection : Prop :=
  ∀ (rid stripe ch : Nat), ch < 512 →
    let at_ (g : Nat) : Nat := weaveChannel rid (g * 1024)
    let on (g n : Nat) : Nat := ((List.range n).filter (fun k => at_ (g + k) = ch)).length
    (∀ j, j < 512 → at_ (stripe * 512 + j) < 512)
    ∧ (∃ j, j < 512 ∧ at_ (stripe * 512 + j) = ch)
    ∧ (∀ i j, i < 512 → j < 512 → at_ (stripe * 512 + i) = at_ (stripe * 512 + j) → i = j)
    ∧ (∀ n, on (stripe * 512) (512 * n) = n)
    ∧ (∀ g n, on g n ≤ (n + 511) / 512 + 1)
    ∧ (∀ i j, i < j → j < i + 16 → j < 512 → at_ (stripe * 512 + i) / 32 ≠ at_ (stripe * 512 + j) / 32)
    ∧ (∀ off, weaveChannel rid off = at_ (off / 1024))
end

