-- ==== Sys2Proof/Laws/Table.lean ====
section
/-! SUPPORT. Laws of sparse tables and byte memories: reading after writing, and that every operation keeps the
canonical form. -/

namespace Sys2Proof.Machine

open Sys2Proof

set_option Elab.async false

section
variable {α : Type} [DecidableEq α] {d : α}

theorem twfFrom_mono {lo lo' : Nat} (h : lo' ≤ lo) {t : Tbl α} (w : twfFrom d lo t = true) : twfFrom d lo' t = true := by
  cases t with
  | nil => rfl
  | cons e t =>
    simp only [twfFrom, Bool.and_eq_true, decide_eq_true_eq] at w ⊢
    exact ⟨⟨by omega, w.1.2⟩, w.2⟩

theorem twfFrom_filter (p : Nat × α → Bool) : ∀ {lo : Nat} {t : Tbl α}, twfFrom d lo t = true → twfFrom d lo (t.filter p) = true
  | _, [], _ => rfl
  | lo, (k, v) :: t, w => by
    simp only [twfFrom, Bool.and_eq_true, decide_eq_true_eq] at w
    simp only [List.filter]
    split
    · simp only [twfFrom, Bool.and_eq_true, decide_eq_true_eq]
      exact ⟨w.1, twfFrom_filter p w.2⟩
    · exact twfFrom_mono (by omega) (twfFrom_filter p w.2)

/-- Removing entries keeps the canonical form. -/
theorem twf_filter (p : Nat × α → Bool) {t : Tbl α} (h : twf d t = true) : twf d (t.filter p) = true := twfFrom_filter p h

theorem twfFrom_tset {lo i : Nat} (v : α) (h : lo ≤ i) : ∀ {t : Tbl α}, twfFrom d lo t = true → twfFrom d lo (tset d i v t) = true
  | [], _ => by
    simp only [tset]; split
    · rfl
    · simp_all [twfFrom]
  | (k, w) :: t, hw => by
    have hw' := hw
    simp only [twfFrom, Bool.and_eq_true, decide_eq_true_eq] at hw
    simp only [tset]
    split
    · split
      · exact twfFrom_filter _ hw'
      · simp only [twfFrom, Bool.and_eq_true, decide_eq_true_eq]
        exact ⟨⟨h, by assumption⟩, ⟨by omega, hw.1.2⟩, hw.2⟩
    · split
      · split
        · exact twfFrom_filter _ (twfFrom_mono (by omega) hw.2)
        · simp only [twfFrom, Bool.and_eq_true, decide_eq_true_eq]
          exact ⟨⟨h, by assumption⟩, by subst i; exact hw.2⟩
      · simp only [twfFrom, Bool.and_eq_true, decide_eq_true_eq]
        exact ⟨hw.1, twfFrom_tset v (by omega) hw.2⟩

/-- Writing an entry keeps the canonical form. -/
theorem twf_tset (i : Nat) (v : α) {t : Tbl α} (h : twf d t = true) : twf d (tset d i v t) = true :=
  twfFrom_tset v (Nat.zero_le i) h

omit [DecidableEq α] in
theorem tget_tdel (d : α) (i j : Nat) : ∀ (t : Tbl α), tget d (tdel i t) j = if j = i then d else tget d t j
  | [] => by simp [tdel, tget]
  | (k, w) :: t => by
    have ih := tget_tdel d i j t
    unfold tdel at ih ⊢
    by_cases hk : k = i
    · subst hk
      simp only [List.filter, ne_eq, not_true_eq_false, decide_false, tget, ih]
      by_cases hj : j = k
      · simp [hj]
      · simp [hj, Ne.symm hj]
    · simp only [List.filter, ne_eq, hk, not_false_eq_true, decide_true, tget, ih]
      by_cases hj : j = i
      · subst hj; simp [hk]
      · simp [hj]

/-- The written entry reads back, and every other entry stays. -/
theorem tget_tset (i j : Nat) (v : α) : ∀ (t : Tbl α), tget d (tset d i v t) j = if j = i then v else tget d t j
  | [] => by
    simp only [tset]; split
    · rename_i h; subst h; simp [tget]
    · simp [tget, eq_comm]
  | (k, w) :: t => by
    simp only [tset]
    split
    · split
      · rename_i h; subst h; exact tget_tdel v i j _
      · simp only [tget]; by_cases hj : j = i
        · simp [hj]
        · simp [hj, Ne.symm hj]
    · split
      · rename_i he; subst he
        split
        · rename_i h; subst h
          rw [tget_tdel v i j t]
          by_cases hj : j = i
          · simp [hj]
          · simp [hj, tget, Ne.symm hj]
        · simp only [tget]; by_cases hj : j = i
          · simp [hj]
          · simp [hj, Ne.symm hj]
      · rename_i h1 h2
        simp only [tget, tget_tset i j v t]
        by_cases hj : j = i
        · subst hj; simp [show k ≠ j from fun e => h2 e.symm]
        · simp [hj]

theorem tget_tset_same (i : Nat) (v : α) (t : Tbl α) : tget d (tset d i v t) i = v := by simp [tget_tset]

theorem tget_tset_other {i j : Nat} (v : α) (h : j ≠ i) (t : Tbl α) : tget d (tset d i v t) j = tget d t j := by
  simp [tget_tset, h]

end

theorem wf_mset {m : Mem} (a : Nat) (b : Byte) (h : Memory.wf m = true) : Memory.wf (mset m a b) = true := twf_tset a b h

theorem wf_mwrite : ∀ {m : Mem} (a : Nat) (b : Bytes), Memory.wf m = true → Memory.wf (mwrite m a b) = true
  | _, _, [], h => h
  | _, a, x :: bs, h => wf_mwrite (a + 1) bs (wf_mset a x h)

theorem wf_mstores : ∀ {m : Mem} (l : List (Nat × Byte)), Memory.wf m = true → Memory.wf (mstores m l) = true
  | _, [], h => h
  | _, (a, b) :: t, h => wf_mstores t (wf_mset a b h)

theorem wf_filter {m : Mem} (p : Nat × Byte → Bool) (h : Memory.wf m = true) : Memory.wf (m.filter p) = true := twf_filter p h

theorem wf_mclear {m : Mem} (a n : Nat) (h : Memory.wf m = true) : Memory.wf (mclear m a n) = true := wf_filter _ h

theorem wf_nil : Memory.wf [] = true := rfl

/-- A byte reads as last written, every other byte as before. -/
theorem mget_mset (m : Mem) (a x : Nat) (b : Byte) : mget (mset m a b) x = if x = a then b else mget m x := tget_tset a x b m

/-- A write changes no byte outside its range. -/
theorem mget_mwrite_other : ∀ {m : Mem} (a : Nat) (bs : Bytes) {x : Nat}, (x < a ∨ a + bs.length ≤ x) → mget (mwrite m a bs) x = mget m x
  | _, _, [], _, _ => rfl
  | m, a, b :: bs, x, h => by
    simp only [List.length_cons] at h
    rw [mwrite, mget_mwrite_other (a + 1) bs (by omega)]
    exact tget_tset_other b (by omega) m

/-- A write is read back. -/
theorem mread_mwrite : ∀ (m : Mem) (a : Nat) (bs : Bytes), mread (mwrite m a bs) a bs.length = bs
  | _, _, [] => rfl
  | m, a, b :: bs => by
    simp only [List.length_cons, mread, mwrite]
    congr 1
    · rw [mget_mwrite_other (a + 1) bs (by omega)]
      simp [mget_mset]
    · exact mread_mwrite _ (a + 1) bs

/-- Bytes outside a written range read as before. -/
theorem mread_mwrite_other {m : Mem} (a : Nat) (bs : Bytes) : ∀ (x n : Nat), (x + n ≤ a ∨ a + bs.length ≤ x) →
    mread (mwrite m a bs) x n = mread m x n
  | _, 0, _ => rfl
  | x, n + 1, h => by
    simp only [mread]
    rw [mget_mwrite_other a bs (by omega), mread_mwrite_other a bs (x + 1) n (by omega)]

end Sys2Proof.Machine
end

