-- ==== Sys2Proof/Laws/State.lean ====
section
/-! SUPPORT. What each update of the state leaves alone, field by field, and what reading after an update gives. -/

namespace Sys2Proof.Machine

open Sys2Proof

@[simp] theorem setFn_fields (s : State) (f : Nat) (r : FnRegs) : (setFn s f r).pending = s.pending ∧ (setFn s f
    r).free = s.free ∧ (setFn s f r).host = s.host ∧ (setFn s f r).lastRead = s.lastRead ∧ (setFn s f r).part = s.part ∧
    (setFn s f r).power = s.power ∧ (setFn s f r).ports = s.ports ∧ (setFn s f r).fabOwner = s.fabOwner ∧ (setFn s f
    r).fabOwnerPart = s.fabOwnerPart ∧ (setFn s f r).parts = s.parts ∧ (setFn s f r).q = s.q ∧ (setFn s f r).cores =
    s.cores ∧ (setFn s f r).dram = s.dram ∧ (setFn s f r).tr = s.tr ∧ (setFn s f r).st = s.st ∧ (setFn s f r).pl = s.pl
    ∧ (setFn s f r).fab = s.fab ∧ (setFn s f r).links = s.links ∧ (setFn s f r).kt = s.kt ∧ (setFn s f r).dbx = s.dbx :=
  ⟨rfl, rfl, rfl, rfl, rfl, rfl, rfl, rfl, rfl, rfl, rfl, rfl, rfl, rfl, rfl, rfl, rfl, rfl, rfl, rfl⟩

@[simp] theorem updFn_fields (s : State) (f : Nat) (g : FnRegs → FnRegs) : (updFn s f g).pending = s.pending ∧
    (updFn s f g).free = s.free ∧ (updFn s f g).host = s.host ∧ (updFn s f g).lastRead = s.lastRead ∧ (updFn s f g).part
    = s.part ∧ (updFn s f g).power = s.power ∧ (updFn s f g).ports = s.ports ∧ (updFn s f g).fabOwner = s.fabOwner ∧
    (updFn s f g).fabOwnerPart = s.fabOwnerPart ∧ (updFn s f g).parts = s.parts ∧ (updFn s f g).q = s.q ∧ (updFn s f
    g).cores = s.cores ∧ (updFn s f g).dram = s.dram ∧ (updFn s f g).tr = s.tr ∧ (updFn s f g).st = s.st ∧ (updFn s f
    g).pl = s.pl ∧ (updFn s f g).fab = s.fab ∧ (updFn s f g).links = s.links ∧ (updFn s f g).kt = s.kt ∧ (updFn s f
    g).dbx = s.dbx :=
  ⟨rfl, rfl, rfl, rfl, rfl, rfl, rfl, rfl, rfl, rfl, rfl, rfl, rfl, rfl, rfl, rfl, rfl, rfl, rfl, rfl⟩

@[simp] theorem updPort_fields (s : State) (p : Nat) (g : PortRegs → PortRegs) : (updPort s p g).pending = s.pending
    ∧ (updPort s p g).free = s.free ∧ (updPort s p g).host = s.host ∧ (updPort s p g).lastRead = s.lastRead ∧ (updPort s
    p g).part = s.part ∧ (updPort s p g).power = s.power ∧ (updPort s p g).fns = s.fns ∧ (updPort s p g).fabOwner =
    s.fabOwner ∧ (updPort s p g).fabOwnerPart = s.fabOwnerPart ∧ (updPort s p g).parts = s.parts ∧ (updPort s p g).q =
    s.q ∧ (updPort s p g).cores = s.cores ∧ (updPort s p g).dram = s.dram ∧ (updPort s p g).tr = s.tr ∧ (updPort s p
    g).st = s.st ∧ (updPort s p g).pl = s.pl ∧ (updPort s p g).fab = s.fab ∧ (updPort s p g).links = s.links ∧ (updPort
    s p g).kt = s.kt ∧ (updPort s p g).dbx = s.dbx :=
  ⟨rfl, rfl, rfl, rfl, rfl, rfl, rfl, rfl, rfl, rfl, rfl, rfl, rfl, rfl, rfl, rfl, rfl, rfl, rfl, rfl⟩

@[simp] theorem setPart_fields (s : State) (p : Nat) (r : PartRegs) : (setPart s p r).pending = s.pending ∧ (setPart
    s p r).free = s.free ∧ (setPart s p r).host = s.host ∧ (setPart s p r).lastRead = s.lastRead ∧ (setPart s p r).part
    = s.part ∧ (setPart s p r).power = s.power ∧ (setPart s p r).fns = s.fns ∧ (setPart s p r).ports = s.ports ∧
    (setPart s p r).fabOwner = s.fabOwner ∧ (setPart s p r).fabOwnerPart = s.fabOwnerPart ∧ (setPart s p r).q = s.q ∧
    (setPart s p r).cores = s.cores ∧ (setPart s p r).dram = s.dram ∧ (setPart s p r).tr = s.tr ∧ (setPart s p r).st =
    s.st ∧ (setPart s p r).pl = s.pl ∧ (setPart s p r).fab = s.fab ∧ (setPart s p r).links = s.links ∧ (setPart s p
    r).kt = s.kt ∧ (setPart s p r).dbx = s.dbx :=
  ⟨rfl, rfl, rfl, rfl, rfl, rfl, rfl, rfl, rfl, rfl, rfl, rfl, rfl, rfl, rfl, rfl, rfl, rfl, rfl, rfl⟩

@[simp] theorem updPart_fields (s : State) (p : Nat) (g : PartRegs → PartRegs) : (updPart s p g).pending = s.pending
    ∧ (updPart s p g).free = s.free ∧ (updPart s p g).host = s.host ∧ (updPart s p g).lastRead = s.lastRead ∧ (updPart s
    p g).part = s.part ∧ (updPart s p g).power = s.power ∧ (updPart s p g).fns = s.fns ∧ (updPart s p g).ports = s.ports
    ∧ (updPart s p g).fabOwner = s.fabOwner ∧ (updPart s p g).fabOwnerPart = s.fabOwnerPart ∧ (updPart s p g).q = s.q ∧
    (updPart s p g).cores = s.cores ∧ (updPart s p g).dram = s.dram ∧ (updPart s p g).tr = s.tr ∧ (updPart s p g).st =
    s.st ∧ (updPart s p g).pl = s.pl ∧ (updPart s p g).fab = s.fab ∧ (updPart s p g).links = s.links ∧ (updPart s p
    g).kt = s.kt ∧ (updPart s p g).dbx = s.dbx :=
  ⟨rfl, rfl, rfl, rfl, rfl, rfl, rfl, rfl, rfl, rfl, rfl, rfl, rfl, rfl, rfl, rfl, rfl, rfl, rfl, rfl⟩

@[simp] theorem setRing_fields (s : State) (r : Nat) (x : Ring) : (setRing s r x).pending = s.pending ∧ (setRing s r
    x).free = s.free ∧ (setRing s r x).host = s.host ∧ (setRing s r x).lastRead = s.lastRead ∧ (setRing s r x).part =
    s.part ∧ (setRing s r x).power = s.power ∧ (setRing s r x).fns = s.fns ∧ (setRing s r x).ports = s.ports ∧ (setRing
    s r x).fabOwner = s.fabOwner ∧ (setRing s r x).fabOwnerPart = s.fabOwnerPart ∧ (setRing s r x).parts = s.parts ∧
    (setRing s r x).cores = s.cores ∧ (setRing s r x).dram = s.dram ∧ (setRing s r x).tr = s.tr ∧ (setRing s r x).st =
    s.st ∧ (setRing s r x).pl = s.pl ∧ (setRing s r x).fab = s.fab ∧ (setRing s r x).links = s.links ∧ (setRing s r
    x).kt = s.kt ∧ (setRing s r x).dbx = s.dbx :=
  ⟨rfl, rfl, rfl, rfl, rfl, rfl, rfl, rfl, rfl, rfl, rfl, rfl, rfl, rfl, rfl, rfl, rfl, rfl, rfl, rfl⟩

@[simp] theorem updRing_fields (s : State) (r : Nat) (g : Ring → Ring) : (updRing s r g).pending = s.pending ∧
    (updRing s r g).free = s.free ∧ (updRing s r g).host = s.host ∧ (updRing s r g).lastRead = s.lastRead ∧ (updRing s r
    g).part = s.part ∧ (updRing s r g).power = s.power ∧ (updRing s r g).fns = s.fns ∧ (updRing s r g).ports = s.ports ∧
    (updRing s r g).fabOwner = s.fabOwner ∧ (updRing s r g).fabOwnerPart = s.fabOwnerPart ∧ (updRing s r g).parts =
    s.parts ∧ (updRing s r g).cores = s.cores ∧ (updRing s r g).dram = s.dram ∧ (updRing s r g).tr = s.tr ∧ (updRing s r
    g).st = s.st ∧ (updRing s r g).pl = s.pl ∧ (updRing s r g).fab = s.fab ∧ (updRing s r g).links = s.links ∧ (updRing
    s r g).kt = s.kt ∧ (updRing s r g).dbx = s.dbx :=
  ⟨rfl, rfl, rfl, rfl, rfl, rfl, rfl, rfl, rfl, rfl, rfl, rfl, rfl, rfl, rfl, rfl, rfl, rfl, rfl, rfl⟩

@[simp] theorem setORing_fields (s : State) (o : Nat) (x : ORing) : (setORing s o x).pending = s.pending ∧ (setORing
    s o x).free = s.free ∧ (setORing s o x).host = s.host ∧ (setORing s o x).lastRead = s.lastRead ∧ (setORing s o
    x).part = s.part ∧ (setORing s o x).power = s.power ∧ (setORing s o x).fns = s.fns ∧ (setORing s o x).ports =
    s.ports ∧ (setORing s o x).fabOwner = s.fabOwner ∧ (setORing s o x).fabOwnerPart = s.fabOwnerPart ∧ (setORing s o
    x).parts = s.parts ∧ (setORing s o x).cores = s.cores ∧ (setORing s o x).dram = s.dram ∧ (setORing s o x).tr = s.tr
    ∧ (setORing s o x).st = s.st ∧ (setORing s o x).pl = s.pl ∧ (setORing s o x).fab = s.fab ∧ (setORing s o x).links =
    s.links ∧ (setORing s o x).kt = s.kt ∧ (setORing s o x).dbx = s.dbx :=
  ⟨rfl, rfl, rfl, rfl, rfl, rfl, rfl, rfl, rfl, rfl, rfl, rfl, rfl, rfl, rfl, rfl, rfl, rfl, rfl, rfl⟩

@[simp] theorem updORing_fields (s : State) (o : Nat) (g : ORing → ORing) : (updORing s o g).pending = s.pending ∧
    (updORing s o g).free = s.free ∧ (updORing s o g).host = s.host ∧ (updORing s o g).lastRead = s.lastRead ∧ (updORing
    s o g).part = s.part ∧ (updORing s o g).power = s.power ∧ (updORing s o g).fns = s.fns ∧ (updORing s o g).ports =
    s.ports ∧ (updORing s o g).fabOwner = s.fabOwner ∧ (updORing s o g).fabOwnerPart = s.fabOwnerPart ∧ (updORing s o
    g).parts = s.parts ∧ (updORing s o g).cores = s.cores ∧ (updORing s o g).dram = s.dram ∧ (updORing s o g).tr = s.tr
    ∧ (updORing s o g).st = s.st ∧ (updORing s o g).pl = s.pl ∧ (updORing s o g).fab = s.fab ∧ (updORing s o g).links =
    s.links ∧ (updORing s o g).kt = s.kt ∧ (updORing s o g).dbx = s.dbx :=
  ⟨rfl, rfl, rfl, rfl, rfl, rfl, rfl, rfl, rfl, rfl, rfl, rfl, rfl, rfl, rfl, rfl, rfl, rfl, rfl, rfl⟩

@[simp] theorem setEvt_fields (s : State) (e : Nat) (x : EvtCounter) : (setEvt s e x).pending = s.pending ∧ (setEvt
    s e x).free = s.free ∧ (setEvt s e x).host = s.host ∧ (setEvt s e x).lastRead = s.lastRead ∧ (setEvt s e x).part =
    s.part ∧ (setEvt s e x).power = s.power ∧ (setEvt s e x).fns = s.fns ∧ (setEvt s e x).ports = s.ports ∧ (setEvt s e
    x).fabOwner = s.fabOwner ∧ (setEvt s e x).fabOwnerPart = s.fabOwnerPart ∧ (setEvt s e x).parts = s.parts ∧ (setEvt s
    e x).cores = s.cores ∧ (setEvt s e x).dram = s.dram ∧ (setEvt s e x).tr = s.tr ∧ (setEvt s e x).st = s.st ∧ (setEvt
    s e x).pl = s.pl ∧ (setEvt s e x).fab = s.fab ∧ (setEvt s e x).links = s.links ∧ (setEvt s e x).kt = s.kt ∧ (setEvt
    s e x).dbx = s.dbx :=
  ⟨rfl, rfl, rfl, rfl, rfl, rfl, rfl, rfl, rfl, rfl, rfl, rfl, rfl, rfl, rfl, rfl, rfl, rfl, rfl, rfl⟩

@[simp] theorem updWindow_fields (s : State) (l : Nat) (g : Window → Window) : (updWindow s l g).pending = s.pending
    ∧ (updWindow s l g).free = s.free ∧ (updWindow s l g).host = s.host ∧ (updWindow s l g).lastRead = s.lastRead ∧
    (updWindow s l g).part = s.part ∧ (updWindow s l g).power = s.power ∧ (updWindow s l g).fns = s.fns ∧ (updWindow s l
    g).ports = s.ports ∧ (updWindow s l g).fabOwner = s.fabOwner ∧ (updWindow s l g).fabOwnerPart = s.fabOwnerPart ∧
    (updWindow s l g).parts = s.parts ∧ (updWindow s l g).cores = s.cores ∧ (updWindow s l g).dram = s.dram ∧ (updWindow
    s l g).tr = s.tr ∧ (updWindow s l g).st = s.st ∧ (updWindow s l g).pl = s.pl ∧ (updWindow s l g).fab = s.fab ∧
    (updWindow s l g).links = s.links ∧ (updWindow s l g).kt = s.kt ∧ (updWindow s l g).dbx = s.dbx :=
  ⟨rfl, rfl, rfl, rfl, rfl, rfl, rfl, rfl, rfl, rfl, rfl, rfl, rfl, rfl, rfl, rfl, rfl, rfl, rfl, rfl⟩

@[simp] theorem updCore_fields (s : State) (l : Nat) (g : CoreRegs → CoreRegs) : (updCore s l g).pending = s.pending
    ∧ (updCore s l g).free = s.free ∧ (updCore s l g).host = s.host ∧ (updCore s l g).lastRead = s.lastRead ∧ (updCore s
    l g).part = s.part ∧ (updCore s l g).power = s.power ∧ (updCore s l g).fns = s.fns ∧ (updCore s l g).ports = s.ports
    ∧ (updCore s l g).fabOwner = s.fabOwner ∧ (updCore s l g).fabOwnerPart = s.fabOwnerPart ∧ (updCore s l g).parts =
    s.parts ∧ (updCore s l g).q = s.q ∧ (updCore s l g).dram = s.dram ∧ (updCore s l g).tr = s.tr ∧ (updCore s l g).st =
    s.st ∧ (updCore s l g).pl = s.pl ∧ (updCore s l g).fab = s.fab ∧ (updCore s l g).links = s.links ∧ (updCore s l
    g).kt = s.kt ∧ (updCore s l g).dbx = s.dbx :=
  ⟨rfl, rfl, rfl, rfl, rfl, rfl, rfl, rfl, rfl, rfl, rfl, rfl, rfl, rfl, rfl, rfl, rfl, rfl, rfl, rfl⟩

@[simp] theorem setRegion_fields (s : State) (rid : Nat) (x : Region) : (setRegion s rid x).pending = s.pending ∧
    (setRegion s rid x).free = s.free ∧ (setRegion s rid x).host = s.host ∧ (setRegion s rid x).lastRead = s.lastRead ∧
    (setRegion s rid x).part = s.part ∧ (setRegion s rid x).power = s.power ∧ (setRegion s rid x).fns = s.fns ∧
    (setRegion s rid x).ports = s.ports ∧ (setRegion s rid x).fabOwner = s.fabOwner ∧ (setRegion s rid x).fabOwnerPart =
    s.fabOwnerPart ∧ (setRegion s rid x).parts = s.parts ∧ (setRegion s rid x).q = s.q ∧ (setRegion s rid x).cores =
    s.cores ∧ (setRegion s rid x).tr = s.tr ∧ (setRegion s rid x).st = s.st ∧ (setRegion s rid x).pl = s.pl ∧ (setRegion
    s rid x).fab = s.fab ∧ (setRegion s rid x).links = s.links ∧ (setRegion s rid x).kt = s.kt ∧ (setRegion s rid x).dbx
    = s.dbx :=
  ⟨rfl, rfl, rfl, rfl, rfl, rfl, rfl, rfl, rfl, rfl, rfl, rfl, rfl, rfl, rfl, rfl, rfl, rfl, rfl, rfl⟩

@[simp] theorem setChannel_fields (s : State) (l : Nat) (c : Channel) : (setChannel s l c).pending = s.pending ∧
    (setChannel s l c).free = s.free ∧ (setChannel s l c).host = s.host ∧ (setChannel s l c).lastRead = s.lastRead ∧
    (setChannel s l c).part = s.part ∧ (setChannel s l c).power = s.power ∧ (setChannel s l c).fns = s.fns ∧ (setChannel
    s l c).ports = s.ports ∧ (setChannel s l c).fabOwner = s.fabOwner ∧ (setChannel s l c).fabOwnerPart = s.fabOwnerPart
    ∧ (setChannel s l c).parts = s.parts ∧ (setChannel s l c).q = s.q ∧ (setChannel s l c).cores = s.cores ∧ (setChannel
    s l c).tr = s.tr ∧ (setChannel s l c).st = s.st ∧ (setChannel s l c).pl = s.pl ∧ (setChannel s l c).fab = s.fab ∧
    (setChannel s l c).links = s.links ∧ (setChannel s l c).kt = s.kt ∧ (setChannel s l c).dbx = s.dbx :=
  ⟨rfl, rfl, rfl, rfl, rfl, rfl, rfl, rfl, rfl, rfl, rfl, rfl, rfl, rfl, rfl, rfl, rfl, rfl, rfl, rfl⟩

@[simp] theorem updChannel_fields (s : State) (l : Nat) (g : Channel → Channel) : (updChannel s l g).pending =
    s.pending ∧ (updChannel s l g).free = s.free ∧ (updChannel s l g).host = s.host ∧ (updChannel s l g).lastRead =
    s.lastRead ∧ (updChannel s l g).part = s.part ∧ (updChannel s l g).power = s.power ∧ (updChannel s l g).fns = s.fns
    ∧ (updChannel s l g).ports = s.ports ∧ (updChannel s l g).fabOwner = s.fabOwner ∧ (updChannel s l g).fabOwnerPart =
    s.fabOwnerPart ∧ (updChannel s l g).parts = s.parts ∧ (updChannel s l g).q = s.q ∧ (updChannel s l g).cores =
    s.cores ∧ (updChannel s l g).tr = s.tr ∧ (updChannel s l g).st = s.st ∧ (updChannel s l g).pl = s.pl ∧ (updChannel s
    l g).fab = s.fab ∧ (updChannel s l g).links = s.links ∧ (updChannel s l g).kt = s.kt ∧ (updChannel s l g).dbx =
    s.dbx :=
  ⟨rfl, rfl, rfl, rfl, rfl, rfl, rfl, rfl, rfl, rfl, rfl, rfl, rfl, rfl, rfl, rfl, rfl, rfl, rfl, rfl⟩

@[simp] theorem setVer_fields (s : State) (l : Nat) (v : VerState) : (setVer s l v).pending = s.pending ∧ (setVer s
    l v).free = s.free ∧ (setVer s l v).host = s.host ∧ (setVer s l v).lastRead = s.lastRead ∧ (setVer s l v).part =
    s.part ∧ (setVer s l v).power = s.power ∧ (setVer s l v).fns = s.fns ∧ (setVer s l v).ports = s.ports ∧ (setVer s l
    v).fabOwner = s.fabOwner ∧ (setVer s l v).fabOwnerPart = s.fabOwnerPart ∧ (setVer s l v).parts = s.parts ∧ (setVer s
    l v).q = s.q ∧ (setVer s l v).cores = s.cores ∧ (setVer s l v).dram = s.dram ∧ (setVer s l v).st = s.st ∧ (setVer s
    l v).pl = s.pl ∧ (setVer s l v).fab = s.fab ∧ (setVer s l v).links = s.links ∧ (setVer s l v).kt = s.kt ∧ (setVer s
    l v).dbx = s.dbx :=
  ⟨rfl, rfl, rfl, rfl, rfl, rfl, rfl, rfl, rfl, rfl, rfl, rfl, rfl, rfl, rfl, rfl, rfl, rfl, rfl, rfl⟩

@[simp] theorem setGov_fields (s : State) (l : Nat) (v : GovState) : (setGov s l v).pending = s.pending ∧ (setGov s
    l v).free = s.free ∧ (setGov s l v).host = s.host ∧ (setGov s l v).lastRead = s.lastRead ∧ (setGov s l v).part =
    s.part ∧ (setGov s l v).power = s.power ∧ (setGov s l v).fns = s.fns ∧ (setGov s l v).ports = s.ports ∧ (setGov s l
    v).fabOwner = s.fabOwner ∧ (setGov s l v).fabOwnerPart = s.fabOwnerPart ∧ (setGov s l v).parts = s.parts ∧ (setGov s
    l v).q = s.q ∧ (setGov s l v).cores = s.cores ∧ (setGov s l v).dram = s.dram ∧ (setGov s l v).st = s.st ∧ (setGov s
    l v).pl = s.pl ∧ (setGov s l v).fab = s.fab ∧ (setGov s l v).links = s.links ∧ (setGov s l v).kt = s.kt ∧ (setGov s
    l v).dbx = s.dbx :=
  ⟨rfl, rfl, rfl, rfl, rfl, rfl, rfl, rfl, rfl, rfl, rfl, rfl, rfl, rfl, rfl, rfl, rfl, rfl, rfl, rfl⟩

@[simp] theorem setStash_fields (s : State) (p e : Nat) (x : Option Stash) : (setStash s p e x).pending = s.pending
    ∧ (setStash s p e x).free = s.free ∧ (setStash s p e x).host = s.host ∧ (setStash s p e x).lastRead = s.lastRead ∧
    (setStash s p e x).part = s.part ∧ (setStash s p e x).power = s.power ∧ (setStash s p e x).fns = s.fns ∧ (setStash s
    p e x).ports = s.ports ∧ (setStash s p e x).fabOwner = s.fabOwner ∧ (setStash s p e x).fabOwnerPart = s.fabOwnerPart
    ∧ (setStash s p e x).parts = s.parts ∧ (setStash s p e x).q = s.q ∧ (setStash s p e x).cores = s.cores ∧ (setStash s
    p e x).dram = s.dram ∧ (setStash s p e x).st = s.st ∧ (setStash s p e x).pl = s.pl ∧ (setStash s p e x).fab = s.fab
    ∧ (setStash s p e x).links = s.links ∧ (setStash s p e x).kt = s.kt ∧ (setStash s p e x).dbx = s.dbx :=
  ⟨rfl, rfl, rfl, rfl, rfl, rfl, rfl, rfl, rfl, rfl, rfl, rfl, rfl, rfl, rfl, rfl, rfl, rfl, rfl, rfl⟩

@[simp] theorem setGroup_fields (s : State) (g : Nat) (x : Group) : (setGroup s g x).pending = s.pending ∧ (setGroup
    s g x).free = s.free ∧ (setGroup s g x).host = s.host ∧ (setGroup s g x).lastRead = s.lastRead ∧ (setGroup s g
    x).part = s.part ∧ (setGroup s g x).power = s.power ∧ (setGroup s g x).fns = s.fns ∧ (setGroup s g x).ports =
    s.ports ∧ (setGroup s g x).fabOwner = s.fabOwner ∧ (setGroup s g x).fabOwnerPart = s.fabOwnerPart ∧ (setGroup s g
    x).parts = s.parts ∧ (setGroup s g x).q = s.q ∧ (setGroup s g x).cores = s.cores ∧ (setGroup s g x).dram = s.dram ∧
    (setGroup s g x).tr = s.tr ∧ (setGroup s g x).st = s.st ∧ (setGroup s g x).fab = s.fab ∧ (setGroup s g x).links =
    s.links ∧ (setGroup s g x).kt = s.kt ∧ (setGroup s g x).dbx = s.dbx :=
  ⟨rfl, rfl, rfl, rfl, rfl, rfl, rfl, rfl, rfl, rfl, rfl, rfl, rfl, rfl, rfl, rfl, rfl, rfl, rfl, rfl⟩

@[simp] theorem setVote_fields (s : State) (p : Nat) (v : VoteState) : (setVote s p v).pending = s.pending ∧
    (setVote s p v).free = s.free ∧ (setVote s p v).host = s.host ∧ (setVote s p v).lastRead = s.lastRead ∧ (setVote s p
    v).part = s.part ∧ (setVote s p v).power = s.power ∧ (setVote s p v).fns = s.fns ∧ (setVote s p v).ports = s.ports ∧
    (setVote s p v).fabOwner = s.fabOwner ∧ (setVote s p v).fabOwnerPart = s.fabOwnerPart ∧ (setVote s p v).parts =
    s.parts ∧ (setVote s p v).q = s.q ∧ (setVote s p v).cores = s.cores ∧ (setVote s p v).dram = s.dram ∧ (setVote s p
    v).tr = s.tr ∧ (setVote s p v).pl = s.pl ∧ (setVote s p v).fab = s.fab ∧ (setVote s p v).links = s.links ∧ (setVote
    s p v).kt = s.kt ∧ (setVote s p v).dbx = s.dbx :=
  ⟨rfl, rfl, rfl, rfl, rfl, rfl, rfl, rfl, rfl, rfl, rfl, rfl, rfl, rfl, rfl, rfl, rfl, rfl, rfl, rfl⟩

@[simp] theorem updLaser_fields (s : State) (i : Nat) (g : Laser → Laser) : (updLaser s i g).pending = s.pending ∧
    (updLaser s i g).free = s.free ∧ (updLaser s i g).host = s.host ∧ (updLaser s i g).lastRead = s.lastRead ∧ (updLaser
    s i g).part = s.part ∧ (updLaser s i g).power = s.power ∧ (updLaser s i g).fns = s.fns ∧ (updLaser s i g).ports =
    s.ports ∧ (updLaser s i g).fabOwner = s.fabOwner ∧ (updLaser s i g).fabOwnerPart = s.fabOwnerPart ∧ (updLaser s i
    g).parts = s.parts ∧ (updLaser s i g).q = s.q ∧ (updLaser s i g).cores = s.cores ∧ (updLaser s i g).dram = s.dram ∧
    (updLaser s i g).tr = s.tr ∧ (updLaser s i g).st = s.st ∧ (updLaser s i g).pl = s.pl ∧ (updLaser s i g).fab = s.fab
    ∧ (updLaser s i g).kt = s.kt ∧ (updLaser s i g).dbx = s.dbx :=
  ⟨rfl, rfl, rfl, rfl, rfl, rfl, rfl, rfl, rfl, rfl, rfl, rfl, rfl, rfl, rfl, rfl, rfl, rfl, rfl, rfl⟩

@[simp] theorem updLink_fields (s : State) (p : Nat) (g : LinkPort → LinkPort) : (updLink s p g).pending = s.pending
    ∧ (updLink s p g).free = s.free ∧ (updLink s p g).host = s.host ∧ (updLink s p g).lastRead = s.lastRead ∧ (updLink s
    p g).part = s.part ∧ (updLink s p g).power = s.power ∧ (updLink s p g).fns = s.fns ∧ (updLink s p g).ports = s.ports
    ∧ (updLink s p g).fabOwner = s.fabOwner ∧ (updLink s p g).fabOwnerPart = s.fabOwnerPart ∧ (updLink s p g).parts =
    s.parts ∧ (updLink s p g).q = s.q ∧ (updLink s p g).cores = s.cores ∧ (updLink s p g).dram = s.dram ∧ (updLink s p
    g).tr = s.tr ∧ (updLink s p g).st = s.st ∧ (updLink s p g).pl = s.pl ∧ (updLink s p g).fab = s.fab ∧ (updLink s p
    g).kt = s.kt ∧ (updLink s p g).dbx = s.dbx :=
  ⟨rfl, rfl, rfl, rfl, rfl, rfl, rfl, rfl, rfl, rfl, rfl, rfl, rfl, rfl, rfl, rfl, rfl, rfl, rfl, rfl⟩

@[simp] theorem updLane_fields (s : State) (p w : Nat) (g : Lane → Lane) : (updLane s p w g).pending = s.pending ∧
    (updLane s p w g).free = s.free ∧ (updLane s p w g).host = s.host ∧ (updLane s p w g).lastRead = s.lastRead ∧
    (updLane s p w g).part = s.part ∧ (updLane s p w g).power = s.power ∧ (updLane s p w g).fns = s.fns ∧ (updLane s p w
    g).ports = s.ports ∧ (updLane s p w g).fabOwner = s.fabOwner ∧ (updLane s p w g).fabOwnerPart = s.fabOwnerPart ∧
    (updLane s p w g).parts = s.parts ∧ (updLane s p w g).q = s.q ∧ (updLane s p w g).cores = s.cores ∧ (updLane s p w
    g).dram = s.dram ∧ (updLane s p w g).tr = s.tr ∧ (updLane s p w g).st = s.st ∧ (updLane s p w g).pl = s.pl ∧
    (updLane s p w g).fab = s.fab ∧ (updLane s p w g).kt = s.kt ∧ (updLane s p w g).dbx = s.dbx :=
  ⟨rfl, rfl, rfl, rfl, rfl, rfl, rfl, rfl, rfl, rfl, rfl, rfl, rfl, rfl, rfl, rfl, rfl, rfl, rfl, rfl⟩

@[simp] theorem setSeg_fields (s : State) (g : SegId) (x : Seg) : (setSeg s g x).pending = s.pending ∧ (setSeg s g
    x).free = s.free ∧ (setSeg s g x).host = s.host ∧ (setSeg s g x).lastRead = s.lastRead ∧ (setSeg s g x).part =
    s.part ∧ (setSeg s g x).power = s.power ∧ (setSeg s g x).fns = s.fns ∧ (setSeg s g x).ports = s.ports ∧ (setSeg s g
    x).fabOwner = s.fabOwner ∧ (setSeg s g x).fabOwnerPart = s.fabOwnerPart ∧ (setSeg s g x).parts = s.parts ∧ (setSeg s
    g x).q = s.q ∧ (setSeg s g x).cores = s.cores ∧ (setSeg s g x).dram = s.dram ∧ (setSeg s g x).tr = s.tr ∧ (setSeg s
    g x).st = s.st ∧ (setSeg s g x).pl = s.pl ∧ (setSeg s g x).fab = s.fab ∧ (setSeg s g x).kt = s.kt ∧ (setSeg s g
    x).dbx = s.dbx :=
  ⟨rfl, rfl, rfl, rfl, rfl, rfl, rfl, rfl, rfl, rfl, rfl, rfl, rfl, rfl, rfl, rfl, rfl, rfl, rfl, rfl⟩

@[simp] theorem updSeg_fields (s : State) (g : SegId) (h : Seg → Seg) : (updSeg s g h).pending = s.pending ∧ (updSeg
    s g h).free = s.free ∧ (updSeg s g h).host = s.host ∧ (updSeg s g h).lastRead = s.lastRead ∧ (updSeg s g h).part =
    s.part ∧ (updSeg s g h).power = s.power ∧ (updSeg s g h).fns = s.fns ∧ (updSeg s g h).ports = s.ports ∧ (updSeg s g
    h).fabOwner = s.fabOwner ∧ (updSeg s g h).fabOwnerPart = s.fabOwnerPart ∧ (updSeg s g h).parts = s.parts ∧ (updSeg s
    g h).q = s.q ∧ (updSeg s g h).cores = s.cores ∧ (updSeg s g h).dram = s.dram ∧ (updSeg s g h).tr = s.tr ∧ (updSeg s
    g h).st = s.st ∧ (updSeg s g h).pl = s.pl ∧ (updSeg s g h).fab = s.fab ∧ (updSeg s g h).kt = s.kt ∧ (updSeg s g
    h).dbx = s.dbx :=
  ⟨rfl, rfl, rfl, rfl, rfl, rfl, rfl, rfl, rfl, rfl, rfl, rfl, rfl, rfl, rfl, rfl, rfl, rfl, rfl, rfl⟩

@[simp] theorem setLeaf_fields (s : State) (f off bits : Nat) : (setLeaf s f off bits).pending = s.pending ∧
    (setLeaf s f off bits).free = s.free ∧ (setLeaf s f off bits).host = s.host ∧ (setLeaf s f off bits).lastRead =
    s.lastRead ∧ (setLeaf s f off bits).part = s.part ∧ (setLeaf s f off bits).power = s.power ∧ (setLeaf s f off
    bits).ports = s.ports ∧ (setLeaf s f off bits).fabOwner = s.fabOwner ∧ (setLeaf s f off bits).fabOwnerPart =
    s.fabOwnerPart ∧ (setLeaf s f off bits).parts = s.parts ∧ (setLeaf s f off bits).q = s.q ∧ (setLeaf s f off
    bits).cores = s.cores ∧ (setLeaf s f off bits).dram = s.dram ∧ (setLeaf s f off bits).tr = s.tr ∧ (setLeaf s f off
    bits).st = s.st ∧ (setLeaf s f off bits).pl = s.pl ∧ (setLeaf s f off bits).fab = s.fab ∧ (setLeaf s f off
    bits).links = s.links ∧ (setLeaf s f off bits).kt = s.kt ∧ (setLeaf s f off bits).dbx = s.dbx :=
  ⟨rfl, rfl, rfl, rfl, rfl, rfl, rfl, rfl, rfl, rfl, rfl, rfl, rfl, rfl, rfl, rfl, rfl, rfl, rfl, rfl⟩

@[simp] theorem hostStores_fields (s : State) (h : HostIn) : (hostStores s h).pending = s.pending ∧ (hostStores s
    h).free = s.free ∧ (hostStores s h).lastRead = s.lastRead ∧ (hostStores s h).part = s.part ∧ (hostStores s h).power
    = s.power ∧ (hostStores s h).fns = s.fns ∧ (hostStores s h).ports = s.ports ∧ (hostStores s h).fabOwner = s.fabOwner
    ∧ (hostStores s h).fabOwnerPart = s.fabOwnerPart ∧ (hostStores s h).parts = s.parts ∧ (hostStores s h).q = s.q ∧
    (hostStores s h).cores = s.cores ∧ (hostStores s h).dram = s.dram ∧ (hostStores s h).tr = s.tr ∧ (hostStores s h).st
    = s.st ∧ (hostStores s h).pl = s.pl ∧ (hostStores s h).fab = s.fab ∧ (hostStores s h).links = s.links ∧ (hostStores
    s h).kt = s.kt ∧ (hostStores s h).dbx = s.dbx :=
  ⟨rfl, rfl, rfl, rfl, rfl, rfl, rfl, rfl, rfl, rfl, rfl, rfl, rfl, rfl, rfl, rfl, rfl, rfl, rfl, rfl⟩

@[simp] theorem hostWrite_fields (s : State) (p a : Nat) (b : Bytes) : (hostWrite s p a b).pending = s.pending ∧
    (hostWrite s p a b).free = s.free ∧ (hostWrite s p a b).lastRead = s.lastRead ∧ (hostWrite s p a b).part = s.part ∧
    (hostWrite s p a b).power = s.power ∧ (hostWrite s p a b).fns = s.fns ∧ (hostWrite s p a b).ports = s.ports ∧
    (hostWrite s p a b).fabOwner = s.fabOwner ∧ (hostWrite s p a b).fabOwnerPart = s.fabOwnerPart ∧ (hostWrite s p a
    b).parts = s.parts ∧ (hostWrite s p a b).q = s.q ∧ (hostWrite s p a b).cores = s.cores ∧ (hostWrite s p a b).dram =
    s.dram ∧ (hostWrite s p a b).tr = s.tr ∧ (hostWrite s p a b).st = s.st ∧ (hostWrite s p a b).pl = s.pl ∧ (hostWrite
    s p a b).fab = s.fab ∧ (hostWrite s p a b).links = s.links ∧ (hostWrite s p a b).kt = s.kt ∧ (hostWrite s p a b).dbx
    = s.dbx :=
  ⟨rfl, rfl, rfl, rfl, rfl, rfl, rfl, rfl, rfl, rfl, rfl, rfl, rfl, rfl, rfl, rfl, rfl, rfl, rfl, rfl⟩

@[simp] theorem drawFree_fields (s : State) (n : Nat) : (drawFree s n).pending = s.pending ∧ (drawFree s n).host =
    s.host ∧ (drawFree s n).lastRead = s.lastRead ∧ (drawFree s n).part = s.part ∧ (drawFree s n).power = s.power ∧
    (drawFree s n).fns = s.fns ∧ (drawFree s n).ports = s.ports ∧ (drawFree s n).fabOwner = s.fabOwner ∧ (drawFree s
    n).fabOwnerPart = s.fabOwnerPart ∧ (drawFree s n).parts = s.parts ∧ (drawFree s n).q = s.q ∧ (drawFree s n).cores =
    s.cores ∧ (drawFree s n).dram = s.dram ∧ (drawFree s n).tr = s.tr ∧ (drawFree s n).st = s.st ∧ (drawFree s n).pl =
    s.pl ∧ (drawFree s n).fab = s.fab ∧ (drawFree s n).links = s.links ∧ (drawFree s n).kt = s.kt ∧ (drawFree s n).dbx =
    s.dbx :=
  ⟨rfl, rfl, rfl, rfl, rfl, rfl, rfl, rfl, rfl, rfl, rfl, rfl, rfl, rfl, rfl, rfl, rfl, rfl, rfl, rfl⟩

@[simp] theorem removeOp_fields (s : State) (i : Nat) : (removeOp s i).pending = s.pending ∧ (removeOp s i).free =
    s.free ∧ (removeOp s i).host = s.host ∧ (removeOp s i).lastRead = s.lastRead ∧ (removeOp s i).part = s.part ∧
    (removeOp s i).power = s.power ∧ (removeOp s i).fns = s.fns ∧ (removeOp s i).ports = s.ports ∧ (removeOp s
    i).fabOwner = s.fabOwner ∧ (removeOp s i).fabOwnerPart = s.fabOwnerPart ∧ (removeOp s i).parts = s.parts ∧ (removeOp
    s i).cores = s.cores ∧ (removeOp s i).dram = s.dram ∧ (removeOp s i).tr = s.tr ∧ (removeOp s i).st = s.st ∧
    (removeOp s i).pl = s.pl ∧ (removeOp s i).fab = s.fab ∧ (removeOp s i).links = s.links ∧ (removeOp s i).kt = s.kt ∧
    (removeOp s i).dbx = s.dbx :=
  ⟨rfl, rfl, rfl, rfl, rfl, rfl, rfl, rfl, rfl, rfl, rfl, rfl, rfl, rfl, rfl, rfl, rfl, rfl, rfl, rfl⟩

@[simp] theorem updOp_fields (s : State) (i : Nat) (g : Op → Op) : (updOp s i g).pending = s.pending ∧ (updOp s i
    g).free = s.free ∧ (updOp s i g).host = s.host ∧ (updOp s i g).lastRead = s.lastRead ∧ (updOp s i g).part = s.part ∧
    (updOp s i g).power = s.power ∧ (updOp s i g).fns = s.fns ∧ (updOp s i g).ports = s.ports ∧ (updOp s i g).fabOwner =
    s.fabOwner ∧ (updOp s i g).fabOwnerPart = s.fabOwnerPart ∧ (updOp s i g).parts = s.parts ∧ (updOp s i g).cores =
    s.cores ∧ (updOp s i g).dram = s.dram ∧ (updOp s i g).tr = s.tr ∧ (updOp s i g).st = s.st ∧ (updOp s i g).pl = s.pl
    ∧ (updOp s i g).fab = s.fab ∧ (updOp s i g).links = s.links ∧ (updOp s i g).kt = s.kt ∧ (updOp s i g).dbx = s.dbx :=
  ⟨rfl, rfl, rfl, rfl, rfl, rfl, rfl, rfl, rfl, rfl, rfl, rfl, rfl, rfl, rfl, rfl, rfl, rfl, rfl, rfl⟩

@[simp] theorem dramUpsets_fields (s : State) (m : MemIn) : (dramUpsets s m).pending = s.pending ∧ (dramUpsets s
    m).free = s.free ∧ (dramUpsets s m).host = s.host ∧ (dramUpsets s m).lastRead = s.lastRead ∧ (dramUpsets s m).part =
    s.part ∧ (dramUpsets s m).power = s.power ∧ (dramUpsets s m).fns = s.fns ∧ (dramUpsets s m).ports = s.ports ∧
    (dramUpsets s m).fabOwner = s.fabOwner ∧ (dramUpsets s m).fabOwnerPart = s.fabOwnerPart ∧ (dramUpsets s m).parts =
    s.parts ∧ (dramUpsets s m).q = s.q ∧ (dramUpsets s m).cores = s.cores ∧ (dramUpsets s m).tr = s.tr ∧ (dramUpsets s
    m).st = s.st ∧ (dramUpsets s m).pl = s.pl ∧ (dramUpsets s m).fab = s.fab ∧ (dramUpsets s m).links = s.links ∧
    (dramUpsets s m).kt = s.kt ∧ (dramUpsets s m).dbx = s.dbx :=
  ⟨rfl, rfl, rfl, rfl, rfl, rfl, rfl, rfl, rfl, rfl, rfl, rfl, rfl, rfl, rfl, rfl, rfl, rfl, rfl, rfl⟩

@[simp] theorem updKt_fields (s : State) (g : Kettle → Kettle) : (updKt s g).pending = s.pending ∧ (updKt s g).free
    = s.free ∧ (updKt s g).host = s.host ∧ (updKt s g).lastRead = s.lastRead ∧ (updKt s g).part = s.part ∧ (updKt s
    g).power = s.power ∧ (updKt s g).fns = s.fns ∧ (updKt s g).ports = s.ports ∧ (updKt s g).fabOwner = s.fabOwner ∧
    (updKt s g).fabOwnerPart = s.fabOwnerPart ∧ (updKt s g).parts = s.parts ∧ (updKt s g).q = s.q ∧ (updKt s g).cores =
    s.cores ∧ (updKt s g).dram = s.dram ∧ (updKt s g).tr = s.tr ∧ (updKt s g).st = s.st ∧ (updKt s g).pl = s.pl ∧ (updKt
    s g).fab = s.fab ∧ (updKt s g).links = s.links ∧ (updKt s g).dbx = s.dbx :=
  ⟨rfl, rfl, rfl, rfl, rfl, rfl, rfl, rfl, rfl, rfl, rfl, rfl, rfl, rfl, rfl, rfl, rfl, rfl, rfl, rfl⟩

@[simp] theorem setSlot_fields (s : State) (i : Nat) (x : Slot) : (setSlot s i x).pending = s.pending ∧ (setSlot s i
    x).free = s.free ∧ (setSlot s i x).host = s.host ∧ (setSlot s i x).lastRead = s.lastRead ∧ (setSlot s i x).part =
    s.part ∧ (setSlot s i x).power = s.power ∧ (setSlot s i x).fns = s.fns ∧ (setSlot s i x).ports = s.ports ∧ (setSlot
    s i x).fabOwner = s.fabOwner ∧ (setSlot s i x).fabOwnerPart = s.fabOwnerPart ∧ (setSlot s i x).parts = s.parts ∧
    (setSlot s i x).q = s.q ∧ (setSlot s i x).cores = s.cores ∧ (setSlot s i x).dram = s.dram ∧ (setSlot s i x).tr =
    s.tr ∧ (setSlot s i x).st = s.st ∧ (setSlot s i x).pl = s.pl ∧ (setSlot s i x).fab = s.fab ∧ (setSlot s i x).links =
    s.links ∧ (setSlot s i x).kt = s.kt :=
  ⟨rfl, rfl, rfl, rfl, rfl, rfl, rfl, rfl, rfl, rfl, rfl, rfl, rfl, rfl, rfl, rfl, rfl, rfl, rfl, rfl⟩

@[simp] theorem holdReq_fields (s : State) (i : Instr) : (holdReq s i).pending = s.pending ∧ (holdReq s i).free =
    s.free ∧ (holdReq s i).host = s.host ∧ (holdReq s i).lastRead = s.lastRead ∧ (holdReq s i).part = s.part ∧ (holdReq
    s i).power = s.power ∧ (holdReq s i).fns = s.fns ∧ (holdReq s i).ports = s.ports ∧ (holdReq s i).fabOwner =
    s.fabOwner ∧ (holdReq s i).fabOwnerPart = s.fabOwnerPart ∧ (holdReq s i).parts = s.parts ∧ (holdReq s i).q = s.q ∧
    (holdReq s i).cores = s.cores ∧ (holdReq s i).dram = s.dram ∧ (holdReq s i).tr = s.tr ∧ (holdReq s i).st = s.st ∧
    (holdReq s i).pl = s.pl ∧ (holdReq s i).fab = s.fab ∧ (holdReq s i).links = s.links ∧ (holdReq s i).kt = s.kt :=
  ⟨rfl, rfl, rfl, rfl, rfl, rfl, rfl, rfl, rfl, rfl, rfl, rfl, rfl, rfl, rfl, rfl, rfl, rfl, rfl, rfl⟩

@[simp] theorem sendOut_fields (s : State) (ep : Nat) (b : Bytes) : (sendOut s ep b).pending = s.pending ∧ (sendOut
    s ep b).free = s.free ∧ (sendOut s ep b).host = s.host ∧ (sendOut s ep b).lastRead = s.lastRead ∧ (sendOut s ep
    b).part = s.part ∧ (sendOut s ep b).power = s.power ∧ (sendOut s ep b).fns = s.fns ∧ (sendOut s ep b).ports =
    s.ports ∧ (sendOut s ep b).fabOwner = s.fabOwner ∧ (sendOut s ep b).fabOwnerPart = s.fabOwnerPart ∧ (sendOut s ep
    b).parts = s.parts ∧ (sendOut s ep b).q = s.q ∧ (sendOut s ep b).cores = s.cores ∧ (sendOut s ep b).dram = s.dram ∧
    (sendOut s ep b).tr = s.tr ∧ (sendOut s ep b).st = s.st ∧ (sendOut s ep b).pl = s.pl ∧ (sendOut s ep b).fab = s.fab
    ∧ (sendOut s ep b).links = s.links ∧ (sendOut s ep b).kt = s.kt :=
  ⟨rfl, rfl, rfl, rfl, rfl, rfl, rfl, rfl, rfl, rfl, rfl, rfl, rfl, rfl, rfl, rfl, rfl, rfl, rfl, rfl⟩

@[simp] theorem setRing_q (s : State) (r : Nat) (x : Ring) : (setRing s r x).q.orings = s.q.orings ∧ (setRing s r
    x).q.evts = s.q.evts ∧ (setRing s r x).q.ops = s.q.ops ∧ (setRing s r x).q.opSeq = s.q.opSeq ∧ (setRing s r
    x).q.windows = s.q.windows :=
  ⟨rfl, rfl, rfl, rfl, rfl⟩

@[simp] theorem updRing_q (s : State) (r : Nat) (g : Ring → Ring) : (updRing s r g).q.orings = s.q.orings ∧ (updRing
    s r g).q.evts = s.q.evts ∧ (updRing s r g).q.ops = s.q.ops ∧ (updRing s r g).q.opSeq = s.q.opSeq ∧ (updRing s r
    g).q.windows = s.q.windows :=
  ⟨rfl, rfl, rfl, rfl, rfl⟩

@[simp] theorem setORing_q (s : State) (o : Nat) (x : ORing) : (setORing s o x).q.rings = s.q.rings ∧ (setORing s o
    x).q.evts = s.q.evts ∧ (setORing s o x).q.ops = s.q.ops ∧ (setORing s o x).q.opSeq = s.q.opSeq ∧ (setORing s o
    x).q.windows = s.q.windows :=
  ⟨rfl, rfl, rfl, rfl, rfl⟩

@[simp] theorem updORing_q (s : State) (o : Nat) (g : ORing → ORing) : (updORing s o g).q.rings = s.q.rings ∧
    (updORing s o g).q.evts = s.q.evts ∧ (updORing s o g).q.ops = s.q.ops ∧ (updORing s o g).q.opSeq = s.q.opSeq ∧
    (updORing s o g).q.windows = s.q.windows :=
  ⟨rfl, rfl, rfl, rfl, rfl⟩

@[simp] theorem setEvt_q (s : State) (e : Nat) (x : EvtCounter) : (setEvt s e x).q.rings = s.q.rings ∧ (setEvt s e
    x).q.orings = s.q.orings ∧ (setEvt s e x).q.ops = s.q.ops ∧ (setEvt s e x).q.opSeq = s.q.opSeq ∧ (setEvt s e
    x).q.windows = s.q.windows :=
  ⟨rfl, rfl, rfl, rfl, rfl⟩

@[simp] theorem updWindow_q (s : State) (l : Nat) (g : Window → Window) : (updWindow s l g).q.rings = s.q.rings ∧
    (updWindow s l g).q.orings = s.q.orings ∧ (updWindow s l g).q.evts = s.q.evts ∧ (updWindow s l g).q.ops = s.q.ops ∧
    (updWindow s l g).q.opSeq = s.q.opSeq :=
  ⟨rfl, rfl, rfl, rfl, rfl⟩

@[simp] theorem removeOp_q (s : State) (i : Nat) : (removeOp s i).q.rings = s.q.rings ∧ (removeOp s i).q.orings =
    s.q.orings ∧ (removeOp s i).q.evts = s.q.evts ∧ (removeOp s i).q.opSeq = s.q.opSeq ∧ (removeOp s i).q.windows =
    s.q.windows :=
  ⟨rfl, rfl, rfl, rfl, rfl⟩

@[simp] theorem updOp_q (s : State) (i : Nat) (g : Op → Op) : (updOp s i g).q.rings = s.q.rings ∧ (updOp s i
    g).q.orings = s.q.orings ∧ (updOp s i g).q.evts = s.q.evts ∧ (updOp s i g).q.opSeq = s.q.opSeq ∧ (updOp s i
    g).q.windows = s.q.windows :=
  ⟨rfl, rfl, rfl, rfl, rfl⟩

@[simp] theorem getFn_setFn (s : State) (f f' : Nat) (r : FnRegs) : getFn (setFn s f r) f' = if f' = f then r else getFn s f' :=
  tget_tset _ _ _ _

@[simp] theorem getPart_setPart (s : State) (p p' : Nat) (r : PartRegs) : getPart (setPart s p r) p' = if p' = p then r else getPart s p' :=
  tget_tset _ _ _ _

@[simp] theorem getRing_setRing (s : State) (r r' : Nat) (x : Ring) : getRing (setRing s r x) r' = if r' = r then x else getRing s r' :=
  tget_tset _ _ _ _

@[simp] theorem getORing_setORing (s : State) (o o' : Nat) (x : ORing) : getORing (setORing s o x) o' = if o' = o then x else getORing s o' :=
  tget_tset _ _ _ _

@[simp] theorem getEvt_setEvt (s : State) (e e' : Nat) (x : EvtCounter) : getEvt (setEvt s e x) e' = if e' = e then x else getEvt s e' :=
  tget_tset _ _ _ _

@[simp] theorem getRegion_setRegion (s : State) (r r' : Nat) (x : Region) : getRegion (setRegion s r x) r' = if r' = r then x else getRegion s r' :=
  tget_tset _ _ _ _

@[simp] theorem getVer_setVer (s : State) (l l' : Nat) (x : VerState) : getVer (setVer s l x) l' = if l' = l then x else getVer s l' :=
  tget_tset _ _ _ _

@[simp] theorem getGov_setGov (s : State) (l l' : Nat) (x : GovState) : getGov (setGov s l x) l' = if l' = l then x else getGov s l' :=
  tget_tset _ _ _ _

@[simp] theorem getGroup_setGroup (s : State) (l l' : Nat) (x : Group) : getGroup (setGroup s l x) l' = if l' = l then x else getGroup s l' :=
  tget_tset _ _ _ _

@[simp] theorem getVote_setVote (s : State) (l l' : Nat) (x : VoteState) : getVote (setVote s l x) l' = if l' = l then x else getVote s l' :=
  tget_tset _ _ _ _

@[simp] theorem getSlot_setSlot (s : State) (l l' : Nat) (x : Slot) : getSlot (setSlot s l x) l' = if l' = l then x else getSlot s l' :=
  tget_tset _ _ _ _

@[simp] theorem getFn_updFn (s : State) (f f' : Nat) (g : FnRegs → FnRegs) : getFn (updFn s f g) f' = if f' = f then g (getFn s f) else getFn s f' :=
  tget_tset _ _ _ _

@[simp] theorem getPort_updPort (s : State) (f f' : Nat) (g : PortRegs → PortRegs) : getPort (updPort s f g) f' = if f' = f then g (getPort s f) else getPort s f' :=
  tget_tset _ _ _ _

@[simp] theorem getPart_updPart (s : State) (f f' : Nat) (g : PartRegs → PartRegs) : getPart (updPart s f g) f' = if f' = f then g (getPart s f) else getPart s f' :=
  tget_tset _ _ _ _

@[simp] theorem getRing_updRing (s : State) (f f' : Nat) (g : Ring → Ring) : getRing (updRing s f g) f' = if f' = f then g (getRing s f) else getRing s f' :=
  tget_tset _ _ _ _

@[simp] theorem getORing_updORing (s : State) (f f' : Nat) (g : ORing → ORing) : getORing (updORing s f g) f' = if f' = f then g (getORing s f) else getORing s f' :=
  tget_tset _ _ _ _

@[simp] theorem getWindow_updWindow (s : State) (f f' : Nat) (g : Window → Window) : getWindow (updWindow s f g) f' = if f' = f then g (getWindow s f) else getWindow s f' :=
  tget_tset _ _ _ _

@[simp] theorem getCore_updCore (s : State) (f f' : Nat) (g : CoreRegs → CoreRegs) : getCore (updCore s f g) f' = if f' = f then g (getCore s f) else getCore s f' :=
  tget_tset _ _ _ _

@[simp] theorem getLink_updLink (s : State) (f f' : Nat) (g : LinkPort → LinkPort) : getLink (updLink s f g) f' = if f' = f then g (getLink s f) else getLink s f' :=
  tget_tset _ _ _ _

@[simp] theorem setFn_gets (s : State) (f : Nat) (r : FnRegs) (k : Nat) : getPort (setFn s f r) k = getPort s k ∧
    getPart (setFn s f r) k = getPart s k ∧ getRing (setFn s f r) k = getRing s k ∧ getORing (setFn s f r) k = getORing
    s k ∧ getEvt (setFn s f r) k = getEvt s k ∧ getWindow (setFn s f r) k = getWindow s k ∧ getCore (setFn s f r) k =
    getCore s k ∧ corePhys (setFn s f r) k = corePhys s k ∧ getRegion (setFn s f r) k = getRegion s k ∧ getChannel
    (setFn s f r) k = getChannel s k ∧ getLayer (setFn s f r) k = getLayer s k ∧ getVer (setFn s f r) k = getVer s k ∧
    getGov (setFn s f r) k = getGov s k ∧ getGroup (setFn s f r) k = getGroup s k ∧ getVote (setFn s f r) k = getVote s
    k ∧ getLaser (setFn s f r) k = getLaser s k ∧ getLink (setFn s f r) k = getLink s k ∧ getSlot (setFn s f r) k =
    getSlot s k :=
  ⟨rfl, rfl, rfl, rfl, rfl, rfl, rfl, rfl, rfl, rfl, rfl, rfl, rfl, rfl, rfl, rfl, rfl, rfl⟩

@[simp] theorem updFn_gets (s : State) (f : Nat) (g : FnRegs → FnRegs) (k : Nat) : getPort (updFn s f g) k = getPort
    s k ∧ getPart (updFn s f g) k = getPart s k ∧ getRing (updFn s f g) k = getRing s k ∧ getORing (updFn s f g) k =
    getORing s k ∧ getEvt (updFn s f g) k = getEvt s k ∧ getWindow (updFn s f g) k = getWindow s k ∧ getCore (updFn s f
    g) k = getCore s k ∧ corePhys (updFn s f g) k = corePhys s k ∧ getRegion (updFn s f g) k = getRegion s k ∧
    getChannel (updFn s f g) k = getChannel s k ∧ getLayer (updFn s f g) k = getLayer s k ∧ getVer (updFn s f g) k =
    getVer s k ∧ getGov (updFn s f g) k = getGov s k ∧ getGroup (updFn s f g) k = getGroup s k ∧ getVote (updFn s f g) k
    = getVote s k ∧ getLaser (updFn s f g) k = getLaser s k ∧ getLink (updFn s f g) k = getLink s k ∧ getSlot (updFn s f
    g) k = getSlot s k :=
  ⟨rfl, rfl, rfl, rfl, rfl, rfl, rfl, rfl, rfl, rfl, rfl, rfl, rfl, rfl, rfl, rfl, rfl, rfl⟩

@[simp] theorem updPort_gets (s : State) (p : Nat) (g : PortRegs → PortRegs) (k : Nat) : getFn (updPort s p g) k =
    getFn s k ∧ getPart (updPort s p g) k = getPart s k ∧ getRing (updPort s p g) k = getRing s k ∧ getORing (updPort s
    p g) k = getORing s k ∧ getEvt (updPort s p g) k = getEvt s k ∧ getWindow (updPort s p g) k = getWindow s k ∧
    getCore (updPort s p g) k = getCore s k ∧ corePhys (updPort s p g) k = corePhys s k ∧ getRegion (updPort s p g) k =
    getRegion s k ∧ getChannel (updPort s p g) k = getChannel s k ∧ getLayer (updPort s p g) k = getLayer s k ∧ getVer
    (updPort s p g) k = getVer s k ∧ getGov (updPort s p g) k = getGov s k ∧ getGroup (updPort s p g) k = getGroup s k ∧
    getVote (updPort s p g) k = getVote s k ∧ getLaser (updPort s p g) k = getLaser s k ∧ getLink (updPort s p g) k =
    getLink s k ∧ getSlot (updPort s p g) k = getSlot s k :=
  ⟨rfl, rfl, rfl, rfl, rfl, rfl, rfl, rfl, rfl, rfl, rfl, rfl, rfl, rfl, rfl, rfl, rfl, rfl⟩

@[simp] theorem setPart_gets (s : State) (p : Nat) (r : PartRegs) (k : Nat) : getFn (setPart s p r) k = getFn s k ∧
    getPort (setPart s p r) k = getPort s k ∧ getRing (setPart s p r) k = getRing s k ∧ getORing (setPart s p r) k =
    getORing s k ∧ getEvt (setPart s p r) k = getEvt s k ∧ getWindow (setPart s p r) k = getWindow s k ∧ getCore
    (setPart s p r) k = getCore s k ∧ corePhys (setPart s p r) k = corePhys s k ∧ getRegion (setPart s p r) k =
    getRegion s k ∧ getChannel (setPart s p r) k = getChannel s k ∧ getLayer (setPart s p r) k = getLayer s k ∧ getVer
    (setPart s p r) k = getVer s k ∧ getGov (setPart s p r) k = getGov s k ∧ getGroup (setPart s p r) k = getGroup s k ∧
    getVote (setPart s p r) k = getVote s k ∧ getLaser (setPart s p r) k = getLaser s k ∧ getLink (setPart s p r) k =
    getLink s k ∧ getSlot (setPart s p r) k = getSlot s k :=
  ⟨rfl, rfl, rfl, rfl, rfl, rfl, rfl, rfl, rfl, rfl, rfl, rfl, rfl, rfl, rfl, rfl, rfl, rfl⟩

@[simp] theorem updPart_gets (s : State) (p : Nat) (g : PartRegs → PartRegs) (k : Nat) : getFn (updPart s p g) k =
    getFn s k ∧ getPort (updPart s p g) k = getPort s k ∧ getRing (updPart s p g) k = getRing s k ∧ getORing (updPart s
    p g) k = getORing s k ∧ getEvt (updPart s p g) k = getEvt s k ∧ getWindow (updPart s p g) k = getWindow s k ∧
    getCore (updPart s p g) k = getCore s k ∧ corePhys (updPart s p g) k = corePhys s k ∧ getRegion (updPart s p g) k =
    getRegion s k ∧ getChannel (updPart s p g) k = getChannel s k ∧ getLayer (updPart s p g) k = getLayer s k ∧ getVer
    (updPart s p g) k = getVer s k ∧ getGov (updPart s p g) k = getGov s k ∧ getGroup (updPart s p g) k = getGroup s k ∧
    getVote (updPart s p g) k = getVote s k ∧ getLaser (updPart s p g) k = getLaser s k ∧ getLink (updPart s p g) k =
    getLink s k ∧ getSlot (updPart s p g) k = getSlot s k :=
  ⟨rfl, rfl, rfl, rfl, rfl, rfl, rfl, rfl, rfl, rfl, rfl, rfl, rfl, rfl, rfl, rfl, rfl, rfl⟩

@[simp] theorem setRing_gets (s : State) (r : Nat) (x : Ring) (k : Nat) : getFn (setRing s r x) k = getFn s k ∧
    getPort (setRing s r x) k = getPort s k ∧ getPart (setRing s r x) k = getPart s k ∧ getORing (setRing s r x) k =
    getORing s k ∧ getEvt (setRing s r x) k = getEvt s k ∧ getWindow (setRing s r x) k = getWindow s k ∧ getCore
    (setRing s r x) k = getCore s k ∧ corePhys (setRing s r x) k = corePhys s k ∧ getRegion (setRing s r x) k =
    getRegion s k ∧ getChannel (setRing s r x) k = getChannel s k ∧ getLayer (setRing s r x) k = getLayer s k ∧ getVer
    (setRing s r x) k = getVer s k ∧ getGov (setRing s r x) k = getGov s k ∧ getGroup (setRing s r x) k = getGroup s k ∧
    getVote (setRing s r x) k = getVote s k ∧ getLaser (setRing s r x) k = getLaser s k ∧ getLink (setRing s r x) k =
    getLink s k ∧ getSlot (setRing s r x) k = getSlot s k :=
  ⟨rfl, rfl, rfl, rfl, rfl, rfl, rfl, rfl, rfl, rfl, rfl, rfl, rfl, rfl, rfl, rfl, rfl, rfl⟩

@[simp] theorem updRing_gets (s : State) (r : Nat) (g : Ring → Ring) (k : Nat) : getFn (updRing s r g) k = getFn s k
    ∧ getPort (updRing s r g) k = getPort s k ∧ getPart (updRing s r g) k = getPart s k ∧ getORing (updRing s r g) k =
    getORing s k ∧ getEvt (updRing s r g) k = getEvt s k ∧ getWindow (updRing s r g) k = getWindow s k ∧ getCore
    (updRing s r g) k = getCore s k ∧ corePhys (updRing s r g) k = corePhys s k ∧ getRegion (updRing s r g) k =
    getRegion s k ∧ getChannel (updRing s r g) k = getChannel s k ∧ getLayer (updRing s r g) k = getLayer s k ∧ getVer
    (updRing s r g) k = getVer s k ∧ getGov (updRing s r g) k = getGov s k ∧ getGroup (updRing s r g) k = getGroup s k ∧
    getVote (updRing s r g) k = getVote s k ∧ getLaser (updRing s r g) k = getLaser s k ∧ getLink (updRing s r g) k =
    getLink s k ∧ getSlot (updRing s r g) k = getSlot s k :=
  ⟨rfl, rfl, rfl, rfl, rfl, rfl, rfl, rfl, rfl, rfl, rfl, rfl, rfl, rfl, rfl, rfl, rfl, rfl⟩

@[simp] theorem setORing_gets (s : State) (o : Nat) (x : ORing) (k : Nat) : getFn (setORing s o x) k = getFn s k ∧
    getPort (setORing s o x) k = getPort s k ∧ getPart (setORing s o x) k = getPart s k ∧ getRing (setORing s o x) k =
    getRing s k ∧ getEvt (setORing s o x) k = getEvt s k ∧ getWindow (setORing s o x) k = getWindow s k ∧ getCore
    (setORing s o x) k = getCore s k ∧ corePhys (setORing s o x) k = corePhys s k ∧ getRegion (setORing s o x) k =
    getRegion s k ∧ getChannel (setORing s o x) k = getChannel s k ∧ getLayer (setORing s o x) k = getLayer s k ∧ getVer
    (setORing s o x) k = getVer s k ∧ getGov (setORing s o x) k = getGov s k ∧ getGroup (setORing s o x) k = getGroup s
    k ∧ getVote (setORing s o x) k = getVote s k ∧ getLaser (setORing s o x) k = getLaser s k ∧ getLink (setORing s o x)
    k = getLink s k ∧ getSlot (setORing s o x) k = getSlot s k :=
  ⟨rfl, rfl, rfl, rfl, rfl, rfl, rfl, rfl, rfl, rfl, rfl, rfl, rfl, rfl, rfl, rfl, rfl, rfl⟩

@[simp] theorem updORing_gets (s : State) (o : Nat) (g : ORing → ORing) (k : Nat) : getFn (updORing s o g) k = getFn
    s k ∧ getPort (updORing s o g) k = getPort s k ∧ getPart (updORing s o g) k = getPart s k ∧ getRing (updORing s o g)
    k = getRing s k ∧ getEvt (updORing s o g) k = getEvt s k ∧ getWindow (updORing s o g) k = getWindow s k ∧ getCore
    (updORing s o g) k = getCore s k ∧ corePhys (updORing s o g) k = corePhys s k ∧ getRegion (updORing s o g) k =
    getRegion s k ∧ getChannel (updORing s o g) k = getChannel s k ∧ getLayer (updORing s o g) k = getLayer s k ∧ getVer
    (updORing s o g) k = getVer s k ∧ getGov (updORing s o g) k = getGov s k ∧ getGroup (updORing s o g) k = getGroup s
    k ∧ getVote (updORing s o g) k = getVote s k ∧ getLaser (updORing s o g) k = getLaser s k ∧ getLink (updORing s o g)
    k = getLink s k ∧ getSlot (updORing s o g) k = getSlot s k :=
  ⟨rfl, rfl, rfl, rfl, rfl, rfl, rfl, rfl, rfl, rfl, rfl, rfl, rfl, rfl, rfl, rfl, rfl, rfl⟩

@[simp] theorem setEvt_gets (s : State) (e : Nat) (x : EvtCounter) (k : Nat) : getFn (setEvt s e x) k = getFn s k ∧
    getPort (setEvt s e x) k = getPort s k ∧ getPart (setEvt s e x) k = getPart s k ∧ getRing (setEvt s e x) k = getRing
    s k ∧ getORing (setEvt s e x) k = getORing s k ∧ getWindow (setEvt s e x) k = getWindow s k ∧ getCore (setEvt s e x)
    k = getCore s k ∧ corePhys (setEvt s e x) k = corePhys s k ∧ getRegion (setEvt s e x) k = getRegion s k ∧ getChannel
    (setEvt s e x) k = getChannel s k ∧ getLayer (setEvt s e x) k = getLayer s k ∧ getVer (setEvt s e x) k = getVer s k
    ∧ getGov (setEvt s e x) k = getGov s k ∧ getGroup (setEvt s e x) k = getGroup s k ∧ getVote (setEvt s e x) k =
    getVote s k ∧ getLaser (setEvt s e x) k = getLaser s k ∧ getLink (setEvt s e x) k = getLink s k ∧ getSlot (setEvt s
    e x) k = getSlot s k :=
  ⟨rfl, rfl, rfl, rfl, rfl, rfl, rfl, rfl, rfl, rfl, rfl, rfl, rfl, rfl, rfl, rfl, rfl, rfl⟩

@[simp] theorem updWindow_gets (s : State) (l : Nat) (g : Window → Window) (k : Nat) : getFn (updWindow s l g) k =
    getFn s k ∧ getPort (updWindow s l g) k = getPort s k ∧ getPart (updWindow s l g) k = getPart s k ∧ getRing
    (updWindow s l g) k = getRing s k ∧ getORing (updWindow s l g) k = getORing s k ∧ getEvt (updWindow s l g) k =
    getEvt s k ∧ getCore (updWindow s l g) k = getCore s k ∧ corePhys (updWindow s l g) k = corePhys s k ∧ getRegion
    (updWindow s l g) k = getRegion s k ∧ getChannel (updWindow s l g) k = getChannel s k ∧ getLayer (updWindow s l g) k
    = getLayer s k ∧ getVer (updWindow s l g) k = getVer s k ∧ getGov (updWindow s l g) k = getGov s k ∧ getGroup
    (updWindow s l g) k = getGroup s k ∧ getVote (updWindow s l g) k = getVote s k ∧ getLaser (updWindow s l g) k =
    getLaser s k ∧ getLink (updWindow s l g) k = getLink s k ∧ getSlot (updWindow s l g) k = getSlot s k :=
  ⟨rfl, rfl, rfl, rfl, rfl, rfl, rfl, rfl, rfl, rfl, rfl, rfl, rfl, rfl, rfl, rfl, rfl, rfl⟩

@[simp] theorem updCore_gets (s : State) (l : Nat) (g : CoreRegs → CoreRegs) (k : Nat) : getFn (updCore s l g) k =
    getFn s k ∧ getPort (updCore s l g) k = getPort s k ∧ getPart (updCore s l g) k = getPart s k ∧ getRing (updCore s l
    g) k = getRing s k ∧ getORing (updCore s l g) k = getORing s k ∧ getEvt (updCore s l g) k = getEvt s k ∧ getWindow
    (updCore s l g) k = getWindow s k ∧ getRegion (updCore s l g) k = getRegion s k ∧ getChannel (updCore s l g) k =
    getChannel s k ∧ getLayer (updCore s l g) k = getLayer s k ∧ getVer (updCore s l g) k = getVer s k ∧ getGov (updCore
    s l g) k = getGov s k ∧ getGroup (updCore s l g) k = getGroup s k ∧ getVote (updCore s l g) k = getVote s k ∧
    getLaser (updCore s l g) k = getLaser s k ∧ getLink (updCore s l g) k = getLink s k ∧ getSlot (updCore s l g) k =
    getSlot s k :=
  ⟨rfl, rfl, rfl, rfl, rfl, rfl, rfl, rfl, rfl, rfl, rfl, rfl, rfl, rfl, rfl, rfl, rfl⟩

@[simp] theorem setRegion_gets (s : State) (rid : Nat) (x : Region) (k : Nat) : getFn (setRegion s rid x) k = getFn
    s k ∧ getPort (setRegion s rid x) k = getPort s k ∧ getPart (setRegion s rid x) k = getPart s k ∧ getRing (setRegion
    s rid x) k = getRing s k ∧ getORing (setRegion s rid x) k = getORing s k ∧ getEvt (setRegion s rid x) k = getEvt s k
    ∧ getWindow (setRegion s rid x) k = getWindow s k ∧ getCore (setRegion s rid x) k = getCore s k ∧ corePhys
    (setRegion s rid x) k = corePhys s k ∧ getLayer (setRegion s rid x) k = getLayer s k ∧ getVer (setRegion s rid x) k
    = getVer s k ∧ getGov (setRegion s rid x) k = getGov s k ∧ getGroup (setRegion s rid x) k = getGroup s k ∧ getVote
    (setRegion s rid x) k = getVote s k ∧ getLaser (setRegion s rid x) k = getLaser s k ∧ getLink (setRegion s rid x) k
    = getLink s k ∧ getSlot (setRegion s rid x) k = getSlot s k :=
  ⟨rfl, rfl, rfl, rfl, rfl, rfl, rfl, rfl, rfl, rfl, rfl, rfl, rfl, rfl, rfl, rfl, rfl⟩

@[simp] theorem setChannel_gets (s : State) (l : Nat) (c : Channel) (k : Nat) : getFn (setChannel s l c) k = getFn s
    k ∧ getPort (setChannel s l c) k = getPort s k ∧ getPart (setChannel s l c) k = getPart s k ∧ getRing (setChannel s
    l c) k = getRing s k ∧ getORing (setChannel s l c) k = getORing s k ∧ getEvt (setChannel s l c) k = getEvt s k ∧
    getWindow (setChannel s l c) k = getWindow s k ∧ getCore (setChannel s l c) k = getCore s k ∧ corePhys (setChannel s
    l c) k = corePhys s k ∧ getLayer (setChannel s l c) k = getLayer s k ∧ getVer (setChannel s l c) k = getVer s k ∧
    getGov (setChannel s l c) k = getGov s k ∧ getGroup (setChannel s l c) k = getGroup s k ∧ getVote (setChannel s l c)
    k = getVote s k ∧ getLaser (setChannel s l c) k = getLaser s k ∧ getLink (setChannel s l c) k = getLink s k ∧
    getSlot (setChannel s l c) k = getSlot s k :=
  ⟨rfl, rfl, rfl, rfl, rfl, rfl, rfl, rfl, rfl, rfl, rfl, rfl, rfl, rfl, rfl, rfl, rfl⟩

@[simp] theorem updChannel_gets (s : State) (l : Nat) (g : Channel → Channel) (k : Nat) : getFn (updChannel s l g) k
    = getFn s k ∧ getPort (updChannel s l g) k = getPort s k ∧ getPart (updChannel s l g) k = getPart s k ∧ getRing
    (updChannel s l g) k = getRing s k ∧ getORing (updChannel s l g) k = getORing s k ∧ getEvt (updChannel s l g) k =
    getEvt s k ∧ getWindow (updChannel s l g) k = getWindow s k ∧ getCore (updChannel s l g) k = getCore s k ∧ corePhys
    (updChannel s l g) k = corePhys s k ∧ getLayer (updChannel s l g) k = getLayer s k ∧ getVer (updChannel s l g) k =
    getVer s k ∧ getGov (updChannel s l g) k = getGov s k ∧ getGroup (updChannel s l g) k = getGroup s k ∧ getVote
    (updChannel s l g) k = getVote s k ∧ getLaser (updChannel s l g) k = getLaser s k ∧ getLink (updChannel s l g) k =
    getLink s k ∧ getSlot (updChannel s l g) k = getSlot s k :=
  ⟨rfl, rfl, rfl, rfl, rfl, rfl, rfl, rfl, rfl, rfl, rfl, rfl, rfl, rfl, rfl, rfl, rfl⟩

@[simp] theorem setVer_gets (s : State) (l : Nat) (v : VerState) (k : Nat) : getFn (setVer s l v) k = getFn s k ∧
    getPort (setVer s l v) k = getPort s k ∧ getPart (setVer s l v) k = getPart s k ∧ getRing (setVer s l v) k = getRing
    s k ∧ getORing (setVer s l v) k = getORing s k ∧ getEvt (setVer s l v) k = getEvt s k ∧ getWindow (setVer s l v) k =
    getWindow s k ∧ getCore (setVer s l v) k = getCore s k ∧ corePhys (setVer s l v) k = corePhys s k ∧ getRegion
    (setVer s l v) k = getRegion s k ∧ getChannel (setVer s l v) k = getChannel s k ∧ getGroup (setVer s l v) k =
    getGroup s k ∧ getVote (setVer s l v) k = getVote s k ∧ getLaser (setVer s l v) k = getLaser s k ∧ getLink (setVer s
    l v) k = getLink s k ∧ getSlot (setVer s l v) k = getSlot s k :=
  ⟨rfl, rfl, rfl, rfl, rfl, rfl, rfl, rfl, rfl, rfl, rfl, rfl, rfl, rfl, rfl, rfl⟩

@[simp] theorem setGov_gets (s : State) (l : Nat) (v : GovState) (k : Nat) : getFn (setGov s l v) k = getFn s k ∧
    getPort (setGov s l v) k = getPort s k ∧ getPart (setGov s l v) k = getPart s k ∧ getRing (setGov s l v) k = getRing
    s k ∧ getORing (setGov s l v) k = getORing s k ∧ getEvt (setGov s l v) k = getEvt s k ∧ getWindow (setGov s l v) k =
    getWindow s k ∧ getCore (setGov s l v) k = getCore s k ∧ corePhys (setGov s l v) k = corePhys s k ∧ getRegion
    (setGov s l v) k = getRegion s k ∧ getChannel (setGov s l v) k = getChannel s k ∧ getGroup (setGov s l v) k =
    getGroup s k ∧ getVote (setGov s l v) k = getVote s k ∧ getLaser (setGov s l v) k = getLaser s k ∧ getLink (setGov s
    l v) k = getLink s k ∧ getSlot (setGov s l v) k = getSlot s k :=
  ⟨rfl, rfl, rfl, rfl, rfl, rfl, rfl, rfl, rfl, rfl, rfl, rfl, rfl, rfl, rfl, rfl⟩

@[simp] theorem setStash_gets (s : State) (p e : Nat) (x : Option Stash) (k : Nat) : getFn (setStash s p e x) k =
    getFn s k ∧ getPort (setStash s p e x) k = getPort s k ∧ getPart (setStash s p e x) k = getPart s k ∧ getRing
    (setStash s p e x) k = getRing s k ∧ getORing (setStash s p e x) k = getORing s k ∧ getEvt (setStash s p e x) k =
    getEvt s k ∧ getWindow (setStash s p e x) k = getWindow s k ∧ getCore (setStash s p e x) k = getCore s k ∧ corePhys
    (setStash s p e x) k = corePhys s k ∧ getRegion (setStash s p e x) k = getRegion s k ∧ getChannel (setStash s p e x)
    k = getChannel s k ∧ getGroup (setStash s p e x) k = getGroup s k ∧ getVote (setStash s p e x) k = getVote s k ∧
    getLaser (setStash s p e x) k = getLaser s k ∧ getLink (setStash s p e x) k = getLink s k ∧ getSlot (setStash s p e
    x) k = getSlot s k :=
  ⟨rfl, rfl, rfl, rfl, rfl, rfl, rfl, rfl, rfl, rfl, rfl, rfl, rfl, rfl, rfl, rfl⟩

@[simp] theorem setGroup_gets (s : State) (g : Nat) (x : Group) (k : Nat) : getFn (setGroup s g x) k = getFn s k ∧
    getPort (setGroup s g x) k = getPort s k ∧ getPart (setGroup s g x) k = getPart s k ∧ getRing (setGroup s g x) k =
    getRing s k ∧ getORing (setGroup s g x) k = getORing s k ∧ getEvt (setGroup s g x) k = getEvt s k ∧ getWindow
    (setGroup s g x) k = getWindow s k ∧ getCore (setGroup s g x) k = getCore s k ∧ corePhys (setGroup s g x) k =
    corePhys s k ∧ getRegion (setGroup s g x) k = getRegion s k ∧ getChannel (setGroup s g x) k = getChannel s k ∧
    getLayer (setGroup s g x) k = getLayer s k ∧ getVer (setGroup s g x) k = getVer s k ∧ getGov (setGroup s g x) k =
    getGov s k ∧ getVote (setGroup s g x) k = getVote s k ∧ getLaser (setGroup s g x) k = getLaser s k ∧ getLink
    (setGroup s g x) k = getLink s k ∧ getSlot (setGroup s g x) k = getSlot s k :=
  ⟨rfl, rfl, rfl, rfl, rfl, rfl, rfl, rfl, rfl, rfl, rfl, rfl, rfl, rfl, rfl, rfl, rfl, rfl⟩

@[simp] theorem setVote_gets (s : State) (p : Nat) (v : VoteState) (k : Nat) : getFn (setVote s p v) k = getFn s k ∧
    getPort (setVote s p v) k = getPort s k ∧ getPart (setVote s p v) k = getPart s k ∧ getRing (setVote s p v) k =
    getRing s k ∧ getORing (setVote s p v) k = getORing s k ∧ getEvt (setVote s p v) k = getEvt s k ∧ getWindow (setVote
    s p v) k = getWindow s k ∧ getCore (setVote s p v) k = getCore s k ∧ corePhys (setVote s p v) k = corePhys s k ∧
    getRegion (setVote s p v) k = getRegion s k ∧ getChannel (setVote s p v) k = getChannel s k ∧ getLayer (setVote s p
    v) k = getLayer s k ∧ getVer (setVote s p v) k = getVer s k ∧ getGov (setVote s p v) k = getGov s k ∧ getGroup
    (setVote s p v) k = getGroup s k ∧ getLaser (setVote s p v) k = getLaser s k ∧ getLink (setVote s p v) k = getLink s
    k ∧ getSlot (setVote s p v) k = getSlot s k :=
  ⟨rfl, rfl, rfl, rfl, rfl, rfl, rfl, rfl, rfl, rfl, rfl, rfl, rfl, rfl, rfl, rfl, rfl, rfl⟩

@[simp] theorem updLaser_gets (s : State) (i : Nat) (g : Laser → Laser) (k : Nat) : getFn (updLaser s i g) k = getFn
    s k ∧ getPort (updLaser s i g) k = getPort s k ∧ getPart (updLaser s i g) k = getPart s k ∧ getRing (updLaser s i g)
    k = getRing s k ∧ getORing (updLaser s i g) k = getORing s k ∧ getEvt (updLaser s i g) k = getEvt s k ∧ getWindow
    (updLaser s i g) k = getWindow s k ∧ getCore (updLaser s i g) k = getCore s k ∧ corePhys (updLaser s i g) k =
    corePhys s k ∧ getRegion (updLaser s i g) k = getRegion s k ∧ getChannel (updLaser s i g) k = getChannel s k ∧
    getLayer (updLaser s i g) k = getLayer s k ∧ getVer (updLaser s i g) k = getVer s k ∧ getGov (updLaser s i g) k =
    getGov s k ∧ getGroup (updLaser s i g) k = getGroup s k ∧ getVote (updLaser s i g) k = getVote s k ∧ getSlot
    (updLaser s i g) k = getSlot s k :=
  ⟨rfl, rfl, rfl, rfl, rfl, rfl, rfl, rfl, rfl, rfl, rfl, rfl, rfl, rfl, rfl, rfl, rfl⟩

@[simp] theorem updLink_gets (s : State) (p : Nat) (g : LinkPort → LinkPort) (k : Nat) : getFn (updLink s p g) k =
    getFn s k ∧ getPort (updLink s p g) k = getPort s k ∧ getPart (updLink s p g) k = getPart s k ∧ getRing (updLink s p
    g) k = getRing s k ∧ getORing (updLink s p g) k = getORing s k ∧ getEvt (updLink s p g) k = getEvt s k ∧ getWindow
    (updLink s p g) k = getWindow s k ∧ getCore (updLink s p g) k = getCore s k ∧ corePhys (updLink s p g) k = corePhys
    s k ∧ getRegion (updLink s p g) k = getRegion s k ∧ getChannel (updLink s p g) k = getChannel s k ∧ getLayer
    (updLink s p g) k = getLayer s k ∧ getVer (updLink s p g) k = getVer s k ∧ getGov (updLink s p g) k = getGov s k ∧
    getGroup (updLink s p g) k = getGroup s k ∧ getVote (updLink s p g) k = getVote s k ∧ getSlot (updLink s p g) k =
    getSlot s k :=
  ⟨rfl, rfl, rfl, rfl, rfl, rfl, rfl, rfl, rfl, rfl, rfl, rfl, rfl, rfl, rfl, rfl, rfl⟩

@[simp] theorem updLane_gets (s : State) (p w : Nat) (g : Lane → Lane) (k : Nat) : getFn (updLane s p w g) k = getFn
    s k ∧ getPort (updLane s p w g) k = getPort s k ∧ getPart (updLane s p w g) k = getPart s k ∧ getRing (updLane s p w
    g) k = getRing s k ∧ getORing (updLane s p w g) k = getORing s k ∧ getEvt (updLane s p w g) k = getEvt s k ∧
    getWindow (updLane s p w g) k = getWindow s k ∧ getCore (updLane s p w g) k = getCore s k ∧ corePhys (updLane s p w
    g) k = corePhys s k ∧ getRegion (updLane s p w g) k = getRegion s k ∧ getChannel (updLane s p w g) k = getChannel s
    k ∧ getLayer (updLane s p w g) k = getLayer s k ∧ getVer (updLane s p w g) k = getVer s k ∧ getGov (updLane s p w g)
    k = getGov s k ∧ getGroup (updLane s p w g) k = getGroup s k ∧ getVote (updLane s p w g) k = getVote s k ∧ getSlot
    (updLane s p w g) k = getSlot s k :=
  ⟨rfl, rfl, rfl, rfl, rfl, rfl, rfl, rfl, rfl, rfl, rfl, rfl, rfl, rfl, rfl, rfl, rfl⟩

@[simp] theorem setSeg_gets (s : State) (g : SegId) (x : Seg) (k : Nat) : getFn (setSeg s g x) k = getFn s k ∧
    getPort (setSeg s g x) k = getPort s k ∧ getPart (setSeg s g x) k = getPart s k ∧ getRing (setSeg s g x) k = getRing
    s k ∧ getORing (setSeg s g x) k = getORing s k ∧ getEvt (setSeg s g x) k = getEvt s k ∧ getWindow (setSeg s g x) k =
    getWindow s k ∧ getCore (setSeg s g x) k = getCore s k ∧ corePhys (setSeg s g x) k = corePhys s k ∧ getRegion
    (setSeg s g x) k = getRegion s k ∧ getChannel (setSeg s g x) k = getChannel s k ∧ getLayer (setSeg s g x) k =
    getLayer s k ∧ getVer (setSeg s g x) k = getVer s k ∧ getGov (setSeg s g x) k = getGov s k ∧ getGroup (setSeg s g x)
    k = getGroup s k ∧ getVote (setSeg s g x) k = getVote s k ∧ getSlot (setSeg s g x) k = getSlot s k :=
  ⟨rfl, rfl, rfl, rfl, rfl, rfl, rfl, rfl, rfl, rfl, rfl, rfl, rfl, rfl, rfl, rfl, rfl⟩

@[simp] theorem updSeg_gets (s : State) (g : SegId) (h : Seg → Seg) (k : Nat) : getFn (updSeg s g h) k = getFn s k ∧
    getPort (updSeg s g h) k = getPort s k ∧ getPart (updSeg s g h) k = getPart s k ∧ getRing (updSeg s g h) k = getRing
    s k ∧ getORing (updSeg s g h) k = getORing s k ∧ getEvt (updSeg s g h) k = getEvt s k ∧ getWindow (updSeg s g h) k =
    getWindow s k ∧ getCore (updSeg s g h) k = getCore s k ∧ corePhys (updSeg s g h) k = corePhys s k ∧ getRegion
    (updSeg s g h) k = getRegion s k ∧ getChannel (updSeg s g h) k = getChannel s k ∧ getLayer (updSeg s g h) k =
    getLayer s k ∧ getVer (updSeg s g h) k = getVer s k ∧ getGov (updSeg s g h) k = getGov s k ∧ getGroup (updSeg s g h)
    k = getGroup s k ∧ getVote (updSeg s g h) k = getVote s k ∧ getSlot (updSeg s g h) k = getSlot s k :=
  ⟨rfl, rfl, rfl, rfl, rfl, rfl, rfl, rfl, rfl, rfl, rfl, rfl, rfl, rfl, rfl, rfl, rfl⟩

@[simp] theorem setLeaf_gets (s : State) (f off bits : Nat) (k : Nat) : getPort (setLeaf s f off bits) k = getPort s
    k ∧ getPart (setLeaf s f off bits) k = getPart s k ∧ getRing (setLeaf s f off bits) k = getRing s k ∧ getORing
    (setLeaf s f off bits) k = getORing s k ∧ getEvt (setLeaf s f off bits) k = getEvt s k ∧ getWindow (setLeaf s f off
    bits) k = getWindow s k ∧ getCore (setLeaf s f off bits) k = getCore s k ∧ corePhys (setLeaf s f off bits) k =
    corePhys s k ∧ getRegion (setLeaf s f off bits) k = getRegion s k ∧ getChannel (setLeaf s f off bits) k = getChannel
    s k ∧ getLayer (setLeaf s f off bits) k = getLayer s k ∧ getVer (setLeaf s f off bits) k = getVer s k ∧ getGov
    (setLeaf s f off bits) k = getGov s k ∧ getGroup (setLeaf s f off bits) k = getGroup s k ∧ getVote (setLeaf s f off
    bits) k = getVote s k ∧ getLaser (setLeaf s f off bits) k = getLaser s k ∧ getLink (setLeaf s f off bits) k =
    getLink s k ∧ getSlot (setLeaf s f off bits) k = getSlot s k :=
  ⟨rfl, rfl, rfl, rfl, rfl, rfl, rfl, rfl, rfl, rfl, rfl, rfl, rfl, rfl, rfl, rfl, rfl, rfl⟩

@[simp] theorem hostStores_gets (s : State) (h : HostIn) (k : Nat) : getFn (hostStores s h) k = getFn s k ∧ getPort
    (hostStores s h) k = getPort s k ∧ getPart (hostStores s h) k = getPart s k ∧ getRing (hostStores s h) k = getRing s
    k ∧ getORing (hostStores s h) k = getORing s k ∧ getEvt (hostStores s h) k = getEvt s k ∧ getWindow (hostStores s h)
    k = getWindow s k ∧ getCore (hostStores s h) k = getCore s k ∧ corePhys (hostStores s h) k = corePhys s k ∧
    getRegion (hostStores s h) k = getRegion s k ∧ getChannel (hostStores s h) k = getChannel s k ∧ getLayer (hostStores
    s h) k = getLayer s k ∧ getVer (hostStores s h) k = getVer s k ∧ getGov (hostStores s h) k = getGov s k ∧ getGroup
    (hostStores s h) k = getGroup s k ∧ getVote (hostStores s h) k = getVote s k ∧ getLaser (hostStores s h) k =
    getLaser s k ∧ getLink (hostStores s h) k = getLink s k ∧ getSlot (hostStores s h) k = getSlot s k :=
  ⟨rfl, rfl, rfl, rfl, rfl, rfl, rfl, rfl, rfl, rfl, rfl, rfl, rfl, rfl, rfl, rfl, rfl, rfl, rfl⟩

@[simp] theorem hostWrite_gets (s : State) (p a : Nat) (b : Bytes) (k : Nat) : getFn (hostWrite s p a b) k = getFn s
    k ∧ getPort (hostWrite s p a b) k = getPort s k ∧ getPart (hostWrite s p a b) k = getPart s k ∧ getRing (hostWrite s
    p a b) k = getRing s k ∧ getORing (hostWrite s p a b) k = getORing s k ∧ getEvt (hostWrite s p a b) k = getEvt s k ∧
    getWindow (hostWrite s p a b) k = getWindow s k ∧ getCore (hostWrite s p a b) k = getCore s k ∧ corePhys (hostWrite
    s p a b) k = corePhys s k ∧ getRegion (hostWrite s p a b) k = getRegion s k ∧ getChannel (hostWrite s p a b) k =
    getChannel s k ∧ getLayer (hostWrite s p a b) k = getLayer s k ∧ getVer (hostWrite s p a b) k = getVer s k ∧ getGov
    (hostWrite s p a b) k = getGov s k ∧ getGroup (hostWrite s p a b) k = getGroup s k ∧ getVote (hostWrite s p a b) k =
    getVote s k ∧ getLaser (hostWrite s p a b) k = getLaser s k ∧ getLink (hostWrite s p a b) k = getLink s k ∧ getSlot
    (hostWrite s p a b) k = getSlot s k :=
  ⟨rfl, rfl, rfl, rfl, rfl, rfl, rfl, rfl, rfl, rfl, rfl, rfl, rfl, rfl, rfl, rfl, rfl, rfl, rfl⟩

@[simp] theorem drawFree_gets (s : State) (n : Nat) (k : Nat) : getFn (drawFree s n) k = getFn s k ∧ getPort
    (drawFree s n) k = getPort s k ∧ getPart (drawFree s n) k = getPart s k ∧ getRing (drawFree s n) k = getRing s k ∧
    getORing (drawFree s n) k = getORing s k ∧ getEvt (drawFree s n) k = getEvt s k ∧ getWindow (drawFree s n) k =
    getWindow s k ∧ getCore (drawFree s n) k = getCore s k ∧ corePhys (drawFree s n) k = corePhys s k ∧ getRegion
    (drawFree s n) k = getRegion s k ∧ getChannel (drawFree s n) k = getChannel s k ∧ getLayer (drawFree s n) k =
    getLayer s k ∧ getVer (drawFree s n) k = getVer s k ∧ getGov (drawFree s n) k = getGov s k ∧ getGroup (drawFree s n)
    k = getGroup s k ∧ getVote (drawFree s n) k = getVote s k ∧ getLaser (drawFree s n) k = getLaser s k ∧ getLink
    (drawFree s n) k = getLink s k ∧ getSlot (drawFree s n) k = getSlot s k :=
  ⟨rfl, rfl, rfl, rfl, rfl, rfl, rfl, rfl, rfl, rfl, rfl, rfl, rfl, rfl, rfl, rfl, rfl, rfl, rfl⟩

@[simp] theorem removeOp_gets (s : State) (i : Nat) (k : Nat) : getFn (removeOp s i) k = getFn s k ∧ getPort
    (removeOp s i) k = getPort s k ∧ getPart (removeOp s i) k = getPart s k ∧ getRing (removeOp s i) k = getRing s k ∧
    getORing (removeOp s i) k = getORing s k ∧ getEvt (removeOp s i) k = getEvt s k ∧ getWindow (removeOp s i) k =
    getWindow s k ∧ getCore (removeOp s i) k = getCore s k ∧ corePhys (removeOp s i) k = corePhys s k ∧ getRegion
    (removeOp s i) k = getRegion s k ∧ getChannel (removeOp s i) k = getChannel s k ∧ getLayer (removeOp s i) k =
    getLayer s k ∧ getVer (removeOp s i) k = getVer s k ∧ getGov (removeOp s i) k = getGov s k ∧ getGroup (removeOp s i)
    k = getGroup s k ∧ getVote (removeOp s i) k = getVote s k ∧ getLaser (removeOp s i) k = getLaser s k ∧ getLink
    (removeOp s i) k = getLink s k ∧ getSlot (removeOp s i) k = getSlot s k :=
  ⟨rfl, rfl, rfl, rfl, rfl, rfl, rfl, rfl, rfl, rfl, rfl, rfl, rfl, rfl, rfl, rfl, rfl, rfl, rfl⟩

@[simp] theorem updOp_gets (s : State) (i : Nat) (g : Op → Op) (k : Nat) : getFn (updOp s i g) k = getFn s k ∧
    getPort (updOp s i g) k = getPort s k ∧ getPart (updOp s i g) k = getPart s k ∧ getRing (updOp s i g) k = getRing s
    k ∧ getORing (updOp s i g) k = getORing s k ∧ getEvt (updOp s i g) k = getEvt s k ∧ getWindow (updOp s i g) k =
    getWindow s k ∧ getCore (updOp s i g) k = getCore s k ∧ corePhys (updOp s i g) k = corePhys s k ∧ getRegion (updOp s
    i g) k = getRegion s k ∧ getChannel (updOp s i g) k = getChannel s k ∧ getLayer (updOp s i g) k = getLayer s k ∧
    getVer (updOp s i g) k = getVer s k ∧ getGov (updOp s i g) k = getGov s k ∧ getGroup (updOp s i g) k = getGroup s k
    ∧ getVote (updOp s i g) k = getVote s k ∧ getLaser (updOp s i g) k = getLaser s k ∧ getLink (updOp s i g) k =
    getLink s k ∧ getSlot (updOp s i g) k = getSlot s k :=
  ⟨rfl, rfl, rfl, rfl, rfl, rfl, rfl, rfl, rfl, rfl, rfl, rfl, rfl, rfl, rfl, rfl, rfl, rfl, rfl⟩

@[simp] theorem dramUpsets_gets (s : State) (m : MemIn) (k : Nat) : getFn (dramUpsets s m) k = getFn s k ∧ getPort
    (dramUpsets s m) k = getPort s k ∧ getPart (dramUpsets s m) k = getPart s k ∧ getRing (dramUpsets s m) k = getRing s
    k ∧ getORing (dramUpsets s m) k = getORing s k ∧ getEvt (dramUpsets s m) k = getEvt s k ∧ getWindow (dramUpsets s m)
    k = getWindow s k ∧ getCore (dramUpsets s m) k = getCore s k ∧ corePhys (dramUpsets s m) k = corePhys s k ∧ getLayer
    (dramUpsets s m) k = getLayer s k ∧ getVer (dramUpsets s m) k = getVer s k ∧ getGov (dramUpsets s m) k = getGov s k
    ∧ getGroup (dramUpsets s m) k = getGroup s k ∧ getVote (dramUpsets s m) k = getVote s k ∧ getLaser (dramUpsets s m)
    k = getLaser s k ∧ getLink (dramUpsets s m) k = getLink s k ∧ getSlot (dramUpsets s m) k = getSlot s k :=
  ⟨rfl, rfl, rfl, rfl, rfl, rfl, rfl, rfl, rfl, rfl, rfl, rfl, rfl, rfl, rfl, rfl, rfl⟩

@[simp] theorem updKt_gets (s : State) (g : Kettle → Kettle) (k : Nat) : getFn (updKt s g) k = getFn s k ∧ getPort
    (updKt s g) k = getPort s k ∧ getPart (updKt s g) k = getPart s k ∧ getRing (updKt s g) k = getRing s k ∧ getORing
    (updKt s g) k = getORing s k ∧ getEvt (updKt s g) k = getEvt s k ∧ getWindow (updKt s g) k = getWindow s k ∧ getCore
    (updKt s g) k = getCore s k ∧ corePhys (updKt s g) k = corePhys s k ∧ getRegion (updKt s g) k = getRegion s k ∧
    getChannel (updKt s g) k = getChannel s k ∧ getLayer (updKt s g) k = getLayer s k ∧ getVer (updKt s g) k = getVer s
    k ∧ getGov (updKt s g) k = getGov s k ∧ getGroup (updKt s g) k = getGroup s k ∧ getVote (updKt s g) k = getVote s k
    ∧ getLaser (updKt s g) k = getLaser s k ∧ getLink (updKt s g) k = getLink s k ∧ getSlot (updKt s g) k = getSlot s k
    :=
  ⟨rfl, rfl, rfl, rfl, rfl, rfl, rfl, rfl, rfl, rfl, rfl, rfl, rfl, rfl, rfl, rfl, rfl, rfl, rfl⟩

@[simp] theorem setSlot_gets (s : State) (i : Nat) (x : Slot) (k : Nat) : getFn (setSlot s i x) k = getFn s k ∧
    getPort (setSlot s i x) k = getPort s k ∧ getPart (setSlot s i x) k = getPart s k ∧ getRing (setSlot s i x) k =
    getRing s k ∧ getORing (setSlot s i x) k = getORing s k ∧ getEvt (setSlot s i x) k = getEvt s k ∧ getWindow (setSlot
    s i x) k = getWindow s k ∧ getCore (setSlot s i x) k = getCore s k ∧ corePhys (setSlot s i x) k = corePhys s k ∧
    getRegion (setSlot s i x) k = getRegion s k ∧ getChannel (setSlot s i x) k = getChannel s k ∧ getLayer (setSlot s i
    x) k = getLayer s k ∧ getVer (setSlot s i x) k = getVer s k ∧ getGov (setSlot s i x) k = getGov s k ∧ getGroup
    (setSlot s i x) k = getGroup s k ∧ getVote (setSlot s i x) k = getVote s k ∧ getLaser (setSlot s i x) k = getLaser s
    k ∧ getLink (setSlot s i x) k = getLink s k :=
  ⟨rfl, rfl, rfl, rfl, rfl, rfl, rfl, rfl, rfl, rfl, rfl, rfl, rfl, rfl, rfl, rfl, rfl, rfl⟩

@[simp] theorem holdReq_gets (s : State) (i : Instr) (k : Nat) : getFn (holdReq s i) k = getFn s k ∧ getPort
    (holdReq s i) k = getPort s k ∧ getPart (holdReq s i) k = getPart s k ∧ getRing (holdReq s i) k = getRing s k ∧
    getORing (holdReq s i) k = getORing s k ∧ getEvt (holdReq s i) k = getEvt s k ∧ getWindow (holdReq s i) k =
    getWindow s k ∧ getCore (holdReq s i) k = getCore s k ∧ corePhys (holdReq s i) k = corePhys s k ∧ getRegion (holdReq
    s i) k = getRegion s k ∧ getChannel (holdReq s i) k = getChannel s k ∧ getLayer (holdReq s i) k = getLayer s k ∧
    getVer (holdReq s i) k = getVer s k ∧ getGov (holdReq s i) k = getGov s k ∧ getGroup (holdReq s i) k = getGroup s k
    ∧ getVote (holdReq s i) k = getVote s k ∧ getLaser (holdReq s i) k = getLaser s k ∧ getLink (holdReq s i) k =
    getLink s k :=
  ⟨rfl, rfl, rfl, rfl, rfl, rfl, rfl, rfl, rfl, rfl, rfl, rfl, rfl, rfl, rfl, rfl, rfl, rfl⟩

@[simp] theorem sendOut_gets (s : State) (ep : Nat) (b : Bytes) (k : Nat) : getFn (sendOut s ep b) k = getFn s k ∧
    getPort (sendOut s ep b) k = getPort s k ∧ getPart (sendOut s ep b) k = getPart s k ∧ getRing (sendOut s ep b) k =
    getRing s k ∧ getORing (sendOut s ep b) k = getORing s k ∧ getEvt (sendOut s ep b) k = getEvt s k ∧ getWindow
    (sendOut s ep b) k = getWindow s k ∧ getCore (sendOut s ep b) k = getCore s k ∧ corePhys (sendOut s ep b) k =
    corePhys s k ∧ getRegion (sendOut s ep b) k = getRegion s k ∧ getChannel (sendOut s ep b) k = getChannel s k ∧
    getLayer (sendOut s ep b) k = getLayer s k ∧ getVer (sendOut s ep b) k = getVer s k ∧ getGov (sendOut s ep b) k =
    getGov s k ∧ getGroup (sendOut s ep b) k = getGroup s k ∧ getVote (sendOut s ep b) k = getVote s k ∧ getLaser
    (sendOut s ep b) k = getLaser s k ∧ getLink (sendOut s ep b) k = getLink s k :=
  ⟨rfl, rfl, rfl, rfl, rfl, rfl, rfl, rfl, rfl, rfl, rfl, rfl, rfl, rfl, rfl, rfl, rfl, rfl⟩

end Sys2Proof.Machine
end

