-- ==== Sys2Proof/Laws/Ops.lean ====
section
/-! SUPPORT. Laws of the shared operations: byte strings, host memory, status blocks, event counters. -/

namespace Sys2Proof.Machine

open Sys2Proof

set_option Elab.async false

theorem leBytes_length : ∀ (n v : Nat), (leBytes n v).length = n
  | 0, _ => rfl
  | n + 1, v => by simp only [leBytes, List.length_cons, leBytes_length n]

/-- The first bytes of a write are read back. -/
theorem mread_mwrite_take : ∀ (m : Mem) (a : Nat) (bs : Bytes) (n : Nat), n ≤ bs.length → mread (mwrite m a bs) a n = bs.take n
  | _, _, _, 0, _ => rfl
  | m, a, b :: bs, n + 1, h => by
    simp only [mread, mwrite, List.take_succ_cons]
    congr 1
    · rw [mget_mwrite_other (a + 1) bs (by omega)]; simp [mget_mset]
    · exact mread_mwrite_take _ (a + 1) bs n (by simpa using h)

/-- The status block of a submission ring of a reachable partition. -/
theorem ringStatus_eq {s : State} {ring p : Nat} (h : ringPart s ring = some p) (hr : partReachable s p = true) :
    ringStatus s ring = hostWrite s (fnPort (getPart s p).owner) ((getRing s ring).base + 64 * 2 ^ (getRing s ring).size)
      (leBytes 4 (getRing s ring).consumed ++ leBytes 1 (getRing s ring).state ++ leBytes 1 (getRing s ring).error ++ [1#8] ++ zeros 57) := by
  simp only [partReachable, Bool.and_eq_true, Bool.not_eq_true'] at hr
  have e : shownState s p (getRing s ring) = (getRing s ring).state := by unfold shownState; rw [hr.1.1]; simp
  unfold ringStatus; rw [h]; simp only [hr.2, e, Bool.not_true, Bool.false_eq_true, if_false]

theorem hostWrite_frame (s : State) (p a : Nat) (b : Bytes) : hostWrite s p a b = { s with host := (hostWrite s p a b).host } := rfl

/-- A status block changes host memory only. -/
theorem ringStatus_frame (s : State) (ring : Nat) : ∃ m, ringStatus s ring = { s with host := m } := by
  unfold ringStatus; split
  · exact ⟨_, rfl⟩
  · split
    · exact ⟨_, rfl⟩
    · exact ⟨_, hostWrite_frame _ _ _ _⟩

/-- Taking a descriptor of n slots. -/
theorem takeDescriptor_spec {s : State} {ring p : Nat} (n : Nat) (b : Bytes) (h : ringPart s ring = some p) (hr : partReachable s p = true) :
    (getRing (takeDescriptor s ring n b) ring).consumed = ((getRing s ring).consumed + n) % 2 ^ 32
      ∧ (getRing (takeDescriptor s ring n b) ring).waiting = (getRing s ring).waiting ++ [{ pos := (getRing s ring).consumed, bytes := b }]
      ∧ mread (takeDescriptor s ring n b).host (hostKey (fnPort (getPart s p).owner) ((getRing s ring).base + 64 * 2 ^ (getRing s ring).size)) 4
        = leBytes 4 (((getRing s ring).consumed + n) % 2 ^ 32)
      ∧ (∀ k, k ≠ ring → getRing (takeDescriptor s ring n b) k = getRing s k)
      ∧ takeDescriptor s ring n b
        = { s with host := (takeDescriptor s ring n b).host, q := { s.q with rings := (takeDescriptor s ring n b).q.rings } } := by
  unfold takeDescriptor
  generalize hg : (fun r : Ring => _) = g
  have h' : ringPart (updRing s ring g) ring = some p := by rw [← h]; rfl
  have hr' : partReachable (updRing s ring g) p = true := by rw [← hr]; rfl
  rw [ringStatus_eq h' hr']
  generalize hw : (leBytes 4 _ ++ _ : Bytes) = w
  have e1 : (g (getRing s ring)).consumed = ((getRing s ring).consumed + n) % 2 ^ 32 := by rw [← hg]
  have e2 : (g (getRing s ring)).waiting = (getRing s ring).waiting ++ [{ pos := (getRing s ring).consumed, bytes := b }] := by rw [← hg]
  have e3 : (g (getRing s ring)).base = (getRing s ring).base := by rw [← hg]
  have e4 : (g (getRing s ring)).size = (getRing s ring).size := by rw [← hg]
  clear hg
  refine ⟨?_, ?_, ?_, ?_, ?_⟩
  · simp [e1]
  · simp [e2]
  · simp only [updRing_gets, getRing_updRing, if_true, e3, e4, hostWrite]
    rw [mread_mwrite_take _ _ _ _ (by rw [← hw]; simp [leBytes_length])]
    rw [← hw]
    simp [leBytes_length, e1]
  · intro k hk; simp [hk]
  · rfl

/-! ### Completion -/

theorem setOwnerLeaf_frame (s : State) (p off bits : Nat) : ∃ fns, setOwnerLeaf s p off bits = { s with fns := fns } := by
  unfold setOwnerLeaf; split
  · exact ⟨_, rfl⟩
  · exact ⟨_, rfl⟩

theorem oringStatus_frame (s : State) (p o : Nat) : ∃ m, oringStatus s p o = { s with host := m } :=
  ⟨_, hostWrite_frame _ _ _ _⟩

/-- A ring's slot of the record that comes next. -/
theorem slot_below {i n : Nat} : i % 2 ^ n + 1 ≤ 2 ^ n := Nat.succ_le_of_lt (Nat.mod_lt _ (Nat.two_pow_pos n))

/-- Writing a record: PRODUCED rises by 1, the record stands in its slot; host memory and the ring change only. -/
theorem putRecord_spec (s : State) (p o : Nat) (b : Bytes) :
    ∃ m, putRecord s p o b
      = { s with host := m, q := { s.q with orings := tset {} o { getORing s o with produced := ((getORing s o).produced + 1) % 2 ^ 32 } s.q.orings } }
      ∧ (let x := getORing s o
         b.length ≤ recSize x.recsz → x.base + 2 ^ x.size * recSize x.recsz + 64 ≤ 2 ^ 64 →
         mread m (hostKey (fnPort (getPart s p).owner) (x.base + x.produced % 2 ^ x.size * recSize x.recsz)) b.length = b) := by
  unfold putRecord
  dsimp only
  refine ⟨_, rfl, fun hb hr => ?_⟩
  have hs : (getORing (setORing (hostWrite s (fnPort (getPart s p).owner)
      ((getORing s o).base + (getORing s o).produced % 2 ^ (getORing s o).size * recSize (getORing s o).recsz) b) o
        { getORing s o with produced := ((getORing s o).produced + 1) % 2 ^ 32 }) o)
      = { getORing s o with produced := ((getORing s o).produced + 1) % 2 ^ 32 } := tget_tset_same o _ _
  rw [hs]
  have hk : (getORing s o).produced % 2 ^ (getORing s o).size * recSize (getORing s o).recsz + recSize (getORing s o).recsz
      ≤ 2 ^ (getORing s o).size * recSize (getORing s o).recsz := by
    rw [← Nat.succ_mul]; exact Nat.mul_le_mul_right _ slot_below
  show mread (mwrite (mwrite s.host _ b) _ _) _ b.length = b
  rw [mread_mwrite_other]
  · exact mread_mwrite _ _ _
  · left
    show hostKey (fnPort (getPart s p).owner) _ + b.length ≤ hostKey (fnPort (getPart s p).owner) _
    unfold hostKey
    dsimp only
    generalize (getORing s o).produced % 2 ^ (getORing s o).size * recSize (getORing s o).recsz = i at hk ⊢
    generalize 2 ^ (getORing s o).size * recSize (getORing s o).recsz = n at hk hr ⊢
    omega

/-- Writing a record changes host memory and its ring only. -/
theorem putRecord_frame (s : State) (p o : Nat) (b : Bytes) :
    ∃ m, putRecord s p o b
      = { s with host := m, q := { s.q with orings := tset {} o { getORing s o with produced := ((getORing s o).produced + 1) % 2 ^ 32 } s.q.orings } } := by
  obtain ⟨m, e, _⟩ := putRecord_spec s p o b
  exact ⟨m, e⟩

theorem holdRecord_frame (s : State) (p o : Nat) (r : HeldRec) :
    ∃ fns, holdRecord s p o r = { s with fns := fns, q := { s.q with orings := (updORing s o (fun x => { x with held := x.held ++ [r] })).q.orings } } := by
  unfold holdRecord
  obtain ⟨f, e⟩ := setOwnerLeaf_frame (updORing s o (fun x => { x with held := x.held ++ [r] })) p (0x41400 + 4 * (o / 16)) (2 ^ (o % 16))
  exact ⟨f, e⟩

/-- A completion record changes output rings, leaves and host memory only, and, where it is held, its operation's slot. -/
theorem recordOut_frame (s : State) (p ring : Nat) (irq : Bool) (op : Option Nat) (b : Bytes) :
    ∃ fns m orings ops, recordOut s p ring irq op b = { s with fns := fns, host := m, q := { s.q with orings := orings, ops := ops } }
      ∧ (op = none → ops = s.q.ops) := by
  unfold recordOut
  dsimp only
  split
  · obtain ⟨m, e⟩ := putRecord_frame s p (getRing s ring).outRing b
    rw [e]
    split
    · obtain ⟨f, e2⟩ := setOwnerLeaf_frame { s with host := m, q := { s.q with orings := tset {} (getRing s ring).outRing { getORing s (getRing s ring).outRing with produced := ((getORing s (getRing s ring).outRing).produced + 1) % 2 ^ 32 } s.q.orings } } p (ringLeafOff 0x41000 ring) (2 ^ (ring % 32))
      rw [e2]
      exact ⟨_, _, _, _, rfl, fun _ => rfl⟩
    · exact ⟨_, _, _, _, rfl, fun _ => rfl⟩
  · cases op with
    | none =>
      obtain ⟨f, e⟩ := holdRecord_frame s p (getRing s ring).outRing { kind := .completion ring irq none, bytes := b }
      exact ⟨_, _, _, _, e, fun _ => rfl⟩
    | some i =>
      obtain ⟨f, e⟩ := holdRecord_frame (updOp s i (fun x => { x with phase := .recordHeld })) p (getRing s ring).outRing { kind := .completion ring irq (some i), bytes := b }
      exact ⟨_, _, _, _, e, fun h => by cases h⟩

/-- Consuming a SEQ changes group entries only. -/
theorem consumeSeq_frame (s : State) (p : Nat) (d : Bytes) : ∃ gs, consumeSeq s p d = { s with pl := { s.pl with groups := gs } } := by
  unfold consumeSeq; dsimp only; split
  · exact ⟨_, rfl⟩
  · exact ⟨_, rfl⟩

/-- Signalling a counter. -/
theorem signalEvt_eq (s : State) (e : Nat) (fail : Bool) (h : e ≠ 0xFFFF) :
    signalEvt s e fail = setEvt s e { value := (getEvt s e).value + 1#32, poison := (getEvt s e).poison || fail } := by
  unfold signalEvt; rw [if_neg h]

/-- Completion before dispatch: counters are signalled; rings keep their descriptors and memory stays (R84, R89). -/
theorem completeUndispatched_spec (s : State) (p ring pos : Nat) (d : Bytes) (signal : Bool) (st xs : Nat) :
    ∃ fns m orings gs rings, completeUndispatched s p ring pos d signal st xs
      = { s with fns := fns, host := m, q := { s.q with orings := orings, rings := rings, evts := (if signal then signalEvt s (dSigEvt d) true else s).q.evts }
                 pl := { s.pl with groups := gs } }
      ∧ (∀ k, (tget {} rings k).waiting = (getRing s k).waiting) := by
  unfold completeUndispatched
  dsimp only
  generalize h1 : (if signal then signalEvt s (dSigEvt d) true else s) = s1
  have hs1 : s1 = { s with q := { s.q with evts := s1.q.evts } } := by
    rw [← h1]; split
    · unfold signalEvt; split <;> rfl
    · rfl
  obtain ⟨gs, e1⟩ := consumeSeq_frame s1 p d
  rw [e1]
  obtain ⟨f, m, os, ops, e2, h2⟩ := recordOut_frame (recentDone { s1 with pl := { s1.pl with groups := gs } } ring pos st []) p ring (dIrq d) none
    (completionRecord d ring st xs 0)
  rw [e2, h2 rfl]
  refine ⟨f, m, os, gs, (recentDone { s1 with pl := { s1.pl with groups := gs } } ring pos st []).q.rings, ?_, ?_⟩
  · rw [hs1]; rfl
  · intro k
    have : ∀ t : State, tget {} (recentDone t ring pos st []).q.rings k = getRing (recentDone t ring pos st []) k := fun _ => rfl
    rw [this]
    unfold recentDone
    rw [getRing_updRing]
    have hk : ∀ k, getRing { s1 with pl := { s1.pl with groups := gs } } k = getRing s k := by intro k; rw [hs1]; rfl
    split
    · subst k; simp only [hk]
    · rw [hk]

end Sys2Proof.Machine
end

