-- ==== Sys2Proof/Laws/Complete.lean ====
section
/-! SUPPORT. What completing a dispatched operation does: one lemma that says it whole. -/

namespace Sys2Proof.Machine

open Sys2Proof

set_option Elab.async false

theorem mem_listUpdate {α : Type} {p : α → Bool} {f : α → α} {x : α} (hp : p x = false) : ∀ {l : List α}, x ∈ l → x ∈ listUpdate p f l
  | y :: l, h => by
    simp only [listUpdate]
    rcases List.mem_cons.1 h with e | e
    · subst e; rw [if_neg (by simp [hp])]; simp
    · split
      · exact List.mem_cons_of_mem _ e
      · exact List.mem_cons_of_mem _ (mem_listUpdate hp e)

/-- The first match of a list is the updated one. -/
theorem find_listUpdate {α : Type} {p : α → Bool} {f : α → α} (hf : ∀ x, p (f x) = p x) :
    ∀ l : List α, (listUpdate p f l).find? p = (l.find? p).map f
  | [] => rfl
  | y :: l => by
    simp only [listUpdate]
    by_cases h : p y = true
    · simp [h, hf]
    · simp only [Bool.not_eq_true] at h
      simp [h, find_listUpdate hf l]

theorem findOp_updOp (s : State) (id : Nat) (g : Op → Op) (hg : ∀ x, (g x).id = x.id) : findOp (updOp s id g) id = (findOp s id).map g :=
  find_listUpdate (fun x => by simp [hg]) _

theorem findOp_removeOp (s : State) (id : Nat) : findOp (removeOp s id) id = none := by
  simp only [findOp, removeOp, List.find?_eq_none, List.mem_filter]
  intro x hx; simpa using hx.2

theorem mem_updOp {s : State} {id : Nat} {g : Op → Op} {x : Op} (h : x ∈ s.q.ops) (hx : x.id ≠ id) : x ∈ (updOp s id g).q.ops :=
  mem_listUpdate (by simpa using hx) h

theorem mem_removeOp {s : State} {id : Nat} {x : Op} (h : x ∈ s.q.ops) (hx : x.id ≠ id) : x ∈ (removeOp s id).q.ops := by
  simp only [removeOp, List.mem_filter]; exact ⟨h, by simpa using hx⟩

/-- Releasing latches changes version state only. -/
theorem releaseLatches_frame (s : State) : ∀ ls : List Latch, ∃ vs, releaseLatches s ls = { s with tr := { s.tr with vers := vs } } := by
  intro ls
  induction ls generalizing s with
  | nil => exact ⟨s.tr.vers, rfl⟩
  | cons l ls ih =>
    obtain ⟨vs, e⟩ := ih (fenceSub s l.layer l.slot)
    refine ⟨vs, ?_⟩
    show releaseLatches (fenceSub s l.layer l.slot) ls = _
    rw [e]; rfl

theorem outRing_updRing (t : State) (ring : Nat) (g : Ring → Ring) (h : ∀ r, (g r).outRing = r.outRing) :
    (tget {} (updRing t ring g).q.rings ring).outRing = (getRing t ring).outRing := by
  show (getRing (updRing t ring g) ring).outRing = _
  rw [getRing_updRing, if_pos rfl, h]

/-- Noting a completion among a ring's fetched descriptors and in its core's window changes those alone, and no ring's
output ring. -/
theorem noted_frame (s : State) (core op st : Nat) (srel : Bool) (ring pos : Nat) (ls : List Latch) :
    ∃ rs ws, recentDone (windowDone s core op st srel) ring pos st ls = { s with q := { s.q with rings := rs, windows := ws } }
      ∧ (tget {} rs ring).outRing = (getRing s ring).outRing := by
  have hw : ∃ ws, windowDone s core op st srel = { s with q := { s.q with windows := ws } } := by
    unfold windowDone; split
    · exact ⟨_, rfl⟩
    · exact ⟨_, rfl⟩
  obtain ⟨ws, e⟩ := hw
  rw [e]
  unfold recentDone
  generalize hg : (fun r : Ring => _) = g
  have hg' : ∀ r, (g r).outRing = r.outRing := by intro r; rw [← hg]
  exact ⟨_, ws, rfl, outRing_updRing { s with q := { s.q with windows := ws } } ring g hg'⟩

/-- Writing or holding a completion record of an operation. -/
theorem recordOut_spec (s : State) (p ring : Nat) (irq : Bool) (id : Nat) (b : Bytes) :
    (oringOpen s p (getRing s ring).outRing = true →
      ∃ fns m, recordOut s p ring irq (some id) b = { s with fns := fns, host := m, q := { s.q with orings := tset {} (getRing s ring).outRing { getORing s (getRing s ring).outRing with produced := ((getORing s (getRing s ring).outRing).produced + 1) % 2 ^ 32 } s.q.orings } }
        ∧ (let x := getORing s (getRing s ring).outRing
           b.length ≤ recSize x.recsz → x.base + 2 ^ x.size * recSize x.recsz + 64 ≤ 2 ^ 64 →
           mread m (hostKey (fnPort (getPart s p).owner) (x.base + x.produced % 2 ^ x.size * recSize x.recsz)) b.length = b))
    ∧ (oringOpen s p (getRing s ring).outRing = false →
      ∃ fns h, recordOut s p ring irq (some id) b = { updOp s id (fun x => { x with phase := OpPhase.recordHeld }) with fns := fns, q := { (updOp s id (fun x => { x with phase := OpPhase.recordHeld })).q with orings := tset {} (getRing s ring).outRing { getORing s (getRing s ring).outRing with held := (getORing s (getRing s ring).outRing).held ++ [h] } s.q.orings } }
        ∧ h.bytes = b) := by
  unfold recordOut
  dsimp only
  refine ⟨fun h => ?_, fun h => ?_⟩
  · rw [if_pos h]
    obtain ⟨m, e, hm⟩ := putRecord_spec s p (getRing s ring).outRing b
    rw [e]
    split
    · obtain ⟨f, e2⟩ := setOwnerLeaf_frame { s with host := m, q := { s.q with orings := tset {} (getRing s ring).outRing { getORing s (getRing s ring).outRing with produced := ((getORing s (getRing s ring).outRing).produced + 1) % 2 ^ 32 } s.q.orings } } p (ringLeafOff 0x41000 ring) (2 ^ (ring % 32))
      exact ⟨f, m, e2, hm⟩
    · exact ⟨s.fns, m, rfl, hm⟩
  · rw [if_neg (by simp [h])]
    obtain ⟨f, e⟩ := holdRecord_frame (updOp s id (fun x => { x with phase := .recordHeld })) p (getRing s ring).outRing
      { kind := .completion ring irq (some id), bytes := b }
    exact ⟨f, _, e, rfl⟩

theorem completionRecord_length (d : Bytes) (ring st xs info : Nat) : (completionRecord d ring st xs info).length = 16 := by
  simp [completionRecord, leBytes_length, zeros]

theorem recSize_ge (n : Nat) : 16 ≤ recSize n := Nat.le_mul_of_pos_right 16 (Nat.two_pow_pos n)

/-- Everything a completion does. -/
theorem complete_spec (s : State) (o : Op) (st xs info : Nat) : Completed s (complete s o st xs info) o st xs info := by
  have hsig : ∃ es, signalEvt s (dSigEvt o.desc) (stFail st) = { s with q := { s.q with evts := es } }
      ∧ ∀ e, tget {} es e = if e = dSigEvt o.desc ∧ e ≠ 0xFFFF then
          { value := (getEvt s e).value + 1#32, poison := (getEvt s e).poison || stFail st } else getEvt s e := by
    unfold signalEvt
    split
    · rename_i h
      refine ⟨_, rfl, fun e => ?_⟩
      rw [if_neg (by rintro ⟨h1, h2⟩; exact h2 (h1.trans h))]; rfl
    · rename_i h
      refine ⟨_, rfl, fun e => ?_⟩
      simp only [tget_tset]
      by_cases he : e = dSigEvt o.desc
      · subst he; simp [h]
      · simp [he, getEvt]
  obtain ⟨es, e1, hes⟩ := hsig
  unfold complete
  dsimp only
  rw [e1]
  obtain ⟨gs, e2⟩ := consumeSeq_frame { s with q := { s.q with evts := es } } o.part o.desc
  rw [e2]
  obtain ⟨vs, e3⟩ := releaseLatches_frame { s with q := { s.q with evts := es }, pl := { s.pl with groups := gs } } o.latches
  rw [e3]
  obtain ⟨rs, ws, e4, hr⟩ := noted_frame { s with q := { s.q with evts := es }, pl := { s.pl with groups := gs }, tr := { s.tr with vers := vs } }
    o.core o.id st (dSrel o.desc) o.ring o.pos o.latches
  rw [e4]
  generalize hu : ({ s with q := { s.q with evts := es, rings := rs, windows := ws }, pl := { s.pl with groups := gs }, tr := { s.tr with vers := vs } } : State) = u
  have hrO : (getRing u o.ring).outRing = (getRing s o.ring).outRing := by rw [← hu]; exact hr
  have hopen : ∀ p k, oringOpen u p k = oringOpen s p k := by intro p k; rw [← hu]; rfl
  have hO : ∀ k, getORing u k = getORing s k := by intro k; rw [← hu]; rfl
  have hf : ∀ k, findOp u k = findOp s k := by intro k; rw [← hu]; rfl
  have hops : u.q.ops = s.q.ops := by rw [← hu]
  obtain ⟨w1, w2⟩ := recordOut_spec u o.part o.ring (dIrq o.desc) o.id (completionRecord o.desc o.ring st xs info)
  rw [hrO, hopen] at w1 w2
  simp only [hO] at w1 w2
  split
  · rename_i hc
    have hc' : dCmpl o.desc = true ∨ st ≠ stOk := by simpa using hc
    have hn : ¬(dCmpl o.desc = false ∧ st = stOk) := fun ⟨a, b⟩ => hc'.elim (fun c => by rw [a] at c; cases c) (fun c => c b)
    cases hop : oringOpen s o.part (getRing s o.ring).outRing with
    | true =>
      obtain ⟨f, m, e5, hm⟩ := w1 hop
      rw [e5]
      generalize hv : ({ u with fns := f, host := m, q := { u.q with orings := tset {} (getRing s o.ring).outRing { getORing s (getRing s o.ring).outRing with produced := ((getORing s (getRing s o.ring).outRing).produced + 1) % 2 ^ 32 } u.q.orings } } : State) = v
      have hfv : findOp v o.id = findOp s o.id := by rw [← hv]; exact hf _
      have hv1 : (getORing v (getRing s o.ring).outRing).produced = ((getORing s (getRing s o.ring).outRing).produced + 1) % 2 ^ 32 := by
        rw [← hv]
        show ORing.produced (tget _ (tset _ _ _ _) _) = _
        rw [tget_tset, if_pos rfl]
      have hvh : v.host = m := by rw [← hv]
      have hv2 : ∀ e, getEvt v e = tget {} es e := by intro e; rw [← hv, ← hu]; rfl
      have hvo : v.q.ops = s.q.ops := by rw [← hv]; exact hops
      have hvf : v = { s with fns := v.fns, host := v.host, q := v.q, pl := { s.pl with groups := v.pl.groups }, tr := { s.tr with vers := v.tr.vers } } := by
        rw [← hv, ← hu]
      have key : ∀ w : State, (w = updOp v o.id (fun x => { x with latches := [] }) ∧ (∃ x, findOp s o.id = some x ∧ x.phase = .recordHeld)
          ∨ w = removeOp v o.id ∨ (w = v ∧ findOp s o.id = none)) → Completed s w o st xs info := by
        intro w hw
        have g1 : ∀ e, getEvt w e = getEvt v e := by
          intro e; rcases hw with ⟨rfl, _⟩ | rfl | ⟨rfl, _⟩ <;> rfl
        have g2 : ∀ k, getORing w k = getORing v k := by
          intro e; rcases hw with ⟨rfl, _⟩ | rfl | ⟨rfl, _⟩ <;> rfl
        have g3 : w.host = m := by
          rcases hw with ⟨rfl, _⟩ | rfl | ⟨rfl, _⟩ <;> exact hvh
        refine ⟨(fun e => by rw [g1, hv2, hes]), fun a b => (hn ⟨a, b⟩).elim, fun _ _ => ⟨by rw [g2, hv1], fun ha => ?_, fun hr => ?_⟩,
          (fun _ h => by rw [hop] at h; cases h), fun x hx hne => ?_, ?_⟩
        · rcases hw with ⟨rfl, x, hx, hp⟩ | rfl | ⟨rfl, hx⟩
          · rw [hx] at ha; simp [hp] at ha
          · exact findOp_removeOp _ _
          · rw [hfv, hx]
        · have hp : getPart u o.part = getPart s o.part := by rw [← hu]; rfl
          have hl : (completionRecord o.desc o.ring st xs info).length = 16 := completionRecord_length _ _ _ _ _
          rw [hl, hp] at hm
          rw [g3]
          exact hm (recSize_ge _) hr
        · rw [← hvo] at hx
          rcases hw with ⟨rfl, _⟩ | rfl | ⟨rfl, _⟩
          · exact mem_updOp hx hne
          · exact mem_removeOp hx hne
          · exact hx
        · rcases hw with ⟨rfl, _⟩ | rfl | ⟨rfl, _⟩
          · rw [hvf]; rfl
          · rw [hvf]; rfl
          · exact hvf
      rw [hfv]
      apply key
      cases hx : findOp s o.id with
      | none => exact .inr (.inr ⟨rfl, rfl⟩)
      | some x =>
        dsimp only
        by_cases hp : x.phase = .recordHeld
        · rw [if_pos hp]; exact .inl ⟨rfl, x, rfl, hp⟩
        · rw [if_neg hp]; exact .inr (.inl rfl)
    | false =>
      obtain ⟨f, h, e5, hb⟩ := w2 hop
      rw [e5]
      generalize hv : ({ updOp u o.id (fun x => { x with phase := OpPhase.recordHeld }) with fns := f, q := { (updOp u o.id (fun x => { x with phase := OpPhase.recordHeld })).q with orings := tset {} (getRing s o.ring).outRing { getORing s (getRing s o.ring).outRing with held := (getORing s (getRing s o.ring).outRing).held ++ [h] } u.q.orings } } : State) = v
      have hfv : findOp v o.id = (findOp s o.id).map (fun x => { x with phase := .recordHeld }) := by
        rw [← hv, ← hf]; exact findOp_updOp u o.id _ (fun _ => rfl)
      have hv1 : (getORing v (getRing s o.ring).outRing).held = (getORing s (getRing s o.ring).outRing).held ++ [h] := by
        rw [← hv]
        show ORing.held (tget _ (tset _ _ _ _) _) = _
        rw [tget_tset, if_pos rfl]
      have hv2 : ∀ e, getEvt v e = tget {} es e := by intro e; rw [← hv, ← hu]; rfl
      have hvo : ∀ x ∈ s.q.ops, x.id ≠ o.id → x ∈ v.q.ops := by
        intro x hx hne; rw [← hv]; rw [← hops] at hx; exact mem_updOp (s := u) hx hne
      have hvf : v = { s with fns := v.fns, host := v.host, q := v.q, pl := { s.pl with groups := v.pl.groups }, tr := { s.tr with vers := v.tr.vers } } := by
        rw [← hv, ← hu]; rfl
      have key : ∀ w : State, (w = updOp v o.id (fun x => { x with latches := [] })
          ∨ (w = v ∧ findOp s o.id = none)) → Completed s w o st xs info := by
        intro w hw
        have g1 : ∀ e, getEvt w e = getEvt v e := by
          intro e; rcases hw with rfl | ⟨rfl, _⟩ <;> rfl
        have g2 : ∀ k, getORing w k = getORing v k := by
          intro e; rcases hw with rfl | ⟨rfl, _⟩ <;> rfl
        refine ⟨(fun e => by rw [g1, hv2, hes]), fun a b => (hn ⟨a, b⟩).elim, (fun _ h => by rw [hop] at h; cases h),
          fun _ _ => ⟨⟨h, by rw [g2, hv1], hb⟩, ?_⟩, fun x hx hne => ?_, ?_⟩
        · rcases hw with rfl | ⟨rfl, hx⟩
          · rw [findOp_updOp _ _ _ (by intro _; rfl), hfv]; cases findOp s o.id <;> simp
          · rw [hfv, hx]; rfl
        · have hx := hvo x hx hne
          rcases hw with rfl | ⟨rfl, _⟩
          · exact mem_updOp hx hne
          · exact hx
        · rcases hw with rfl | ⟨rfl, _⟩
          · rw [hvf]; rfl
          · exact hvf
      rw [hfv]
      apply key
      cases hx : findOp s o.id with
      | none => exact .inr ⟨rfl, rfl⟩
      | some x => exact .inl rfl
  · rename_i hc
    have hc' : dCmpl o.desc = false ∧ st = stOk := by simpa using hc
    refine ⟨fun e => ?_, fun _ _ => ⟨?_, ?_, findOp_removeOp _ _⟩, fun h _ => ?_, fun h _ => ?_, fun x hx hne => ?_, ?_⟩
    · rw [← hes, ← hu]; rfl
    · rw [← hu]; rfl
    · rw [← hu]; rfl
    · exact h.elim (fun c => by rw [hc'.1] at c; cases c) (fun c => absurd hc'.2 c)
    · exact h.elim (fun c => by rw [hc'.1] at c; cases c) (fun c => absurd hc'.2 c)
    · rw [← hops] at hx; exact mem_removeOp hx hne
    · rw [← hu]; rfl

end Sys2Proof.Machine
end

