-- ==== Sys2Proof/Laws/Keep.lean ====
section
/-! SUPPORT. What a command can do to the parts of the state that whole-machine statements speak of: one lemma for each
operation, saying that it leaves the queue and the fused data alone, never lowers SVN_MIN, SEQ or the free-value
counter, keeps the canonical form of the memories, the Kettle's level range, the log's order and READY's meaning, and
leaves TICK or restarts it. -/

namespace Sys2Proof.Machine

open Sys2Proof

/-- From `s` to `t` the whole-machine properties are kept. -/
structure Keep (s t : State) : Prop where
  pending : t.pending = s.pending
  fused : fusedPart t.part = fusedPart s.part
  svn : s.part.svnMin ≤ t.part.svnMin
  seq : s.dbx.logSeq ≤ t.dbx.logSeq
  free : s.free ≤ t.free
  tick : t.power.tick = s.power.tick ∨ t.power.tick = 0#64
  mem : memoriesOk s = true → memoriesOk t = true
  level : levelsOk s = true → levelsOk t = true
  log : logOk s → logOk t
  ready : readyOk s = true → readyOk t = true

/-- The same for the outcome of a command. -/
structure KeepOut (s : State) (o : Out) : Prop where
  keep : ∀ t, o = .next t → Keep s t

theorem keep_refl (s : State) : Keep s s := ⟨rfl, rfl, Nat.le_refl _, Nat.le_refl _, Nat.le_refl _, .inl rfl, id, id, id, id⟩

theorem keep_trans {s t u : State} (a : Keep s t) (b : Keep t u) : Keep s u where
  pending := b.pending.trans a.pending
  fused := b.fused.trans a.fused
  svn := Nat.le_trans a.svn b.svn
  seq := Nat.le_trans a.seq b.seq
  free := Nat.le_trans a.free b.free
  tick := by
    rcases b.tick with e | e
    · rw [e]; exact a.tick
    · exact .inr e
  mem h := b.mem (a.mem h)
  level h := b.level (a.level h)
  log h := b.log (a.log h)
  ready h := b.ready (a.ready h)

/-- The parts that `Keep` speaks of. -/
structure Tracked where
  pending : List Instr
  part : PartData
  free : Nat
  host : Mem
  cells : Mem
  flips : Mem
  sram : Mem
  f : Nat
  depthF : Nat
  heldF : Option Nat
  log : List LogEntry
  logHeld : List LogEntry
  logSeq : Nat
  ready : Bool
  phase : Phase
  tick : BitVec 64

abbrev tracked (s : State) : Tracked :=
  ⟨s.pending, s.part, s.free, s.host, s.dram.cells, s.dram.flips, s.cores.sram, s.kt.f, s.kt.depthF, s.kt.heldF,
    s.dbx.log, s.dbx.logHeld, s.dbx.logSeq, s.power.ready, s.power.phase, s.power.tick⟩

/-- An update of other parts keeps everything. -/
theorem keep_of_tracked {s t : State} (e : tracked t = tracked s) : Keep s t := by
  simp only [tracked, Tracked.mk.injEq] at e
  obtain ⟨e1, e2, e3, e4, e5, e6, e7, e8, e9, e10, e11, e12, e13, e14, e15, e16⟩ := e
  constructor <;> simp_all [memoriesOk, levelsOk, logOk, readyOk]

theorem keep_upd {s0 s t : State} (h : Keep s0 s) (e : tracked t = tracked s) : Keep s0 t := keep_trans h (keep_of_tracked e)

/-- An update of other parts, in the form an update of the record takes. -/
theorem keep_mk {s0 s : State} {lr : ReadData} {rd : List (Nat × Nat × Nat)} {power : Power} {fns : Tbl FnRegs} {ports : Tbl PortRegs} {fo : Option Nat} {fop : Nat}
    {parts : Tbl PartRegs} {q : Queues} {cores : Cores} {dram : Dram} {tr : Training} {st : Steeper} {pl : Plait} {fab : Fabric}
    {links : Links} {kt : Kettle} {dbx : Drabex} (h : Keep s0 s)
    (e1 : power.ready = s.power.ready := by rfl) (e2 : power.phase = s.power.phase := by rfl) (e3 : power.tick = s.power.tick := by rfl)
    (e4 : cores.sram = s.cores.sram := by rfl) (e5 : dram.cells = s.dram.cells := by rfl) (e6 : dram.flips = s.dram.flips := by rfl)
    (e7 : kt.f = s.kt.f := by rfl) (e8 : kt.depthF = s.kt.depthF := by rfl) (e9 : kt.heldF = s.kt.heldF := by rfl)
    (e10 : dbx.log = s.dbx.log := by rfl) (e11 : dbx.logHeld = s.dbx.logHeld := by rfl) (e12 : dbx.logSeq = s.dbx.logSeq := by rfl) :
    Keep s0 (State.mk s.pending s.free s.host lr rd s.part power fns ports fo fop parts q cores dram tr st pl fab links kt dbx) :=
  keep_upd h (by simp only [tracked, e1, e2, e3, e4, e5, e6, e7, e8, e9, e10, e11, e12])

/-- An update of the DRAM that keeps the canonical form of its bytes and upsets. -/
theorem keep_dram {s0 s : State} {dram : Dram} (h : Keep s0 s) (hc : Memory.wf s.dram.cells = true → Memory.wf dram.cells = true)
    (hf : Memory.wf s.dram.flips = true → Memory.wf dram.flips = true) : Keep s0 { s with dram := dram } := by
  refine keep_trans h ⟨rfl, rfl, Nat.le_refl _, Nat.le_refl _, Nat.le_refl _, .inl rfl, ?_, id, id, id⟩
  simp only [memoriesOk, Bool.and_eq_true]
  exact fun w => ⟨⟨⟨w.1.1.1, hc w.1.1.2⟩, hf w.1.2⟩, w.2⟩

/-- An update of the cores that keeps the canonical form of their SRAM. -/
theorem keep_cores {s0 s : State} {cores : Cores} (h : Keep s0 s) (hc : Memory.wf s.cores.sram = true → Memory.wf cores.sram = true) :
    Keep s0 { s with cores := cores } := by
  refine keep_trans h ⟨rfl, rfl, Nat.le_refl _, Nat.le_refl _, Nat.le_refl _, .inl rfl, ?_, id, id, id⟩
  simp only [memoriesOk, Bool.and_eq_true]
  exact fun w => ⟨w.1, hc w.2⟩

theorem wf_forN {g : Nat → Mem → Mem} (hg : ∀ i m, Memory.wf m = true → Memory.wf (g i m) = true) :
    ∀ {n : Nat} {m : Mem}, Memory.wf m = true → Memory.wf (forN n g m) = true
  | 0, _, h => h
  | n + 1, _, h => hg n _ (wf_forN hg (n := n) h)

theorem wf_foldl {β : Type} {g : Mem → β → Mem} (hg : ∀ m x, Memory.wf m = true → Memory.wf (g m x) = true) :
    ∀ (l : List β) {m : Mem}, Memory.wf m = true → Memory.wf (l.foldl g m) = true
  | [], _, h => h
  | x :: l, _, h => wf_foldl hg l (hg _ x h)

/-- An update of the Kettle that keeps its levels in range. -/
theorem keep_kt {s0 s : State} {kt : Kettle} (h : Keep s0 s) (hl : levelsOk s = true → levelsOk { s with kt := kt } = true) :
    Keep s0 { s with kt := kt } :=
  keep_trans h ⟨rfl, rfl, Nat.le_refl _, Nat.le_refl _, Nat.le_refl _, .inl rfl, id, hl, id, id⟩

/-- An update of the power state that leaves TICK and keeps READY's meaning. -/
theorem keep_power {s0 s : State} {power : Power} (h : Keep s0 s) (ht : power.tick = s.power.tick)
    (hr : readyOk s = true → readyOk { s with power := power } = true) : Keep s0 { s with power := power } :=
  keep_trans h ⟨rfl, rfl, Nat.le_refl _, Nat.le_refl _, Nat.le_refl _, .inl ht, id, id, id, hr⟩

theorem startLevel_le (s : State) : startLevel s ≤ 224 := by
  unfold startLevel maxCodeOf; split <;> omega

theorem floorLevel_le (s : State) : floorLevel s ≤ 224 := by
  unfold floorLevel floorCodeOf; split <;> omega

theorem levelsOk_iff (s : State) : levelsOk s = true ↔ s.kt.f ≤ 224 ∧ s.kt.depthF ≤ 224 ∧ ∀ f, s.kt.heldF = some f → f ≤ 224 := by
  unfold levelsOk
  cases s.kt.heldF <;> simp [and_assoc]

theorem keep_fst {s0 a : State} {β : Type} {b : β} {p : State × β} (e : p = (a, b)) (h : Keep s0 p.1) : Keep s0 a := by
  subst e; exact h

theorem keep_foldl {s0 : State} {β : Type} {g : State → β → State} (hg : ∀ t x, Keep s0 t → Keep s0 (g t x)) :
    ∀ (l : List β) {s : State}, Keep s0 s → Keep s0 (l.foldl g s)
  | [], _, h => h
  | x :: l, _, h => keep_foldl hg l (hg _ x h)

theorem keep_foldl_fst {s0 : State} {β γ : Type} {g : State × γ → β → State × γ}
    (hg : ∀ t x, Keep s0 t.1 → Keep s0 (g t x).1) : ∀ (l : List β) {s : State × γ}, Keep s0 s.1 → Keep s0 (l.foldl g s).1
  | [], _, h => h
  | x :: l, _, h => keep_foldl_fst hg l (hg _ x h)

theorem keep_forN {s0 : State} {g : Nat → State → State} (hg : ∀ i t, Keep s0 t → Keep s0 (g i t)) :
    ∀ (n : Nat) {s : State}, Keep s0 s → Keep s0 (forN n g s)
  | 0, _, h => h
  | n + 1, _, h => hg n _ (keep_forN hg n h)

theorem keep_ite {s0 a b : State} {c : Prop} [Decidable c] (ha : Keep s0 a) (hb : Keep s0 b) : Keep s0 (if c then a else b) := by
  split
  · exact ha
  · exact hb

/-- An appended entry keeps the log's order. -/
theorem logOk_append {l h : List LogEntry} {e : LogEntry} {n m : Nat} (hp : ((l ++ h).map (·.seq)).Pairwise (· < ·))
    (hb : ∀ x ∈ l ++ h, x.seq < n) (he : e.seq = n) (hm : m = n + 1) :
    ((l ++ (h ++ [e])).map (·.seq)).Pairwise (· < ·) ∧ ∀ x ∈ l ++ (h ++ [e]), x.seq < m := by
  subst hm
  refine ⟨?_, ?_⟩
  · rw [← List.append_assoc, List.map_append, List.pairwise_append]
    refine ⟨hp, by simp, ?_⟩
    intro a ha b hb'
    simp only [List.map_cons, List.map_nil, List.mem_singleton] at hb'
    obtain ⟨x, hx, rfl⟩ := List.mem_map.mp ha
    rw [hb', he]; exact hb x hx
  · intro x hx
    rw [← List.append_assoc, List.mem_append, List.mem_singleton] at hx
    rcases hx with hx | hx
    · exact Nat.lt_succ_of_lt (hb x hx)
    · rw [hx, he]; exact Nat.lt_succ_self n

/-- An update of the Drabex that keeps the log's order and lowers no SEQ. -/
theorem keep_dbx {s0 s : State} {dbx : Drabex} (h : Keep s0 s) (hs : s.dbx.logSeq ≤ dbx.logSeq)
    (hl : logOk s → logOk { s with dbx := dbx }) : Keep s0 { s with dbx := dbx } :=
  keep_trans h ⟨rfl, rfl, Nat.le_refl _, hs, Nat.le_refl _, .inl rfl, id, id, hl, id⟩

theorem addLog_eq (s : State) (kind code part sev : Nat) (args : Bytes) :
    addLog s kind code part sev args = { s with dbx := (addLog s kind code part sev args).dbx } := by
  unfold addLog; dsimp only
  repeat' split
  all_goals rfl

theorem keep_addLog_self (s : State) (kind code part sev : Nat) (args : Bytes) : Keep s (addLog s kind code part sev args) := by
  rw [addLog_eq]
  refine keep_dbx (keep_refl s) ?_ ?_
  · unfold addLog; dsimp only
    repeat' split
    all_goals first | exact Nat.le_refl _ | exact Nat.le_succ _ | (simp; try omega)
  · rw [← addLog_eq]
    intro ⟨hp, hb, h1, h2⟩
    unfold addLog; dsimp only
    by_cases h4 : 4096 ≤ s.dbx.logHeld.length
    · simp only [h4, if_true]; exact ⟨hp, hb, h1, h2⟩
    · by_cases hd : s.dbx.dropped = 0
      · simp only [h4, hd, if_false, if_true]
        have a := logOk_append (e := ⟨kind, code, s.dbx.logSeq, logTick s, s.power.boots, padTo 12 args, part, sev⟩) hp hb rfl rfl
        exact ⟨a.1, a.2, by simp; omega, h2⟩
      · simp only [h4, hd, if_false]
        have a := logOk_append (e := ⟨5, 0, s.dbx.logSeq, logTick s, s.power.boots, padTo 12 (leBytes 4 s.dbx.dropped), 0xFF, 0⟩) hp hb rfl rfl
        split
        · exact ⟨a.1, a.2, by simp; omega, h2⟩
        · rename_i h5
          have b := logOk_append (e := ⟨kind, code, s.dbx.logSeq + 1, logTick s, s.power.boots, padTo 12 args, part, sev⟩) a.1 a.2 rfl rfl
          exact ⟨b.1, b.2, by simp at h5 ⊢; omega, h2⟩

theorem keep_ite_fst {s0 : State} {β : Type} {a b : State × β} {c : Prop} [Decidable c] (ha : Keep s0 a.1) (hb : Keep s0 b.1) :
    Keep s0 (if c then a else b).1 := by
  split
  · exact ha
  · exact hb

theorem keep_ite_ran {s0 : State} {a b : Ran} {c : Prop} [Decidable c] (ha : Keep s0 a.s) (hb : Keep s0 b.s) :
    Keep s0 (if c then a else b).s := by
  split
  · exact ha
  · exact hb

theorem keepOut_ite {s0 : State} {a b : Out} {c : Prop} [Decidable c] (ha : KeepOut s0 a) (hb : KeepOut s0 b) :
    KeepOut s0 (if c then a else b) := by
  split
  · exact ha
  · exact hb

theorem keepOut_next {s0 t : State} (h : Keep s0 t) : KeepOut s0 (.next t) := ⟨fun _ e => by cases e; exact h⟩

end Sys2Proof.Machine
end

