-- ==== Sys2Proof/Laws/KeepOps.lean ====
section
/-! SUPPORT. What `Keep` says of the shared operations of events, registers, memory, networks and queues: one lemma for each definition. -/

namespace Sys2Proof.Machine

open Sys2Proof

set_option Elab.async false

theorem keep_setFn {s0 : State} (s : State) (f : Nat) (r : FnRegs) (h0 : Keep s0 s) : Keep s0 (setFn s f r) := by
  unfold setFn
  repeat' first | with_reducible assumption | (with_reducible refine keep_mk ?_)

theorem keep_updFn {s0 : State} (s : State) (f : Nat) (g : FnRegs → FnRegs) (h0 : Keep s0 s) : Keep s0 (updFn s f g)
    := by
  unfold updFn
  repeat' first | with_reducible assumption | (with_reducible refine keep_setFn _ _ _ ?_)

theorem keep_updPort {s0 : State} (s : State) (p : Nat) (g : PortRegs → PortRegs) (h0 : Keep s0 s) : Keep s0
    (updPort s p g) := by
  unfold updPort
  repeat' first | with_reducible assumption | (with_reducible refine keep_mk ?_)

theorem keep_setPart {s0 : State} (s : State) (p : Nat) (r : PartRegs) (h0 : Keep s0 s) : Keep s0 (setPart s p r)
    := by
  unfold setPart
  repeat' first | with_reducible assumption | (with_reducible refine keep_mk ?_)

theorem keep_updPart {s0 : State} (s : State) (p : Nat) (g : PartRegs → PartRegs) (h0 : Keep s0 s) : Keep s0
    (updPart s p g) := by
  unfold updPart
  repeat' first | with_reducible assumption | (with_reducible refine keep_setPart _ _ _ ?_)

theorem keep_setRing {s0 : State} (s : State) (r : Nat) (x : Ring) (h0 : Keep s0 s) : Keep s0 (setRing s r x) := by
  unfold setRing
  repeat' first | with_reducible assumption | (with_reducible refine keep_mk ?_)

theorem keep_updRing {s0 : State} (s : State) (r : Nat) (g : Ring → Ring) (h0 : Keep s0 s) : Keep s0 (updRing s r g)
    := by
  unfold updRing
  repeat' first | with_reducible assumption | (with_reducible refine keep_setRing _ _ _ ?_)

theorem keep_setORing {s0 : State} (s : State) (o : Nat) (x : ORing) (h0 : Keep s0 s) : Keep s0 (setORing s o x) := by
  unfold setORing
  repeat' first | with_reducible assumption | (with_reducible refine keep_mk ?_)

theorem keep_updORing {s0 : State} (s : State) (o : Nat) (g : ORing → ORing) (h0 : Keep s0 s) : Keep s0 (updORing s
    o g) := by
  unfold updORing
  repeat' first | with_reducible assumption | (with_reducible refine keep_setORing _ _ _ ?_)

theorem keep_setEvt {s0 : State} (s : State) (e : Nat) (x : EvtCounter) (h0 : Keep s0 s) : Keep s0 (setEvt s e x)
    := by
  unfold setEvt
  repeat' first | with_reducible assumption | (with_reducible refine keep_mk ?_)

theorem keep_updWindow {s0 : State} (s : State) (l : Nat) (g : Window → Window) (h0 : Keep s0 s) : Keep s0
    (updWindow s l g) := by
  unfold updWindow
  repeat' first | with_reducible assumption | (with_reducible refine keep_mk ?_)

theorem keep_updCore {s0 : State} (s : State) (l : Nat) (g : CoreRegs → CoreRegs) (h0 : Keep s0 s) : Keep s0
    (updCore s l g) := by
  unfold updCore
  repeat' first | with_reducible assumption | (with_reducible refine keep_mk ?_)

theorem keep_setRegion {s0 : State} (s : State) (rid : Nat) (x : Region) (h0 : Keep s0 s) : Keep s0 (setRegion s rid
    x) := by
  unfold setRegion
  repeat' first | with_reducible assumption | (with_reducible refine keep_mk ?_)

theorem keep_setChannel {s0 : State} (s : State) (l : Nat) (c : Channel) (h0 : Keep s0 s) : Keep s0 (setChannel s l
    c) := by
  unfold setChannel
  repeat' first | with_reducible assumption | (with_reducible refine keep_mk ?_)

theorem keep_updChannel {s0 : State} (s : State) (l : Nat) (g : Channel → Channel) (h0 : Keep s0 s) : Keep s0
    (updChannel s l g) := by
  unfold updChannel
  repeat' first | with_reducible assumption | (with_reducible refine keep_setChannel _ _ _ ?_)

theorem keep_setVer {s0 : State} (s : State) (l : Nat) (v : VerState) (h0 : Keep s0 s) : Keep s0 (setVer s l v) := by
  unfold setVer
  repeat' first | with_reducible assumption | (with_reducible refine keep_mk ?_)

theorem keep_setGov {s0 : State} (s : State) (l : Nat) (v : GovState) (h0 : Keep s0 s) : Keep s0 (setGov s l v) := by
  unfold setGov
  repeat' first | with_reducible assumption | (with_reducible refine keep_mk ?_)

theorem keep_setStash {s0 : State} (s : State) (p : Nat) (entry : Nat) (x : Option Stash) (h0 : Keep s0 s) : Keep s0
    (setStash s p entry x) := by
  unfold setStash
  repeat' first | with_reducible assumption | (with_reducible refine keep_mk ?_)

theorem keep_setGroup {s0 : State} (s : State) (g : Nat) (x : Group) (h0 : Keep s0 s) : Keep s0 (setGroup s g x) := by
  unfold setGroup
  repeat' first | with_reducible assumption | (with_reducible refine keep_mk ?_)

theorem keep_setVote {s0 : State} (s : State) (p : Nat) (v : VoteState) (h0 : Keep s0 s) : Keep s0 (setVote s p v)
    := by
  unfold setVote
  repeat' first | with_reducible assumption | (with_reducible refine keep_mk ?_)

theorem keep_updLaser {s0 : State} (s : State) (i : Nat) (g : Laser → Laser) (h0 : Keep s0 s) : Keep s0 (updLaser s
    i g) := by
  unfold updLaser
  repeat' first | with_reducible assumption | (with_reducible refine keep_mk ?_)

theorem keep_updLink {s0 : State} (s : State) (p : Nat) (g : LinkPort → LinkPort) (h0 : Keep s0 s) : Keep s0
    (updLink s p g) := by
  unfold updLink
  repeat' first | with_reducible assumption | (with_reducible refine keep_mk ?_)

theorem keep_updLane {s0 : State} (s : State) (port : Nat) (w : Nat) (g : Lane → Lane) (h0 : Keep s0 s) : Keep s0
    (updLane s port w g) := by
  unfold updLane
  repeat' first | with_reducible assumption | (with_reducible refine keep_mk ?_)

theorem keep_setSeg {s0 : State} (s : State) (g : SegId) (x : Seg) (h0 : Keep s0 s) : Keep s0 (setSeg s g x) := by
  unfold setSeg
  repeat' first | with_reducible assumption | (with_reducible refine keep_mk ?_)

theorem keep_updSeg {s0 : State} (s : State) (g : SegId) (h_2 : Seg → Seg) (h0 : Keep s0 s) : Keep s0 (updSeg s g
    h_2) := by
  unfold updSeg
  repeat' first | with_reducible assumption | (with_reducible refine keep_setSeg _ _ _ ?_)

theorem keep_setLeaf {s0 : State} (s : State) (f : Nat) (off : Nat) (bits : Nat) (h0 : Keep s0 s) : Keep s0 (setLeaf
    s f off bits) := by
  unfold setLeaf
  repeat' first | with_reducible assumption | (with_reducible refine keep_updFn _ _ _ ?_)

theorem keep_setOwnerLeaf {s0 : State} (s : State) (p : Nat) (off : Nat) (bits : Nat) (h0 : Keep s0 s) : Keep s0
    (setOwnerLeaf s p off bits) := by
  unfold setOwnerLeaf
  repeat' first
      | with_reducible assumption | (with_reducible refine keep_setLeaf _ _ _ _ ?_)
      | (with_reducible refine keep_ite ?_ ?_)

theorem keep_hostStores {s0 : State} (s : State) (h_1 : HostIn) (h0 : Keep s0 s) : Keep s0 (hostStores s h_1) := by
  refine keep_trans h0 ⟨rfl, rfl, Nat.le_refl _, Nat.le_refl _, Nat.le_refl _, .inl rfl, ?_, id, id, id⟩
  simp only [memoriesOk, hostStores, Bool.and_eq_true]
  exact fun h => ⟨⟨⟨wf_mstores _ h.1.1.1, h.1.1.2⟩, h.1.2⟩, h.2⟩

theorem keep_hostWrite {s0 : State} (s : State) (port : Nat) (addr : Nat) (b : Bytes) (h0 : Keep s0 s) : Keep s0
    (hostWrite s port addr b) := by
  refine keep_trans h0 ⟨rfl, rfl, Nat.le_refl _, Nat.le_refl _, Nat.le_refl _, .inl rfl, ?_, id, id, id⟩
  simp only [memoriesOk, hostWrite, Bool.and_eq_true]
  exact fun h => ⟨⟨⟨wf_mwrite _ _ h.1.1.1, h.1.1.2⟩, h.1.2⟩, h.2⟩

theorem keep_addLog {s0 : State} (s : State) (kind : Nat) (code : Nat) (part : Nat) (sev : Nat) (args : Bytes) (h0 :
    Keep s0 s) : Keep s0 (addLog s kind code part sev args) := by
  refine keep_trans h0 (keep_addLog_self s kind code part sev args)

theorem keep_oringStatus {s0 : State} (s : State) (p : Nat) (o : Nat) (h0 : Keep s0 s) : Keep s0 (oringStatus s p o)
    := by
  unfold oringStatus
  repeat' first | with_reducible assumption | (with_reducible refine keep_hostWrite _ _ _ _ ?_)

theorem keep_putRecord {s0 : State} (s : State) (p : Nat) (o : Nat) (b : Bytes) (h0 : Keep s0 s) : Keep s0
    (putRecord s p o b) := by
  unfold putRecord
  repeat' first
      | with_reducible assumption | (with_reducible refine keep_hostWrite _ _ _ _ ?_)
      | (with_reducible refine keep_oringStatus _ _ _ ?_) | (with_reducible refine keep_setORing _ _ _ ?_)

theorem keep_holdRecord {s0 : State} (s : State) (p : Nat) (o : Nat) (r : HeldRec) (h0 : Keep s0 s) : Keep s0
    (holdRecord s p o r) := by
  unfold holdRecord
  repeat' first
      | with_reducible assumption | (with_reducible refine keep_setOwnerLeaf _ _ _ _ ?_)
      | (with_reducible refine keep_updORing _ _ _ ?_)

theorem keep_eventToPart {s0 : State} (s : State) (p : Nat) (b : Bytes) (h0 : Keep s0 s) : Keep s0 (eventToPart s p
    b) := by
  unfold eventToPart
  repeat' first
      | with_reducible assumption | (with_reducible refine keep_setOwnerLeaf _ _ _ _ ?_)
      | (with_reducible refine keep_putRecord _ _ _ _ ?_) | (with_reducible refine keep_updORing _ _ _ ?_)
      | (with_reducible refine keep_holdRecord _ _ _ _ ?_) | (with_reducible refine keep_ite ?_ ?_)

theorem keep_setPfLeaf {s0 : State} (s : State) (port : Nat) (off : Nat) (bits : Nat) (h0 : Keep s0 s) : Keep s0
    (setPfLeaf s port off bits) := by
  unfold setPfLeaf
  repeat' first
      | with_reducible assumption | (with_reducible refine keep_setLeaf _ _ _ _ ?_)
      | (with_reducible refine keep_ite ?_ ?_)

theorem keep_raise {s0 : State} (s : State) (code : Nat) (part : Nat) (args : Bytes) (h0 : Keep s0 s) : Keep s0
    (raise s code part args) := by
  unfold raise
  repeat' first
      | with_reducible assumption | (with_reducible refine keep_addLog _ _ _ _ _ _ ?_)
      | (with_reducible refine keep_setPfLeaf _ _ _ _ ?_) | (with_reducible refine keep_eventToPart _ _ _ ?_)
      | (with_reducible refine keep_ite ?_ ?_) | intro _ | (with_reducible refine keep_forN ?_ _ ?_)
      | (with_reducible refine keep_mk ?_)

theorem keep_raiseMod {s0 : State} (s : State) (code : Nat) (args : Bytes) (h0 : Keep s0 s) : Keep s0 (raiseMod s
    code args) := by
  unfold raiseMod
  repeat' first | with_reducible assumption | (with_reducible refine keep_raise _ _ _ _ ?_)

theorem keep_postNotice {s0 : State} (s : State) (f : Nat) (code : Nat) (arg : Nat) (h0 : Keep s0 s) : Keep s0
    (postNotice s f code arg) := by
  unfold postNotice
  try dsimp only
  repeat' first
      | with_reducible assumption | (with_reducible refine keep_updFn _ _ _ ?_)
      | (with_reducible refine keep_setLeaf _ _ _ _ ?_) | (with_reducible refine keep_ite ?_ ?_)
      | (with_reducible refine keep_ite_fst ?_ ?_) | intro _ | split | (with_reducible refine keep_foldl ?_ _ ?_)
      | (with_reducible refine keep_forN ?_ _ ?_) | (with_reducible refine keep_foldl_fst ?_ _ ?_)
      | (with_reducible refine keep_mk ?_)

theorem keep_sendOut {s0 : State} (s : State) (ep : Nat) (b : Bytes) (h0 : Keep s0 s) : Keep s0 (sendOut s ep b) := by
  unfold sendOut
  repeat' first | with_reducible assumption | (with_reducible refine keep_mk ?_)

theorem keep_respond {s0 : State} (s : State) (ep : Nat) (b : Bytes) (h0 : Keep s0 s) : Keep s0 (respond s ep b) := by
  unfold respond
  repeat' first
      | with_reducible assumption | (with_reducible refine keep_setLeaf _ _ _ _ ?_)
      | (with_reducible refine keep_updFn _ _ _ ?_) | (with_reducible refine keep_sendOut _ _ _ ?_)
      | (with_reducible refine keep_ite ?_ ?_)

theorem keep_configWrite {s0 : State} (s : State) (e : Nat × ConfigWrite) (h0 : Keep s0 s) : Keep s0 (configWrite s
    e) := by
  unfold configWrite
  repeat' first
      | with_reducible assumption | (with_reducible refine keep_updFn _ _ _ ?_)
      | (with_reducible refine keep_updPort _ _ _ ?_) | split

theorem keep_configWrites {s0 : State} (s : State) (h_1 : HostIn) (h0 : Keep s0 s) : Keep s0 (configWrites s h_1)
    := by
  unfold configWrites
  repeat' first
      | with_reducible assumption | (with_reducible refine keep_configWrite _ _ ?_) | intro _
      | (with_reducible refine keep_foldl ?_ _ ?_)

theorem keep_noteAer {s0 : State} (s : State) (f : Nat) (bits : Word32) (h0 : Keep s0 s) : Keep s0 (noteAer s f
    bits) := by
  unfold noteAer
  repeat' first
      | with_reducible assumption | (with_reducible refine keep_updFn _ _ _ ?_)
      | (with_reducible refine keep_ite ?_ ?_)

theorem keep_notePoison {s0 : State} (s : State) (f : Nat) (d : HostData) (h0 : Keep s0 s) : Keep s0 (notePoison s f
    d) := by
  unfold notePoison
  try dsimp only
  repeat' first
      | with_reducible assumption | (with_reducible refine keep_noteAer _ _ _ ?_)
      | (with_reducible refine keep_ite ?_ ?_) | (with_reducible refine keep_ite_fst ?_ ?_) | intro _ | split
      | (with_reducible refine keep_foldl ?_ _ ?_) | (with_reducible refine keep_forN ?_ _ ?_)
      | (with_reducible refine keep_foldl_fst ?_ _ ?_) | (with_reducible refine keep_mk ?_)

theorem keep_signalEvt {s0 : State} (s : State) (e : Nat) (fail : Bool) (h0 : Keep s0 s) : Keep s0 (signalEvt s e
    fail) := by
  unfold signalEvt
  repeat' first
      | with_reducible assumption | (with_reducible refine keep_setEvt _ _ _ ?_)
      | (with_reducible refine keep_ite ?_ ?_)

theorem keep_fenceAdd {s0 : State} (s : State) (layer : Nat) (slot : Nat) (h0 : Keep s0 s) : Keep s0 (fenceAdd s
    layer slot) := by
  unfold fenceAdd
  repeat' first | with_reducible assumption | (with_reducible refine keep_setVer _ _ _ ?_)

theorem keep_fenceSub {s0 : State} (s : State) (layer : Nat) (slot : Nat) (h0 : Keep s0 s) : Keep s0 (fenceSub s
    layer slot) := by
  unfold fenceSub
  repeat' first | with_reducible assumption | (with_reducible refine keep_setVer _ _ _ ?_)

theorem keep_releaseLatches {s0 : State} (s : State) (ls : List Latch) (h0 : Keep s0 s) : Keep s0 (releaseLatches s
    ls) := by
  unfold releaseLatches
  repeat' first
      | with_reducible assumption | (with_reducible refine keep_fenceSub _ _ _ ?_) | intro _
      | (with_reducible refine keep_foldl ?_ _ ?_)

theorem keep_releasePins {s0 : State} (s : State) (ps : List Pin) (h0 : Keep s0 s) : Keep s0 (releasePins s ps) := by
  unfold releasePins
  repeat' first
      | with_reducible assumption | (with_reducible refine keep_fenceSub _ _ _ ?_) | intro _
      | (with_reducible refine keep_foldl ?_ _ ?_)

theorem keep_removeOp {s0 : State} (s : State) (id : Nat) (h0 : Keep s0 s) : Keep s0 (removeOp s id) := by
  unfold removeOp
  repeat' first | with_reducible assumption | (with_reducible refine keep_mk ?_)

theorem keep_updOp {s0 : State} (s : State) (id : Nat) (g : Op → Op) (h0 : Keep s0 s) : Keep s0 (updOp s id g) := by
  unfold updOp
  repeat' first | with_reducible assumption | (with_reducible refine keep_mk ?_)

theorem keep_windowDone {s0 : State} (s : State) (core : Nat) (op : Nat) (st : Nat) (srel : Bool) (h0 : Keep s0 s) :
    Keep s0 (windowDone s core op st srel) := by
  unfold windowDone
  repeat' first
      | with_reducible assumption | (with_reducible refine keep_updWindow _ _ _ ?_)
      | (with_reducible refine keep_ite ?_ ?_)

theorem keep_recentDone {s0 : State} (s : State) (ring : Nat) (pos : Nat) (st : Nat) (ls : List Latch) (h0 : Keep s0
    s) : Keep s0 (recentDone s ring pos st ls) := by
  unfold recentDone
  repeat' first | with_reducible assumption | (with_reducible refine keep_updRing _ _ _ ?_)

theorem keep_recordOut {s0 : State} (s : State) (p : Nat) (ring : Nat) (irq : Bool) (op : Option Nat) (b : Bytes)
    (h0 : Keep s0 s) : Keep s0 (recordOut s p ring irq op b) := by
  unfold recordOut
  try dsimp only
  repeat' first
      | with_reducible assumption | (with_reducible refine keep_putRecord _ _ _ _ ?_)
      | (with_reducible refine keep_setOwnerLeaf _ _ _ _ ?_) | (with_reducible refine keep_updOp _ _ _ ?_)
      | (with_reducible refine keep_holdRecord _ _ _ _ ?_) | split

theorem keep_consumeSeq {s0 : State} (s : State) (p : Nat) (d : Bytes) (h0 : Keep s0 s) : Keep s0 (consumeSeq s p d)
    := by
  unfold consumeSeq
  repeat' first
      | with_reducible assumption | (with_reducible refine keep_setGroup _ _ _ ?_)
      | (with_reducible refine keep_ite ?_ ?_)

theorem keep_completeUndispatched {s0 : State} (s : State) (p : Nat) (ring : Nat) (pos : Nat) (d : Bytes) (signal :
    Bool) (st : Nat) (xs : Nat) (h0 : Keep s0 s) : Keep s0 (completeUndispatched s p ring pos d signal st xs) := by
  unfold completeUndispatched
  repeat' first
      | with_reducible assumption | (with_reducible refine keep_consumeSeq _ _ _ ?_)
      | (with_reducible refine keep_signalEvt _ _ _ ?_) | (with_reducible refine keep_recentDone _ _ _ _ _ ?_)
      | (with_reducible refine keep_recordOut _ _ _ _ _ _ ?_) | (with_reducible refine keep_ite ?_ ?_)

theorem keep_complete {s0 : State} (s : State) (o : Op) (st : Nat) (xs : Nat) (info : Nat) (h0 : Keep s0 s) : Keep
    s0 (complete s o st xs info) := by
  unfold complete
  try dsimp only
  repeat' first
      | with_reducible assumption | (with_reducible refine keep_consumeSeq _ _ _ ?_)
      | (with_reducible refine keep_signalEvt _ _ _ ?_) | (with_reducible refine keep_releaseLatches _ _ ?_)
      | (with_reducible refine keep_recentDone _ _ _ _ _ ?_) | (with_reducible refine keep_windowDone _ _ _ _ _ ?_)
      | (with_reducible refine keep_recordOut _ _ _ _ _ _ ?_) | (with_reducible refine keep_updOp _ _ _ ?_)
      | (with_reducible refine keep_removeOp _ _ ?_) | split

theorem keep_drawFree {s0 : State} (s : State) (n : Nat) (h0 : Keep s0 s) : Keep s0 (drawFree s n) := by
  exact keep_trans h0 ⟨rfl, rfl, Nat.le_refl _, Nat.le_refl _, Nat.le_add_right _ _, .inl rfl, id, id, id, id⟩

theorem keep_ringStatus {s0 : State} (s : State) (ring : Nat) (h0 : Keep s0 s) : Keep s0 (ringStatus s ring) := by
  unfold ringStatus
  repeat' first | with_reducible assumption | (with_reducible refine keep_hostWrite _ _ _ _ ?_) | split

theorem keep_stopRing {s0 : State} (s : State) (ring : Nat) (err : Nat) (h0 : Keep s0 s) : Keep s0 (stopRing s ring
    err) := by
  unfold stopRing
  repeat' first
      | with_reducible assumption | (with_reducible refine keep_ringStatus _ _ ?_)
      | (with_reducible refine keep_updRing _ _ _ ?_) | (with_reducible refine keep_setOwnerLeaf _ _ _ _ ?_) | split

theorem keep_dramUpsets {s0 : State} (s : State) (m : MemIn) (h0 : Keep s0 s) : Keep s0 (dramUpsets s m) := by
  exact keep_dram h0 id (fun w => wf_foldl (fun _ _ h => wf_mset _ _ h) _ w)

theorem keep_clearFlips {s0 : State} (s : State) (rid : Nat) (blk : Nat) (h0 : Keep s0 s) : Keep s0 (clearFlips s
    rid blk) := by
  exact keep_dram h0 id (fun w => wf_mclear _ _ w)

theorem keep_setFlips {s0 : State} (s : State) (rid : Nat) (blk : Nat) (b : Bytes) (h0 : Keep s0 s) : Keep s0
    (setFlips s rid blk b) := by
  exact keep_dram h0 id (fun w => wf_mwrite _ _ w)

theorem keep_raiseUncorrected {s0 : State} (s : State) (rid : Nat) (blk : Nat) (h0 : Keep s0 s) : Keep s0
    (raiseUncorrected s rid blk) := by
  unfold raiseUncorrected
  repeat' first | with_reducible assumption | (with_reducible refine keep_raiseMod _ _ _ ?_)

theorem keep_repairCopy {s0 : State} (m : MemIn) (s : State) (rid : Nat) (blk : Nat) (h1 : Keep s0 s) : Keep s0
    (repairCopy m s rid blk) := by
  unfold repairCopy
  try dsimp only
  repeat' first
      | with_reducible assumption | (with_reducible refine keep_setFlips _ _ _ _ ?_)
      | (with_reducible refine keep_raiseUncorrected _ _ _ ?_) | split

theorem keep_copySlot {s0 : State} (m : MemIn) (s : State) (ch : Nat) (q : Nat) (h1 : Keep s0 s) : Keep s0 (copySlot
    m s ch q) := by
  unfold copySlot
  try dsimp only
  repeat' first
      | with_reducible assumption | (with_reducible refine keep_repairCopy _ _ _ _ ?_)
      | (with_reducible refine keep_ite ?_ ?_) | (with_reducible refine keep_ite_fst ?_ ?_) | intro _ | split
      | (with_reducible refine keep_foldl ?_ _ ?_) | (with_reducible refine keep_forN ?_ _ ?_)
      | (with_reducible refine keep_foldl_fst ?_ _ ?_) | (with_reducible refine keep_mk ?_)

theorem keep_retireSlot {s0 : State} (m : MemIn) (s0_1 : State) (ch : Nat) (q : Nat) (h1 : Keep s0 s0_1) : Keep s0
    (retireSlot m s0_1 ch q) := by
  unfold retireSlot
  try dsimp only
  repeat' first
      | with_reducible assumption | (with_reducible refine keep_copySlot _ _ _ _ ?_)
      | (with_reducible refine keep_updChannel _ _ _ ?_) | (with_reducible refine keep_raiseMod _ _ _ ?_)
      | (with_reducible refine keep_ite ?_ ?_) | (with_reducible refine keep_ite_fst ?_ ?_) | intro _ | split
      | (with_reducible refine keep_foldl ?_ _ ?_) | (with_reducible refine keep_forN ?_ _ ?_)
      | (with_reducible refine keep_foldl_fst ?_ _ ?_) | (with_reducible refine keep_mk ?_)

theorem keep_mapRow {s0 : State} (s : State) (phys : Nat) (bank : Nat) (row : Nat) (n : Nat) (spare : Nat) (h0 :
    Keep s0 s) : Keep s0 (mapRow s phys bank row n spare) := by
  unfold mapRow
  repeat' first | with_reducible assumption | (with_reducible refine keep_mk ?_)

theorem keep_rowFault {s0 : State} (m : MemIn) (s : State) (ch : Nat) (q : Nat) (h1 : Keep s0 s) : Keep s0 (rowFault
    m s ch q) := by
  unfold rowFault
  try dsimp only
  repeat' first
      | with_reducible assumption | (with_reducible refine keep_mapRow _ _ _ _ _ _ ?_)
      | (with_reducible refine keep_copySlot _ _ _ _ ?_) | (with_reducible refine keep_raiseMod _ _ _ ?_)
      | (with_reducible refine keep_retireSlot _ _ _ _ ?_) | (with_reducible refine keep_ite ?_ ?_)
      | (with_reducible refine keep_ite_fst ?_ ?_) | intro _ | split | (with_reducible refine keep_foldl ?_ _ ?_)
      | (with_reducible refine keep_forN ?_ _ ?_) | (with_reducible refine keep_foldl_fst ?_ _ ?_)
      | (with_reducible refine keep_mk ?_)

theorem keep_markRepair {s0 : State} (s : State) (ch : Nat) (h0 : Keep s0 s) : Keep s0 (markRepair s ch) := by
  unfold markRepair
  repeat' first
      | with_reducible assumption | (with_reducible refine keep_ite ?_ ?_) | (with_reducible refine keep_mk ?_)

theorem keep_badBlock {s0 : State} (m : MemIn) (s : State) (rid : Nat) (blk : Nat) (cls : Nat) (w : Bytes) (h1 :
    Keep s0 s) : Keep s0 (badBlock m s rid blk cls w) := by
  unfold badBlock
  try dsimp only
  repeat' first
      | with_reducible assumption | (with_reducible refine keep_raiseUncorrected _ _ _ ?_)
      | (with_reducible refine keep_rowFault _ _ _ _ ?_) | (with_reducible refine keep_ite ?_ ?_)
      | (with_reducible refine keep_ite_fst ?_ ?_) | intro _ | split | (with_reducible refine keep_foldl ?_ _ ?_)
      | (with_reducible refine keep_forN ?_ _ ?_) | (with_reducible refine keep_foldl_fst ?_ _ ?_)
      | (with_reducible refine keep_mk ?_)

theorem keep_judgeBlock {s0 : State} (s : State) (m : MemIn) (rid : Nat) (blk : Nat) (h0 : Keep s0 s) : Keep s0
    (judgeBlock s m rid blk).1 := by
  unfold judgeBlock
  try dsimp only
  repeat' first
      | with_reducible assumption | (with_reducible refine keep_setFlips _ _ _ _ ?_)
      | (with_reducible refine keep_rowFault _ _ _ _ ?_) | (with_reducible refine keep_badBlock _ _ _ _ _ _ ?_)
      | (with_reducible refine keep_ite ?_ ?_) | (with_reducible refine keep_ite_fst ?_ ?_) | intro _ | split
      | (with_reducible refine keep_foldl ?_ _ ?_) | (with_reducible refine keep_forN ?_ _ ?_)
      | (with_reducible refine keep_foldl_fst ?_ _ ?_) | (with_reducible refine keep_mk ?_)

theorem keep_readBlock {s0 : State} (s : State) (m : MemIn) (rid : Nat) (blk : Nat) (h0 : Keep s0 s) : Keep s0
    (readBlock s m rid blk).1 := by
  unfold readBlock
  repeat' first
      | with_reducible assumption | (with_reducible refine keep_markRepair _ _ ?_)
      | (with_reducible refine keep_judgeBlock _ _ _ _ ?_) | split

theorem keep_readPart {s0 : State} (s : State) (m : MemIn) (rid : Nat) (blk : Nat) (lo : Nat) (hi : Nat) (h0 : Keep
    s0 s) : Keep s0 (readPart s m rid blk lo hi).1 := by
  unfold readPart
  try dsimp only
  repeat' first
      | with_reducible assumption | (with_reducible refine keep_readBlock _ _ _ _ ?_)
      | (with_reducible refine keep_ite ?_ ?_) | (with_reducible refine keep_ite_fst ?_ ?_) | intro _ | split
      | (with_reducible refine keep_foldl ?_ _ ?_) | (with_reducible refine keep_forN ?_ _ ?_)
      | (with_reducible refine keep_foldl_fst ?_ _ ?_)
      | (with_reducible refine keep_fst (by with_reducible assumption) ?_) | (with_reducible refine keep_mk ?_)

theorem keep_readBlocks {s0 : State} (m : MemIn) (rid off end_ : Nat) : ∀ (n blk : Nat) (s : State), Keep s0 s →
    Keep s0 (readBlocks m rid off end_ blk n s).1
  | 0, _, _, h => h
  | n + 1, blk, s, h => by
    simp only [readBlocks]
    exact keep_readBlocks m rid off end_ n (blk + 1) _ (keep_readPart s m rid blk _ _ h)

theorem keep_readRange {s0 : State} (s : State) (m : MemIn) (rid : Nat) (off : Nat) (len : Nat) (h0 : Keep s0 s) :
    Keep s0 (readRange s m rid off len).1 := by
  unfold readRange
  try dsimp only
  repeat' first
      | with_reducible assumption | (with_reducible apply keep_readBlocks) | (with_reducible refine keep_ite ?_ ?_)
      | (with_reducible refine keep_ite_fst ?_ ?_) | intro _ | split | (with_reducible refine keep_foldl ?_ _ ?_)
      | (with_reducible refine keep_forN ?_ _ ?_) | (with_reducible refine keep_foldl_fst ?_ _ ?_)
      | (with_reducible refine keep_fst (by with_reducible assumption) ?_) | (with_reducible refine keep_mk ?_)

theorem keep_setWc {s0 : State} (s : State) (ch : Nat) (l : List WcEntry) (h0 : Keep s0 s) : Keep s0 (setWc s ch l)
    := by
  unfold setWc
  repeat' first | with_reducible assumption | (with_reducible refine keep_mk ?_)

theorem keep_freeUnmasked {s0 : State} (s : State) (e : WcEntry) (h0 : Keep s0 s) : Keep s0 (freeUnmasked s e) := by
  unfold freeUnmasked
  refine keep_dram (keep_drawFree s 128 h0) ?_ id
  intro w
  dsimp only; refine wf_forN ?_ w
  intro i m h
  split
  · exact h
  · exact wf_mset _ _ h

theorem keep_wcEnter {s0 : State} (s : State) (m : MemIn) (ch : Nat) (e : WcEntry) (done : State → State) (h0 : Keep
    s0 s) (h4 : ∀ t, Keep s0 t → Keep s0 (done t)) : Keep s0 (wcEnter s m ch e done) := by
  unfold wcEnter
  repeat' first
      | with_reducible assumption | (with_reducible refine keep_setWc _ _ _ ?_)
      | (with_reducible refine keep_markRepair _ _ ?_) | (with_reducible refine keep_ite ?_ ?_)
      | (with_reducible refine h4 _ ?_)

theorem keep_wcCheck {s0 : State} (s : State) (m : MemIn) (ch : Nat) (e : WcEntry) (h0 : Keep s0 s) : Keep s0
    (wcCheck s m ch e) := by
  unfold wcCheck
  dsimp only
  exact keep_ite h0 (keep_wcEnter _ _ _ _ _ h0 (fun _ h => h))

theorem keep_wcStore {s0 : State} (s : State) (m : MemIn) (e : WcEntry) (h0 : Keep s0 s) : Keep s0 (wcStore s m e)
    := by
  unfold wcStore
  try dsimp only
  repeat' first
      | with_reducible assumption | (with_reducible refine keep_clearFlips _ _ _ ?_)
      | (with_reducible refine keep_setFlips _ _ _ _ ?_) | (with_reducible refine keep_readBlock _ _ _ _ ?_)
      | (with_reducible refine keep_raiseUncorrected _ _ _ ?_) | (with_reducible refine keep_freeUnmasked _ _ ?_)
      | split | (with_reducible refine keep_fst (by with_reducible assumption) ?_)

theorem keep_wcWrite {s0 : State} (s : State) (m : MemIn) (ch : Nat) (e : WcEntry) (h0 : Keep s0 s) : Keep s0
    (wcWrite s m ch e) := by
  unfold wcWrite
  repeat' first
      | with_reducible assumption | (with_reducible refine keep_wcCheck _ _ _ _ ?_)
      | (with_reducible refine keep_wcStore _ _ _ ?_) | (with_reducible refine keep_ite ?_ ?_)

theorem keep_wcFlushAt {s0 : State} (s : State) (m : MemIn) (ch : Nat) (i : Nat) (h0 : Keep s0 s) : Keep s0
    (wcFlushAt s m ch i) := by
  unfold wcFlushAt
  dsimp only
  split
  · exact h0
  · exact keep_ite (keep_markRepair _ _ h0) (keep_wcWrite _ _ _ _ (keep_setWc _ _ _ h0))

theorem keep_wcFlushTo {s0 : State} (m : MemIn) (ch n : Nat) : ∀ (fuel i : Nat) (s : State), Keep s0 s → Keep s0
    (wcFlushTo m ch n fuel i s)
  | 0, _, _, h => h
  | fuel + 1, i, s, h => by
    simp only [wcFlushTo]
    refine keep_ite h ?_
    split
    · exact h
    · exact keep_wcFlushTo m ch n fuel _ _ (keep_wcFlushAt _ _ _ _ h)

theorem keep_wcTouch {s0 : State} (s : State) (m : MemIn) (rid : Nat) (blk : Nat) (lo : Nat) (hi : Nat) (h0 : Keep
    s0 s) : Keep s0 (wcTouch s m rid blk lo hi) := by
  unfold wcTouch
  exact keep_wcFlushTo _ _ _ _ _ _ (keep_wcEnter _ _ _ _ _ h0 (fun t h => keep_wcWrite t _ _ _ h))

theorem keep_writePart {s0 : State} (s : State) (m : MemIn) (rid : Nat) (off : Nat) (b : Bytes) (h0 : Keep s0 s) :
    Keep s0 (writePart s m rid off b) := by
  unfold writePart
  exact keep_wcTouch _ _ _ _ _ _ (keep_dram h0 (fun w => wf_mwrite _ _ w) id)

theorem keep_writeParts {s0 : State} (m : MemIn) (rid : Nat) : ∀ (n off : Nat) (b : Bytes) (s : State), Keep s0 s →
    Keep s0 (writeParts m rid n off b s)
  | 0, _, _, _, h => h
  | n + 1, off, b, s, h => by
    simp only [writeParts]
    exact keep_writeParts m rid n _ _ _ (keep_writePart _ _ _ _ _ h)

theorem keep_dramWrite {s0 : State} (s : State) (m : MemIn) (rid : Nat) (off : Nat) (b : Bytes) (h0 : Keep s0 s) :
    Keep s0 (dramWrite s m rid off b) := by
  unfold dramWrite
  exact keep_writeParts _ _ _ _ _ _ h0

theorem keep_checkRange {s0 : State} (s : State) (c : ExecCtx) (sram : Bool) (a : Nat) (n : Nat) (h0 : Keep s0 s) :
    Keep s0 (checkRange s c sram a n).1 := by
  unfold checkRange
  repeat' first
      | with_reducible assumption | (with_reducible refine keep_readRange _ _ _ _ _ ?_) | intro _ | split
      | (with_reducible refine keep_foldl_fst ?_ _ ?_)

theorem keep_checkExt {s0 : State} (c : ExecCtx) (t : State × Option Nat) (e : Ext) (h1 : Keep s0 t.1) : Keep s0
    (checkExt c t e).1 := by
  unfold checkExt
  repeat' first
      | with_reducible assumption | (with_reducible refine keep_checkRange _ _ _ _ _ ?_) | intro _
      | (with_reducible refine keep_foldl_fst ?_ _ ?_)

theorem keep_checkExts {s0 : State} (s : State) (c : ExecCtx) (es : List Ext) (h0 : Keep s0 s) : Keep s0 (checkExts
    s c es).1 := by
  unfold checkExts
  repeat' first
      | with_reducible assumption | (with_reducible refine keep_checkExt _ _ _ ?_) | intro _
      | (with_reducible refine keep_foldl_fst ?_ _ ?_)

theorem keep_placeWrite {s0 : State} (s : State) (c : ExecCtx) (p : Place) (b : Bytes) (h0 : Keep s0 s) : Keep s0
    (placeWrite s c p b) := by
  unfold placeWrite
  split
  · split
    · exact keep_cores h0 (fun w => wf_mwrite _ _ w)
    · exact h0
  · split
    · exact keep_dramWrite _ _ _ _ _ h0
    · exact h0
  · exact h0

theorem keep_devWrite {s0 : State} (s : State) (c : ExecCtx) (sram : Bool) (a : Nat) (b : Bytes) (h0 : Keep s0 s) :
    Keep s0 (devWrite s c sram a b) := by
  unfold devWrite
  repeat' first
      | with_reducible assumption | (with_reducible refine keep_placeWrite _ _ _ _ ?_) | intro _
      | (with_reducible refine keep_foldl_fst ?_ _ ?_)

theorem keep_freeExt {s0 : State} (c : ExecCtx) (s : State) (e : Ext) (h1 : Keep s0 s) : Keep s0 (freeExt c s e) := by
  unfold freeExt
  repeat' first
      | with_reducible assumption | (with_reducible refine keep_devWrite _ _ _ _ _ ?_)
      | (with_reducible refine keep_drawFree _ _ ?_) | intro _ | (with_reducible refine keep_foldl ?_ _ ?_)

theorem keep_freeExts {s0 : State} (s : State) (c : ExecCtx) (es : List Ext) (h0 : Keep s0 s) : Keep s0 (freeExts s
    c es) := by
  unfold freeExts
  repeat' first
      | with_reducible assumption | (with_reducible refine keep_freeExt _ _ _ ?_) | intro _
      | (with_reducible refine keep_foldl ?_ _ ?_)

theorem keep_writeTensor {s0 : State} (s : State) (c : ExecCtx) (v : TView) (rows : List RowCodes) (h0 : Keep s0 s)
    : Keep s0 (writeTensor s c v rows) := by
  unfold writeTensor
  repeat' first
      | with_reducible assumption | (with_reducible refine keep_devWrite _ _ _ _ _ ?_)
      | (with_reducible refine keep_ite ?_ ?_) | intro _ | (with_reducible refine keep_foldl ?_ _ ?_)

theorem keep_holdLatches {s0 : State} (s : State) (ls : List Latch) (h0 : Keep s0 s) : Keep s0 (holdLatches s ls)
    := by
  unfold holdLatches
  repeat' first
      | with_reducible assumption | (with_reducible refine keep_fenceAdd _ _ _ ?_) | intro _
      | (with_reducible refine keep_foldl ?_ _ ?_)

theorem keep_applyCodes {s0 : State} (s : State) (h0 : Keep s0 s) : Keep s0 (applyCodes s) := by
  unfold applyCodes
  try dsimp only
  repeat' first
      | with_reducible assumption | (with_reducible refine keep_updCore _ _ _ ?_)
      | (with_reducible refine keep_ite ?_ ?_) | (with_reducible refine keep_ite_fst ?_ ?_) | intro _ | split
      | (with_reducible refine keep_foldl ?_ _ ?_) | (with_reducible refine keep_forN ?_ _ ?_)
      | (with_reducible refine keep_foldl_fst ?_ _ ?_) | (with_reducible refine keep_mk ?_)

theorem keep_raiseBreach {s0 : State} (s : State) (h0 : Keep s0 s) : Keep s0 (raiseBreach s) := by
  unfold raiseBreach
  try dsimp only
  repeat' first
      | with_reducible assumption | (with_reducible refine keep_raiseMod _ _ _ ?_)
      | (with_reducible refine keep_ite ?_ ?_) | (with_reducible refine keep_ite_fst ?_ ?_) | intro _ | split
      | (with_reducible refine keep_foldl ?_ _ ?_) | (with_reducible refine keep_forN ?_ _ ?_)
      | (with_reducible refine keep_foldl_fst ?_ _ ?_) | (with_reducible refine keep_mk ?_)

theorem keep_takeDescriptor {s0 : State} (s : State) (ring : Nat) (n : Nat) (b : Bytes) (h0 : Keep s0 s) : Keep s0
    (takeDescriptor s ring n b) := by
  unfold takeDescriptor
  repeat' first
      | with_reducible assumption | (with_reducible refine keep_ringStatus _ _ ?_)
      | (with_reducible refine keep_updRing _ _ _ ?_)

theorem keep_servedRing {s0 : State} (s : State) (p : Nat) (ring : Nat) (h0 : Keep s0 s) : Keep s0 (servedRing s p
    ring) := by
  unfold servedRing
  repeat' first | with_reducible assumption | (with_reducible refine keep_mk ?_)

theorem keep_fetchFailed {s0 : State} (s : State) (f : Nat) (ring : Nat) (d : HostData) (h0 : Keep s0 s) : Keep s0
    (fetchFailed s f ring d) := by
  unfold fetchFailed
  try dsimp only
  repeat' first
      | with_reducible assumption | (with_reducible refine keep_stopRing _ _ _ ?_)
      | (with_reducible refine keep_notePoison _ _ _ ?_) | (with_reducible refine keep_ite ?_ ?_)
      | (with_reducible refine keep_ite_fst ?_ ?_) | intro _ | split | (with_reducible refine keep_foldl ?_ _ ?_)
      | (with_reducible refine keep_forN ?_ _ ?_) | (with_reducible refine keep_foldl_fst ?_ _ ?_)
      | (with_reducible refine keep_mk ?_)

theorem keep_serveRing {s0 : State} (s : State) (p : Nat) (ring : Nat) (host : HostIn) (h0 : Keep s0 s) : Keep s0
    (serveRing s p ring host) := by
  unfold serveRing
  try dsimp only
  repeat' first
      | with_reducible assumption | (with_reducible refine keep_stopRing _ _ _ ?_)
      | (with_reducible refine keep_takeDescriptor _ _ _ _ ?_) | (with_reducible refine keep_fetchFailed _ _ _ _ ?_)
      | split

theorem keep_execDescriptorFetch {s0 : State} (ring : Nat) (host : HostIn) (s0_2 : State) (h2 : Keep s0 s0_2) :
    KeepOut s0 (execDescriptorFetch ring host s0_2) := by
  unfold execDescriptorFetch
  repeat' first
      | with_reducible assumption | with_reducible refine keepOut_next ?_
      | (with_reducible refine keep_hostStores _ _ ?_) | (with_reducible refine keep_serveRing _ _ _ _ ?_)
      | (with_reducible refine keep_servedRing _ _ _ ?_) | split

theorem keep_noteLatches {s0 : State} (s : State) (o : Op) (ls : List Latch) (h0 : Keep s0 s) : Keep s0 (noteLatches
    s o ls) := by
  unfold noteLatches
  repeat' first | with_reducible assumption | (with_reducible refine keep_updRing _ _ _ ?_)

theorem keep_tryStart {s0 : State} (s : State) (o : Op) {s1 : State} {o1 : Op} (h0 : Keep s0 s) (e : tryStart s o =
    .go s1 o1) : Keep s0 s1 := by
  unfold tryStart at e
  split at e
  · cases e; exact h0
  · split at e
    · cases e
    · cases e
    · split at e
      · cases e
      · cases e
        exact keep_updOp _ _ _ (keep_noteLatches _ _ _ (keep_holdLatches _ _ h0))

theorem keep_windowAdd {s0 : State} (s : State) (o : Op) (h0 : Keep s0 s) : Keep s0 (windowAdd s o) := by
  unfold windowAdd
  repeat' first
      | with_reducible assumption | (with_reducible refine keep_updWindow _ _ _ ?_)
      | (with_reducible refine keep_ite ?_ ?_)

theorem keep_windowLatch {s0 : State} (s : State) (core : Nat) (id : Nat) (ls : List Latch) (h0 : Keep s0 s) : Keep
    s0 (windowLatch s core id ls) := by
  unfold windowLatch
  repeat' first
      | with_reducible assumption | (with_reducible refine keep_updWindow _ _ _ ?_)
      | (with_reducible refine keep_ite ?_ ?_)

theorem keep_startNow {s0 : State} (s : State) (o : Op) (h0 : Keep s0 s) : Keep s0 (startNow s o) := by
  unfold startNow
  repeat' first
      | with_reducible assumption | (with_reducible refine keep_windowLatch _ _ _ _ ?_) | split
      | (refine keep_tryStart _ _ ?_ (by with_reducible assumption))

theorem keep_dispatchOp {s0 : State} (s : State) (p : Nat) (ring : Nat) (core : Nat) (f : Fetched) (h0 : Keep s0 s)
    : Keep s0 (dispatchOp s p ring core f) := by
  unfold dispatchOp
  repeat' first
      | with_reducible assumption | (with_reducible refine keep_startNow _ _ ?_)
      | (with_reducible refine keep_windowAdd _ _ ?_) | (with_reducible refine keep_mk ?_)

theorem keep_popWaiting {s0 : State} (s : State) (ring : Nat) (h0 : Keep s0 s) : Keep s0 (popWaiting s ring) := by
  unfold popWaiting
  repeat' first | with_reducible assumption | (with_reducible refine keep_updRing _ _ _ ?_)

theorem keep_execDispatch {s0 : State} (ring : Nat) (s : State) (h1 : Keep s0 s) : KeepOut s0 (execDispatch ring s)
    := by
  unfold execDispatch
  try dsimp only
  repeat' first
      | with_reducible assumption | with_reducible refine keepOut_next ?_
      | (with_reducible refine keep_completeUndispatched _ _ _ _ _ _ _ _ ?_)
      | (with_reducible refine keep_popWaiting _ _ ?_) | (with_reducible refine keep_dispatchOp _ _ _ _ _ ?_)
      | split

theorem keep_finishOk {s0 : State} (s : State) (o : Op) (env : Env) (more : Nat) (info : Nat) (h0 : Keep s0 s) :
    Keep s0 (finishOk s o env more info) := by
  unfold finishOk
  repeat' first
      | with_reducible assumption | (with_reducible refine keep_complete _ _ _ _ _ ?_)
      | (with_reducible refine keep_ite ?_ ?_)

theorem keep_freeHostRows {s0 : State} (s : State) (port : Nat) (rs : List (Nat × Nat)) (h0 : Keep s0 s) : Keep s0
    (freeHostRows s port rs) := by
  unfold freeHostRows
  repeat' first
      | with_reducible assumption | (with_reducible refine keep_hostWrite _ _ _ _ ?_)
      | (with_reducible refine keep_drawFree _ _ ?_) | intro _ | (with_reducible refine keep_foldl ?_ _ ?_)

theorem keep_freeOuts {s0 : State} (s : State) (o : Op) (env : Env) (h0 : Keep s0 s) : Keep s0 (freeOuts s o env)
    := by
  unfold freeOuts
  repeat' first
      | with_reducible assumption | (with_reducible refine keep_freeHostRows _ _ _ ?_)
      | (with_reducible refine keep_freeExts _ _ _ ?_)

theorem keep_freePins {s0 : State} (s : State) (o : Op) (h0 : Keep s0 s) : Keep s0 (freePins s o) := by
  unfold freePins
  repeat' first
      | with_reducible assumption | (with_reducible refine keep_setStash _ _ _ _ ?_)
      | (with_reducible refine keep_releasePins _ _ ?_) | split

theorem keep_failRun {s0 : State} (s : State) (o : Op) (env : Env) (st : Nat) (xs : Nat) (h0 : Keep s0 s) : Keep s0
    (failRun s o env st xs) := by
  unfold failRun
  repeat' first
      | with_reducible assumption | (with_reducible refine keep_complete _ _ _ _ _ ?_)
      | (with_reducible refine keep_freePins _ _ ?_) | (with_reducible refine keep_freeOuts _ _ _ ?_)

theorem keep_failTimed {s0 : State} (s : State) (o : Op) (st : Nat) (xs : Nat) (h0 : Keep s0 s) : Keep s0 (failTimed
    s o st xs) := by
  unfold failTimed
  repeat' first
      | with_reducible assumption | (with_reducible refine keep_failRun _ _ _ _ _ ?_)
      | (with_reducible refine keep_drawFree _ _ ?_)

theorem keep_countSbe {s0 : State} (s : State) (core : Nat) (n : Nat) (h0 : Keep s0 s) : Keep s0 (countSbe s core n)
    := by
  unfold countSbe
  repeat' first
      | with_reducible assumption | (with_reducible refine keep_ite ?_ ?_) | (with_reducible refine keep_mk ?_)

theorem keep_envIn {s0 : State} (s : State) (env : Env) (h0 : Keep s0 s) : Keep s0 (envIn s env) := by
  unfold envIn
  repeat' first
      | with_reducible assumption | (with_reducible refine keep_dramUpsets _ _ ?_)
      | (with_reducible refine keep_hostStores _ _ ?_)

theorem keep_runOp {s0 : State} (s0_0 : State) (id : Nat) (op : Nat) (env : Env) (body : State → Op → State) (h0 :
    Keep s0 s0_0) (h4 : ∀ t o, Keep s0 t → Keep s0 (body t o)) : KeepOut s0 (runOp s0_0 id op env body) := by
  unfold runOp
  try dsimp only
  repeat' first
      | with_reducible assumption | with_reducible refine keepOut_next ?_
      | (with_reducible refine keep_envIn _ _ ?_) | (with_reducible refine keep_failRun _ _ _ _ _ ?_)
      | (with_reducible refine keep_complete _ _ _ _ _ ?_) | (with_reducible refine keep_countSbe _ _ _ ?_)
      | (with_reducible refine keep_windowLatch _ _ _ _ ?_) | split
      | (refine keep_tryStart _ _ ?_ (by with_reducible assumption)) | (with_reducible refine h4 _ _ ?_)

theorem keep_withInputs {s0 : State} (s : State) (o : Op) (env : Env) (body : State → State) (h0 : Keep s0 s) (h3 :
    ∀ t, Keep s0 t → Keep s0 (body t)) : Keep s0 (withInputs s o env body) := by
  unfold withInputs
  repeat' first
      | with_reducible assumption | (with_reducible refine keep_checkExts _ _ _ ?_)
      | (with_reducible refine keep_failRun _ _ _ _ _ ?_) | split
      | (with_reducible refine keep_fst (by with_reducible assumption) ?_) | (with_reducible refine h3 _ ?_)

theorem keep_execHeldRecordRelease {s0 : State} (oring : Nat) (s : State) (h1 : Keep s0 s) : KeepOut s0
    (execHeldRecordRelease oring s) := by
  unfold execHeldRecordRelease
  try dsimp only
  repeat' first
      | with_reducible assumption | with_reducible refine keepOut_next ?_
      | (with_reducible refine keep_putRecord _ _ _ _ ?_) | (with_reducible refine keep_setORing _ _ _ ?_)
      | (with_reducible refine keep_removeOp _ _ ?_) | (with_reducible refine keep_setOwnerLeaf _ _ _ _ ?_) | split

theorem keep_takeIndex {s0 : State} (s : State) (ring : Nat) (v : Nat) (h0 : Keep s0 s) : Keep s0 (takeIndex s ring
    v) := by
  unfold takeIndex
  try dsimp only
  repeat' first
      | with_reducible assumption | (with_reducible refine keep_updRing _ _ _ ?_)
      | (with_reducible refine keep_stopRing _ _ _ ?_) | (with_reducible refine keep_ite ?_ ?_)
      | (with_reducible refine keep_ite_fst ?_ ?_) | intro _ | split | (with_reducible refine keep_foldl ?_ _ ?_)
      | (with_reducible refine keep_forN ?_ _ ?_) | (with_reducible refine keep_foldl_fst ?_ _ ?_)
      | (with_reducible refine keep_mk ?_)

theorem keep_sweepPage {s0 : State} (s : State) (h_1 : HostIn) (f : Nat) (p : Nat) (page : Nat) (h0 : Keep s0 s) :
    Keep s0 (sweepPage s h_1 f p page) := by
  unfold sweepPage
  try dsimp only
  repeat' first
      | with_reducible assumption | (with_reducible refine keep_noteAer _ _ _ ?_)
      | (with_reducible refine keep_takeIndex _ _ _ ?_) | (with_reducible refine keep_updORing _ _ _ ?_)
      | (with_reducible refine keep_updFn _ _ _ ?_) | (with_reducible refine keep_stopRing _ _ _ ?_)
      | (with_reducible refine keep_ite ?_ ?_) | (with_reducible refine keep_ite_fst ?_ ?_) | intro _ | split
      | (with_reducible refine keep_foldl ?_ _ ?_) | (with_reducible refine keep_forN ?_ _ ?_)
      | (with_reducible refine keep_foldl_fst ?_ _ ?_) | (with_reducible refine keep_mk ?_)

theorem keep_sweep {s0 : State} (s : State) (h_1 : HostIn) (f : Nat) (mask : Nat) (h0 : Keep s0 s) : Keep s0 (sweep
    s h_1 f mask) := by
  unfold sweep
  repeat' first
      | with_reducible assumption | (with_reducible refine keep_sweepPage _ _ _ _ _ ?_) | intro _ | split
      | (with_reducible refine keep_forN ?_ _ ?_)

theorem keep_execDoorbellSweep {s0 : State} (fn : Nat) (host : HostIn) (s : State) (h2 : Keep s0 s) : KeepOut s0
    (execDoorbellSweep fn host s) := by
  unfold execDoorbellSweep
  repeat' first
      | with_reducible assumption | with_reducible refine keepOut_next ?_
      | (with_reducible refine keep_sweep _ _ _ _ ?_) | (with_reducible refine keep_configWrites _ _ ?_)
      | (with_reducible refine keep_hostStores _ _ ?_)

end Sys2Proof.Machine
end

