-- ==== Sys2Proof/Laws/KeepPlait.lean ====
section
/-! SUPPORT. What `Keep` says of the parts of the Plait, of flits and of ports: one lemma for each definition. -/

namespace Sys2Proof.Machine

open Sys2Proof

set_option Elab.async false

theorem keep_discard {s0 : State} (s : State) (kind : Nat) (h0 : Keep s0 s) : Keep s0 (discard s kind) := by
  unfold discard
  repeat' first
      | with_reducible assumption | (with_reducible refine keep_raiseMod _ _ _ ?_)
      | (with_reducible refine keep_ite ?_ ?_) | (with_reducible refine keep_mk ?_)

theorem keep_putWire {s0 : State} (s : State) (w : Wire) (h0 : Keep s0 s) : Keep s0 (putWire s w) := by
  unfold putWire
  repeat' first | with_reducible assumption | (with_reducible refine keep_mk ?_)

theorem keep_sendTag {s0 : State} (s : State) (port : Nat) (t : BitVec 64) (h0 : Keep s0 s) : Keep s0 (sendTag s
    port t) := by
  unfold sendTag
  repeat' first
      | with_reducible assumption | (with_reducible refine keep_putWire _ _ ?_)
      | (with_reducible refine keep_ite ?_ ?_)

theorem keep_setSwitch {s0 : State} (s : State) (port : Nat) (x : Switch) (h0 : Keep s0 s) : Keep s0 (setSwitch s
    port x) := by
  unfold setSwitch
  repeat' first | with_reducible assumption | (with_reducible refine keep_mk ?_)

theorem keep_cancelReserved {s0 : State} (s : State) (port : Nat) (h0 : Keep s0 s) : Keep s0 (cancelReserved s port)
    := by
  unfold cancelReserved
  repeat' first
      | with_reducible assumption | (with_reducible refine keep_sendTag _ _ _ ?_)
      | (with_reducible refine keep_discard _ _ ?_) | (with_reducible refine keep_setSwitch _ _ _ ?_) | split

theorem keep_enqueue {s0 : State} (s : State) (port : Nat) (xid : Nat) (vc : Nat) (q : QPacket) (h0 : Keep s0 s) :
    Keep s0 (enqueue s port xid vc q) := by
  unfold enqueue
  repeat' first
      | with_reducible assumption | (with_reducible refine keep_cancelReserved _ _ ?_)
      | (with_reducible refine keep_ite ?_ ?_) | (with_reducible refine keep_mk ?_)

theorem keep_routeFault {s0 : State} (s : State) (dst : Nat) (vc : Nat) (zyx : Bool) (h0 : Keep s0 s) : Keep s0
    (routeFault s dst vc zyx) := by
  unfold routeFault
  repeat' first
      | with_reducible assumption | (with_reducible refine keep_raiseMod _ _ _ ?_)
      | (with_reducible refine keep_ite ?_ ?_) | (with_reducible refine keep_mk ?_)

theorem keep_lostNotice {s0 : State} (s : State) (src : Nat) (dst : Nat) (vc : Nat) (zyx : Bool) (h0 : Keep s0 s) :
    Keep s0 (lostNotice s src dst vc zyx) := by
  unfold lostNotice
  repeat' first
      | with_reducible assumption | (with_reducible refine keep_routeFault _ _ _ _ ?_)
      | (with_reducible refine keep_ite ?_ ?_) | (with_reducible refine keep_mk ?_)

theorem keep_assemble {s0 : State} (s : State) (p : Bytes) (h0 : Keep s0 s) : Keep s0 (assemble s p) := by
  unfold assemble
  extract_lets dst msg same r put idle bury take sa ra src broken s1 r1
  have hp : ∀ t x, Keep s0 t → Keep s0 (put t x) := fun t x h => keep_upd h rfl
  have hb : ∀ t x, Keep s0 t → Keep s0 (bury t x) := fun t x h => hp _ _ (keep_discard _ _ h)
  have ht : ∀ t x b, Keep s0 t → Keep s0 (take t x b) := fun t x b h => by
    show Keep s0 (if pktLast p then _ else _)
    split
    · exact keep_upd (hp t (idle x) h) rfl
    · exact hp _ _ h
  have h1 : Keep s0 s1 := keep_ite (keep_discard _ _ h0) h0
  refine keep_ite ?_ (keep_ite (keep_ite (ht _ _ _ h0) (hb _ _ h0)) (keep_ite (ht _ _ _ h1) (hb _ _ h1)))
  exact hp _ _ (show Keep s0 sa from keep_ite h0 (keep_discard _ _ h0))

theorem keep_mcastOut {s0 : State} (s : State) (img : Bytes) (p : Bytes) (fromAx : Option Nat) (via : Option SegId)
    (op : Option Nat) (h0 : Keep s0 s) : Keep s0 (mcastOut s img p fromAx via op) := by
  unfold mcastOut
  repeat' first
      | with_reducible assumption | (with_reducible refine keep_discard _ _ ?_)
      | (with_reducible refine keep_enqueue _ _ _ _ _ ?_) | (with_reducible refine keep_ite ?_ ?_) | intro _
      | (with_reducible refine keep_foldl ?_ _ ?_)

theorem keep_onward {s0 : State} (s : State) (img p : Bytes) (ax : Option Nat) (via : Option SegId) (op : Option
    Nat) (h : Keep s0 s) {t : State}
    (e : onward s img p ax via op = .sent t ∨ onward s img p ax via op = .dropped t ∨ onward s img p ax via op =
        .lost t) : Keep s0 t := by
  unfold onward at e
  dsimp only at e
  split at e
  · split at e
    · rcases e with e | e | e <;> cases e
    · rcases e with e | e | e <;> cases e
      exact keep_discard _ _ h
  · split at e
    · rcases e with e | e | e <;> cases e
      exact keep_discard _ _ h
    · split at e
      · rcases e with e | e | e <;> cases e
        exact keep_discard _ _ h
      · rcases e with e | e | e <;> cases e
        exact keep_enqueue _ _ _ _ _ h

theorem keep_injectOne {s0 : State} (s : State) (img : Bytes) (m : OutMsg) (h0 : Keep s0 s) : Keep s0 (injectOne s
    img m) := by
  unfold injectOne
  dsimp only
  refine keep_foldl (fun t p h => ?_) _ (keep_upd h0 rfl)
  refine keep_ite (keep_mcastOut _ _ _ _ _ _ h) ?_
  split
  · exact keep_assemble _ _ h
  · rename_i e; exact keep_onward _ _ _ _ _ _ h (.inl e)
  · rename_i e; exact keep_onward _ _ _ _ _ _ h (.inr (.inl e))
  · rename_i e; exact keep_lostNotice _ _ _ _ _ (keep_onward _ _ _ _ _ _ h (.inr (.inr e)))

theorem keep_inject {s0 : State} (s : State) (h0 : Keep s0 s) : Keep s0 (inject s) := by
  unfold inject
  repeat' first
      | with_reducible assumption | (with_reducible refine keep_injectOne _ _ _ ?_) | intro _ | split
      | (with_reducible refine keep_foldl ?_ _ ?_) | (with_reducible refine keep_mk ?_)

theorem keep_sendMsg {s0 : State} (s : State) (m : OutMsg) (h0 : Keep s0 s) : Keep s0 (sendMsg s m) := by
  unfold sendMsg
  repeat' first
      | with_reducible assumption | (with_reducible refine keep_inject _ ?_) | (with_reducible refine keep_mk ?_)

theorem keep_putFlit {s0 : State} (s : State) (g : SegId) (lane : Nat) (info : Bytes) (h0 : Keep s0 s) : Keep s0
    (putFlit s g lane info) := by
  unfold putFlit
  try dsimp only
  repeat' first
      | with_reducible assumption | (with_reducible refine keep_putWire _ _ ?_)
      | (with_reducible refine keep_ite ?_ ?_) | (with_reducible refine keep_ite_fst ?_ ?_) | intro _ | split
      | (with_reducible refine keep_foldl ?_ _ ?_) | (with_reducible refine keep_forN ?_ _ ?_)
      | (with_reducible refine keep_foldl_fst ?_ _ ?_) | (with_reducible refine keep_mk ?_)

theorem keep_noteSlow {s0 : State} (s : State) (g : SegId) (ops : List Nat) (h0 : Keep s0 s) : Keep s0 (noteSlow s g
    ops) := by
  unfold noteSlow
  try dsimp only
  repeat' first
      | with_reducible assumption | (with_reducible refine keep_ite ?_ ?_)
      | (with_reducible refine keep_ite_fst ?_ ?_) | intro _ | split | (with_reducible refine keep_foldl ?_ _ ?_)
      | (with_reducible refine keep_forN ?_ _ ?_) | (with_reducible refine keep_foldl_fst ?_ _ ?_)
      | (with_reducible refine keep_mk ?_)

theorem keep_wireFlit {s0 : State} (s : State) (g : SegId) (k : KeptFlit) (h0 : Keep s0 s) : Keep s0 (wireFlit s g
    k) := by
  unfold wireFlit
  try dsimp only
  repeat' first
      | with_reducible assumption | (with_reducible refine keep_putFlit _ _ _ _ ?_)
      | (with_reducible refine keep_noteSlow _ _ _ ?_) | (with_reducible refine keep_ite ?_ ?_)
      | (with_reducible refine keep_ite_fst ?_ ?_) | intro _ | split | (with_reducible refine keep_foldl ?_ _ ?_)
      | (with_reducible refine keep_forN ?_ _ ?_) | (with_reducible refine keep_foldl_fst ?_ _ ?_)
      | (with_reducible refine keep_mk ?_)

theorem keep_sendBursts {s0 : State} (s : State) (g : SegId) (ks : List KeptFlit) (h0 : Keep s0 s) : Keep s0
    (sendBursts s g ks) := by
  unfold sendBursts
  refine keep_ite (keep_foldl (fun t k h => keep_wireFlit _ _ _ h) _ h0) (keep_foldl (fun t b h => ?_) _ h0)
  split
  · exact h
  · exact keep_sendTag _ _ _ (keep_foldl (fun t k h => keep_wireFlit _ _ _ h) _ (keep_sendTag _ _ _ h))

theorem keep_sendFlits {s0 : State} (s : State) (g : SegId) (ks : List KeptFlit) (h0 : Keep s0 s) : Keep s0
    (sendFlits s g ks) := by
  unfold sendFlits
  repeat' first
      | with_reducible assumption | (with_reducible refine keep_sendBursts _ _ _ ?_)
      | (with_reducible refine keep_updSeg _ _ _ ?_) | (with_reducible refine keep_ite ?_ ?_)

theorem keep_sendDueFlits {s0 : State} (s : State) (g : SegId) (h0 : Keep s0 s) : Keep s0 (sendDueFlits s g) := by
  unfold sendDueFlits
  repeat' first
      | with_reducible assumption | (with_reducible refine keep_sendBursts _ _ _ ?_)
      | (with_reducible refine keep_setSeg _ _ _ ?_) | (with_reducible refine keep_ite ?_ ?_)

theorem keep_keepFlits {s0 : State} (g : SegId) (vc epoch : Nat) : ∀ (l : List (Bytes × Nat × List Nat)) (s :
    State), Keep s0 s → Keep s0 (keepFlits s g vc epoch l).1
  | [], _, h => h
  | (b, poff, ops) :: t, s, h => by
    simp only [keepFlits]
    exact keep_keepFlits g vc epoch t _ (keep_setSeg _ _ _ h)

theorem keep_sendCut {s0 : State} (s : State) (g : SegId) (vc : Nat) (n : Nat) (h0 : Keep s0 s) : Keep s0 (sendCut s
    g vc n) := by
  unfold sendCut
  extract_lets k c later c1
  exact keep_sendFlits _ _ _ (keep_keepFlits _ _ _ _ _ (keep_upd h0 rfl))

theorem keep_launchPacket {s0 : State} (s : State) (g : SegId) (vc : Nat) (q : QPacket) (flush : Bool) (n : Nat) (h0
    : Keep s0 s) : Keep s0 (launchPacket s g vc q flush n) := by
  unfold launchPacket
  generalize packetFlits (tget {} (getSeg s g).tail vc) q.bytes q.op.toList flush = r
  obtain ⟨flits, t⟩ := r
  exact keep_sendCut _ _ _ _ (keep_upd (s := updSeg s g fun x => { x with tail := tset {} vc t x.tail })
      (keep_updSeg _ _ _ h0) rfl)

theorem keep_moveFlits {s0 : State} (s : State) (g : SegId) (lane : Nat) (h0 : Keep s0 s) : Keep s0 (moveFlits s g
    lane) := by
  unfold moveFlits
  repeat' first
      | with_reducible assumption | (with_reducible refine keep_sendFlits _ _ _ ?_)
      | (with_reducible refine keep_setSeg _ _ _ ?_)

theorem keep_sendDuePort {s0 : State} (s : State) (port : Nat) (h0 : Keep s0 s) : Keep s0 (sendDuePort s port) := by
  unfold sendDuePort
  repeat' first
      | with_reducible assumption | (with_reducible refine keep_sendDueFlits _ _ ?_) | intro _
      | (with_reducible refine keep_foldl ?_ _ ?_)

theorem keep_sendLanes {s0 : State} (s : State) (first : Nat) (g : SegId) (h0 : Keep s0 s) : Keep s0 (sendLanes s
    first g) := by
  unfold sendLanes
  repeat' first | with_reducible assumption | (with_reducible refine keep_sendTag _ _ _ ?_)

theorem keep_updPortLane {s0 : State} (s : State) (port : Nat) (w : Nat) (f : Lane → Lane) (h0 : Keep s0 s) : Keep
    s0 (updPortLane s port w f) := by
  unfold updPortLane
  repeat' first
      | with_reducible assumption | (with_reducible refine keep_updLane _ _ _ _ ?_) | intro _
      | (with_reducible refine keep_foldl ?_ _ ?_)

theorem keep_cutExpress {s0 : State} (s : State) (port : Nat) (h0 : Keep s0 s) : Keep s0 (cutExpress s port) := by
  unfold cutExpress
  repeat' first
      | with_reducible assumption | (with_reducible refine keep_discard _ _ ?_)
      | (with_reducible refine keep_setSwitch _ _ _ ?_) | intro _ | split
      | (with_reducible refine keep_forN ?_ _ ?_) | (with_reducible refine keep_mk ?_)

theorem keep_toProbe {s0 : State} (s : State) (port : Nat) (h0 : Keep s0 s) : Keep s0 (toProbe s port) := by
  unfold toProbe
  repeat' first
      | with_reducible assumption | (with_reducible refine keep_updLink _ _ _ ?_)
      | (with_reducible refine keep_cutExpress _ _ ?_) | (with_reducible refine keep_updPortLane _ _ _ _ ?_)
      | (with_reducible refine keep_sendLanes _ _ _ ?_) | (with_reducible refine keep_updSeg _ _ _ ?_) | intro _
      | (with_reducible refine keep_foldl ?_ _ ?_) | (with_reducible refine keep_forN ?_ _ ?_)

theorem keep_tryRamp {s0 : State} (s : State) (port : Nat) (h0 : Keep s0 s) : Keep s0 (tryRamp s port) := by
  unfold tryRamp
  repeat' first
      | with_reducible assumption | (with_reducible refine keep_updLane _ _ _ _ ?_)
      | (with_reducible refine keep_updLink _ _ _ ?_) | (with_reducible refine keep_ite ?_ ?_) | intro _
      | (with_reducible refine keep_forN ?_ _ ?_)

theorem keep_judgePort {s0 : State} (s : State) (port : Nat) (h0 : Keep s0 s) : Keep s0 (judgePort s port) := by
  unfold judgePort
  repeat' first
      | with_reducible assumption | (with_reducible refine keep_tryRamp _ _ ?_)
      | (with_reducible refine keep_toProbe _ _ ?_) | split

theorem keep_settlePort {s0 : State} (port : Nat) (s : State) (h1 : Keep s0 s) : Keep s0 (settlePort port s) := by
  unfold settlePort
  repeat' first
      | with_reducible assumption | (with_reducible refine keep_updLink _ _ _ ?_)
      | (with_reducible refine keep_judgePort _ _ ?_) | (with_reducible refine keep_toProbe _ _ ?_)
      | (with_reducible refine keep_ite ?_ ?_)

theorem keep_settlePorts {s0 : State} (s : State) (h0 : Keep s0 s) : Keep s0 (settlePorts s) := by
  unfold settlePorts
  repeat' first
      | with_reducible assumption | (with_reducible refine keep_settlePort _ _ ?_) | intro _
      | (with_reducible refine keep_forN ?_ _ ?_)

theorem keep_openLoop {s0 : State} (s : State) (port : Nat) (h0 : Keep s0 s) : Keep s0 (openLoop s port) := by
  unfold openLoop
  repeat' first
      | with_reducible assumption | (with_reducible refine keep_toProbe _ _ ?_)
      | (with_reducible refine keep_updLink _ _ _ ?_) | (with_reducible refine keep_raiseMod _ _ _ ?_)
      | (with_reducible refine keep_ite ?_ ?_)

theorem keep_hear {s0 : State} (s : State) (port : Nat) (t : BitVec 64) (h0 : Keep s0 s) : Keep s0 (hear s port t)
    := by
  unfold hear
  repeat' first
      | with_reducible assumption | (with_reducible refine keep_updLink _ _ _ ?_)
      | (with_reducible refine keep_ite ?_ ?_)

theorem keep_onTag {s0 : State} (s : State) (port : Nat) (tag : BitVec 64) (read : State → State) (h0 : Keep s0 s)
    (h3 : ∀ t, Keep s0 t → Keep s0 (read t)) : KeepOut s0 (onTag s port tag read) := by
  unfold onTag
  repeat' first
      | with_reducible assumption | with_reducible refine keepOut_next ?_
      | (with_reducible refine keep_putWire _ _ ?_) | (with_reducible refine keep_hear _ _ _ ?_)
      | (with_reducible refine keep_ite ?_ ?_) | (with_reducible refine h3 _ ?_)

theorem keep_emitterFails {s0 : State} (s : State) (port : Nat) (h0 : Keep s0 s) : Keep s0 (emitterFails s port) := by
  unfold emitterFails
  try dsimp only
  repeat' first
      | with_reducible assumption | (with_reducible refine keep_openLoop _ _ ?_)
      | (with_reducible refine keep_updLink _ _ _ ?_) | (with_reducible refine keep_toProbe _ _ ?_)
      | (with_reducible refine keep_updSeg _ _ _ ?_) | (with_reducible refine keep_raiseMod _ _ _ ?_)
      | (with_reducible refine keep_ite ?_ ?_) | (with_reducible refine keep_ite_fst ?_ ?_) | intro _ | split
      | (with_reducible refine keep_foldl ?_ _ ?_) | (with_reducible refine keep_forN ?_ _ ?_)
      | (with_reducible refine keep_foldl_fst ?_ _ ?_) | (with_reducible refine keep_mk ?_)

theorem keep_judgeNbrs {s0 : State} (s : State) (h0 : Keep s0 s) : Keep s0 (judgeNbrs s) := by
  unfold judgeNbrs
  repeat' first
      | with_reducible assumption | intro _ | (with_reducible refine keep_forN ?_ _ ?_)
      | (with_reducible refine keep_mk ?_)

theorem keep_markPort {s0 : State} (s : State) (port : Nat) (missing : Bool) (extra : Bool) (h0 : Keep s0 s) : Keep
    s0 (markPort s port missing extra) := by
  unfold markPort
  repeat' first | with_reducible assumption | (with_reducible refine keep_mk ?_)

theorem keep_classPort {s0 : State} (s : State) (port : Nat) (h0 : Keep s0 s) : Keep s0 (classPort s port) := by
  unfold classPort
  repeat' first
      | with_reducible assumption | (with_reducible refine keep_markPort _ _ _ _ ?_)
      | (with_reducible refine keep_raiseMod _ _ _ ?_) | split

theorem keep_reclassPort {s0 : State} (port : Nat) (s : State) (h1 : Keep s0 s) : Keep s0 (reclassPort port s) := by
  unfold reclassPort
  repeat' first
      | with_reducible assumption | (with_reducible refine keep_classPort _ _ ?_)
      | (with_reducible refine keep_markPort _ _ _ _ ?_) | (with_reducible refine keep_ite ?_ ?_)

theorem keep_newPlan {s0 : State} (s : State) (h0 : Keep s0 s) : Keep s0 (newPlan s) := by
  unfold newPlan
  repeat' first
      | with_reducible assumption | (with_reducible refine keep_settlePorts _ ?_)
      | (with_reducible refine keep_reclassPort _ _ ?_) | (with_reducible refine keep_judgeNbrs _ ?_) | intro _
      | (with_reducible refine keep_forN ?_ _ ?_)

theorem keep_segGoesDown {s0 : State} (s : State) (g : SegId) (h0 : Keep s0 s) : Keep s0 (segGoesDown s g) := by
  unfold segGoesDown
  repeat' first
      | with_reducible assumption | (with_reducible refine keep_updSeg _ _ _ ?_)
      | (with_reducible refine keep_raiseMod _ _ _ ?_) | (with_reducible refine keep_toProbe _ _ ?_)
      | (with_reducible refine keep_ite ?_ ?_)

theorem keep_checkLanes {s0 : State} (s : State) (g : SegId) (h0 : Keep s0 s) : Keep s0 (checkLanes s g) := by
  unfold checkLanes
  repeat' first
      | with_reducible assumption | (with_reducible refine keep_segGoesDown _ _ ?_)
      | (with_reducible refine keep_sendDueFlits _ _ ?_) | (with_reducible refine keep_updSeg _ _ _ ?_)
      | (with_reducible refine keep_ite ?_ ?_)

theorem keep_laneDropEvent {s0 : State} (s : State) (g : SegId) (lane : Nat) (mode : Nat) (h0 : Keep s0 s) : Keep s0
    (laneDropEvent s g lane mode) := by
  unfold laneDropEvent
  repeat' first | with_reducible assumption | (with_reducible refine keep_raiseMod _ _ _ ?_)

theorem keep_dropLane {s0 : State} (s : State) (g : SegId) (lane : Nat) (h0 : Keep s0 s) : Keep s0 (dropLane s g
    lane) := by
  unfold dropLane
  repeat' first
      | with_reducible assumption | (with_reducible refine keep_updSeg _ _ _ ?_)
      | (with_reducible refine keep_laneDropEvent _ _ _ _ ?_) | (with_reducible refine keep_checkLanes _ _ ?_)
      | (with_reducible refine keep_moveFlits _ _ _ ?_) | (with_reducible refine keep_ite ?_ ?_)

theorem keep_dropPortLane {s0 : State} (s : State) (port : Nat) (lane : Nat) (mark : Lane → Lane) (h0 : Keep s0 s) :
    Keep s0 (dropPortLane s port lane mark) := by
  unfold dropPortLane
  repeat' first
      | with_reducible assumption | (with_reducible refine keep_dropLane _ _ _ ?_)
      | (with_reducible refine keep_updPortLane _ _ _ _ ?_) | (with_reducible refine keep_sendLanes _ _ _ ?_)
      | intro _ | (with_reducible refine keep_foldl ?_ _ ?_)

theorem keep_returnPortLane {s0 : State} (s : State) (port : Nat) (lane : Nat) (h0 : Keep s0 s) : Keep s0
    (returnPortLane s port lane) := by
  unfold returnPortLane
  repeat' first
      | with_reducible assumption | (with_reducible refine keep_checkLanes _ _ ?_)
      | (with_reducible refine keep_updSeg _ _ _ ?_) | intro _ | (with_reducible refine keep_foldl ?_ _ ?_)

theorem keep_drainGroup {s0 : State} (s : State) (w : Nat) (grp : Nat) (h0 : Keep s0 s) : Keep s0 (drainGroup s w
    grp) := by
  unfold drainGroup
  repeat' first
      | with_reducible assumption | (with_reducible refine keep_dropPortLane _ _ _ _ ?_) | intro _
      | (with_reducible refine keep_foldl ?_ _ ?_)

theorem keep_queueRecord {s0 : State} (s : State) (r : RepairRec) (h0 : Keep s0 s) : Keep s0 (queueRecord s r) := by
  unfold queueRecord
  repeat' first | with_reducible assumption | (with_reducible refine keep_mk ?_)

theorem keep_applyRecord {s0 : State} (s : State) (r : RepairRec) (h0 : Keep s0 s) : Keep s0 (applyRecord s r) := by
  unfold applyRecord
  repeat' first | with_reducible assumption | split | (with_reducible refine keep_mk ?_)

theorem keep_storeRecord {s0 : State} (s : State) (r : RepairRec) (h0 : Keep s0 s) : Keep s0 (storeRecord s r) := by
  unfold storeRecord
  try dsimp only
  repeat' first
      | with_reducible assumption | (with_reducible refine keep_applyRecord _ _ ?_)
      | (with_reducible refine keep_ite ?_ ?_) | (with_reducible refine keep_ite_fst ?_ ?_) | intro _ | split
      | (with_reducible refine keep_foldl ?_ _ ?_) | (with_reducible refine keep_forN ?_ _ ?_)
      | (with_reducible refine keep_foldl_fst ?_ _ ?_) | (with_reducible refine keep_mk ?_)

theorem keep_readFlash {s0 : State} (s : State) (upsets : List Nat) (h0 : Keep s0 s) : Keep s0 (readFlash s upsets)
    := by
  unfold readFlash
  try dsimp only
  repeat' first
      | with_reducible assumption | (with_reducible refine keep_applyRecord _ _ ?_)
      | (with_reducible refine keep_ite ?_ ?_) | (with_reducible refine keep_ite_fst ?_ ?_) | intro _ | split
      | (with_reducible refine keep_foldl ?_ _ ?_) | (with_reducible refine keep_forN ?_ _ ?_)
      | (with_reducible refine keep_foldl_fst ?_ _ ?_) | (with_reducible refine keep_mk ?_)

theorem keep_retireWavelength {s0 : State} (s : State) (laser : Nat) (grp : Nat) (h0 : Keep s0 s) : Keep s0
    (retireWavelength s laser grp) := by
  unfold retireWavelength
  repeat' first
      | with_reducible assumption | (with_reducible refine keep_updLaser _ _ _ ?_)
      | (with_reducible refine keep_dropPortLane _ _ _ _ ?_) | (with_reducible refine keep_queueRecord _ _ ?_)
      | (with_reducible refine keep_raiseMod _ _ _ ?_) | intro _ | (with_reducible refine keep_foldl ?_ _ ?_)

theorem keep_becomeReady {s0 : State} (s : State) (h0 : Keep s0 s) : Keep s0 (becomeReady s) := by
  unfold becomeReady
  exact keep_raiseMod _ _ _ (keep_power h0 rfl (fun _ => rfl))

theorem keep_logBringUp {s0 : State} (s : State) (fault : Nat) (ms : Nat) (h0 : Keep s0 s) : Keep s0 (logBringUp s
    fault ms) := by
  unfold logBringUp
  repeat' first | with_reducible assumption | (with_reducible refine keep_addLog _ _ _ _ _ _ ?_)

theorem keep_stepTwelveDone {s0 : State} (s : State) (h0 : Keep s0 s) : Keep s0 (stepTwelveDone s) := by
  unfold stepTwelveDone
  repeat' first
      | with_reducible assumption | (with_reducible refine keep_logBringUp _ _ _ ?_)
      | (with_reducible refine keep_becomeReady _ ?_) | (with_reducible refine keep_ite ?_ ?_)

theorem keep_bootPlanFail {s0 : State} (s : State) (reason : Nat) (h0 : Keep s0 s) : Keep s0 (bootPlanFail s reason)
    := by
  unfold bootPlanFail
  repeat' first | with_reducible assumption | (with_reducible refine keep_raiseMod _ _ _ ?_)

theorem keep_startBootPlan {s0 : State} (s : State) (h0 : Keep s0 s) : Keep s0 (startBootPlan s) := by
  unfold startBootPlan
  repeat' first
      | with_reducible assumption | (with_reducible refine keep_stepTwelveDone _ ?_)
      | (with_reducible refine keep_bootPlanFail _ _ ?_) | (with_reducible refine keep_newPlan _ ?_) | split
      | (with_reducible refine keep_mk ?_)

end Sys2Proof.Machine
end

