-- ==== Sys2Proof/Laws/KeepCores.lean ====
section
/-! SUPPORT. What `Keep` says of the operations of the matrix cores and of the memory: one lemma for each definition. -/

namespace Sys2Proof.Machine

open Sys2Proof

set_option Elab.async false

theorem keep_clearRegion {s0 : State} (s : State) (rid : Nat) (h0 : Keep s0 s) : Keep s0 (clearRegion s rid) := by
  exact keep_dram h0 (fun w => wf_mclear _ _ w) (fun w => wf_mclear _ _ w)

theorem keep_regionEnable {s0 : State} (s : State) (rid : Nat) (h0 : Keep s0 s) : Keep s0 (regionEnable s rid) := by
  unfold regionEnable
  try dsimp only
  repeat' first
      | with_reducible assumption | (with_reducible refine keep_setRegion _ _ _ ?_)
      | (with_reducible refine keep_clearRegion _ _ ?_) | split

theorem keep_regionDisable {s0 : State} (s : State) (rid : Nat) (h0 : Keep s0 s) : Keep s0 (regionDisable s rid) := by
  unfold regionDisable
  repeat' first
      | with_reducible assumption | (with_reducible refine keep_setRegion _ _ _ ?_)
      | (with_reducible refine keep_clearRegion _ _ ?_)

theorem keep_installLayer {s0 : State} (s : State) (l : Nat) (x : Layer) (h0 : Keep s0 s) : Keep s0 (installLayer s
    l x) := by
  unfold installLayer
  repeat' first
      | with_reducible assumption | (with_reducible refine keep_setGov _ _ _ ?_)
      | (with_reducible refine keep_setVer _ _ _ ?_) | (with_reducible refine keep_mk ?_)

theorem keep_dropTable {s0 : State} (s : State) (p : Nat) (first : Nat) (count : Nat) (h0 : Keep s0 s) : Keep s0
    (dropTable s p first count) := by
  unfold dropTable
  repeat' first | with_reducible assumption | (with_reducible refine keep_mk ?_)

theorem keep_installTable {s0 : State} (s : State) (first : Nat) (es : List Bytes) (h0 : Keep s0 s) : Keep s0
    (installTable s first es) := by
  unfold installTable
  repeat' first
      | with_reducible assumption | (with_reducible refine keep_installLayer _ _ _ ?_) | intro _
      | (with_reducible refine keep_foldl_fst ?_ _ ?_)

theorem keep_tableRead {s0 : State} (c : ExecCtx) (base : Nat) (n : Nat) (s : State) (h3 : Keep s0 s) : Keep s0
    (tableRead c base n s).1 := by
  unfold tableRead
  repeat' first
      | with_reducible assumption | (with_reducible refine keep_checkRange _ _ _ _ _ ?_) | intro _ | split
      | (with_reducible refine keep_foldl_fst ?_ _ ?_)

theorem keep_layerLoad {s0 : State} (s : State) (p : Nat) (mem : MemIn) (h0 : Keep s0 s) : Keep s0 (layerLoad s p
    mem) := by
  unfold layerLoad
  try dsimp only
  repeat' first
      | with_reducible assumption | (with_reducible refine keep_updPart _ _ _ ?_)
      | (with_reducible refine keep_tableRead _ _ _ _ ?_) | (with_reducible refine keep_dramUpsets _ _ ?_)
      | (with_reducible refine keep_installTable _ _ _ ?_) | (with_reducible refine keep_dropTable _ _ _ _ ?_)
      | split | (with_reducible refine keep_fst (by with_reducible assumption) ?_)

theorem keep_clearLayers {s0 : State} (s : State) (p : Nat) (h0 : Keep s0 s) : Keep s0 (clearLayers s p) := by
  unfold clearLayers
  repeat' first
      | with_reducible assumption | (with_reducible refine keep_updPart _ _ _ ?_)
      | (with_reducible refine keep_dropTable _ _ _ _ ?_)

theorem keep_measure {s0 : State} (s : State) (p : Nat) (d : Bytes) (rows : List (List F32)) (h0 : Keep s0 s) : Keep
    s0 (measure s p d rows).1 := by
  unfold measure
  try dsimp only
  repeat' first | with_reducible assumption | (with_reducible refine keep_setGov _ _ _ ?_) | split

theorem keep_emit {s0 : State} (s : State) (c : ExecCtx) (d : Bytes) (u : Use) (mode : Nat) (stream : Nat) (elem :
    Nat → Nat → Nat) (rows : List (List F32)) (h0 : Keep s0 s) : Keep s0 (emit s c d u mode stream elem rows) := by
  unfold emit
  repeat' first | with_reducible assumption | (with_reducible refine keep_writeTensor _ _ _ _ ?_)

theorem keep_ranFail {s0 : State} (s : State) (st : Nat) (xs : Nat) (info : Option Nat) (h0 : Keep s0 s) : Keep s0
    (ranFail s st xs info).s := by
  unfold ranFail
  repeat' first | with_reducible assumption

theorem keep_onInputs {s0 : State} (s : State) (c : ExecCtx) (us : List Use) (body : State → Ran) (h0 : Keep s0 s)
    (h3 : ∀ t, Keep s0 t → Keep s0 (body t).s) : Keep s0 (onInputs s c us body).s := by
  unfold onInputs
  repeat' first
      | with_reducible assumption | (with_reducible refine keep_checkExts _ _ _ ?_)
      | (with_reducible refine keep_ranFail _ _ _ _ ?_) | split
      | (with_reducible refine keep_fst (by with_reducible assumption) ?_) | (with_reducible refine h3 _ ?_)

theorem keep_finishRun {s0 : State} (o : Op) (env : Env) (x : Ran) (h2 : Keep s0 x.s) : Keep s0 (finishRun o env x)
    := by
  unfold finishRun
  repeat' first
      | with_reducible assumption | (with_reducible refine keep_complete _ _ _ _ _ ?_)
      | (with_reducible refine keep_freeOuts _ _ _ ?_) | (with_reducible refine keep_measure _ _ _ _ ?_)
      | (with_reducible refine keep_finishOk _ _ _ _ _ ?_) | split

theorem keep_runGemm {s0 : State} (s0_0 : State) (c : ExecCtx) (d : Bytes) (h0 : Keep s0 s0_0) : Keep s0 (runGemm
    s0_0 c d).s := by
  unfold runGemm
  repeat' first
      | with_reducible assumption | (with_reducible refine keep_onInputs _ _ _ _ ?_ ?_)
      | (with_reducible refine keep_emit _ _ _ _ _ _ _ _ ?_) | intro _ | split

theorem keep_execGemm {s0 : State} (op : Nat) (env : Env) (s : State) (h2 : Keep s0 s) : KeepOut s0 (execGemm op env
    s) := by
  unfold execGemm
  repeat' first
      | with_reducible assumption | with_reducible refine keepOut_next ?_
      | (with_reducible refine keep_runOp _ _ _ _ _ ?_ ?_) | (with_reducible refine keep_finishRun _ _ _ ?_)
      | (with_reducible refine keep_runGemm _ _ _ ?_) | intro _

theorem keep_moveCodes {s0 : State} (s : State) (c : ExecCtx) (eqv : Bool) (src : Use) (dst : Use) (from_ : Nat →
    Nat → Nat × Nat) (h0 : Keep s0 s) : Keep s0 (moveCodes s c eqv src dst from_) := by
  unfold moveCodes
  repeat' first | with_reducible assumption | (with_reducible refine keep_writeTensor _ _ _ _ ?_)

theorem keep_runCopy {s0 : State} (s0_0 : State) (c : ExecCtx) (d : Bytes) (h0 : Keep s0 s0_0) : Keep s0 (runCopy
    s0_0 c d).s := by
  unfold runCopy
  try dsimp only
  repeat' first
      | with_reducible assumption | (with_reducible refine keep_onInputs _ _ _ _ ?_ ?_)
      | (with_reducible refine keep_emit _ _ _ _ _ _ _ _ ?_) | (with_reducible refine keep_moveCodes _ _ _ _ _ _ ?_)
      | intro _ | split

theorem keep_runIndexed {s0 : State} (s0_0 : State) (c : ExecCtx) (d : Bytes) (h0 : Keep s0 s0_0) : Keep s0
    (runIndexed s0_0 c d).s := by
  unfold runIndexed
  try dsimp only
  repeat' first
      | with_reducible assumption | (with_reducible refine keep_onInputs _ _ _ _ ?_ ?_)
      | (with_reducible refine keep_ranFail _ _ _ _ ?_) | (with_reducible refine keep_checkExts _ _ _ ?_)
      | (with_reducible refine keep_moveCodes _ _ _ _ _ _ ?_) | (with_reducible refine keep_emit _ _ _ _ _ _ _ _ ?_)
      | intro _ | split | (with_reducible refine keep_fst (by with_reducible assumption) ?_)

theorem keep_runHostRead {s0 : State} (s0_0 : State) (c : ExecCtx) (h_2 : HostIn) (d : Bytes) (h0 : Keep s0 s0_0) :
    Keep s0 (runHostRead s0_0 c h_2 d).s := by
  unfold runHostRead
  try dsimp only
  repeat' first
      | with_reducible assumption | (with_reducible refine keep_ranFail _ _ _ _ ?_)
      | (with_reducible refine keep_noteAer _ _ _ ?_) | (with_reducible refine keep_devWrite _ _ _ _ _ ?_)
      | (with_reducible refine keep_ite ?_ ?_) | (with_reducible refine keep_ite_ran ?_ ?_)
      | (with_reducible refine keep_ite_fst ?_ ?_) | intro _ | split | (with_reducible refine keep_foldl ?_ _ ?_)
      | (with_reducible refine keep_forN ?_ _ ?_) | (with_reducible refine keep_foldl_fst ?_ _ ?_)
      | (with_reducible refine keep_mk ?_)

theorem keep_runHostWrite {s0 : State} (s0_0 : State) (c : ExecCtx) (h_2 : HostIn) (d : Bytes) (h0 : Keep s0 s0_0) :
    Keep s0 (runHostWrite s0_0 c h_2 d).s := by
  unfold runHostWrite
  try dsimp only
  repeat' first
      | with_reducible assumption | (with_reducible refine keep_checkExts _ _ _ ?_)
      | (with_reducible refine keep_ranFail _ _ _ _ ?_) | (with_reducible refine keep_hostWrite _ _ _ _ ?_)
      | intro _ | split | (with_reducible refine keep_foldl_fst ?_ _ ?_)
      | (with_reducible refine keep_fst (by with_reducible assumption) ?_)

theorem keep_copyOp {s0 : State} (opcode : Nat) (op : Nat) (env : Env) (s : State) (h3 : Keep s0 s) : KeepOut s0
    (copyOp opcode op env s) := by
  unfold copyOp
  repeat' first
      | with_reducible assumption | with_reducible refine keepOut_next ?_
      | (with_reducible refine keep_runOp _ _ _ _ _ ?_ ?_) | (with_reducible refine keep_finishRun _ _ _ ?_)
      | (with_reducible refine keep_runCopy _ _ _ ?_) | intro _

theorem keep_execCopy {s0 : State} (op : Nat) (env : Env) (s : State) (h2 : Keep s0 s) : KeepOut s0 (execCopy op env
    s) := by
  unfold execCopy
  repeat' first
      | with_reducible assumption | with_reducible refine keepOut_next ?_
      | (with_reducible refine keep_copyOp _ _ _ _ ?_)

theorem keep_execTranspose {s0 : State} (op : Nat) (env : Env) (s : State) (h2 : Keep s0 s) : KeepOut s0
    (execTranspose op env s) := by
  unfold execTranspose
  repeat' first
      | with_reducible assumption | with_reducible refine keepOut_next ?_
      | (with_reducible refine keep_copyOp _ _ _ _ ?_)

theorem keep_execPack {s0 : State} (op : Nat) (env : Env) (s : State) (h2 : Keep s0 s) : KeepOut s0 (execPack op env
    s) := by
  unfold execPack
  repeat' first
      | with_reducible assumption | with_reducible refine keepOut_next ?_
      | (with_reducible refine keep_copyOp _ _ _ _ ?_)

theorem keep_execUnpack {s0 : State} (op : Nat) (env : Env) (s : State) (h2 : Keep s0 s) : KeepOut s0 (execUnpack op
    env s) := by
  unfold execUnpack
  repeat' first
      | with_reducible assumption | with_reducible refine keepOut_next ?_
      | (with_reducible refine keep_copyOp _ _ _ _ ?_)

theorem keep_execGather {s0 : State} (op : Nat) (env : Env) (s : State) (h2 : Keep s0 s) : KeepOut s0 (execGather op
    env s) := by
  unfold execGather
  repeat' first
      | with_reducible assumption | with_reducible refine keepOut_next ?_
      | (with_reducible refine keep_runOp _ _ _ _ _ ?_ ?_) | (with_reducible refine keep_finishRun _ _ _ ?_)
      | (with_reducible refine keep_runIndexed _ _ _ ?_) | intro _

theorem keep_execScatterAdd {s0 : State} (op : Nat) (env : Env) (s : State) (h2 : Keep s0 s) : KeepOut s0
    (execScatterAdd op env s) := by
  unfold execScatterAdd
  repeat' first
      | with_reducible assumption | with_reducible refine keepOut_next ?_
      | (with_reducible refine keep_runOp _ _ _ _ _ ?_ ?_) | (with_reducible refine keep_finishRun _ _ _ ?_)
      | (with_reducible refine keep_runIndexed _ _ _ ?_) | intro _

theorem keep_execHostRead {s0 : State} (op : Nat) (env : Env) (s : State) (h2 : Keep s0 s) : KeepOut s0
    (execHostRead op env s) := by
  unfold execHostRead
  repeat' first
      | with_reducible assumption | with_reducible refine keepOut_next ?_
      | (with_reducible refine keep_runOp _ _ _ _ _ ?_ ?_) | (with_reducible refine keep_finishRun _ _ _ ?_)
      | (with_reducible refine keep_runHostRead _ _ _ _ ?_) | intro _
      | (with_reducible refine keep_foldl_fst ?_ _ ?_)

theorem keep_execHostWrite {s0 : State} (op : Nat) (env : Env) (s : State) (h2 : Keep s0 s) : KeepOut s0
    (execHostWrite op env s) := by
  unfold execHostWrite
  repeat' first
      | with_reducible assumption | with_reducible refine keepOut_next ?_
      | (with_reducible refine keep_runOp _ _ _ _ _ ?_ ?_) | (with_reducible refine keep_finishRun _ _ _ ?_)
      | (with_reducible refine keep_runHostWrite _ _ _ _ ?_) | intro _
      | (with_reducible refine keep_foldl_fst ?_ _ ?_)

theorem keep_runReduce {s0 : State} (s0_0 : State) (c : ExecCtx) (d : Bytes) (h0 : Keep s0 s0_0) : Keep s0
    (runReduce s0_0 c d).s := by
  unfold runReduce
  repeat' first
      | with_reducible assumption | (with_reducible refine keep_onInputs _ _ _ _ ?_ ?_)
      | (with_reducible refine keep_emit _ _ _ _ _ _ _ _ ?_) | intro _ | split

theorem keep_reduceOp {s0 : State} (opcode : Nat) (op : Nat) (env : Env) (s : State) (h3 : Keep s0 s) : KeepOut s0
    (reduceOp opcode op env s) := by
  unfold reduceOp
  repeat' first
      | with_reducible assumption | with_reducible refine keepOut_next ?_
      | (with_reducible refine keep_runOp _ _ _ _ _ ?_ ?_) | (with_reducible refine keep_finishRun _ _ _ ?_)
      | (with_reducible refine keep_runReduce _ _ _ ?_) | intro _

theorem keep_execRowReduce {s0 : State} (op : Nat) (env : Env) (s : State) (h2 : Keep s0 s) : KeepOut s0
    (execRowReduce op env s) := by
  unfold execRowReduce
  repeat' first
      | with_reducible assumption | with_reducible refine keepOut_next ?_
      | (with_reducible refine keep_reduceOp _ _ _ _ ?_)

theorem keep_execColReduce {s0 : State} (op : Nat) (env : Env) (s : State) (h2 : Keep s0 s) : KeepOut s0
    (execColReduce op env s) := by
  unfold execColReduce
  repeat' first
      | with_reducible assumption | with_reducible refine keepOut_next ?_
      | (with_reducible refine keep_reduceOp _ _ _ _ ?_)

theorem keep_execSoftmaxFwd {s0 : State} (op : Nat) (env : Env) (s : State) (h2 : Keep s0 s) : KeepOut s0
    (execSoftmaxFwd op env s) := by
  unfold execSoftmaxFwd
  repeat' first
      | with_reducible assumption | with_reducible refine keepOut_next ?_
      | (with_reducible refine keep_reduceOp _ _ _ _ ?_)

theorem keep_execSoftmaxBwd {s0 : State} (op : Nat) (env : Env) (s : State) (h2 : Keep s0 s) : KeepOut s0
    (execSoftmaxBwd op env s) := by
  unfold execSoftmaxBwd
  repeat' first
      | with_reducible assumption | with_reducible refine keepOut_next ?_
      | (with_reducible refine keep_reduceOp _ _ _ _ ?_)

theorem keep_execNormFwd {s0 : State} (op : Nat) (env : Env) (s : State) (h2 : Keep s0 s) : KeepOut s0 (execNormFwd
    op env s) := by
  unfold execNormFwd
  repeat' first
      | with_reducible assumption | with_reducible refine keepOut_next ?_
      | (with_reducible refine keep_reduceOp _ _ _ _ ?_)

theorem keep_execNormBwd {s0 : State} (op : Nat) (env : Env) (s : State) (h2 : Keep s0 s) : KeepOut s0 (execNormBwd
    op env s) := by
  unfold execNormBwd
  repeat' first
      | with_reducible assumption | with_reducible refine keepOut_next ?_
      | (with_reducible refine keep_reduceOp _ _ _ _ ?_)

theorem keep_runExpr {s0 : State} (s0_0 : State) (c : ExecCtx) (d : Bytes) (h0 : Keep s0 s0_0) : Keep s0 (runExpr
    s0_0 c d).s := by
  unfold runExpr
  repeat' first
      | with_reducible assumption | (with_reducible refine keep_onInputs _ _ _ _ ?_ ?_)
      | (with_reducible refine keep_emit _ _ _ _ _ _ _ _ ?_) | intro _ | split

theorem keep_execExpr {s0 : State} (op : Nat) (env : Env) (s : State) (h2 : Keep s0 s) : KeepOut s0 (execExpr op env
    s) := by
  unfold execExpr
  repeat' first
      | with_reducible assumption | with_reducible refine keepOut_next ?_
      | (with_reducible refine keep_runOp _ _ _ _ _ ?_ ?_) | (with_reducible refine keep_complete _ _ _ _ _ ?_)
      | (with_reducible refine keep_finishRun _ _ _ ?_) | (with_reducible refine keep_runExpr _ _ _ ?_) | intro _
      | split

theorem keep_runRng {s0 : State} (s : State) (c : ExecCtx) (d : Bytes) (h0 : Keep s0 s) : Keep s0 (runRng s c d).s
    := by
  unfold runRng
  try dsimp only
  repeat' first | with_reducible assumption | (with_reducible refine keep_emit _ _ _ _ _ _ _ _ ?_) | split

theorem keep_rngOp {s0 : State} (opcode : Nat) (op : Nat) (env : Env) (s : State) (h3 : Keep s0 s) : KeepOut s0
    (rngOp opcode op env s) := by
  unfold rngOp
  repeat' first
      | with_reducible assumption | with_reducible refine keepOut_next ?_
      | (with_reducible refine keep_runOp _ _ _ _ _ ?_ ?_) | (with_reducible refine keep_finishRun _ _ _ ?_)
      | (with_reducible refine keep_runRng _ _ _ ?_) | intro _

theorem keep_execRngUniform {s0 : State} (op : Nat) (env : Env) (s : State) (h2 : Keep s0 s) : KeepOut s0
    (execRngUniform op env s) := by
  unfold execRngUniform
  repeat' first
      | with_reducible assumption | with_reducible refine keepOut_next ?_
      | (with_reducible refine keep_rngOp _ _ _ _ ?_)

theorem keep_execRngNormal {s0 : State} (op : Nat) (env : Env) (s : State) (h2 : Keep s0 s) : KeepOut s0
    (execRngNormal op env s) := by
  unfold execRngNormal
  repeat' first
      | with_reducible assumption | with_reducible refine keepOut_next ?_
      | (with_reducible refine keep_rngOp _ _ _ _ ?_)

theorem keep_execRngBernoulli {s0 : State} (op : Nat) (env : Env) (s : State) (h2 : Keep s0 s) : KeepOut s0
    (execRngBernoulli op env s) := by
  unfold execRngBernoulli
  repeat' first
      | with_reducible assumption | with_reducible refine keepOut_next ?_
      | (with_reducible refine keep_rngOp _ _ _ _ ?_)

theorem keep_runDesc {s0 : State} (s : State) (c : ExecCtx) (h_2 : HostIn) (d : Bytes) (h0 : Keep s0 s) : Keep s0
    (runDesc s c h_2 d).s := by
  unfold runDesc
  repeat' first
      | with_reducible assumption | (with_reducible refine keep_runGemm _ _ _ ?_)
      | (with_reducible refine keep_runExpr _ _ _ ?_) | (with_reducible refine keep_runReduce _ _ _ ?_)
      | (with_reducible refine keep_runIndexed _ _ _ ?_) | (with_reducible refine keep_runHostRead _ _ _ _ ?_)
      | (with_reducible refine keep_runHostWrite _ _ _ _ ?_) | (with_reducible refine keep_runCopy _ _ _ ?_)
      | (with_reducible refine keep_runRng _ _ _ ?_) | (with_reducible refine keep_ite_ran ?_ ?_)

theorem keep_writeRuns {s0 : State} (s : State) (c : ExecCtx) (base : Nat) (rs : Runs) (h0 : Keep s0 s) : Keep s0
    (writeRuns s c base rs) := by
  unfold writeRuns
  repeat' first
      | with_reducible assumption | (with_reducible refine keep_devWrite _ _ _ _ _ ?_)
      | (with_reducible refine keep_drawFree _ _ ?_) | intro _ | (with_reducible refine keep_foldl ?_ _ ?_)

theorem keep_writeRecord {s0 : State} (s : State) (c : ExecCtx) (entry : Nat) (e : Stash) (h0 : Keep s0 s) : Keep s0
    (writeRecord s c entry e) := by
  unfold writeRecord
  repeat' first | with_reducible assumption | (with_reducible refine keep_devWrite _ _ _ _ _ ?_)

theorem keep_execStashPut {s0 : State} (op : Nat) (env : Env) (s0_2 : State) (h2 : Keep s0 s0_2) : KeepOut s0
    (execStashPut op env s0_2) := by
  unfold execStashPut
  repeat' first
      | with_reducible assumption | with_reducible refine keepOut_next ?_
      | (with_reducible refine keep_runOp _ _ _ _ _ ?_ ?_) | (with_reducible refine keep_failRun _ _ _ _ _ ?_)
      | (with_reducible refine keep_complete _ _ _ _ _ ?_) | (with_reducible refine keep_withInputs _ _ _ _ ?_ ?_)
      | (with_reducible refine keep_writeRuns _ _ _ _ ?_) | (with_reducible refine keep_fenceAdd _ _ _ ?_)
      | (with_reducible refine keep_finishOk _ _ _ _ _ ?_) | (with_reducible refine keep_setStash _ _ _ _ ?_)
      | (with_reducible refine keep_writeRecord _ _ _ _ ?_) | (with_reducible refine keep_ite ?_ ?_) | intro _
      | (with_reducible refine keep_foldl ?_ _ ?_)

theorem keep_stashRead {s0 : State} (s : State) (c : ExecCtx) (a : Nat) (n : Nat) (h0 : Keep s0 s) : Keep s0
    (stashRead s c a n).1 := by
  unfold stashRead
  repeat' first | with_reducible assumption | (with_reducible refine keep_checkRange _ _ _ _ _ ?_)

theorem keep_sparseStep {s0 : State} (c : ExecCtx) (fmt : Nat) (t : SparseAt) (h : Keep s0 t.s) : Keep s0
    (sparseStep c fmt t).s := by
  unfold sparseStep
  exact keep_stashRead _ _ _ _ (keep_stashRead _ _ _ _ h)

theorem keep_sparseFold {s0 : State} (c : ExecCtx) (fmt : Nat) : ∀ (l : List Nat) (t : SparseAt), Keep s0 t.s →
    Keep s0 (l.foldl (fun t _ => if t.err.isSome then t else sparseStep c fmt t) t).s
  | [], _, h => h
  | _ :: l, t, h => by
    refine keep_sparseFold c fmt l _ ?_
    dsimp only
    split
    · exact h
    · exact keep_sparseStep _ _ _ h

theorem keep_sparseRead {s0 : State} (s : State) (c : ExecCtx) (fmt : Nat) (groups : Nat) (a : Nat) (n : Nat) (h0 :
    Keep s0 s) : Keep s0 (sparseRead s c fmt groups a n).1 := by
  unfold sparseRead
  exact keep_sparseFold _ _ _ _ h0

theorem keep_stashDecode {s0 : State} (s : State) (c : ExecCtx) (e : Stash) (h0 : Keep s0 s) : Keep s0 (stashDecode
    s c e).1 := by
  unfold stashDecode
  repeat' first
      | with_reducible assumption | (with_reducible refine keep_stashRead _ _ _ _ ?_)
      | (with_reducible refine keep_sparseRead _ _ _ _ _ _ ?_) | split

theorem keep_getWrite {s0 : State} (s : State) (c : ExecCtx) (d : Bytes) (e : Stash) (xs : List (Nat × Nat)) (h0 :
    Keep s0 s) : Keep s0 (getWrite s c d e xs) := by
  unfold getWrite
  repeat' first
      | with_reducible assumption | (with_reducible refine keep_writeTensor _ _ _ _ ?_)
      | (with_reducible refine keep_ite ?_ ?_)

theorem keep_getDone {s0 : State} (s : State) (o : Op) (env : Env) (e : Stash) (xs : List (Nat × Nat)) (reex : Bool)
    (h0 : Keep s0 s) : Keep s0 (getDone s o env e xs reex) := by
  unfold getDone
  repeat' first
      | with_reducible assumption | (with_reducible refine keep_getWrite _ _ _ _ _ ?_)
      | (with_reducible refine keep_measure _ _ _ _ ?_) | (with_reducible refine keep_finishOk _ _ _ _ _ ?_)

theorem keep_stashLost {s0 : State} (s : State) (o : Op) (env : Env) (entry : Nat) (e : Stash) (xs : Nat) (info :
    Nat) (h0 : Keep s0 s) : Keep s0 (stashLost s o env entry e xs info) := by
  unfold stashLost
  repeat' first
      | with_reducible assumption | (with_reducible refine keep_freeExts _ _ _ ?_)
      | (with_reducible refine keep_raise _ _ _ _ ?_) | (with_reducible refine keep_complete _ _ _ _ _ ?_)

theorem keep_execStashGet {s0 : State} (op : Nat) (env : Env) (s0_2 : State) (h2 : Keep s0 s0_2) : KeepOut s0
    (execStashGet op env s0_2) := by
  unfold execStashGet
  try dsimp only
  repeat' first
      | with_reducible assumption | with_reducible refine keepOut_next ?_
      | (with_reducible refine keep_runOp _ _ _ _ _ ?_ ?_) | (with_reducible refine keep_complete _ _ _ _ _ ?_)
      | (with_reducible refine keep_stashDecode _ _ _ ?_) | (with_reducible refine keep_getDone _ _ _ _ _ _ ?_)
      | (with_reducible refine keep_stashLost _ _ _ _ _ _ _ ?_) | (with_reducible refine keep_updOp _ _ _ ?_)
      | intro _ | split | (with_reducible refine keep_fst (by with_reducible assumption) ?_)

theorem keep_rerunProds {s0 : State} (p : Nat) (mem : MemIn) : ∀ (l : List Recent) (next : Nat) (pl : List (Bool ×
    Nat × Nat × Nat)) (s : State),
    Keep s0 s → Keep s0 (rerunProds p mem l next pl s).1
  | [], _, _, _, h => h
  | e :: t, next, pl, s, h => by
    simp only [rerunProds]
    split
    · exact keep_runDesc _ _ _ _ h
    · exact keep_rerunProds p mem t _ _ _ (keep_runDesc _ _ _ _ h)

theorem keep_execStashReexecution {s0 : State} (op : Nat) (env : Env) (s0_2 : State) (h2 : Keep s0 s0_2) : KeepOut
    s0 (execStashReexecution op env s0_2) := by
  unfold execStashReexecution
  try dsimp only
  repeat' first
      | with_reducible assumption | with_reducible refine keepOut_next ?_
      | (with_reducible refine keep_envIn _ _ ?_) | (with_reducible refine keep_failRun _ _ _ _ _ ?_)
      | (with_reducible refine keep_stashDecode _ _ _ ?_) | (with_reducible refine keep_getDone _ _ _ _ _ _ ?_)
      | (with_reducible refine keep_stashLost _ _ _ _ _ _ _ ?_) | (with_reducible apply keep_rerunProds)
      | (with_reducible refine keep_checkExts _ _ _ ?_) | (with_reducible refine keep_writeRuns _ _ _ _ ?_)
      | (with_reducible refine keep_raise _ _ _ _ ?_) | split
      | (with_reducible refine keep_fst (by with_reducible assumption) ?_)

theorem keep_dropStash {s0 : State} (s : State) (p : Nat) (entry : Nat) (h0 : Keep s0 s) : Keep s0 (dropStash s p
    entry) := by
  unfold dropStash
  repeat' first
      | with_reducible assumption | (with_reducible refine keep_setStash _ _ _ _ ?_)
      | (with_reducible refine keep_releasePins _ _ ?_) | split

theorem keep_execStashFree {s0 : State} (op : Nat) (env : Env) (s0_2 : State) (h2 : Keep s0 s0_2) : KeepOut s0
    (execStashFree op env s0_2) := by
  unfold execStashFree
  repeat' first
      | with_reducible assumption | with_reducible refine keepOut_next ?_
      | (with_reducible refine keep_runOp _ _ _ _ _ ?_ ?_) | (with_reducible refine keep_complete _ _ _ _ _ ?_)
      | (with_reducible refine keep_updOp _ _ _ ?_) | (with_reducible refine keep_finishOk _ _ _ _ _ ?_)
      | (with_reducible refine keep_dropStash _ _ _ ?_) | (with_reducible refine keep_ite ?_ ?_) | intro _

theorem keep_execStashFreeDeferred {s0 : State} (op : Nat) (s : State) (h1 : Keep s0 s) : KeepOut s0
    (execStashFreeDeferred op s) := by
  unfold execStashFreeDeferred
  try dsimp only
  repeat' first
      | with_reducible assumption | with_reducible refine keepOut_next ?_
      | (with_reducible refine keep_failTimed _ _ _ _ ?_) | (with_reducible refine keep_complete _ _ _ _ _ ?_)
      | (with_reducible refine keep_drawFree _ _ ?_) | (with_reducible refine keep_dropStash _ _ _ ?_) | split

theorem keep_steepWrite {s0 : State} (s : State) (p : Nat) (m : MemIn) (a : Nat) (b : Bytes) (h0 : Keep s0 s) : Keep
    s0 (steepWrite s p m a b) := by
  unfold steepWrite
  repeat' first | with_reducible assumption | (with_reducible refine keep_dramWrite _ _ _ _ _ ?_) | split

theorem keep_steepCheck {s0 : State} (s : State) (p : Nat) (m : MemIn) (a : Nat) (n : Nat) (h0 : Keep s0 s) : Keep
    s0 (steepCheck s p m a n).1 := by
  unfold steepCheck
  repeat' first | with_reducible assumption | (with_reducible refine keep_readRange _ _ _ _ _ ?_) | split

theorem keep_putMaster {s0 : State} (s : State) (p : Nat) (m : MemIn) (half : Nat) (img : Bytes) (b : Nat) (blk :
    Nat × List Nat) (h0 : Keep s0 s) : Keep s0 (putMaster s p m half img b blk).1 := by
  unfold putMaster
  repeat' first | with_reducible assumption | (with_reducible refine keep_steepWrite _ _ _ _ _ ?_)

theorem keep_putBf16 {s0 : State} (s : State) (p : Nat) (m : MemIn) (a : Nat) (i : Nat) (cs : List Nat) (h0 : Keep
    s0 s) : Keep s0 (putBf16 s p m a i cs).1 := by
  unfold putBf16
  repeat' first | with_reducible assumption | (with_reducible refine keep_steepWrite _ _ _ _ _ ?_)

theorem keep_applyBlock {s0 : State} (s : State) (p : Nat) (m : MemIn) (img : Bytes) (step : Nat) (b : Nat) (r :
    List F32) (h0 : Keep s0 s) : Keep s0 (applyBlock s p m img step b r).1 := by
  unfold applyBlock
  repeat' first
      | with_reducible assumption | (with_reducible refine keep_putBf16 _ _ _ _ _ _ ?_)
      | (with_reducible refine keep_putMaster _ _ _ _ _ _ _ ?_) | split

theorem keep_stageVals {s0 : State} (s : State) (p : Nat) (m : MemIn) (img : Bytes) (i : Nat) (r : List F32) (h0 :
    Keep s0 s) : Keep s0 (stageVals s p m img i r).1 := by
  unfold stageVals
  repeat' first | with_reducible assumption | (with_reducible refine keep_steepWrite _ _ _ _ _ ?_)

theorem keep_applyRuleF {s0 : State} (s : State) (p : Nat) (m : MemIn) (img : Bytes) (step : Nat) (h0 : Keep s0 s) :
    Keep s0 (applyRuleF s p m img step).1 := by
  unfold applyRuleF
  repeat' first
      | with_reducible assumption | (with_reducible refine keep_putBf16 _ _ _ _ _ _ ?_)
      | (with_reducible refine keep_putMaster _ _ _ _ _ _ _ ?_) | intro _ | split
      | (with_reducible refine keep_foldl_fst ?_ _ ?_)

end Sys2Proof.Machine
end

