-- ==== Sys2Proof/Laws/KeepGroup.lean ====
section
/-! SUPPORT. What `Keep` says of armings, collectives, the fabric and the links: one lemma for each definition. -/

namespace Sys2Proof.Machine

open Sys2Proof

set_option Elab.async false

theorem keep_updArming {s0 : State} (s : State) (op : Nat) (g : Arming → Arming) (h0 : Keep s0 s) : Keep s0
    (updArming s op g) := by
  unfold updArming
  repeat' first | with_reducible assumption | (with_reducible refine keep_mk ?_)

theorem keep_dropArming {s0 : State} (s : State) (a : Arming) (h0 : Keep s0 s) : Keep s0 (dropArming s a) := by
  unfold dropArming
  repeat' first | with_reducible assumption | (with_reducible refine keep_mk ?_)

theorem keep_completeArming {s0 : State} (s : State) (a : Arming) (st : Nat) (xs : Nat) (info : Nat) (h0 : Keep s0
    s) : Keep s0 (completeArming s a st xs info) := by
  unfold completeArming
  try dsimp only
  repeat' first
      | with_reducible assumption | (with_reducible refine keep_dropArming _ _ ?_)
      | (with_reducible refine keep_complete _ _ _ _ _ ?_) | split

theorem keep_failArming {s0 : State} (s : State) (a : Arming) (st : Nat) (xs : Nat) (info : Nat) (h0 : Keep s0 s) :
    Keep s0 (failArming s a st xs info) := by
  unfold failArming
  repeat' first
      | with_reducible assumption | (with_reducible refine keep_completeArming _ _ _ _ _ ?_)
      | (with_reducible refine keep_setVote _ _ _ ?_)

theorem keep_tryBind {s0 : State} (s : State) (op : Nat) (h0 : Keep s0 s) : Keep s0 (tryBind s op) := by
  unfold tryBind
  try dsimp only
  repeat' first
      | with_reducible assumption | (with_reducible refine keep_failArming _ _ _ _ _ ?_)
      | (with_reducible refine keep_updArming _ _ _ ?_) | split

theorem keep_bindAll {s0 : State} (s : State) (h0 : Keep s0 s) : Keep s0 (bindAll s) := by
  unfold bindAll
  repeat' first
      | with_reducible assumption | (with_reducible refine keep_tryBind _ _ ?_) | intro _
      | (with_reducible refine keep_foldl ?_ _ ?_)

theorem keep_storeStat {s0 : State} (step : Nat) (key : Nat) (bad : Bool) (t : State) (x : Nat × StatEntry) (h3 :
    Keep s0 t) : Keep s0 (storeStat step key bad t x) := by
  unfold storeStat
  repeat' first | with_reducible assumption | (with_reducible refine keep_setGov _ _ _ ?_)

theorem keep_putStat {s0 : State} (s : State) (p : Nat) (b : Bytes) (h0 : Keep s0 s) : Keep s0 (putStat s p b) := by
  unfold putStat
  repeat' first
      | with_reducible assumption | (with_reducible refine keep_setOwnerLeaf _ _ _ _ ?_)
      | (with_reducible refine keep_putRecord _ _ _ _ ?_) | (with_reducible refine keep_holdRecord _ _ _ _ ?_)
      | (with_reducible refine keep_ite ?_ ?_)

theorem keep_endLayer {s0 : State} (s : State) (p : Nat) (step : Nat) (committed : Bool) (l : Nat) (h0 : Keep s0 s)
    : Keep s0 (endLayer s p step committed l) := by
  unfold endLayer
  repeat' first
      | with_reducible assumption | (with_reducible refine keep_setGov _ _ _ ?_)
      | (with_reducible refine keep_raise _ _ _ _ ?_) | (with_reducible refine keep_putStat _ _ _ ?_)
      | (with_reducible refine keep_ite ?_ ?_)

theorem keep_endLayers {s0 : State} (s : State) (p : Nat) (step : Nat) (committed : Bool) (ls : List Nat) (h0 : Keep
    s0 s) : Keep s0 (endLayers s p step committed ls) := by
  unfold endLayers
  repeat' first
      | with_reducible assumption | (with_reducible refine keep_endLayer _ _ _ _ _ ?_) | intro _
      | (with_reducible refine keep_foldl ?_ _ ?_)

theorem keep_commitLayer {s0 : State} (s : State) (l : Nat) (h0 : Keep s0 s) : Keep s0 (commitLayer s l) := by
  unfold commitLayer
  repeat' first | with_reducible assumption | (with_reducible refine keep_setVer _ _ _ ?_)

theorem keep_unclaimLayer {s0 : State} (s : State) (l : Nat) (h0 : Keep s0 s) : Keep s0 (unclaimLayer s l) := by
  unfold unclaimLayer
  repeat' first | with_reducible assumption | (with_reducible refine keep_setVer _ _ _ ?_)

theorem keep_suspect {s0 : State} (s : State) (p : Nat) (step : Nat) (skipped : Bool) (r : Bytes) (h0 : Keep s0 s) :
    Keep s0 (suspect s p step skipped r) := by
  unfold suspect
  repeat' first
      | with_reducible assumption | (with_reducible refine keep_raise _ _ _ _ ?_)
      | (with_reducible refine keep_setVote _ _ _ ?_) | (with_reducible refine keep_ite ?_ ?_)

theorem keep_recordOutcome {s0 : State} (s : State) (p : Nat) (step : Nat) (committed : Bool) (h0 : Keep s0 s) :
    Keep s0 (recordOutcome s p step committed) := by
  unfold recordOutcome
  repeat' first | with_reducible assumption | (with_reducible refine keep_setVote _ _ _ ?_)

theorem keep_commitStep {s0 : State} (s : State) (p : Nat) (step : Nat) (r : Bytes) (vote : State → State) (h0 :
    Keep s0 s) (h4 : ∀ t, Keep s0 t → Keep s0 (vote t)) : Keep s0 (commitStep s p step r vote) := by
  unfold commitStep
  repeat' first
      | with_reducible assumption | (with_reducible refine keep_recordOutcome _ _ _ _ ?_)
      | (with_reducible refine keep_commitLayer _ _ ?_) | (with_reducible refine keep_completeArming _ _ _ _ _ ?_)
      | (with_reducible refine keep_endLayers _ _ _ _ _ ?_) | (with_reducible refine keep_suspect _ _ _ _ _ ?_)
      | (with_reducible refine keep_ite ?_ ?_) | intro _ | (with_reducible refine keep_foldl ?_ _ ?_)
      | (with_reducible refine h4 _ ?_)

theorem keep_skipStep {s0 : State} (s : State) (p : Nat) (step : Nat) (xs : Nat) (r : Bytes) (vote : State → State)
    (h0 : Keep s0 s) (h5 : ∀ t, Keep s0 t → Keep s0 (vote t)) : Keep s0 (skipStep s p step xs r vote) := by
  unfold skipStep
  repeat' first
      | with_reducible assumption | (with_reducible refine keep_unclaimLayer _ _ ?_)
      | (with_reducible refine keep_recordOutcome _ _ _ _ ?_) | (with_reducible refine keep_setVote _ _ _ ?_)
      | (with_reducible refine keep_completeArming _ _ _ _ _ ?_)
      | (with_reducible refine keep_endLayers _ _ _ _ _ ?_) | (with_reducible refine keep_suspect _ _ _ _ _ ?_)
      | (with_reducible refine keep_ite ?_ ?_) | intro _ | (with_reducible refine keep_foldl ?_ _ ?_)
      | (with_reducible refine h5 _ ?_)

theorem keep_discardStep {s0 : State} (s : State) (p : Nat) (step : Nat) (st : Nat) (xs : Nat) (h0 : Keep s0 s) :
    Keep s0 (discardStep s p step st xs) := by
  unfold discardStep
  repeat' first
      | with_reducible assumption | (with_reducible refine keep_unclaimLayer _ _ ?_)
      | (with_reducible refine keep_setVote _ _ _ ?_) | (with_reducible refine keep_endLayers _ _ _ _ _ ?_)
      | (with_reducible refine keep_completeArming _ _ _ _ _ ?_) | intro _
      | (with_reducible refine keep_foldl ?_ _ ?_)

theorem keep_markUndecided {s0 : State} (s : State) (p : Nat) (step : Nat) (h0 : Keep s0 s) : Keep s0 (markUndecided
    s p step) := by
  unfold markUndecided
  repeat' first
      | with_reducible assumption | (with_reducible refine keep_setVote _ _ _ ?_)
      | (with_reducible refine keep_ite ?_ ?_)

theorem keep_stepUndecided {s0 : State} (s : State) (p : Nat) (d : Bytes) (h0 : Keep s0 s) : Keep s0 (stepUndecided
    s p d) := by
  unfold stepUndecided
  try dsimp only
  repeat' first
      | with_reducible assumption | (with_reducible refine keep_raise _ _ _ _ ?_)
      | (with_reducible refine keep_markUndecided _ _ _ ?_) | (with_reducible refine keep_discardStep _ _ _ _ _ ?_)
      | (with_reducible refine keep_ite ?_ ?_) | (with_reducible refine keep_ite_fst ?_ ?_) | intro _ | split
      | (with_reducible refine keep_foldl ?_ _ ?_) | (with_reducible refine keep_forN ?_ _ ?_)
      | (with_reducible refine keep_foldl_fst ?_ _ ?_) | (with_reducible refine keep_mk ?_)

theorem keep_voteUndecided {s0 : State} (s : State) (o : Op) (h0 : Keep s0 s) : Keep s0 (voteUndecided s o) := by
  unfold voteUndecided
  try dsimp only
  repeat' first
      | with_reducible assumption | (with_reducible refine keep_stepUndecided _ _ _ ?_)
      | (with_reducible refine keep_ite ?_ ?_) | (with_reducible refine keep_ite_fst ?_ ?_) | intro _ | split
      | (with_reducible refine keep_foldl ?_ _ ?_) | (with_reducible refine keep_forN ?_ _ ?_)
      | (with_reducible refine keep_foldl_fst ?_ _ ?_) | (with_reducible refine keep_mk ?_)

theorem keep_releaseClaims {s0 : State} (s : State) (a : Arming) (h0 : Keep s0 s) : Keep s0 (releaseClaims s a) := by
  unfold releaseClaims
  repeat' first
      | with_reducible assumption | (with_reducible refine keep_unclaimLayer _ _ ?_) | intro _
      | (with_reducible refine keep_foldl ?_ _ ?_)

theorem keep_trimArmings {s0 : State} (s : State) (p : Nat) (step : Nat) (count : Nat) (h0 : Keep s0 s) : Keep s0
    (trimArmings s p step count) := by
  unfold trimArmings
  repeat' first
      | with_reducible assumption | (with_reducible refine keep_completeArming _ _ _ _ _ ?_)
      | (with_reducible refine keep_releaseClaims _ _ ?_) | intro _ | (with_reducible refine keep_foldl ?_ _ ?_)

theorem keep_putCtx {s0 : State} (s : State) (x : Ctx) (h0 : Keep s0 s) : Keep s0 (putCtx s x) := by
  unfold putCtx
  repeat' first | with_reducible assumption | (with_reducible refine keep_mk ?_)

theorem keep_dropCtx {s0 : State} (s : State) (op : Nat) (h0 : Keep s0 s) : Keep s0 (dropCtx s op) := by
  unfold dropCtx
  repeat' first | with_reducible assumption | (with_reducible refine keep_mk ?_)

theorem keep_sendControlTo {s0 : State} (s : State) (vc : Nat) (kind : Nat) (c : CollRef) (op : Nat) (me : Nat) (dst
    : Nat) (at_ : Nat) (key : ChunkKey) (payload : Bytes) (h0 : Keep s0 s) : Keep s0 (sendControlTo s vc kind c op me
    dst at_ key payload) := by
  unfold sendControlTo
  try dsimp only
  repeat' first
      | with_reducible assumption | (with_reducible refine keep_sendMsg _ _ ?_)
      | (with_reducible refine keep_ite ?_ ?_) | (with_reducible refine keep_ite_fst ?_ ?_) | intro _ | split
      | (with_reducible refine keep_foldl ?_ _ ?_) | (with_reducible refine keep_forN ?_ _ ?_)
      | (with_reducible refine keep_foldl_fst ?_ _ ?_) | (with_reducible refine keep_mk ?_)

theorem keep_sendControl {s0 : State} (s : State) (vc : Nat) (kind : Nat) (c : CollRef) (op : Nat) (me : Nat) (dst :
    Nat) (key : ChunkKey) (payload : Bytes) (h0 : Keep s0 s) : Keep s0 (sendControl s vc kind c op me dst key payload)
    := by
  unfold sendControl
  try dsimp only
  repeat' first
      | with_reducible assumption | (with_reducible refine keep_sendControlTo _ _ _ _ _ _ _ _ _ _ ?_)
      | (with_reducible refine keep_ite ?_ ?_) | (with_reducible refine keep_ite_fst ?_ ?_) | intro _ | split
      | (with_reducible refine keep_foldl ?_ _ ?_) | (with_reducible refine keep_forN ?_ _ ?_)
      | (with_reducible refine keep_foldl_fst ?_ _ ?_) | (with_reducible refine keep_mk ?_)

theorem keep_keepRecords {s0 : State} (s : State) (x : Ctx) (h0 : Keep s0 s) : Keep s0 (keepRecords s x) := by
  unfold keepRecords
  repeat' first
      | with_reducible assumption | (with_reducible refine keep_ite ?_ ?_) | (with_reducible refine keep_mk ?_)

theorem keep_endColl {s0 : State} (s : State) (x : Ctx) (st : Nat) (xs : Nat) (info : Nat) (h0 : Keep s0 s) : Keep
    s0 (endColl s x st xs info) := by
  unfold endColl
  try dsimp only
  repeat' first
      | with_reducible assumption | (with_reducible refine keep_dropCtx _ _ ?_)
      | (with_reducible refine keep_keepRecords _ _ ?_) | (with_reducible refine keep_complete _ _ _ _ _ ?_) | split

theorem keep_armEnds {s0 : State} (s : State) (x : Ctx) (st : Nat) (xs : Nat) (h0 : Keep s0 s) : Keep s0 (armEnds s
    x st xs) := by
  unfold armEnds
  repeat' first | with_reducible assumption | (with_reducible refine keep_failArming _ _ _ _ _ ?_) | split

theorem keep_storeStats {s0 : State} (s : State) (x : Ctx) (es : List StatEntry) (bad : Bool) (h0 : Keep s0 s) :
    Keep s0 (storeStats s x es bad) := by
  unfold storeStats
  repeat' first
      | with_reducible assumption | (with_reducible refine keep_updArming _ _ _ ?_)
      | (with_reducible refine keep_storeStat _ _ _ _ _ ?_) | intro _ | split
      | (with_reducible refine keep_foldl ?_ _ ?_)

theorem keep_failColl {s0 : State} (s : State) (x : Ctx) (st : Nat) (xs : Nat) (info : Nat) (h0 : Keep s0 s) : Keep
    s0 (failColl s x st xs info) := by
  unfold failColl
  repeat' first
      | with_reducible assumption | (with_reducible refine keep_dropCtx _ _ ?_)
      | (with_reducible refine keep_freeExts _ _ _ ?_) | (with_reducible refine keep_storeStats _ _ _ _ ?_)
      | (with_reducible refine keep_armEnds _ _ _ _ ?_) | (with_reducible refine keep_endColl _ _ _ _ _ ?_)
      | (with_reducible refine keep_voteUndecided _ _ ?_) | split

theorem keep_abortEnd {s0 : State} (s : State) (x : Ctx) (kind : AbortKind) (rank : Nat) (h0 : Keep s0 s) : Keep s0
    (abortEnd s x kind rank) := by
  unfold abortEnd
  repeat' first
      | with_reducible assumption | (with_reducible refine keep_raise _ _ _ _ ?_)
      | (with_reducible refine keep_failColl _ _ _ _ _ ?_) | split

theorem keep_abortColl {s0 : State} (s : State) (x : Ctx) (kind : AbortKind) (rank : Nat) (h0 : Keep s0 s) : Keep s0
    (abortColl s x kind rank) := by
  unfold abortColl
  repeat' first
      | with_reducible assumption | (with_reducible refine keep_sendControl _ _ _ _ _ _ _ _ _ ?_)
      | (with_reducible refine keep_abortEnd _ _ _ _ ?_) | intro _ | (with_reducible refine keep_foldl ?_ _ ?_)

theorem keep_emitChunk {s0 : State} (s : State) (x : Ctx) (d : Bytes) (key : ChunkKey) (dst : Nat) (b : Bytes) (h0 :
    Keep s0 s) : Keep s0 (emitChunk s x d key dst b) := by
  unfold emitChunk
  repeat' first | with_reducible assumption | (with_reducible refine keep_sendMsg _ _ ?_)

theorem keep_sendDue {s0 : State} (d : Bytes) (t : State × Ctx) (u : Due) (h1 : Keep s0 t.1) : Keep s0 (sendDue d t
    u).1 := by
  unfold sendDue
  try dsimp only
  repeat' first | with_reducible assumption | (with_reducible refine keep_emitChunk _ _ _ _ _ _ ?_) | split

theorem keep_sendDues {s0 : State} (d : Bytes) : ∀ (us : List Due) (blocked : List Nat) (t : State × Ctx), Keep s0
    t.1 → Keep s0 (sendDues d us blocked t).1
  | [], _, _, h => h
  | u :: us, blocked, t, h => by
    simp only [sendDues]
    exact keep_ite_fst (keep_sendDues d us _ _ h) (keep_sendDues d us _ _ (keep_sendDue _ _ _ h))

theorem keep_writeCodes {s0 : State} (s : State) (c : ExecCtx) (sram : Bool) (base : Nat) (bitPos : Nat) (bits :
    Nat) (codes : List Nat) (h0 : Keep s0 s) : Keep s0 (writeCodes s c sram base bitPos bits codes) := by
  unfold writeCodes
  repeat' first
      | with_reducible assumption | (with_reducible refine keep_devWrite _ _ _ _ _ ?_)
      | (with_reducible refine keep_ite ?_ ?_)

theorem keep_writeBlocks {s0 : State} (s : State) (c : ExecCtx) (v : TView) (r : Nat) (col : Nat) (n : Nat) (bs :
    Blocks) (h0 : Keep s0 s) : Keep s0 (writeBlocks s c v r col n bs) := by
  unfold writeBlocks
  repeat' first
      | with_reducible assumption | (with_reducible refine keep_writeCodes _ _ _ _ _ _ _ ?_)
      | (with_reducible refine keep_devWrite _ _ _ _ _ ?_) | (with_reducible refine keep_ite ?_ ?_)

theorem keep_deliver {s0 : State} (d : Bytes) (src : Nat) (s : Nat) (fmt : Nat) (c : Nat) (bs : Blocks) (t : State ×
    Ctx) (h6 : Keep s0 t.1) : Keep s0 (deliver d src s fmt c bs t).1 := by
  unfold deliver
  dsimp only
  refine keep_ite_fst h6 ?_
  split
  · exact h6
  · exact keep_writeBlocks _ _ _ _ _ _ _ h6

theorem keep_measureRoots {s0 : State} (d : Bytes) (t : State × Ctx) (h1 : Keep s0 t.1) : Keep s0 (measureRoots d
    t).1 := by
  unfold measureRoots
  repeat' first
      | with_reducible assumption | (with_reducible refine keep_measure _ _ _ _ ?_) | intro _ | split
      | (with_reducible refine keep_foldl_fst ?_ _ ?_)

theorem keep_deliverRoots {s0 : State} (d : Bytes) (t : State × Ctx) (h1 : Keep s0 t.1) : Keep s0 (deliverRoots d
    t).1 := by
  unfold deliverRoots
  repeat' first
      | with_reducible assumption | (with_reducible refine keep_deliver _ _ _ _ _ _ _ ?_) | intro _ | split
      | (with_reducible refine keep_foldl_fst ?_ _ ?_)

theorem keep_deliverMoved {s0 : State} (d : Bytes) (t : State × Ctx) (h1 : Keep s0 t.1) : Keep s0 (deliverMoved d
    t).1 := by
  unfold deliverMoved
  refine keep_foldl_fst (fun a x ha => ?_) _ h1
  split
  · exact keep_deliver _ _ _ _ _ _ _ ha
  · exact ha

theorem keep_deliverOwn {s0 : State} (d : Bytes) (t : State × Ctx) (h1 : Keep s0 t.1) : Keep s0 (deliverOwn d t).1
    := by
  unfold deliverOwn
  dsimp only
  exact keep_ite_fst h1 (keep_foldl_fst (fun a x ha => keep_deliver _ _ _ _ _ _ _ ha) _ h1)

theorem keep_sendRecord {s0 : State} (d : Bytes) (rec_ : Bytes) (level : Nat) (dst : Nat) (t : State × Ctx) (h4 :
    Keep s0 t.1) : Keep s0 (sendRecord d rec_ level dst t).1 := by
  unfold sendRecord
  try dsimp only
  repeat' first | with_reducible assumption | (with_reducible refine keep_emitChunk _ _ _ _ _ _ ?_) | split

theorem keep_pumpRecords {s0 : State} (s : State) (x : Ctx) (d : Bytes) (h0 : Keep s0 s) : Keep s0 (pumpRecords s x
    d).1 := by
  unfold pumpRecords
  try dsimp only
  repeat' first
      | with_reducible assumption | (with_reducible refine keep_sendRecord _ _ _ _ _ ?_) | intro _ | split
      | (with_reducible refine keep_foldl_fst ?_ _ ?_)

theorem keep_closeStats {s0 : State} (s : State) (x : Ctx) (es : List StatEntry) (h0 : Keep s0 s) : Keep s0
    (closeStats s x es) := by
  unfold closeStats
  repeat' first
      | with_reducible assumption | (with_reducible refine keep_armEnds _ _ _ _ ?_)
      | (with_reducible refine keep_endColl _ _ _ _ _ ?_) | (with_reducible refine keep_storeStats _ _ _ _ ?_)

theorem keep_pump {s0 : State} (s : State) (x : Ctx) (h0 : Keep s0 s) : Keep s0 (pump s x) := by
  unfold pump
  try dsimp only
  repeat' first
      | with_reducible assumption | (with_reducible refine keep_dropCtx _ _ ?_)
      | (with_reducible refine keep_pumpRecords _ _ _ ?_) | (with_reducible refine keep_abortColl _ _ _ _ ?_)
      | (with_reducible refine keep_putCtx _ _ ?_) | (with_reducible refine keep_endColl _ _ _ _ _ ?_)
      | (with_reducible refine keep_deliverMoved _ _ ?_) | (with_reducible refine keep_deliverRoots _ _ ?_)
      | (with_reducible refine keep_measureRoots _ _ ?_) | (with_reducible refine keep_deliverOwn _ _ ?_)
      | (with_reducible apply keep_sendDues) | (with_reducible refine keep_closeStats _ _ _ ?_)
      | (with_reducible refine keep_ite ?_ ?_) | (with_reducible refine keep_ite_fst ?_ ?_) | intro _ | split
      | (with_reducible refine keep_foldl ?_ _ ?_) | (with_reducible refine keep_forN ?_ _ ?_)
      | (with_reducible refine keep_foldl_fst ?_ _ ?_)
      | (with_reducible refine keep_fst (by with_reducible assumption) ?_) | (with_reducible refine keep_mk ?_)

theorem keep_grantTo {s0 : State} (s : State) (x : Ctx) (d : Bytes) (q : Nat) (h0 : Keep s0 s) : Keep s0 (grantTo s
    x d q).1 := by
  unfold grantTo
  repeat' first | with_reducible assumption | (with_reducible refine keep_sendControl _ _ _ _ _ _ _ _ _ ?_)

theorem keep_grantFree {s0 : State} (d : Bytes) : ∀ (n : Nat) (t : State × Ctx), Keep s0 t.1 → Keep s0 (grantFree d
    n t).1
  | 0, _, h => h
  | n + 1, t, h => by
    simp only [grantFree]
    split
    · exact keep_ite_fst h (keep_grantFree d n _ (keep_grantTo _ _ _ _ h))
    · exact h

theorem keep_collOp {s0 : State} (opcode : Nat) (op : Nat) (env : Env) (s0_3 : State) (h3 : Keep s0 s0_3) : KeepOut
    s0 (collOp opcode op env s0_3) := by
  unfold collOp
  try dsimp only
  repeat' first
      | with_reducible assumption | with_reducible refine keepOut_next ?_
      | (with_reducible refine keep_runOp _ _ _ _ _ ?_ ?_) | (with_reducible refine keep_failRun _ _ _ _ _ ?_)
      | (with_reducible refine keep_bindAll _ ?_) | (with_reducible refine keep_updOp _ _ _ ?_)
      | (with_reducible refine keep_trimArmings _ _ _ _ ?_) | (with_reducible refine keep_ite ?_ ?_)
      | (with_reducible refine keepOut_ite ?_ ?_) | (with_reducible refine keep_ite_fst ?_ ?_) | intro _ | split
      | (with_reducible refine keep_foldl ?_ _ ?_) | (with_reducible refine keep_forN ?_ _ ?_)
      | (with_reducible refine keep_foldl_fst ?_ _ ?_) | (with_reducible refine keep_mk ?_)

theorem keep_execAllReduce {s0 : State} (op : Nat) (env : Env) (s : State) (h2 : Keep s0 s) : KeepOut s0
    (execAllReduce op env s) := by
  unfold execAllReduce
  repeat' first
      | with_reducible assumption | with_reducible refine keepOut_next ?_
      | (with_reducible refine keep_collOp _ _ _ _ ?_)

theorem keep_execReduceScatter {s0 : State} (op : Nat) (env : Env) (s : State) (h2 : Keep s0 s) : KeepOut s0
    (execReduceScatter op env s) := by
  unfold execReduceScatter
  repeat' first
      | with_reducible assumption | with_reducible refine keepOut_next ?_
      | (with_reducible refine keep_collOp _ _ _ _ ?_)

theorem keep_execAllGather {s0 : State} (op : Nat) (env : Env) (s : State) (h2 : Keep s0 s) : KeepOut s0
    (execAllGather op env s) := by
  unfold execAllGather
  repeat' first
      | with_reducible assumption | with_reducible refine keepOut_next ?_
      | (with_reducible refine keep_collOp _ _ _ _ ?_)

theorem keep_execBroadcast {s0 : State} (op : Nat) (env : Env) (s : State) (h2 : Keep s0 s) : KeepOut s0
    (execBroadcast op env s) := by
  unfold execBroadcast
  repeat' first
      | with_reducible assumption | with_reducible refine keepOut_next ?_
      | (with_reducible refine keep_collOp _ _ _ _ ?_)

theorem keep_execReduce {s0 : State} (op : Nat) (env : Env) (s : State) (h2 : Keep s0 s) : KeepOut s0 (execReduce op
    env s) := by
  unfold execReduce
  repeat' first
      | with_reducible assumption | with_reducible refine keepOut_next ?_
      | (with_reducible refine keep_collOp _ _ _ _ ?_)

theorem keep_execAllToAll {s0 : State} (op : Nat) (env : Env) (s : State) (h2 : Keep s0 s) : KeepOut s0
    (execAllToAll op env s) := by
  unfold execAllToAll
  repeat' first
      | with_reducible assumption | with_reducible refine keepOut_next ?_
      | (with_reducible refine keep_collOp _ _ _ _ ?_)

theorem keep_execBarrier {s0 : State} (op : Nat) (env : Env) (s : State) (h2 : Keep s0 s) : KeepOut s0 (execBarrier
    op env s) := by
  unfold execBarrier
  repeat' first
      | with_reducible assumption | with_reducible refine keepOut_next ?_
      | (with_reducible refine keep_collOp _ _ _ _ ?_)

theorem keep_execStepVote {s0 : State} (op : Nat) (env : Env) (s : State) (h2 : Keep s0 s) : KeepOut s0
    (execStepVote op env s) := by
  unfold execStepVote
  repeat' first
      | with_reducible assumption | with_reducible refine keepOut_next ?_
      | (with_reducible refine keep_collOp _ _ _ _ ?_)

theorem keep_execSend {s0 : State} (op : Nat) (env : Env) (s : State) (h2 : Keep s0 s) : KeepOut s0 (execSend op env
    s) := by
  unfold execSend
  repeat' first
      | with_reducible assumption | with_reducible refine keepOut_next ?_
      | (with_reducible refine keep_collOp _ _ _ _ ?_)

theorem keep_execRecv {s0 : State} (op : Nat) (env : Env) (s : State) (h2 : Keep s0 s) : KeepOut s0 (execRecv op env
    s) := by
  unfold execRecv
  repeat' first
      | with_reducible assumption | with_reducible refine keepOut_next ?_
      | (with_reducible refine keep_collOp _ _ _ _ ?_)

theorem keep_execMcastPut {s0 : State} (op : Nat) (env : Env) (s : State) (h2 : Keep s0 s) : KeepOut s0
    (execMcastPut op env s) := by
  unfold execMcastPut
  repeat' first
      | with_reducible assumption | with_reducible refine keepOut_next ?_
      | (with_reducible refine keep_collOp _ _ _ _ ?_)

theorem keep_absorbEarly {s0 : State} (s : State) (n : EarlyNote) (h0 : Keep s0 s) : Keep s0 (absorbEarly s n) := by
  unfold absorbEarly
  repeat' first
      | with_reducible assumption | (with_reducible refine keep_ite ?_ ?_) | (with_reducible refine keep_mk ?_)

theorem keep_takeEarly {s0 : State} (s : State) (x : Ctx) (h0 : Keep s0 s) : Keep s0 (takeEarly s x).1 := by
  unfold takeEarly
  repeat' first | with_reducible assumption | (with_reducible refine keep_mk ?_)

theorem keep_grantRecords {s0 : State} (s : State) (x : Ctx) (d : Bytes) (h0 : Keep s0 s) : Keep s0 (grantRecords s
    x d).1 := by
  unfold grantRecords
  repeat' first
      | with_reducible assumption | (with_reducible refine keep_grantTo _ _ _ _ ?_) | intro _
      | (with_reducible refine keep_foldl_fst ?_ _ ?_)

theorem keep_standCtx {s0 : State} (s : State) (o : Op) (env : Env) (h0 : Keep s0 s) : Keep s0 (standCtx s o env).1
    := by
  unfold standCtx
  try dsimp only
  repeat' first
      | with_reducible assumption | (with_reducible refine keep_takeEarly _ _ ?_)
      | (with_reducible refine keep_ite ?_ ?_) | (with_reducible refine keep_ite_fst ?_ ?_) | intro _ | split
      | (with_reducible refine keep_foldl ?_ _ ?_) | (with_reducible refine keep_forN ?_ _ ?_)
      | (with_reducible refine keep_foldl_fst ?_ _ ?_)
      | (with_reducible refine keep_fst (by with_reducible assumption) ?_) | (with_reducible refine keep_mk ?_)

theorem keep_openCtx {s0 : State} (s : State) (o : Op) (env : Env) (early : Option (AbortKind × Nat)) (h0 : Keep s0
    s) : Keep s0 (openCtx s o env early) := by
  unfold openCtx
  try dsimp only
  repeat' first
      | with_reducible assumption | (with_reducible refine keep_checkExts _ _ _ ?_)
      | (with_reducible refine keep_countSbe _ _ _ ?_) | (with_reducible refine keep_failRun _ _ _ _ _ ?_)
      | (with_reducible refine keep_standCtx _ _ _ ?_) | (with_reducible refine keep_abortEnd _ _ _ _ ?_)
      | (with_reducible refine keep_putCtx _ _ ?_) | (with_reducible refine keep_grantRecords _ _ _ ?_)
      | (with_reducible apply keep_grantFree) | (with_reducible refine keep_pump _ _ ?_)
      | (with_reducible refine keep_ite ?_ ?_) | (with_reducible refine keep_ite_fst ?_ ?_) | intro _ | split
      | (with_reducible refine keep_foldl ?_ _ ?_) | (with_reducible refine keep_forN ?_ _ ?_)
      | (with_reducible refine keep_foldl_fst ?_ _ ?_)
      | (with_reducible refine keep_fst (by with_reducible assumption) ?_) | (with_reducible refine keep_mk ?_)

theorem keep_execCollectiveOpen {s0 : State} (op : Nat) (env : Env) (s0_2 : State) (h2 : Keep s0 s0_2) : KeepOut s0
    (execCollectiveOpen op env s0_2) := by
  unfold execCollectiveOpen
  try dsimp only
  repeat' first
      | with_reducible assumption | with_reducible refine keepOut_next ?_
      | (with_reducible refine keep_envIn _ _ ?_) | (with_reducible refine keep_failRun _ _ _ _ _ ?_)
      | (with_reducible refine keep_consumeSeq _ _ _ ?_) | (with_reducible refine keep_standCtx _ _ _ ?_)
      | (with_reducible refine keep_abortEnd _ _ _ _ ?_) | (with_reducible refine keep_putCtx _ _ ?_)
      | (with_reducible refine keep_checkRange _ _ _ _ _ ?_) | (with_reducible refine keep_openCtx _ _ _ _ ?_)
      | (with_reducible refine keep_ite ?_ ?_) | (with_reducible refine keepOut_ite ?_ ?_)
      | (with_reducible refine keep_ite_fst ?_ ?_) | intro _ | split | (with_reducible refine keep_foldl ?_ _ ?_)
      | (with_reducible refine keep_forN ?_ _ ?_) | (with_reducible refine keep_foldl_fst ?_ _ ?_)
      | (with_reducible refine keep_fst (by with_reducible assumption) ?_) | (with_reducible refine keep_mk ?_)

theorem keep_takeDelivered {s0 : State} (s : State) (bytes : Bytes) (h0 : Keep s0 s) : Keep s0 (takeDelivered s
    bytes) := by
  unfold takeDelivered
  repeat' first | with_reducible assumption | (with_reducible refine keep_mk ?_)

theorem keep_answerChunk {s0 : State} (s : State) (came : Came) (kind : Nat) (grants : Nat) (h_4 : ChunkHdr) (h0 :
    Keep s0 s) : Keep s0 (answerChunk s came kind grants h_4) := by
  unfold answerChunk
  try dsimp only
  repeat' first
      | with_reducible assumption | (with_reducible refine keep_sendControlTo _ _ _ _ _ _ _ _ _ _ ?_)
      | (with_reducible refine keep_ite ?_ ?_) | (with_reducible refine keep_ite_fst ?_ ?_) | intro _ | split
      | (with_reducible refine keep_foldl ?_ _ ?_) | (with_reducible refine keep_forN ?_ _ ?_)
      | (with_reducible refine keep_foldl_fst ?_ _ ?_) | (with_reducible refine keep_mk ?_)

theorem keep_acceptChunk {s0 : State} (s : State) (x : Ctx) (d : Bytes) (via : SegId) (came : Came) (h_5 : ChunkHdr)
    (u : Due) (payload : Bytes) (h0 : Keep s0 s) : Keep s0 (acceptChunk s x d via came h_5 u payload) := by
  unfold acceptChunk
  repeat' first
      | with_reducible assumption | (with_reducible apply keep_grantFree)
      | (with_reducible refine keep_answerChunk _ _ _ _ _ ?_) | (with_reducible refine keep_pump _ _ ?_)
      | (with_reducible refine keep_putCtx _ _ ?_)

theorem keep_execChunkReceive {s0 : State} (via : SegId) (bytes : Bytes) (s0_2 : State) (h2 : Keep s0 s0_2) :
    KeepOut s0 (execChunkReceive via bytes s0_2) := by
  unfold execChunkReceive
  try dsimp only
  repeat' first
      | with_reducible assumption | with_reducible refine keepOut_next ?_
      | (with_reducible refine keep_takeDelivered _ _ ?_) | (with_reducible refine keep_answerChunk _ _ _ _ _ ?_)
      | (with_reducible refine keep_abortColl _ _ _ _ ?_)
      | (with_reducible refine keep_acceptChunk _ _ _ _ _ _ _ _ ?_) | split

theorem keep_execGrantReceive {s0 : State} (coll : CollRef) (fromRank : Nat) (count : Nat) (s : State) (h3 : Keep s0
    s) : KeepOut s0 (execGrantReceive coll fromRank count s) := by
  unfold execGrantReceive
  repeat' first
      | with_reducible assumption | with_reducible refine keepOut_next ?_
      | (with_reducible refine keep_absorbEarly _ _ ?_) | (with_reducible refine keep_pump _ _ ?_)
      | (with_reducible refine keep_putCtx _ _ ?_) | split

theorem keep_execAckReceive {s0 : State} (coll : CollRef) (fromRank : Nat) (ack : ChunkAck) (s0_3 : State) (h3 :
    Keep s0 s0_3) : KeepOut s0 (execAckReceive coll fromRank ack s0_3) := by
  unfold execAckReceive
  try dsimp only
  repeat' first
      | with_reducible assumption | with_reducible refine keepOut_next ?_ | (with_reducible refine keep_pump _ _ ?_)
      | (with_reducible refine keep_putCtx _ _ ?_) | split | (with_reducible refine keep_mk ?_)

theorem keep_sendFailed {s0 : State} (s : State) (coll : CollRef) (dst : Nat) (key : ChunkKey) (h0 : Keep s0 s) :
    Keep s0 (sendFailed s coll dst key) := by
  unfold sendFailed
  repeat' first
      | with_reducible assumption | (with_reducible refine keep_abortColl _ _ _ _ ?_)
      | (with_reducible refine keep_putCtx _ _ ?_) | (with_reducible refine keep_emitChunk _ _ _ _ _ _ ?_)
      | (with_reducible refine keep_sendControl _ _ _ _ _ _ _ _ _ ?_) | (with_reducible refine keep_sendMsg _ _ ?_)
      | intro _ | split | (with_reducible refine keep_foldl ?_ _ ?_) | (with_reducible refine keep_mk ?_)

theorem keep_execNakReceive {s0 : State} (coll : CollRef) (fromRank : Nat) (key : ChunkKey) (s : State) (h3 : Keep
    s0 s) : KeepOut s0 (execNakReceive coll fromRank key s) := by
  unfold execNakReceive
  repeat' first
      | with_reducible assumption | with_reducible refine keepOut_next ?_
      | (with_reducible refine keep_sendFailed _ _ _ _ ?_)

theorem keep_execChunkResendTimeout {s0 : State} (coll : CollRef) (toRank : Nat) (key : ChunkKey) (s : State) (h3 :
    Keep s0 s) : KeepOut s0 (execChunkResendTimeout coll toRank key s) := by
  unfold execChunkResendTimeout
  repeat' first
      | with_reducible assumption | with_reducible refine keepOut_next ?_
      | (with_reducible refine keep_sendFailed _ _ _ _ ?_)

theorem keep_execAbortNoticeReceive {s0 : State} (coll : CollRef) (kind : AbortKind) (rank : Nat) (s : State) (h3 :
    Keep s0 s) : KeepOut s0 (execAbortNoticeReceive coll kind rank s) := by
  unfold execAbortNoticeReceive
  repeat' first
      | with_reducible assumption | with_reducible refine keepOut_next ?_
      | (with_reducible refine keep_abortEnd _ _ _ _ ?_) | (with_reducible refine keep_absorbEarly _ _ ?_) | split
      | (with_reducible refine keep_mk ?_)

theorem keep_execVoteRecordReceive {s0 : State} (via : SegId) (bytes : Bytes) (s0_2 : State) (h2 : Keep s0 s0_2) :
    KeepOut s0 (execVoteRecordReceive via bytes s0_2) := by
  unfold execVoteRecordReceive
  try dsimp only
  repeat' first
      | with_reducible assumption | with_reducible refine keepOut_next ?_
      | (with_reducible refine keep_takeDelivered _ _ ?_) | (with_reducible refine keep_answerChunk _ _ _ _ _ ?_)
      | (with_reducible refine keep_abortColl _ _ _ _ ?_) | (with_reducible refine keep_pump _ _ ?_)
      | (with_reducible refine keep_putCtx _ _ ?_) | split

theorem keep_loadGroup {s0 : State} (s : State) (p : Nat) (e : Nat) (m : MemIn) (b : Bytes) (h0 : Keep s0 s) : Keep
    s0 (loadGroup s p e m b).1 := by
  unfold loadGroup
  try dsimp only
  repeat' first
      | with_reducible assumption | (with_reducible refine keep_checkRange _ _ _ _ _ ?_) | split
      | (with_reducible refine keep_fst (by with_reducible assumption) ?_)

theorem keep_loadGroups {s0 : State} (p : Nat) (m : MemIn) : ∀ (l : List (Option Bytes)) (e : Nat) (acc : List (Nat
    × Group)) (lost : Option Nat)
    (s : State), Keep s0 s → Keep s0 (loadGroups p m l e acc lost s).1
  | [], _, _, _, _, h => h
  | none :: t, e, acc, lost, s, h => by
    simp only [loadGroups]
    exact keep_ite_fst h (keep_loadGroups p m t _ _ _ _ h)
  | some b :: t, e, acc, lost, s, h => by
    have k := keep_loadGroup s p e m b h
    simp only [loadGroups]
    split
    · rename_i q; rw [q] at k; exact k
    · rename_i q; rw [q] at k; exact keep_loadGroups p m t _ _ _ _ k
    · rename_i q; rw [q] at k; exact keep_loadGroups p m t _ _ _ _ k

theorem keep_imagesOf {s0 : State} (s : State) (o : Op) (env : Env) (k : Nat) (n : Nat) (h0 : Keep s0 s) : Keep s0
    (imagesOf s o env k n).1 := by
  unfold imagesOf
  try dsimp only
  repeat' first
      | with_reducible assumption | (with_reducible refine keep_checkRange _ _ _ _ _ ?_) | split
      | (with_reducible refine keep_fst (by with_reducible assumption) ?_)

theorem keep_dropEarly {s0 : State} (s : State) (g : Nat) (seq0 : Nat) (h0 : Keep s0 s) : Keep s0 (dropEarly s g
    seq0) := by
  unfold dropEarly
  repeat' first | with_reducible assumption | (with_reducible refine keep_mk ?_)

theorem keep_execGroupSet {s0 : State} (op : Nat) (env : Env) (s0_2 : State) (h2 : Keep s0 s0_2) : KeepOut s0
    (execGroupSet op env s0_2) := by
  unfold execGroupSet
  refine keep_runOp _ _ _ _ _ h2 ?_
  intro t o h
  dsimp only
  have k1 := keep_imagesOf t o env 64 (fld o.desc 0x1A 2) h
  generalize imagesOf t o env 64 (fld o.desc 0x1A 2) = r1 at k1 ⊢
  obtain ⟨s1, lost, bs⟩ := r1
  have k2 := keep_loadGroups o.part env.mem bs (fld o.desc 0x18 2) [] lost s1 k1
  dsimp only
  generalize loadGroups o.part env.mem bs (fld o.desc 0x18 2) [] lost s1 = r2 at k2 ⊢
  obtain ⟨s2, r, bad⟩ := r2
  dsimp only at k2 ⊢
  rcases r with gs | ⟨st, xs, e⟩ <;> rcases bad with _ | x
  · refine keep_ite (keep_complete _ _ _ _ _ k2) (keep_finishOk _ _ _ _ _ (keep_foldl (fun u g hu => ?_) _ k2))
    exact keep_dropEarly _ _ _ (keep_setGroup _ _ _ hu)
  all_goals exact keep_ite (keep_complete _ _ _ _ _ k2) (keep_complete _ _ _ _ _ k2)

theorem keep_registerOp {s0 : State} (s : State) (id : Nat) (h0 : Keep s0 s) : Keep s0 (registerOp s id) := by
  unfold registerOp
  repeat' first | with_reducible assumption | (with_reducible refine keep_updOp _ _ _ ?_)

theorem keep_execPlanStage {s0 : State} (op : Nat) (env : Env) (s0_2 : State) (h2 : Keep s0 s0_2) : KeepOut s0
    (execPlanStage op env s0_2) := by
  unfold execPlanStage
  repeat' first
      | with_reducible assumption | with_reducible refine keepOut_next ?_
      | (with_reducible refine keep_runOp _ _ _ _ _ ?_ ?_) | (with_reducible refine keep_complete _ _ _ _ _ ?_)
      | (with_reducible refine keep_checkRange _ _ _ _ _ ?_) | (with_reducible refine keep_finishOk _ _ _ _ _ ?_)
      | (with_reducible refine keep_newPlan _ ?_) | intro _ | split
      | (with_reducible refine keep_fst (by with_reducible assumption) ?_) | (with_reducible refine keep_mk ?_)

theorem keep_startChange {s0 : State} (s : State) (c : EpochChange) (h0 : Keep s0 s) : Keep s0 (startChange s c) := by
  unfold startChange
  repeat' first | with_reducible assumption | (with_reducible refine keep_mk ?_)

theorem keep_execPlanCommit {s0 : State} (op : Nat) (env : Env) (s0_2 : State) (h2 : Keep s0 s0_2) : KeepOut s0
    (execPlanCommit op env s0_2) := by
  unfold execPlanCommit
  try dsimp only
  repeat' first
      | with_reducible assumption | with_reducible refine keepOut_next ?_
      | (with_reducible refine keep_runOp _ _ _ _ _ ?_ ?_) | (with_reducible refine keep_complete _ _ _ _ _ ?_)
      | (with_reducible refine keep_startChange _ _ ?_) | (with_reducible refine keep_registerOp _ _ ?_) | intro _
      | split

theorem keep_execFence {s0 : State} (op : Nat) (env : Env) (s0_2 : State) (h2 : Keep s0 s0_2) : KeepOut s0
    (execFence op env s0_2) := by
  unfold execFence
  try dsimp only
  repeat' first
      | with_reducible assumption | with_reducible refine keepOut_next ?_
      | (with_reducible refine keep_runOp _ _ _ _ _ ?_ ?_) | (with_reducible refine keep_complete _ _ _ _ _ ?_)
      | (with_reducible refine keep_checkRange _ _ _ _ _ ?_) | (with_reducible refine keep_startChange _ _ ?_)
      | (with_reducible refine keep_registerOp _ _ ?_) | intro _ | split
      | (with_reducible refine keep_fst (by with_reducible assumption) ?_)

theorem keep_execMcastSet {s0 : State} (op : Nat) (env : Env) (s0_2 : State) (h2 : Keep s0 s0_2) : KeepOut s0
    (execMcastSet op env s0_2) := by
  unfold execMcastSet
  repeat' first
      | with_reducible assumption | with_reducible refine keepOut_next ?_
      | (with_reducible refine keep_runOp _ _ _ _ _ ?_ ?_) | (with_reducible refine keep_finishOk _ _ _ _ _ ?_)
      | intro _ | (with_reducible refine keep_mk ?_)

theorem keep_fenceContexts {s0 : State} (s : State) (h0 : Keep s0 s) : Keep s0 (fenceContexts s) := by
  unfold fenceContexts
  try dsimp only
  repeat' first
      | with_reducible assumption | (with_reducible refine keep_pump _ _ ?_)
      | (with_reducible refine keep_putCtx _ _ ?_) | intro _ | split | (with_reducible refine keep_foldl ?_ _ ?_)

theorem keep_creditVia {s0 : State} (s : State) (via : Option SegId) (vc : Nat) (n : Nat) (h0 : Keep s0 s) : Keep s0
    (creditVia s via vc n) := by
  unfold creditVia
  repeat' first | with_reducible assumption | (with_reducible refine keep_sendTag _ _ _ ?_) | split

theorem keep_fenceQueues {s0 : State} (s : State) (h0 : Keep s0 s) : Keep s0 (fenceQueues s) := by
  unfold fenceQueues
  repeat' first
      | with_reducible assumption | (with_reducible refine keep_creditVia _ _ _ _ ?_)
      | (with_reducible refine keep_discard _ _ ?_) | intro _ | (with_reducible refine keep_foldl ?_ _ ?_)
      | (with_reducible refine keep_mk ?_)

theorem keep_freshExpress {s0 : State} (s : State) (h0 : Keep s0 s) : Keep s0 (freshExpress s) := by
  unfold freshExpress
  repeat' first
      | with_reducible assumption | (with_reducible refine keep_updSeg _ _ _ ?_)
      | (with_reducible refine keep_updLane _ _ _ _ ?_) | intro _ | split
      | (with_reducible refine keep_foldl ?_ _ ?_) | (with_reducible refine keep_forN ?_ _ ?_)

theorem keep_switchBanks {s0 : State} (s : State) (c : EpochChange) (h0 : Keep s0 s) : Keep s0 (switchBanks s c) := by
  unfold switchBanks
  repeat' first
      | with_reducible assumption | (with_reducible refine keep_newPlan _ ?_)
      | (with_reducible refine keep_fenceQueues _ ?_) | (with_reducible refine keep_freshExpress _ ?_)
      | (with_reducible refine keep_ite ?_ ?_) | (with_reducible refine keep_mk ?_)

theorem keep_execEpochSwitch {s0 : State} (s : State) (h0 : Keep s0 s) : KeepOut s0 (execEpochSwitch s) := by
  unfold execEpochSwitch
  repeat' first
      | with_reducible assumption | with_reducible refine keepOut_next ?_
      | (with_reducible refine keep_switchBanks _ _ ?_) | (with_reducible refine keep_complete _ _ _ _ _ ?_)
      | (with_reducible refine keep_stepTwelveDone _ ?_) | (with_reducible refine keep_inject _ ?_)
      | (with_reducible refine keep_fenceContexts _ ?_) | split

theorem keep_execPreviousBankRetire {s0 : State} (s : State) (h0 : Keep s0 s) : KeepOut s0 (execPreviousBankRetire
    s) := by
  unfold execPreviousBankRetire
  repeat' first
      | with_reducible assumption | with_reducible refine keepOut_next ?_ | (with_reducible refine keep_ite ?_ ?_)
      | (with_reducible refine keep_mk ?_)

theorem keep_packetIn {s0 : State} (s : State) (via : SegId) (p : Bytes) (h0 : Keep s0 s) : Keep s0 (packetIn s via
    p) := by
  unfold packetIn
  try dsimp only
  repeat' first
      | with_reducible assumption | (with_reducible refine keep_creditVia _ _ _ _ ?_)
      | (with_reducible refine keep_discard _ _ ?_) | (with_reducible refine keep_assemble _ _ ?_)
      | (with_reducible refine keep_mcastOut _ _ _ _ _ _ ?_) | (with_reducible refine keep_inject _ ?_)
      | (with_reducible refine keep_lostNotice _ _ _ _ _ ?_)
      | (with_reducible refine keep_onward _ _ _ _ _ _ ?_ (.inl (by with_reducible assumption)))
      | (with_reducible refine keep_onward _ _ _ _ _ _ ?_ (.inr (.inl (by with_reducible assumption))))
      | (with_reducible refine keep_onward _ _ _ _ _ _ ?_ (.inr (.inr (by with_reducible assumption))))
      | (with_reducible refine keep_ite ?_ ?_) | (with_reducible refine keep_ite_fst ?_ ?_) | intro _ | split
      | (with_reducible refine keep_foldl ?_ _ ?_) | (with_reducible refine keep_forN ?_ _ ?_)
      | (with_reducible refine keep_foldl_fst ?_ _ ?_) | (with_reducible refine keep_mk ?_)

theorem keep_execPacketReceive {s0 : State} (via : SegId) (bytes : Bytes) (s : State) (h2 : Keep s0 s) : KeepOut s0
    (execPacketReceive via bytes s) := by
  unfold execPacketReceive
  repeat' first
      | with_reducible assumption | with_reducible refine keepOut_next ?_
      | (with_reducible refine keep_packetIn _ _ _ ?_)

theorem keep_startPacket {s0 : State} (s : State) (g : SegId) (vc : Nat) (q : QPacket) (n : Nat) (h0 : Keep s0 s) :
    Keep s0 (startPacket s g vc q n) := by
  unfold startPacket
  repeat' first
      | with_reducible assumption | (with_reducible refine keep_creditVia _ _ _ _ ?_)
      | (with_reducible refine keep_launchPacket _ _ _ _ _ _ ?_) | (with_reducible refine keep_mk ?_)

theorem keep_startInTurn {s0 : State} (s : State) (g : SegId) (vc : Nat) (n : Nat) (h0 : Keep s0 s) : Keep s0
    (startInTurn s g vc n) := by
  unfold startInTurn
  repeat' first
      | with_reducible assumption | (with_reducible refine keep_startPacket _ _ _ _ _ ?_) | split
      | (with_reducible refine keep_mk ?_)

theorem keep_execPacketTransmit {s0 : State} (seg : SegId) (turn : PacketTurn) (s0_2 : State) (h2 : Keep s0 s0_2) :
    KeepOut s0 (execPacketTransmit seg turn s0_2) := by
  unfold execPacketTransmit
  repeat' first
      | with_reducible assumption | with_reducible refine keepOut_next ?_
      | (with_reducible refine keep_sendDuePort _ _ ?_) | (with_reducible refine keep_startPacket _ _ _ _ _ ?_)
      | (with_reducible refine keep_sendCut _ _ _ _ ?_) | (with_reducible refine keep_startInTurn _ _ _ _ ?_)
      | split

theorem keep_execCreditReturn {s0 : State} (port : Nat) (tag : BitVec 64) (s0_2 : State) (h2 : Keep s0 s0_2) :
    KeepOut s0 (execCreditReturn port tag s0_2) := by
  unfold execCreditReturn
  repeat' first
      | with_reducible assumption | with_reducible refine keepOut_next ?_
      | (with_reducible refine keep_onTag _ _ _ _ ?_ ?_) | (with_reducible refine keep_ite ?_ ?_) | intro _
      | (with_reducible refine keep_mk ?_)

theorem keep_execExpressAnnounce {s0 : State} (port : Nat) (tag : BitVec 64) (s0_2 : State) (h2 : Keep s0 s0_2) :
    KeepOut s0 (execExpressAnnounce port tag s0_2) := by
  unfold execExpressAnnounce
  repeat' first
      | with_reducible assumption | with_reducible refine keepOut_next ?_
      | (with_reducible refine keep_onTag _ _ _ _ ?_ ?_) | (with_reducible refine keep_discard _ _ ?_)
      | (with_reducible refine keep_cancelReserved _ _ ?_) | (with_reducible refine keep_sendTag _ _ _ ?_)
      | (with_reducible refine keep_setSwitch _ _ _ ?_) | intro _ | split | (with_reducible refine keep_mk ?_)

theorem keep_relayBack {s0 : State} (s : State) (port : Nat) (tag : BitVec 64) (h0 : Keep s0 s) : Keep s0 (relayBack
    s port tag) := by
  unfold relayBack
  repeat' first | with_reducible assumption | (with_reducible refine keep_sendTag _ _ _ ?_) | split

theorem keep_execExpressBusy {s0 : State} (port : Nat) (tag : BitVec 64) (s0_2 : State) (h2 : Keep s0 s0_2) :
    KeepOut s0 (execExpressBusy port tag s0_2) := by
  unfold execExpressBusy
  repeat' first
      | with_reducible assumption | with_reducible refine keepOut_next ?_
      | (with_reducible refine keep_onTag _ _ _ _ ?_ ?_) | (with_reducible refine keep_relayBack _ _ _ ?_)
      | (with_reducible refine keep_ite ?_ ?_) | intro _ | (with_reducible refine keep_mk ?_)

theorem keep_execExpressRetry {s0 : State} (seg : SegId) (vc : Nat) (s : State) (h2 : Keep s0 s) : KeepOut s0
    (execExpressRetry seg vc s) := by
  unfold execExpressRetry
  repeat' first
      | with_reducible assumption | with_reducible refine keepOut_next ?_
      | (with_reducible refine keep_sendFlits _ _ _ ?_) | (with_reducible refine keep_ite ?_ ?_)
      | (with_reducible refine keep_mk ?_)

theorem keep_execExpressEnd {s0 : State} (port : Nat) (tag : BitVec 64) (s0_2 : State) (h2 : Keep s0 s0_2) : KeepOut
    s0 (execExpressEnd port tag s0_2) := by
  unfold execExpressEnd
  repeat' first
      | with_reducible assumption | with_reducible refine keepOut_next ?_
      | (with_reducible refine keep_onTag _ _ _ _ ?_ ?_) | (with_reducible refine keep_sendTag _ _ _ ?_)
      | (with_reducible refine keep_sendDuePort _ _ ?_) | (with_reducible refine keep_setSwitch _ _ _ ?_) | intro _
      | split | (with_reducible refine keep_mk ?_)

theorem keep_execExpressIdleKeepalive {s0 : State} (seg : SegId) (s : State) (h1 : Keep s0 s) : KeepOut s0
    (execExpressIdleKeepalive seg s) := by
  unfold execExpressIdleKeepalive
  repeat' first
      | with_reducible assumption | with_reducible refine keepOut_next ?_
      | (with_reducible refine keep_sendTag _ _ _ ?_) | (with_reducible refine keep_putFlit _ _ _ _ ?_)
      | (with_reducible refine keep_drawFree _ _ ?_) | split

theorem keep_execIdentityRecordSend {s0 : State} (port : Nat) (s : State) (h1 : Keep s0 s) : KeepOut s0
    (execIdentityRecordSend port s) := by
  unfold execIdentityRecordSend
  repeat' first
      | with_reducible assumption | with_reducible refine keepOut_next ?_
      | (with_reducible refine keep_putWire _ _ ?_) | (with_reducible refine keepOut_ite ?_ ?_)

theorem keep_neighbourChanged {s0 : State} (s : State) (port : Nat) (h0 : Keep s0 s) : Keep s0 (neighbourChanged s
    port) := by
  unfold neighbourChanged
  try dsimp only
  repeat' first
      | with_reducible assumption | (with_reducible refine keep_classPort _ _ ?_)
      | (with_reducible refine keep_judgeNbrs _ ?_) | (with_reducible refine keep_judgePort _ _ ?_)
      | (with_reducible refine keep_startChange _ _ ?_) | split

theorem keep_takeRecord {s0 : State} (s : State) (port : Nat) (b : Bytes) (h0 : Keep s0 s) : Keep s0 (takeRecord s
    port b) := by
  unfold takeRecord
  repeat' first
      | with_reducible assumption | (with_reducible refine keep_neighbourChanged _ _ ?_)
      | (with_reducible refine keep_ite ?_ ?_) | (with_reducible refine keep_mk ?_)

theorem keep_execIdentityRecordReceive {s0 : State} (port : Nat) (bytes : Bytes) (s : State) (h2 : Keep s0 s) :
    KeepOut s0 (execIdentityRecordReceive port bytes s) := by
  unfold execIdentityRecordReceive
  repeat' first
      | with_reducible assumption | with_reducible refine keepOut_next ?_
      | (with_reducible refine keep_putWire _ _ ?_) | (with_reducible refine keep_takeRecord _ _ _ ?_)
      | (with_reducible refine keep_ite ?_ ?_)

theorem keep_execNeighbourRecordTimeout {s0 : State} (port : Nat) (s : State) (h1 : Keep s0 s) : KeepOut s0
    (execNeighbourRecordTimeout port s) := by
  unfold execNeighbourRecordTimeout
  repeat' first
      | with_reducible assumption | with_reducible refine keepOut_next ?_
      | (with_reducible refine keep_neighbourChanged _ _ ?_) | (with_reducible refine keep_ite ?_ ?_)
      | (with_reducible refine keep_mk ?_)

theorem keep_dropQueue {s0 : State} (s : State) (key : Nat) (h0 : Keep s0 s) : Keep s0 (dropQueue s key) := by
  unfold dropQueue
  repeat' first
      | with_reducible assumption | (with_reducible refine keep_creditVia _ _ _ _ ?_)
      | (with_reducible refine keep_discard _ _ ?_) | (with_reducible refine keep_lostNotice _ _ _ _ _ ?_)
      | (with_reducible refine keep_ite ?_ ?_) | intro _ | (with_reducible refine keep_foldl ?_ _ ?_)
      | (with_reducible refine keep_mk ?_)

theorem keep_execFabLinkDown {s0 : State} (port : Nat) (s : State) (h1 : Keep s0 s) : KeepOut s0 (execFabLinkDown
    port s) := by
  unfold execFabLinkDown
  repeat' first
      | with_reducible assumption | with_reducible refine keepOut_next ?_
      | (with_reducible refine keep_raiseMod _ _ _ ?_) | (with_reducible refine keep_toProbe _ _ ?_)
      | (with_reducible refine keep_updSeg _ _ _ ?_) | (with_reducible refine keep_inject _ ?_)
      | (with_reducible refine keep_dropQueue _ _ ?_) | intro _ | split | (with_reducible refine keep_foldl ?_ _ ?_)

theorem keep_execRouteFaultNotice {s0 : State} (payload : Word32) (s : State) (h1 : Keep s0 s) : KeepOut s0
    (execRouteFaultNotice payload s) := by
  unfold execRouteFaultNotice
  try dsimp only
  repeat' first
      | with_reducible assumption | with_reducible refine keepOut_next ?_
      | (with_reducible refine keep_takeDelivered _ _ ?_) | (with_reducible refine keep_routeFault _ _ _ _ ?_)
      | (with_reducible refine keep_discard _ _ ?_) | (with_reducible refine keep_ite ?_ ?_)
      | (with_reducible refine keepOut_ite ?_ ?_) | (with_reducible refine keep_ite_fst ?_ ?_) | intro _ | split
      | (with_reducible refine keep_foldl ?_ _ ?_) | (with_reducible refine keep_forN ?_ _ ?_)
      | (with_reducible refine keep_foldl_fst ?_ _ ?_) | (with_reducible refine keep_mk ?_)

theorem keep_bodyIn {s0 : State} (s : State) (g : SegId) (k : KeptFlit) (h0 : Keep s0 s) : Keep s0 (bodyIn s g k)
    := by
  unfold bodyIn
  repeat' first
      | with_reducible assumption | (with_reducible refine keep_packetIn _ _ _ ?_)
      | (with_reducible refine keep_setSeg _ _ _ ?_) | intro _ | (with_reducible refine keep_foldl ?_ _ ?_)

theorem keep_deliverFlits {s0 : State} (g : SegId) : ∀ (n : Nat) (s : State), Keep s0 s → Keep s0 (deliverFlits g n s)
  | 0, _, h => h
  | n + 1, s, h => by
    simp only [deliverFlits]
    split
    · exact h
    · exact keep_deliverFlits g n _ (keep_bodyIn _ _ _ (keep_setSeg _ _ _ h))

theorem keep_ackSeg {s0 : State} (s : State) (g : SegId) (h0 : Keep s0 s) : Keep s0 (ackSeg s g) := by
  unfold ackSeg
  repeat' first | with_reducible assumption | (with_reducible refine keep_sendTag _ _ _ ?_)

theorem keep_nakGaps {s0 : State} (s : State) (g : SegId) (h0 : Keep s0 s) : Keep s0 (nakGaps s g) := by
  unfold nakGaps
  repeat' first
      | with_reducible assumption | (with_reducible refine keep_sendTag _ _ _ ?_)
      | (with_reducible refine keep_updSeg _ _ _ ?_) | (with_reducible refine keep_ite ?_ ?_) | intro _
      | (with_reducible refine keep_foldl ?_ _ ?_)

theorem keep_dataFlit {s0 : State} (s : State) (g : SegId) (k : KeptFlit) (h0 : Keep s0 s) : Keep s0 (dataFlit s g
    k) := by
  unfold dataFlit
  repeat' first
      | with_reducible assumption | (with_reducible refine keep_ackSeg _ _ ?_)
      | (with_reducible apply keep_deliverFlits) | (with_reducible refine keep_setSeg _ _ _ ?_)
      | (with_reducible refine keep_nakGaps _ _ ?_) | (with_reducible refine keep_ite ?_ ?_)

theorem keep_takeVersions {s0 : State} (s : State) (port : Nat) (lo : Nat) (hi : Nat) (h0 : Keep s0 s) : Keep s0
    (takeVersions s port lo hi) := by
  unfold takeVersions
  repeat' first
      | with_reducible assumption | (with_reducible refine keep_tryRamp _ _ ?_)
      | (with_reducible refine keep_updLink _ _ _ ?_) | (with_reducible refine keep_raiseMod _ _ _ ?_)
      | (with_reducible refine keep_ite ?_ ?_)

theorem keep_flitIn {s0 : State} (seg : SegId) (lane : Nat) (index : Nat) (light : Light) (s : State) (h4 : Keep s0
    s) : Keep s0 (flitIn seg lane index light s) := by
  unfold flitIn
  try dsimp only
  repeat' first
      | with_reducible assumption | (with_reducible refine keep_dataFlit _ _ _ ?_)
      | (with_reducible refine keep_takeVersions _ _ _ _ ?_) | split

theorem keep_execFlitReceive {s0 : State} (seg : SegId) (lane : Nat) (index : Nat) (light : Light) (s : State) (h4 :
    Keep s0 s) : KeepOut s0 (execFlitReceive seg lane index light s) := by
  unfold execFlitReceive
  repeat' first
      | with_reducible assumption | with_reducible refine keepOut_next ?_
      | (with_reducible refine keep_putWire _ _ ?_) | (with_reducible refine keep_flitIn _ _ _ _ _ ?_)
      | (with_reducible refine keep_setSwitch _ _ _ ?_) | split | (with_reducible refine keep_mk ?_)

theorem keep_execRelayAck {s0 : State} (port : Nat) (tag : BitVec 64) (s0_2 : State) (h2 : Keep s0 s0_2) : KeepOut
    s0 (execRelayAck port tag s0_2) := by
  unfold execRelayAck
  repeat' first
      | with_reducible assumption | with_reducible refine keepOut_next ?_
      | (with_reducible refine keep_onTag _ _ _ _ ?_ ?_) | (with_reducible refine keep_updSeg _ _ _ ?_) | intro _
      | split

theorem keep_replayFlit {s0 : State} (s : State) (g : SegId) (seq : Nat) (h0 : Keep s0 s) : Keep s0 (replayFlit s g
    seq) := by
  unfold replayFlit
  repeat' first
      | with_reducible assumption | (with_reducible refine keep_moveFlits _ _ _ ?_)
      | (with_reducible refine keep_dropLane _ _ _ ?_) | (with_reducible refine keep_updSeg _ _ _ ?_)
      | (with_reducible refine keep_updLink _ _ _ ?_) | (with_reducible refine keep_sendFlits _ _ _ ?_) | split

theorem keep_execRelayNak {s0 : State} (port : Nat) (tag : BitVec 64) (s0_2 : State) (h2 : Keep s0 s0_2) : KeepOut
    s0 (execRelayNak port tag s0_2) := by
  unfold execRelayNak
  repeat' first
      | with_reducible assumption | with_reducible refine keepOut_next ?_
      | (with_reducible refine keep_onTag _ _ _ _ ?_ ?_) | (with_reducible refine keep_replayFlit _ _ _ ?_)
      | intro _ | split

theorem keep_execReplayTimeout {s0 : State} (seg : SegId) (seq : Nat) (s : State) (h2 : Keep s0 s) : KeepOut s0
    (execReplayTimeout seg seq s) := by
  unfold execReplayTimeout
  repeat' first
      | with_reducible assumption | with_reducible refine keepOut_next ?_
      | (with_reducible refine keep_replayFlit _ _ _ ?_)

theorem keep_execReverseRelayFrame {s0 : State} (port : Nat) (tag : BitVec 64) (s0_2 : State) (h2 : Keep s0 s0_2) :
    KeepOut s0 (execReverseRelayFrame port tag s0_2) := by
  unfold execReverseRelayFrame
  repeat' first
      | with_reducible assumption | with_reducible refine keepOut_next ?_
      | (with_reducible refine keep_onTag _ _ _ _ ?_ ?_) | (with_reducible refine keep_relayBack _ _ _ ?_)
      | (with_reducible refine keep_ite ?_ ?_) | intro _

theorem keep_modeChange {s0 : State} (g : SegId) (old : Seg) (new : Seg) (w : Nat) (s : State) (h4 : Keep s0 s) :
    Keep s0 (modeChange g old new w s) := by
  unfold modeChange
  repeat' first
      | with_reducible assumption | (with_reducible refine keep_laneDropEvent _ _ _ _ ?_)
      | (with_reducible refine keep_updSeg _ _ _ ?_) | (with_reducible refine keep_moveFlits _ _ _ ?_)
      | (with_reducible refine keep_ite ?_ ?_)

theorem keep_execLanesFrame {s0 : State} (port : Nat) (tag : BitVec 64) (s0_2 : State) (h2 : Keep s0 s0_2) : KeepOut
    s0 (execLanesFrame port tag s0_2) := by
  unfold execLanesFrame
  repeat' first
      | with_reducible assumption | with_reducible refine keepOut_next ?_
      | (with_reducible refine keep_onTag _ _ _ _ ?_ ?_) | (with_reducible refine keep_checkLanes _ _ ?_)
      | (with_reducible refine keep_modeChange _ _ _ _ _ ?_) | (with_reducible refine keep_setSeg _ _ _ ?_)
      | intro _ | split | (with_reducible refine keep_forN ?_ _ ?_)

theorem keep_execLaneRetrainDone {s0 : State} (seg : SegId) (lane : Nat) (s : State) (h2 : Keep s0 s) : KeepOut s0
    (execLaneRetrainDone seg lane s) := by
  unfold execLaneRetrainDone
  repeat' first
      | with_reducible assumption | with_reducible refine keepOut_next ?_
      | (with_reducible refine keep_checkLanes _ _ ?_) | (with_reducible refine keep_updSeg _ _ _ ?_)
      | (with_reducible refine keep_ite ?_ ?_)

theorem keep_tryUp {s0 : State} (s : State) (port : Nat) (h0 : Keep s0 s) : Keep s0 (tryUp s port) := by
  unfold tryUp
  try dsimp only
  repeat' first
      | with_reducible assumption | (with_reducible refine keep_checkLanes _ _ ?_)
      | (with_reducible refine keep_updLink _ _ _ ?_) | (with_reducible refine keep_ite ?_ ?_)
      | (with_reducible refine keep_ite_fst ?_ ?_) | intro _ | split | (with_reducible refine keep_foldl ?_ _ ?_)
      | (with_reducible refine keep_forN ?_ _ ?_) | (with_reducible refine keep_foldl_fst ?_ _ ?_)
      | (with_reducible refine keep_mk ?_)

theorem keep_execEnobWindowEnd {s0 : State} (seg : SegId) (lane : Nat) (enob : Nat) (xt : Nat) (s : State) (h4 :
    Keep s0 s) : KeepOut s0 (execEnobWindowEnd seg lane enob xt s) := by
  unfold execEnobWindowEnd
  repeat' first
      | with_reducible assumption | with_reducible refine keepOut_next ?_
      | (with_reducible refine keep_updLane _ _ _ _ ?_) | (with_reducible refine keep_sendLanes _ _ _ ?_)
      | (with_reducible refine keep_tryUp _ _ ?_) | (with_reducible refine keep_toProbe _ _ ?_)
      | (with_reducible refine keep_ite ?_ ?_) | (with_reducible refine keepOut_ite ?_ ?_)

theorem keep_execKeepSend {s0 : State} (port : Nat) (s : State) (h1 : Keep s0 s) : KeepOut s0 (execKeepSend port s)
    := by
  unfold execKeepSend
  try dsimp only
  repeat' first
      | with_reducible assumption | with_reducible refine keepOut_next ?_
      | (with_reducible refine keep_sendTag _ _ _ ?_) | (with_reducible refine keep_putFlit _ _ _ _ ?_)
      | (with_reducible refine keep_ite ?_ ?_) | (with_reducible refine keepOut_ite ?_ ?_)
      | (with_reducible refine keep_ite_fst ?_ ?_) | intro _ | split | (with_reducible refine keep_foldl ?_ _ ?_)
      | (with_reducible refine keep_forN ?_ _ ?_) | (with_reducible refine keep_foldl_fst ?_ _ ?_)
      | (with_reducible refine keep_mk ?_)

theorem keep_execKeepFrame {s0 : State} (port : Nat) (tag : BitVec 64) (s0_2 : State) (h2 : Keep s0 s0_2) : KeepOut
    s0 (execKeepFrame port tag s0_2) := by
  unfold execKeepFrame
  repeat' first
      | with_reducible assumption | with_reducible refine keepOut_next ?_
      | (with_reducible refine keep_onTag _ _ _ _ ?_ ?_) | (with_reducible refine keep_openLoop _ _ ?_)
      | (with_reducible refine keep_tryRamp _ _ ?_) | (with_reducible refine keep_updLink _ _ _ ?_)
      | (with_reducible refine keep_ite ?_ ?_) | intro _

theorem keep_execLoopOpenTimeout {s0 : State} (port : Nat) (s : State) (h1 : Keep s0 s) : KeepOut s0
    (execLoopOpenTimeout port s) := by
  unfold execLoopOpenTimeout
  repeat' first
      | with_reducible assumption | with_reducible refine keepOut_next ?_
      | (with_reducible refine keep_openLoop _ _ ?_) | (with_reducible refine keep_updLink _ _ _ ?_)

theorem keep_execPortTrainingTimeout {s0 : State} (port : Nat) (s : State) (h1 : Keep s0 s) : KeepOut s0
    (execPortTrainingTimeout port s) := by
  unfold execPortTrainingTimeout
  repeat' first
      | with_reducible assumption | with_reducible refine keepOut_next ?_
      | (with_reducible refine keep_toProbe _ _ ?_) | split

theorem keep_execTagEmitterFailure {s0 : State} (port : Nat) (s : State) (h1 : Keep s0 s) : KeepOut s0
    (execTagEmitterFailure port s) := by
  unfold execTagEmitterFailure
  try dsimp only
  repeat' first
      | with_reducible assumption | with_reducible refine keepOut_next ?_
      | (with_reducible refine keep_emitterFails _ _ ?_) | (with_reducible refine keep_ite ?_ ?_)
      | (with_reducible refine keepOut_ite ?_ ?_) | (with_reducible refine keep_ite_fst ?_ ?_) | intro _ | split
      | (with_reducible refine keep_foldl ?_ _ ?_) | (with_reducible refine keep_forN ?_ _ ?_)
      | (with_reducible refine keep_foldl_fst ?_ _ ?_) | (with_reducible refine keep_mk ?_)

theorem keep_execRingLockCheck {s0 : State} (port : Nat) (lane : Nat) (tone : Nat) (margin : Nat) (marker : Byte) (s
    : State) (h5 : Keep s0 s) : KeepOut s0 (execRingLockCheck port lane tone margin marker s) := by
  unfold execRingLockCheck
  repeat' first
      | with_reducible assumption | with_reducible refine keepOut_next ?_
      | (with_reducible refine keep_updLink _ _ _ ?_) | (with_reducible refine keep_raiseMod _ _ _ ?_)
      | (with_reducible refine keep_dropPortLane _ _ _ _ ?_) | (with_reducible refine keep_ite ?_ ?_)
      | (with_reducible refine keepOut_ite ?_ ?_)

theorem keep_execRingSweepDone {s0 : State} (port : Nat) (lane : Nat) (s : State) (h2 : Keep s0 s) : KeepOut s0
    (execRingSweepDone port lane s) := by
  unfold execRingSweepDone
  repeat' first
      | with_reducible assumption | with_reducible refine keepOut_next ?_
      | (with_reducible refine keep_updLane _ _ _ _ ?_) | (with_reducible refine keep_ite ?_ ?_)

theorem keep_startChangeover {s0 : State} (s : State) (laser : Nat) (spare : Nat) (drained : Bool) (h0 : Keep s0 s)
    : Keep s0 (startChangeover s laser spare drained) := by
  unfold startChangeover
  repeat' first | with_reducible assumption | (with_reducible refine keep_updLaser _ _ _ ?_)

theorem keep_laserFades {s0 : State} (s : State) (laser : Nat) (delta : Int) (h0 : Keep s0 s) : Keep s0 (laserFades
    s laser delta) := by
  unfold laserFades
  try dsimp only
  repeat' first
      | with_reducible assumption | (with_reducible refine keep_raiseMod _ _ _ ?_)
      | (with_reducible refine keep_updLaser _ _ _ ?_) | (with_reducible refine keep_startChangeover _ _ _ _ ?_)
      | (with_reducible refine keep_drainGroup _ _ _ ?_) | (with_reducible refine keep_retireWavelength _ _ _ ?_)
      | split

theorem keep_execLaserPowerSample {s0 : State} (laser : Nat) (delta : Int) (s : State) (h2 : Keep s0 s) : KeepOut s0
    (execLaserPowerSample laser delta s) := by
  unfold execLaserPowerSample
  repeat' first
      | with_reducible assumption | with_reducible refine keepOut_next ?_
      | (with_reducible refine keep_updLaser _ _ _ ?_) | (with_reducible refine keep_laserFades _ _ _ ?_)
      | (with_reducible refine keep_ite ?_ ?_)

theorem keep_decideStopped {s0 : State} (s : State) (laser : Nat) (h0 : Keep s0 s) : Keep s0 (decideStopped s laser)
    := by
  unfold decideStopped
  try dsimp only
  repeat' first
      | with_reducible assumption | (with_reducible refine keep_startChangeover _ _ _ _ ?_)
      | (with_reducible refine keep_retireWavelength _ _ _ ?_) | (with_reducible refine keep_ite ?_ ?_)
      | (with_reducible refine keep_ite_fst ?_ ?_) | intro _ | split | (with_reducible refine keep_foldl ?_ _ ?_)
      | (with_reducible refine keep_forN ?_ _ ?_) | (with_reducible refine keep_foldl_fst ?_ _ ?_)
      | (with_reducible refine keep_mk ?_)

theorem keep_stopLaser {s0 : State} (s : State) (laser : Nat) (h0 : Keep s0 s) : Keep s0 (stopLaser s laser) := by
  unfold stopLaser
  try dsimp only
  repeat' first
      | with_reducible assumption | (with_reducible refine keep_updLaser _ _ _ ?_)
      | (with_reducible refine keep_drainGroup _ _ _ ?_) | (with_reducible refine keep_decideStopped _ _ ?_)
      | (with_reducible refine keep_ite ?_ ?_) | (with_reducible refine keep_ite_fst ?_ ?_) | intro _ | split
      | (with_reducible refine keep_foldl ?_ _ ?_) | (with_reducible refine keep_forN ?_ _ ?_)
      | (with_reducible refine keep_foldl_fst ?_ _ ?_) | (with_reducible refine keep_mk ?_)

theorem keep_decideLasers {s0 : State} (s : State) (h0 : Keep s0 s) : Keep s0 (decideLasers s) := by
  unfold decideLasers
  try dsimp only
  repeat' first
      | with_reducible assumption | (with_reducible refine keep_decideStopped _ _ ?_)
      | (with_reducible refine keep_ite ?_ ?_) | (with_reducible refine keep_ite_fst ?_ ?_) | intro _ | split
      | (with_reducible refine keep_foldl ?_ _ ?_) | (with_reducible refine keep_forN ?_ _ ?_)
      | (with_reducible refine keep_foldl_fst ?_ _ ?_) | (with_reducible refine keep_mk ?_)

theorem keep_execLaserStop {s0 : State} (laser : Nat) (s : State) (h1 : Keep s0 s) : KeepOut s0 (execLaserStop laser
    s) := by
  unfold execLaserStop
  repeat' first
      | with_reducible assumption | with_reducible refine keepOut_next ?_
      | (with_reducible refine keep_stopLaser _ _ ?_)

theorem keep_execSpareWarmDone {s0 : State} (laser : Nat) (s : State) (h1 : Keep s0 s) : KeepOut s0
    (execSpareWarmDone laser s) := by
  unfold execSpareWarmDone
  repeat' first
      | with_reducible assumption | with_reducible refine keepOut_next ?_
      | (with_reducible refine keep_updLaser _ _ _ ?_) | (with_reducible refine keep_drainGroup _ _ _ ?_) | split

theorem keep_execSpareLockTimeout {s0 : State} (laser : Nat) (s : State) (h1 : Keep s0 s) : KeepOut s0
    (execSpareLockTimeout laser s) := by
  unfold execSpareLockTimeout
  repeat' first
      | with_reducible assumption | with_reducible refine keepOut_next ?_
      | (with_reducible refine keep_queueRecord _ _ ?_) | (with_reducible refine keep_updLaser _ _ _ ?_)
      | (with_reducible refine keep_retireWavelength _ _ _ ?_) | split

theorem keep_execLaserChangeoverDone {s0 : State} (wavelength : Nat) (s : State) (h1 : Keep s0 s) : KeepOut s0
    (execLaserChangeoverDone wavelength s) := by
  unfold execLaserChangeoverDone
  repeat' first
      | with_reducible assumption | with_reducible refine keepOut_next ?_
      | (with_reducible refine keep_updLaser _ _ _ ?_) | (with_reducible refine keep_returnPortLane _ _ _ ?_)
      | (with_reducible refine keep_updPortLane _ _ _ _ ?_) | (with_reducible refine keep_sendLanes _ _ _ ?_)
      | (with_reducible refine keep_queueRecord _ _ ?_) | (with_reducible refine keep_raiseMod _ _ _ ?_) | intro _
      | split | (with_reducible refine keep_foldl ?_ _ ?_)

end Sys2Proof.Machine
end

