-- ==== Sys2Proof/Laws/KeepPower.lean ====
section
/-! SUPPORT. What `Keep` says of power, votes, resets and repair: one lemma for each definition. -/

namespace Sys2Proof.Machine

open Sys2Proof

set_option Elab.async false

theorem keep_setSlot {s0 : State} (s : State) (i : Nat) (x : Slot) (h0 : Keep s0 s) : Keep s0 (setSlot s i x) := by
  unfold setSlot
  repeat' first | with_reducible assumption | (with_reducible refine keep_mk ?_)

theorem keep_lose {s0 : State} (s : State) (phase : Phase) (cause : Nat) (h0 : Keep s0 s) : Keep s0 (lose s phase
    cause) := by
  refine keep_trans h0 ⟨rfl, rfl, Nat.le_refl _, Nat.le_refl _, Nat.le_refl _, .inr rfl, ?_, fun _ => ?_, id, fun _
      => rfl⟩
  · simp only [memoriesOk, lose, Bool.and_eq_true]
    exact fun w => ⟨⟨⟨w.1.1.1, rfl⟩, rfl⟩, rfl⟩
  · rw [levelsOk_iff]
    exact ⟨startLevel_le s, Nat.zero_le _, fun _ e => by cases e⟩

theorem keep_atStep {s0 : State} (s : State) (n : Nat) (h0 : Keep s0 s) : Keep s0 (atStep s n) := by
  unfold atStep
  repeat' first | with_reducible assumption | (with_reducible refine keep_mk ?_)

theorem keep_bootFault {s0 : State} (s : State) (phase : Phase) (fault : Nat) (step : Nat) (index : Nat) (h0 : Keep
    s0 s) : Keep s0 (bootFault s phase fault step index) := by
  unfold bootFault
  exact keep_logBringUp _ _ _ (keep_raiseMod _ _ _ (keep_power h0 rfl (fun _ => rfl)))

theorem keep_sampleStraps {s0 : State} (s : State) (bu : BringUp) (h0 : Keep s0 s) : Keep s0 (sampleStraps s bu) := by
  unfold sampleStraps
  repeat' first
      | with_reducible assumption | (with_reducible refine keep_updPort _ _ _ ?_)
      | (with_reducible refine keep_ite ?_ ?_) | (with_reducible refine keep_mk ?_)

theorem keep_mapEvents {s0 : State} (old : Option (Tbl (Option Nat))) (new : Tbl (Option Nat)) (s : State) (h2 :
    Keep s0 s) : Keep s0 (mapEvents old new s) := by
  unfold mapEvents
  repeat' first
      | with_reducible assumption | (with_reducible refine keep_raiseMod _ _ _ ?_)
      | (with_reducible refine keep_ite ?_ ?_) | intro _ | (with_reducible refine keep_foldl ?_ _ ?_)

theorem keep_mapCores {s0 : State} (s : State) (bu : BringUp) (h0 : Keep s0 s) : Keep s0 (mapCores s bu).1 := by
  unfold mapCores
  try dsimp only
  repeat' first
      | with_reducible assumption | (with_reducible refine keep_applyCodes _ ?_)
      | (with_reducible refine keep_mapEvents _ _ _ ?_) | (with_reducible refine keep_queueRecord _ _ ?_)
      | (with_reducible refine keep_ite ?_ ?_) | (with_reducible refine keep_ite_fst ?_ ?_) | intro _ | split
      | (with_reducible refine keep_foldl ?_ _ ?_) | (with_reducible refine keep_forN ?_ _ ?_)
      | (with_reducible refine keep_foldl_fst ?_ _ ?_) | (with_reducible refine keep_mk ?_)

theorem keep_replayRepair {s0 : State} (s : State) (r : RepairRec) (h0 : Keep s0 s) : Keep s0 (replayRepair s r) := by
  unfold replayRepair
  repeat' first
      | with_reducible assumption | (with_reducible refine keep_mapRow _ _ _ _ _ _ ?_)
      | (with_reducible refine keep_updChannel _ _ _ ?_) | split | (with_reducible refine keep_mk ?_)

theorem keep_bindStack {s0 : State} (bu : BringUp) (stack : Nat) (s : State) (h2 : Keep s0 s) : Keep s0 (bindStack
    bu stack s) := by
  unfold bindStack
  repeat' first
      | with_reducible assumption | (with_reducible refine keep_updChannel _ _ _ ?_) | intro _
      | (with_reducible refine keep_forN ?_ _ ?_) | (with_reducible refine keep_mk ?_)

theorem keep_capacityCheck {s0 : State} (s : State) (h0 : Keep s0 s) : Keep s0 (capacityCheck s) := by
  unfold capacityCheck
  repeat' first
      | with_reducible assumption | (with_reducible refine keep_raiseMod _ _ _ ?_)
      | (with_reducible refine keep_ite ?_ ?_) | intro _ | (with_reducible refine keep_foldl ?_ _ ?_)
      | (with_reducible refine keep_mk ?_)

theorem keep_startDram {s0 : State} (s : State) (bu : BringUp) (h0 : Keep s0 s) : Keep s0 (startDram s bu).1 := by
  unfold startDram
  try dsimp only
  repeat' first
      | with_reducible assumption | (with_reducible refine keep_replayRepair _ _ ?_)
      | (with_reducible refine keep_bindStack _ _ _ ?_) | (with_reducible refine keep_capacityCheck _ ?_)
      | (with_reducible refine keep_rowFault _ _ _ _ ?_) | (with_reducible refine keep_ite ?_ ?_)
      | (with_reducible refine keep_ite_fst ?_ ?_) | intro _ | split | (with_reducible refine keep_foldl ?_ _ ?_)
      | (with_reducible refine keep_forN ?_ _ ?_) | (with_reducible refine keep_foldl_fst ?_ _ ?_)
      | (with_reducible refine keep_mk ?_)

theorem keep_startOptics {s0 : State} (s : State) (bu : BringUp) (h0 : Keep s0 s) : Keep s0 (startOptics s bu) := by
  unfold startOptics
  try dsimp only
  repeat' first
      | with_reducible assumption | (with_reducible refine keep_updLaser _ _ _ ?_)
      | (with_reducible refine keep_updLane _ _ _ _ ?_) | (with_reducible refine keep_stopLaser _ _ ?_)
      | (with_reducible refine keep_emitterFails _ _ ?_) | (with_reducible refine keep_settlePorts _ ?_)
      | (with_reducible refine keep_ite ?_ ?_) | (with_reducible refine keep_ite_fst ?_ ?_) | intro _ | split
      | (with_reducible refine keep_foldl ?_ _ ?_) | (with_reducible refine keep_forN ?_ _ ?_)
      | (with_reducible refine keep_foldl_fst ?_ _ ?_) | (with_reducible refine keep_mk ?_)

theorem keep_discover {s0 : State} (s : State) (bu : BringUp) (h0 : Keep s0 s) : Keep s0 (discover s bu) := by
  unfold discover
  repeat' first
      | with_reducible assumption | (with_reducible refine keep_updLink _ _ _ ?_)
      | (with_reducible refine keep_takeRecord _ _ _ ?_) | (with_reducible refine keep_ite ?_ ?_) | intro _
      | (with_reducible refine keep_foldl ?_ _ ?_)

theorem keep_opticsOn {s0 : State} (s : State) (bu : BringUp) (h0 : Keep s0 s) : Keep s0 (opticsOn s bu) := by
  unfold opticsOn
  repeat' first
      | with_reducible assumption | (with_reducible refine keep_startBootPlan _ ?_)
      | (with_reducible refine keep_discover _ _ ?_) | (with_reducible refine keep_startOptics _ _ ?_)

theorem keep_bringUpLate {s0 : State} (s : State) (bu : BringUp) (h0 : Keep s0 s) : Keep s0 (bringUpLate s bu) := by
  unfold bringUpLate
  have k : Keep s0 { s with power := { s.power with step := 4, drabexUp := true } } := keep_upd h0 rfl
  have k1 := keep_mapCores _ bu k
  split
  · rename_i e; rw [e] at k1; exact keep_bootFault _ _ _ _ _ (keep_atStep _ _ k1)
  · rename_i s1 e; rw [e] at k1
    have k2 := keep_startDram _ bu (keep_atStep s1 7 k1)
    split
    · rename_i e; rw [e] at k2; exact keep_bootFault _ _ _ _ _ k2
    · rename_i s2 e
      have k3 : Keep s0 s2 := by rw [e] at k2; exact k2
      exact keep_opticsOn _ _ (keep_power k3 rfl (fun _ => rfl))

theorem keep_bringUp {s0 : State} (s0_0 : State) (bu : BringUp) (h0 : Keep s0 s0_0) : Keep s0 (bringUp s0_0 bu) := by
  unfold bringUp
  try dsimp only
  repeat' first
      | with_reducible assumption | (with_reducible refine keep_atStep _ _ ?_)
      | (with_reducible refine keep_bootFault _ _ _ _ _ ?_) | (with_reducible refine keep_sampleStraps _ _ ?_)
      | (with_reducible refine keep_raiseMod _ _ _ ?_) | (with_reducible refine keep_bringUpLate _ _ ?_)
      | (with_reducible refine keep_readFlash _ _ ?_) | (with_reducible refine keep_ite ?_ ?_)
      | (with_reducible refine keep_ite_fst ?_ ?_) | intro _ | split | (with_reducible refine keep_foldl ?_ _ ?_)
      | (with_reducible refine keep_forN ?_ _ ?_) | (with_reducible refine keep_foldl_fst ?_ _ ?_)
      | (with_reducible refine keep_mk ?_)

theorem keep_coldStart {s0 : State} (s : State) (cause : Nat) (bu : BringUp) (h0 : Keep s0 s) : Keep s0 (coldStart s
    cause bu) := by
  unfold coldStart
  try dsimp only
  repeat' first
      | with_reducible assumption | (with_reducible refine keep_lose _ _ _ ?_)
      | (with_reducible refine keep_bringUp _ _ ?_) | (with_reducible refine keep_ite ?_ ?_)
      | (with_reducible refine keep_ite_fst ?_ ?_) | intro _ | split | (with_reducible refine keep_foldl ?_ _ ?_)
      | (with_reducible refine keep_forN ?_ _ ?_) | (with_reducible refine keep_foldl_fst ?_ _ ?_)
      | (with_reducible refine keep_mk ?_)

theorem keep_powerFailEntry {s0 : State} (s : State) (cause : Nat) (mv : Nat) (h0 : Keep s0 s) : Keep s0
    (powerFailEntry s cause mv) := by
  unfold powerFailEntry
  repeat' first | with_reducible assumption | (with_reducible refine keep_addLog _ _ _ _ _ _ ?_)

theorem keep_heldLost {s0 : State} (s : State) (h : Keep s0 s) :
    Keep s0 { s with dbx := { s.dbx with logHeld := [], dropped := 0 } } := by
  refine keep_dbx h (Nat.le_refl _) ?_
  intro ⟨hp, hb, _, h2⟩
  have hs : (s.dbx.log ++ ([] : List LogEntry)).Sublist (s.dbx.log ++ s.dbx.logHeld) := (List.Sublist.refl _).append
      (List.nil_sublist _)
  exact ⟨hp.sublist (hs.map _), fun x hx => hb x (hs.subset hx), Nat.zero_le _, h2⟩

theorem keep_shutDown {s0 : State} (s : State) (cause : Nat) (next : Nat) (mv : Nat) (h0 : Keep s0 s) : Keep s0
    (shutDown s cause next mv) := by
  unfold shutDown
  refine keep_ite h0 ?_
  have k := keep_lose _ .off (if s.power.phase = .tripped then 4 else next) (keep_powerFailEntry _ cause mv
      (keep_heldLost _ h0))
  exact keep_upd k rfl

theorem keep_alertOn {s0 : State} (s : State) (h0 : Keep s0 s) : Keep s0 (alertOn s) := by
  unfold alertOn
  try dsimp only
  repeat' first
      | with_reducible assumption | (with_reducible refine keep_ite ?_ ?_)
      | (with_reducible refine keep_ite_fst ?_ ?_) | intro _ | split | (with_reducible refine keep_foldl ?_ _ ?_)
      | (with_reducible refine keep_forN ?_ _ ?_) | (with_reducible refine keep_foldl_fst ?_ _ ?_)
      | (with_reducible refine keep_mk ?_)

theorem keep_thermalTrip {s0 : State} (s : State) (sensor : Nat) (temp : Int) (h0 : Keep s0 s) : Keep s0
    (thermalTrip s sensor temp) := by
  unfold thermalTrip
  try dsimp only
  repeat' first
      | with_reducible assumption | (with_reducible refine keep_lose _ _ _ ?_)
      | (with_reducible refine keep_setFn _ _ _ ?_) | (with_reducible refine keep_raiseMod _ _ _ ?_)
      | (with_reducible refine keep_ite ?_ ?_) | (with_reducible refine keep_ite_fst ?_ ?_) | intro _ | split
      | (with_reducible refine keep_foldl ?_ _ ?_) | (with_reducible refine keep_forN ?_ _ ?_)
      | (with_reducible refine keep_foldl_fst ?_ _ ?_)
      | (with_reducible refine keep_mk ?_ rfl rfl rfl rfl rfl rfl rfl rfl rfl rfl rfl rfl)

theorem keep_readHeader {s0 : State} (s : State) (p : Nat) (m : MemIn) (b : Bytes) (h0 : Keep s0 s) : Keep s0
    (readHeader s p m b).1 := by
  unfold readHeader
  repeat' first
      | with_reducible assumption | (with_reducible refine keep_steepCheck _ _ _ _ _ ?_) | split
      | (with_reducible refine keep_fst (by with_reducible assumption) ?_)

theorem keep_shardVerdict {s0 : State} (s : State) (p : Nat) (e : Nat) (m : MemIn) (b : Bytes) (h0 : Keep s0 s) :
    Keep s0 (shardVerdict s p e m b).1 := by
  unfold shardVerdict
  try dsimp only
  repeat' first
      | with_reducible assumption | (with_reducible refine keep_readHeader _ _ _ _ ?_)
      | (with_reducible refine keep_ite ?_ ?_) | (with_reducible refine keep_ite_fst ?_ ?_) | intro _ | split
      | (with_reducible refine keep_foldl ?_ _ ?_) | (with_reducible refine keep_forN ?_ _ ?_)
      | (with_reducible refine keep_foldl_fst ?_ _ ?_)
      | (with_reducible refine keep_fst (by with_reducible assumption) ?_) | (with_reducible refine keep_mk ?_)

theorem keep_shardFail {s0 : State} (p : Nat) (m : MemIn) : ∀ (l : List (Option Bytes)) (e : Nat) (t : State ×
    Bool), Keep s0 t.1 →
    Keep s0 (shardFail p m l e t).1
  | [], _, (_, _), h => h
  | none :: t, e, (s, bad), h => by
    simp only [shardFail]
    exact keep_ite_fst h (keep_shardFail p m t _ _ h)
  | some b :: t, e, (s, bad), h => by
    have k := keep_shardVerdict s p e m b h
    simp only [shardFail]
    generalize shardVerdict s p e m b = r at k ⊢
    obtain ⟨s1, lost, _ | ⟨st, xs⟩⟩ := r
    · exact keep_shardFail p m t _ _ k
    · exact k

theorem keep_execStShardSet {s0 : State} (op : Nat) (env : Env) (s0_2 : State) (h2 : Keep s0 s0_2) : KeepOut s0
    (execStShardSet op env s0_2) := by
  unfold execStShardSet
  refine keep_runOp _ _ _ _ _ h2 ?_
  intro t o h
  dsimp only
  have k1 := keep_imagesOf t o env 64 (fld o.desc 0x1A 2) h
  generalize imagesOf t o env 64 (fld o.desc 0x1A 2) = r1 at k1 ⊢
  obtain ⟨s1, lost, bs⟩ := r1
  have k2 := keep_shardFail o.part env.mem bs (fld o.desc 0x18 2) (s1, false) k1
  dsimp only
  generalize shardFail o.part env.mem bs (fld o.desc 0x18 2) (s1, false) = r2 at k2 ⊢
  obtain ⟨s2, bad, r⟩ := r2
  dsimp only at k2
  rcases r with _ | ⟨st, xs, e⟩
  · rcases lost with _ | xs <;> rcases bad with _ | _
    · exact keep_finishOk _ _ _ _ _ (keep_upd k2 rfl)
    all_goals exact keep_complete _ _ _ _ _ k2
  · exact keep_complete _ _ _ _ _ k2

theorem keep_execStSchedSet {s0 : State} (op : Nat) (env : Env) (s0_2 : State) (h2 : Keep s0 s0_2) : KeepOut s0
    (execStSchedSet op env s0_2) := by
  unfold execStSchedSet
  repeat' first
      | with_reducible assumption | with_reducible refine keepOut_next ?_
      | (with_reducible refine keep_runOp _ _ _ _ _ ?_ ?_) | (with_reducible refine keep_imagesOf _ _ _ _ _ ?_)
      | (with_reducible refine keep_complete _ _ _ _ _ ?_) | (with_reducible refine keep_finishOk _ _ _ _ _ ?_)
      | intro _ | split | (with_reducible refine keep_fst (by with_reducible assumption) ?_)
      | (with_reducible refine keep_mk ?_)

theorem keep_execStArm {s0 : State} (op : Nat) (env : Env) (s0_2 : State) (h2 : Keep s0 s0_2) : KeepOut s0
    (execStArm op env s0_2) := by
  unfold execStArm
  repeat' first
      | with_reducible assumption | with_reducible refine keepOut_next ?_
      | (with_reducible refine keep_runOp _ _ _ _ _ ?_ ?_) | (with_reducible refine keep_complete _ _ _ _ _ ?_)
      | (with_reducible refine keep_setVote _ _ _ ?_) | (with_reducible refine keep_updOp _ _ _ ?_) | intro _
      | split | (with_reducible refine keep_mk ?_)

theorem keep_execSlotClaim {s0 : State} (op : Nat) (layer : Nat) (s : State) (h2 : Keep s0 s) : KeepOut s0
    (execSlotClaim op layer s) := by
  unfold execSlotClaim
  try dsimp only
  repeat' first
      | with_reducible assumption | with_reducible refine keepOut_next ?_
      | (with_reducible refine keep_tryBind _ _ ?_) | (with_reducible refine keep_updArming _ _ _ ?_)
      | (with_reducible refine keep_setVer _ _ _ ?_) | split

theorem keep_blockCheck {s0 : State} (s : State) (p : Nat) (m : MemIn) (img : Bytes) (b : Nat) (h0 : Keep s0 s) :
    Keep s0 (blockCheck s p m img b).1 := by
  unfold blockCheck
  repeat' first
      | with_reducible assumption | (with_reducible refine keep_steepCheck _ _ _ _ _ ?_) | intro _
      | (with_reducible refine keep_foldl_fst ?_ _ ?_)

theorem keep_staleChunk {s0 : State} (s : State) (coll : CollRef) (chunk : Nat) (m : MemIn) (h0 : Keep s0 s) : Keep
    s0 (staleChunk s coll chunk m) := by
  unfold staleChunk
  repeat' first
      | with_reducible assumption | (with_reducible refine keep_steepCheck _ _ _ _ _ ?_)
      | (with_reducible refine keep_raise _ _ _ _ ?_) | intro _ | split | (with_reducible refine keep_foldl ?_ _ ?_)
      | (with_reducible refine keep_mk ?_)

theorem keep_chunkTaken {s0 : State} (s : State) (x : Ctx) (d : Bytes) (chunk : Nat) (h0 : Keep s0 s) : Keep s0
    (chunkTaken s x d chunk) := by
  unfold chunkTaken
  repeat' first
      | with_reducible assumption | (with_reducible apply keep_grantFree)
      | (with_reducible refine keep_putCtx _ _ ?_)

theorem keep_applyIfWhole {s0 : State} (m : MemIn) (img : Bytes) (start b : Nat) (t : Applied) (h : Keep s0 t.1) :
    Keep s0 (applyIfWhole m img start b t).1 := by
  obtain ⟨s, a, bad⟩ := t
  unfold applyIfWhole
  dsimp only at h ⊢
  refine keep_ite_fst h ?_
  have k := keep_blockCheck s a.part m img b h
  generalize blockCheck s a.part m img b = r at k ⊢
  obtain ⟨s1, e⟩ := r
  cases e with
  | true => exact k
  | false => exact keep_applyBlock _ _ _ _ _ _ _ k

theorem keep_applyEntry {s0 : State} (m : MemIn) (start : Nat) (vals : List F32) (t : Applied) (e : Nat) (h : Keep
    s0 t.1) :
    Keep s0 (applyEntry m start vals t e).1 := by
  obtain ⟨s, a, bad⟩ := t
  unfold applyEntry
  dsimp only at h ⊢
  refine keep_ite_fst h (keep_ite_fst (keep_stageVals _ _ _ _ _ _ h) ?_)
  exact keep_foldl_fst (fun t i ht => keep_applyIfWhole _ _ _ _ _ ht) _ h

theorem keep_execReducedChunkApply {s0 : State} (coll : CollRef) (chunk : Nat) (env : Env) (s0_3 : State) (h3 : Keep
    s0 s0_3) : KeepOut s0 (execReducedChunkApply coll chunk env s0_3) := by
  unfold execReducedChunkApply
  have k := keep_envIn s0_3 env h3
  dsimp only
  generalize envIn s0_3 env = s at k ⊢
  split
  · exact keepOut_next (keep_staleChunk _ _ _ _ k)
  · rename_i x _
    split
    · exact keepOut_next k
    · rename_i o _
      refine keepOut_ite (keepOut_next k) ?_
      generalize rootVals x o.desc x.rank chunk = rv
      generalize armOf s x = am
      cases rv with
      | none => exact keepOut_next k
      | some vals =>
        cases am with
        | none =>
          dsimp only
          exact keepOut_ite (keepOut_next (keep_chunkTaken _ _ _ _ (keep_staleChunk _ _ _ _ k))) (keepOut_next k)
        | some a =>
          dsimp only
          have k1 : Keep s0 ((touched s a (chunk * chunkElems (nodeFmt o.desc)) vals.length).foldl (fun t e =>
              ((steepCheck t.1 a.part env.mem (curAddr t.1 (getShard t.1 e)) 64).1,
                t.2 || (steepCheck t.1 a.part env.mem (curAddr t.1 (getShard t.1 e)) 64).2)) (s, false)).1 := by
            refine keep_foldl_fst (fun t e ht => ?_) _ k
            exact keep_steepCheck _ _ _ _ _ ht
          generalize (touched s a (chunk * chunkElems (nodeFmt o.desc)) vals.length).foldl (fun t e =>
              ((steepCheck t.1 a.part env.mem (curAddr t.1 (getShard t.1 e)) 64).1,
                t.2 || (steepCheck t.1 a.part env.mem (curAddr t.1 (getShard t.1 e)) 64).2)) (s, false) = r at k1 ⊢
          obtain ⟨s1, bad⟩ := r
          cases bad with
          | true => exact keepOut_next (keep_failArming _ _ _ _ _ k1)
          | false =>
            dsimp only
            refine keepOut_ite (keepOut_next (keep_failArming _ _ _ _ _ (keep_chunkTaken _ _ _ _ k1))) ?_
            generalize (List.map (fun e => lastApplied s1 a.part (getShard s1 e)) (touched s a (chunk * chunkElems
                (nodeFmt o.desc)) vals.length)).find?
                (fun l => decide (l + 1 < a.step)) = gap
            have k2 : Keep s0 (match gap with
              | some l => if a.gap then s1 else raise s1 0x0602 a.part (leBytes 6 a.step ++ leBytes 6 l)
              | none => s1) := by
              split
              · exact keep_ite k1 (keep_raise _ _ _ _ k1)
              · exact k1
            have k3 := keep_foldl_fst (g := applyEntry env.mem (chunk * chunkElems (nodeFmt o.desc)) vals)
              (fun t e ht => keep_applyEntry _ _ _ _ _ ht) (touched s a (chunk * chunkElems (nodeFmt o.desc))
                  vals.length)
              (s := (_, { a with gap := a.gap || gap.isSome }, false)) k2
            exact keepOut_ite (keepOut_next (keep_failArming _ _ _ _ _ k3)) (keepOut_next (keep_chunkTaken _ _ _ _
                (keep_updArming _ _ _ k3)))

theorem keep_sendValues {s0 : State} (s : State) (mcast : Nat) (v : ComputeValues) (h0 : Keep s0 s) : Keep s0
    (sendValues s mcast v) := by
  unfold sendValues
  repeat' first | with_reducible assumption | (with_reducible refine keep_sendMsg _ _ ?_)

theorem keep_fillSlot {s0 : State} (s : State) (p : Nat) (m : MemIn) (layer : Nat) (off : Nat) (b : Bytes) (h0 :
    Keep s0 s) : Keep s0 (fillSlot s p m layer off b) := by
  unfold fillSlot
  repeat' first
      | with_reducible assumption | (with_reducible refine keep_steepWrite _ _ _ _ _ ?_)
      | (with_reducible refine keep_setVer _ _ _ ?_) | (with_reducible refine keep_ite ?_ ?_)

theorem keep_mastersCheck {s0 : State} (s : State) (p : Nat) (m : MemIn) (half : Nat) (img : Bytes) (h0 : Keep s0 s)
    : Keep s0 (mastersCheck s p m half img).1 := by
  unfold mastersCheck
  repeat' first | with_reducible assumption | (with_reducible refine keep_steepCheck _ _ _ _ _ ?_)

theorem keep_finishEntry {s0 : State} (s : State) (m : MemIn) (a : Arming) (e : Nat) (xbytes : Nat) (h0 : Keep s0 s)
    : Keep s0 (finishEntry s m a e xbytes) := by
  unfold finishEntry
  try dsimp only
  repeat' first
      | with_reducible assumption | (with_reducible refine keep_steepWrite _ _ _ _ _ ?_)
      | (with_reducible refine keep_mastersCheck _ _ _ _ _ ?_)
      | (with_reducible refine keep_failArming _ _ _ _ _ ?_) | (with_reducible refine keep_fillSlot _ _ _ _ _ _ ?_)
      | (with_reducible refine keep_sendValues _ _ _ ?_) | (with_reducible refine keep_updArming _ _ _ ?_) | intro _
      | split | (with_reducible refine keep_foldl ?_ _ ?_)
      | (with_reducible refine keep_fst (by with_reducible assumption) ?_)

theorem keep_readHalf {s0 : State} (s : State) (p : Nat) (m : MemIn) (img : Bytes) (h0 : Keep s0 s) : Keep s0
    (readHalf s p m img).1 := by
  unfold readHalf
  repeat' first
      | with_reducible assumption | (with_reducible refine keep_readHeader _ _ _ _ ?_)
      | (with_reducible refine keep_steepCheck _ _ _ _ _ ?_) | split
      | (with_reducible refine keep_fst (by with_reducible assumption) ?_)

theorem keep_execShardFinish {s0 : State} (op : Nat) (entry : Nat) (env : Env) (s0_3 : State) (h3 : Keep s0 s0_3) :
    KeepOut s0 (execShardFinish op entry env s0_3) := by
  unfold execShardFinish
  try dsimp only
  repeat' first
      | with_reducible assumption | with_reducible refine keepOut_next ?_
      | (with_reducible refine keep_envIn _ _ ?_) | (with_reducible refine keep_steepCheck _ _ _ _ _ ?_)
      | (with_reducible refine keep_failArming _ _ _ _ _ ?_) | (with_reducible refine keep_applyRuleF _ _ _ _ _ ?_)
      | (with_reducible refine keep_finishEntry _ _ _ _ _ ?_) | (with_reducible refine keep_updArming _ _ _ ?_)
      | (with_reducible refine keep_readHalf _ _ _ _ ?_) | (with_reducible refine keep_steepWrite _ _ _ _ _ ?_)
      | (with_reducible refine keep_setEvt _ _ _ ?_) | (with_reducible refine keep_signalEvt _ _ _ ?_) | split
      | (with_reducible refine keep_foldl ?_ _ ?_)
      | (with_reducible refine keep_fst (by with_reducible assumption) ?_)

theorem keep_execRuleVResume {s0 : State} (op : Nat) (entry : Nat) (env : Env) (s0_3 : State) (h3 : Keep s0 s0_3) :
    KeepOut s0 (execRuleVResume op entry env s0_3) := by
  unfold execRuleVResume
  try dsimp only
  repeat' first
      | with_reducible assumption | with_reducible refine keepOut_next ?_
      | (with_reducible refine keep_envIn _ _ ?_) | (with_reducible refine keep_failArming _ _ _ _ _ ?_)
      | (with_reducible refine keep_readHeader _ _ _ _ ?_) | (with_reducible refine keep_steepCheck _ _ _ _ _ ?_)
      | (with_reducible refine keep_steepWrite _ _ _ _ _ ?_) | (with_reducible refine keep_finishEntry _ _ _ _ _ ?_)
      | (with_reducible refine keep_updArming _ _ _ ?_) | split | (with_reducible refine keep_foldl ?_ _ ?_)
      | (with_reducible refine keep_fst (by with_reducible assumption) ?_)

theorem keep_answerValues {s0 : State} (s : State) (src : Nat) (v : ComputeValues) (refused : Nat) (h0 : Keep s0 s)
    : Keep s0 (answerValues s src v refused) := by
  unfold answerValues
  repeat' first | with_reducible assumption | (with_reducible refine keep_sendMsg _ _ ?_)

theorem keep_execComputeValuesReceive {s0 : State} (mcast : Nat) (src : Nat) (msg : ComputeValues) (s0_3 : State)
    (h3 : Keep s0 s0_3) : KeepOut s0 (execComputeValuesReceive mcast src msg s0_3) := by
  unfold execComputeValuesReceive
  try dsimp only
  repeat' first
      | with_reducible assumption | with_reducible refine keepOut_next ?_
      | (with_reducible refine keep_takeDelivered _ _ ?_) | (with_reducible refine keep_answerValues _ _ _ _ ?_)
      | (with_reducible refine keep_fillSlot _ _ _ _ _ _ ?_) | split

theorem keep_execComputeValuesAck {s0 : State} (op : Nat) (member : Nat) (msg : ComputeValues) (answer :
    ComputeAnswer) (s : State) (h4 : Keep s0 s) : KeepOut s0 (execComputeValuesAck op member msg answer s) := by
  unfold execComputeValuesAck
  repeat' first
      | with_reducible assumption | with_reducible refine keepOut_next ?_
      | (with_reducible refine keep_updArming _ _ _ ?_)

theorem keep_execComputeValuesResend {s0 : State} (op : Nat) (s : State) (h1 : Keep s0 s) : KeepOut s0
    (execComputeValuesResend op s) := by
  unfold execComputeValuesResend
  repeat' first
      | with_reducible assumption | with_reducible refine keepOut_next ?_
      | (with_reducible refine keep_sendValues _ _ _ ?_) | (with_reducible refine keep_updArming _ _ _ ?_) | intro _
      | split | (with_reducible refine keep_foldl ?_ _ ?_)

theorem keep_sumsCheck {s0 : State} (s : State) (a : Arming) (m : MemIn) (h0 : Keep s0 s) : Keep s0 (sumsCheck s a
    m).1 := by
  unfold sumsCheck
  repeat' first
      | with_reducible assumption | (with_reducible refine keep_mastersCheck _ _ _ _ _ ?_) | intro _
      | (with_reducible refine keep_foldl_fst ?_ _ ?_)

theorem keep_takeAccs {s0 : State} (s : State) (a : Arming) (h0 : Keep s0 s) : Keep s0 (takeAccs s a) := by
  unfold takeAccs
  repeat' first
      | with_reducible assumption | (with_reducible refine keep_setGov _ _ _ ?_) | intro _
      | (with_reducible refine keep_foldl ?_ _ ?_)

theorem keep_execStatisticsExchange {s0 : State} (op : Nat) (host : HostIn) (mem : MemIn) (s0_3 : State) (h3 : Keep
    s0 s0_3) : KeepOut s0 (execStatisticsExchange op host mem s0_3) := by
  unfold execStatisticsExchange
  try dsimp only
  repeat' first
      | with_reducible assumption | with_reducible refine keepOut_next ?_
      | (with_reducible refine keep_envIn _ _ ?_) | (with_reducible refine keep_sumsCheck _ _ _ ?_)
      | (with_reducible refine keep_failArming _ _ _ _ _ ?_) | (with_reducible apply keep_grantFree)
      | (with_reducible refine keep_putCtx _ _ ?_) | (with_reducible refine keep_takeAccs _ _ ?_)
      | (with_reducible refine keep_pump _ _ ?_) | split
      | (with_reducible refine keep_fst (by with_reducible assumption) ?_)

theorem keep_execVoteContribute {s0 : State} (op : Nat) (s : State) (h1 : Keep s0 s) : KeepOut s0
    (execVoteContribute op s) := by
  unfold execVoteContribute
  repeat' first
      | with_reducible assumption | with_reducible refine keepOut_next ?_
      | (with_reducible refine keep_updArming _ _ _ ?_) | (with_reducible refine keep_setVote _ _ _ ?_)
      | (with_reducible refine keep_pump _ _ ?_) | (with_reducible refine keep_putCtx _ _ ?_) | intro _ | split
      | (with_reducible refine keep_foldl ?_ _ ?_)

theorem keep_execVoteDecision {s0 : State} (op : Nat) (record : Bytes) (s : State) (h2 : Keep s0 s) : KeepOut s0
    (execVoteDecision op record s) := by
  unfold execVoteDecision
  repeat' first
      | with_reducible assumption | with_reducible refine keepOut_next ?_
      | (with_reducible refine keep_commitStep _ _ _ _ _ ?_ ?_) | (with_reducible refine keep_endColl _ _ _ _ _ ?_)
      | (with_reducible refine keep_skipStep _ _ _ _ _ _ ?_ ?_) | intro _ | split

theorem keep_mapRings {s0 : State} (s : State) (r : PartRegs) (g : Ring → Ring) (h0 : Keep s0 s) : Keep s0 (mapRings
    s r g) := by
  unfold mapRings
  repeat' first
      | with_reducible assumption | (with_reducible refine keep_setRing _ _ _ ?_) | intro _
      | (with_reducible refine keep_foldl ?_ _ ?_)

theorem keep_mapORings {s0 : State} (s : State) (r : PartRegs) (g : ORing → ORing) (h0 : Keep s0 s) : Keep s0
    (mapORings s r g) := by
  unfold mapORings
  repeat' first
      | with_reducible assumption | (with_reducible refine keep_setORing _ _ _ ?_) | intro _
      | (with_reducible refine keep_foldl ?_ _ ?_)

theorem keep_dropWork {s0 : State} (s : State) (p : Nat) (h0 : Keep s0 s) : Keep s0 (dropWork s p) := by
  unfold dropWork
  repeat' first
      | with_reducible assumption | (with_reducible refine keep_mapORings _ _ _ ?_)
      | (with_reducible refine keep_mapRings _ _ _ ?_) | (with_reducible refine keep_mk ?_)

theorem keep_dropTables {s0 : State} (s : State) (p : Nat) (h0 : Keep s0 s) : Keep s0 (dropTables s p) := by
  unfold dropTables
  repeat' first | with_reducible assumption | (with_reducible refine keep_mk ?_)

theorem keep_zeroMemory {s0 : State} (s : State) (p : Nat) (h0 : Keep s0 s) : Keep s0 (zeroMemory s p) := by
  refine keep_trans h0 ⟨rfl, rfl, Nat.le_refl _, Nat.le_refl _, Nat.le_refl _, .inl rfl, ?_, id, id, id⟩
  simp only [memoriesOk, zeroMemory, Bool.and_eq_true]
  exact fun h => ⟨⟨⟨h.1.1.1, wf_filter _ h.1.1.2⟩, wf_filter _ h.1.2⟩, wf_filter _ h.2⟩

theorem keep_clearSteeper {s0 : State} (s : State) (p : Nat) (h0 : Keep s0 s) : Keep s0 (clearSteeper s p) := by
  unfold clearSteeper
  repeat' first | with_reducible assumption | (with_reducible refine keep_mk ?_)

theorem keep_wipePart {s0 : State} (s : State) (p : Nat) (h0 : Keep s0 s) : Keep s0 (wipePart s p) := by
  unfold wipePart
  repeat' first
      | with_reducible assumption | (with_reducible refine keep_clearLayers _ _ ?_)
      | (with_reducible refine keep_clearSteeper _ _ ?_) | (with_reducible refine keep_zeroMemory _ _ ?_)
      | (with_reducible refine keep_dropTables _ _ ?_) | (with_reducible refine keep_dropWork _ _ ?_)

theorem keep_dropReplies {s0 : State} (s : State) (f : Nat) (h0 : Keep s0 s) : Keep s0 (dropReplies s f) := by
  unfold dropReplies
  try dsimp only
  repeat' first
      | with_reducible assumption | (with_reducible refine keep_updPart _ _ _ ?_)
      | (with_reducible refine keep_ite ?_ ?_) | (with_reducible refine keep_ite_fst ?_ ?_) | intro _ | split
      | (with_reducible refine keep_foldl ?_ _ ?_) | (with_reducible refine keep_forN ?_ _ ?_)
      | (with_reducible refine keep_foldl_fst ?_ _ ?_) | (with_reducible refine keep_mk ?_)

theorem keep_resetFnRegs {s0 : State} (s : State) (f : Nat) (h0 : Keep s0 s) : Keep s0 (resetFnRegs s f) := by
  unfold resetFnRegs
  try dsimp only
  repeat' first
      | with_reducible assumption | (with_reducible refine keep_setFn _ _ _ ?_)
      | (with_reducible refine keep_dropReplies _ _ ?_) | (with_reducible refine keep_mapORings _ _ _ ?_)
      | (with_reducible refine keep_mapRings _ _ _ ?_) | (with_reducible refine keep_ite ?_ ?_)
      | (with_reducible refine keep_ite_fst ?_ ?_) | intro _ | split | (with_reducible refine keep_foldl ?_ _ ?_)
      | (with_reducible refine keep_forN ?_ _ ?_) | (with_reducible refine keep_foldl_fst ?_ _ ?_)
      | (with_reducible refine keep_mk ?_)

theorem keep_flrReport {s0 : State} (s : State) (f : Nat) (part : Option Nat) (n : Nat) (h0 : Keep s0 s) : Keep s0
    (flrReport s f part n) := by
  unfold flrReport
  repeat' first | with_reducible assumption | (with_reducible refine keep_updFn _ _ _ ?_)

theorem keep_resetEvent {s0 : State} (s : State) (domain : Nat) (cause : Nat) (part : Nat) (n : Nat) (h0 : Keep s0
    s) : Keep s0 (resetEvent s domain cause part n) := by
  unfold resetEvent
  repeat' first | with_reducible assumption | (with_reducible refine keep_raiseMod _ _ _ ?_)

theorem keep_handFail {s0 : State} (p : Nat) (s : State) (h1 : Keep s0 s) : Keep s0 (handFail p s) := by
  unfold handFail
  repeat' first
      | with_reducible assumption | (with_reducible refine keep_updPart _ _ _ ?_)
      | (with_reducible refine keep_respond _ _ _ ?_) | split

theorem keep_handsFail {s0 : State} (s : State) (f : Nat) (old : Bool) (h0 : Keep s0 s) : Keep s0 (handsFail s f
    old) := by
  unfold handsFail
  repeat' first
      | with_reducible assumption | (with_reducible refine keep_handFail _ _ ?_) | intro _ | split
      | (with_reducible refine keep_forN ?_ _ ?_)

theorem keep_flrOne {s0 : State} (s0_0 : State) (f : Nat) (cause : Nat) (h0 : Keep s0 s0_0) : Keep s0 (flrOne s0_0 f
    cause) := by
  unfold flrOne
  try dsimp only
  repeat' first
      | with_reducible assumption | (with_reducible refine keep_handsFail _ _ _ ?_)
      | (with_reducible refine keep_resetEvent _ _ _ _ _ ?_) | (with_reducible refine keep_resetFnRegs _ _ ?_)
      | (with_reducible refine keep_flrReport _ _ _ _ ?_) | (with_reducible refine keep_wipePart _ _ ?_) | split

theorem keep_flrPort {s0 : State} (s : State) (port : Nat) (cause : Nat) (h0 : Keep s0 s) : Keep s0 (flrPort s port
    cause) := by
  unfold flrPort
  repeat' first
      | with_reducible assumption | (with_reducible refine keep_flrOne _ _ _ ?_)
      | (with_reducible refine keep_ite ?_ ?_) | intro _ | (with_reducible refine keep_forN ?_ _ ?_)

theorem keep_flr {s0 : State} (s : State) (f : Nat) (cause : Nat) (h0 : Keep s0 s) : Keep s0 (flr s f cause) := by
  unfold flr
  try dsimp only
  repeat' first
      | with_reducible assumption | (with_reducible refine keep_updPort _ _ _ ?_)
      | (with_reducible refine keep_flrPort _ _ _ ?_) | (with_reducible refine keep_flrOne _ _ _ ?_)
      | (with_reducible refine keep_ite ?_ ?_) | (with_reducible refine keep_ite_fst ?_ ?_) | intro _ | split
      | (with_reducible refine keep_foldl ?_ _ ?_) | (with_reducible refine keep_forN ?_ _ ?_)
      | (with_reducible refine keep_foldl_fst ?_ _ ?_) | (with_reducible refine keep_mk ?_)

theorem keep_partReset {s0 : State} (s : State) (p : Nat) (cause : Nat) (h0 : Keep s0 s) : Keep s0 (partReset s p
    cause) := by
  unfold partReset
  repeat' first
      | with_reducible assumption | (with_reducible refine keep_resetEvent _ _ _ _ _ ?_)
      | (with_reducible refine keep_flrReport _ _ _ _ ?_) | (with_reducible refine keep_wipePart _ _ ?_)

theorem keep_execInputPowerApplied {s0 : State} (bu : BringUp) (s : State) (h1 : Keep s0 s) : KeepOut s0
    (execInputPowerApplied bu s) := by
  unfold execInputPowerApplied
  repeat' first
      | with_reducible assumption | with_reducible refine keepOut_next ?_
      | (with_reducible refine keep_coldStart _ _ _ ?_) | split

theorem keep_execBladeInsertion {s0 : State} (bu : BringUp) (s : State) (h1 : Keep s0 s) : KeepOut s0
    (execBladeInsertion bu s) := by
  unfold execBladeInsertion
  repeat' first
      | with_reducible assumption | with_reducible refine keepOut_next ?_
      | (with_reducible refine keep_coldStart _ _ _ ?_) | (with_reducible refine keep_ite ?_ ?_)
      | (with_reducible refine keep_mk ?_)

theorem keep_execBootWaitExpiry {s0 : State} (s : State) (h0 : Keep s0 s) : KeepOut s0 (execBootWaitExpiry s) := by
  unfold execBootWaitExpiry
  repeat' first
      | with_reducible assumption | with_reducible refine keepOut_next ?_
      | (with_reducible refine keep_stepTwelveDone _ ?_) | (with_reducible refine keep_bootPlanFail _ _ ?_) | split
      | (with_reducible refine keep_mk ?_)

theorem keep_execBrownOutTrip {s0 : State} (mv : Nat) (s : State) (h1 : Keep s0 s) : KeepOut s0 (execBrownOutTrip mv
    s) := by
  unfold execBrownOutTrip
  repeat' first
      | with_reducible assumption | with_reducible refine keepOut_next ?_
      | (with_reducible refine keep_shutDown _ _ _ _ ?_)

theorem keep_execOvervoltageTrip {s0 : State} (mv : Nat) (s : State) (h1 : Keep s0 s) : KeepOut s0
    (execOvervoltageTrip mv s) := by
  unfold execOvervoltageTrip
  repeat' first
      | with_reducible assumption | with_reducible refine keepOut_next ?_
      | (with_reducible refine keep_shutDown _ _ _ _ ?_)

theorem keep_execBladeWithdrawal {s0 : State} (mv : Nat) (s : State) (h1 : Keep s0 s) : KeepOut s0
    (execBladeWithdrawal mv s) := by
  unfold execBladeWithdrawal
  repeat' first
      | with_reducible assumption | with_reducible refine keepOut_next ?_
      | (with_reducible refine keep_shutDown _ _ _ _ ?_) | (with_reducible refine keep_mk ?_)

theorem keep_execRootPllLoss {s0 : State} (bu : BringUp) (s : State) (h1 : Keep s0 s) : KeepOut s0 (execRootPllLoss
    bu s) := by
  unfold execRootPllLoss
  try dsimp only
  repeat' first
      | with_reducible assumption | with_reducible refine keepOut_next ?_
      | (with_reducible refine keep_alertOn _ ?_) | (with_reducible refine keep_coldStart _ _ _ ?_)
      | (with_reducible refine keep_powerFailEntry _ _ _ ?_) | (with_reducible refine keep_ite ?_ ?_)
      | (with_reducible refine keepOut_ite ?_ ?_) | (with_reducible refine keep_ite_fst ?_ ?_) | intro _ | split
      | (with_reducible refine keep_foldl ?_ _ ?_) | (with_reducible refine keep_forN ?_ _ ?_)
      | (with_reducible refine keep_foldl_fst ?_ _ ?_) | (with_reducible refine keep_mk ?_)

theorem keep_execColdReset {s0 : State} (bu : BringUp) (s : State) (h1 : Keep s0 s) : KeepOut s0 (execColdReset bu
    s) := by
  unfold execColdReset
  repeat' first
      | with_reducible assumption | with_reducible refine keepOut_next ?_
      | (with_reducible refine keep_coldStart _ _ _ ?_) | split

theorem keep_abortOp {s0 : State} (s : State) (o : Op) (h0 : Keep s0 s) : Keep s0 (abortOp s o) := by
  unfold abortOp
  repeat' first
      | with_reducible assumption | (with_reducible refine keep_failTimed _ _ _ _ ?_)
      | (with_reducible refine keep_complete _ _ _ _ _ ?_) | (with_reducible refine keep_ite ?_ ?_)

theorem keep_voteStays {s0 : State} (s : State) (o : Op) (h0 : Keep s0 s) : Keep s0 (voteStays s o) := by
  unfold voteStays
  repeat' first
      | with_reducible assumption | (with_reducible refine keep_markUndecided _ _ _ ?_)
      | (with_reducible refine keep_ite ?_ ?_)

theorem keep_abortArming {s0 : State} (t : State) (a0 : Arming) (h0 : Keep s0 t) : Keep s0 (abortArming t a0) := by
  unfold abortArming
  repeat' first
      | with_reducible assumption | (with_reducible refine keep_failArming _ _ _ _ _ ?_)
      | (with_reducible refine keep_markUndecided _ _ _ ?_) | (with_reducible refine keep_discardStep _ _ _ _ _ ?_)
      | split

theorem keep_endTraining {s0 : State} (s : State) (h0 : Keep s0 s) : Keep s0 (endTraining s) := by
  unfold endTraining
  repeat' first
      | with_reducible assumption | (with_reducible refine keep_voteStays _ _ ?_)
      | (with_reducible refine keep_abortArming _ _ ?_) | intro _ | (with_reducible refine keep_foldl ?_ _ ?_)
      | (with_reducible refine keep_mk ?_)

theorem keep_freesTake {s0 : State} (s : State) (h0 : Keep s0 s) : Keep s0 (freesTake s) := by
  unfold freesTake
  try dsimp only
  repeat' first
      | with_reducible assumption | (with_reducible refine keep_dropStash _ _ _ ?_)
      | (with_reducible refine keep_ite ?_ ?_) | (with_reducible refine keep_ite_fst ?_ ?_) | intro _ | split
      | (with_reducible refine keep_foldl ?_ _ ?_) | (with_reducible refine keep_forN ?_ _ ?_)
      | (with_reducible refine keep_foldl_fst ?_ _ ?_) | (with_reducible refine keep_mk ?_)

theorem keep_abortOps {s0 : State} (s : State) (keep : Op → Bool) (h0 : Keep s0 s) : Keep s0 (abortOps s keep) := by
  unfold abortOps
  repeat' first
      | with_reducible assumption | (with_reducible refine keep_endTraining _ ?_)
      | (with_reducible refine keep_abortOp _ _ ?_) | intro _ | split | (with_reducible refine keep_foldl ?_ _ ?_)

theorem keep_resetCores {s0 : State} (s : State) (h0 : Keep s0 s) : Keep s0 (resetCores s) := by
  unfold resetCores
  refine keep_upd (keep_cores (cores := { s.cores with sram := [], regs := s.cores.regs.filterMap (fun e =>
      let x := { e.2 with stopped := false }
      if x = {} then none else some (e.1, x)) }) h0 (fun _ => rfl)) rfl

theorem keep_resetTaken {s0 : State} (s : State) (domain : Nat) (h0 : Keep s0 s) : Keep s0 (resetTaken s domain) := by
  unfold resetTaken
  repeat' first | with_reducible assumption | (with_reducible refine keep_mk ?_)

theorem keep_execComputeReset {s0 : State} (s : State) (h0 : Keep s0 s) : KeepOut s0 (execComputeReset s) := by
  unfold execComputeReset
  try dsimp only
  repeat' first
      | with_reducible assumption | with_reducible refine keepOut_next ?_
      | (with_reducible refine keep_handFail _ _ ?_) | (with_reducible refine keep_freesTake _ ?_)
      | (with_reducible refine keep_abortOps _ _ ?_) | (with_reducible refine keep_resetEvent _ _ _ _ _ ?_)
      | (with_reducible refine keep_resetTaken _ _ ?_) | (with_reducible refine keep_resetCores _ ?_)
      | (with_reducible refine keep_ite ?_ ?_) | (with_reducible refine keepOut_ite ?_ ?_)
      | (with_reducible refine keep_ite_fst ?_ ?_) | intro _ | split | (with_reducible refine keep_foldl ?_ _ ?_)
      | (with_reducible refine keep_forN ?_ _ ?_) | (with_reducible refine keep_foldl_fst ?_ _ ?_)
      | (with_reducible refine keep_mk ?_)

theorem keep_execFabricReset {s0 : State} (bu : BringUp) (s : State) (h1 : Keep s0 s) : KeepOut s0 (execFabricReset
    bu s) := by
  unfold execFabricReset
  dsimp only
  refine keepOut_ite (keepOut_next h1) (keepOut_ite (keepOut_next (keep_resetTaken _ _ h1))
    (keepOut_next (keep_opticsOn _ _ (keep_resetEvent _ _ _ _ _ (keep_resetTaken _ _ ?_)))))
  have k := keep_abortOps s (fun o => decide (o.core ≠ netTarget)) h1
  generalize abortOps s (fun o => decide (o.core ≠ netTarget)) = s1 at k ⊢
  have k1 : Keep s0 { s1 with kt := { s1.kt with f := if s1.kt.det then floorLevel s1 else startLevel s1 } } := by
    refine keep_kt k ?_
    rw [levelsOk_iff, levelsOk_iff]
    refine fun w => ⟨?_, w.2⟩
    dsimp only
    split
    · exact floorLevel_le _
    · exact startLevel_le _
  exact keep_upd k1 rfl

theorem keep_dropAllWork {s0 : State} (s : State) (h0 : Keep s0 s) : Keep s0 (dropAllWork s) := by
  unfold dropAllWork
  try dsimp only
  repeat' first
      | with_reducible assumption | (with_reducible refine keep_flrReport _ _ _ _ ?_)
      | (with_reducible refine keep_voteStays _ _ ?_) | (with_reducible refine keep_freePins _ _ ?_)
      | (with_reducible refine keep_releaseLatches _ _ ?_) | (with_reducible refine keep_ite ?_ ?_)
      | (with_reducible refine keep_ite_fst ?_ ?_) | intro _ | split | (with_reducible refine keep_foldl ?_ _ ?_)
      | (with_reducible refine keep_forN ?_ _ ?_) | (with_reducible refine keep_foldl_fst ?_ _ ?_)
      | (with_reducible refine keep_mk ?_)

theorem keep_resetFunctions {s0 : State} (s : State) (h0 : Keep s0 s) : Keep s0 (resetFunctions s) := by
  unfold resetFunctions
  repeat' first
      | with_reducible assumption | (with_reducible refine keep_postNotice _ _ _ _ ?_)
      | (with_reducible refine keep_resetFnRegs _ _ ?_) | (with_reducible refine keep_handFail _ _ ?_) | intro _
      | (with_reducible refine keep_foldl ?_ _ ?_) | (with_reducible refine keep_forN ?_ _ ?_)

theorem keep_restartMigrations {s0 : State} (s : State) (h0 : Keep s0 s) : Keep s0 (restartMigrations s) := by
  unfold restartMigrations
  repeat' first
      | with_reducible assumption | (with_reducible refine keep_raiseMod _ _ _ ?_) | intro _
      | (with_reducible refine keep_foldl ?_ _ ?_)

theorem keep_flushAll {s0 : State} (m : MemIn) (s : State) (h1 : Keep s0 s) : Keep s0 (flushAll m s) := by
  unfold flushAll
  repeat' first
      | with_reducible assumption | (with_reducible apply keep_wcFlushTo) | intro _
      | (with_reducible refine keep_foldl ?_ _ ?_)

theorem keep_execWarmReset {s0 : State} (bu : BringUp) (s0_1 : State) (h1 : Keep s0 s0_1) : KeepOut s0
    (execWarmReset bu s0_1) := by
  unfold execWarmReset
  refine keepOut_ite (keepOut_next h1) (keepOut_next ?_)
  have k := keep_resetFunctions _ (keep_resetCores _ (keep_flushAll bu.mem _ (keep_freesTake _ (keep_endTraining _
      (keep_dropAllWork _ (keep_dramUpsets s0_1 bu.mem h1))))))
  dsimp only
  generalize resetFunctions (resetCores (flushAll bu.mem (freesTake (endTraining (dropAllWork (dramUpsets s0_1
      bu.mem)))))) = s3 at k ⊢
  generalize (liveOps (dramUpsets s0_1 bu.mem)).length + ((dramUpsets s0_1 bu.mem).q.rings.map (fun e =>
      e.2.waiting.length)).sum = n
  have k1 : Keep s0 { s3 with power := { s3.power with ready := false, warmCount := sat 255 (s3.power.warmCount + 1)
      } } :=
    keep_power k rfl (fun _ => rfl)
  generalize { s3 with power := { s3.power with ready := false, warmCount := sat 255 (s3.power.warmCount + 1) } } =
      s4 at k1 ⊢
  have k2 := keep_mapCores _ bu (keep_resetEvent _ 1 6 0xFF n (keep_resetTaken s4 1 k1))
  generalize mapCores (resetEvent (resetTaken s4 1) 1 6 0xFF n) bu = r at k2 ⊢
  obtain ⟨s6, e⟩ := r
  cases e with
  | none => exact keep_restartMigrations _ (keep_becomeReady _ k2)
  | some x => exact keep_bootFault _ _ _ _ _ (keep_atStep _ _ k2)

theorem keep_execFunctionLevelReset {s0 : State} (fn : Nat) (s : State) (h1 : Keep s0 s) : KeepOut s0
    (execFunctionLevelReset fn s) := by
  unfold execFunctionLevelReset
  repeat' first
      | with_reducible assumption | with_reducible refine keepOut_next ?_
      | (with_reducible refine keep_flr _ _ _ ?_)

theorem keep_execD3hotEntry {s0 : State} (fn : Nat) (s : State) (h1 : Keep s0 s) : KeepOut s0 (execD3hotEntry fn s)
    := by
  unfold execD3hotEntry
  repeat' first
      | with_reducible assumption | with_reducible refine keepOut_next ?_
      | (with_reducible refine keep_updFn _ _ _ ?_) | (with_reducible refine keep_ite ?_ ?_)

theorem keep_execD3hotReturn {s0 : State} (fn : Nat) (s : State) (h1 : Keep s0 s) : KeepOut s0 (execD3hotReturn fn
    s) := by
  unfold execD3hotReturn
  repeat' first
      | with_reducible assumption | with_reducible refine keepOut_next ?_
      | (with_reducible refine keep_flr _ _ _ ?_) | (with_reducible refine keep_ite ?_ ?_)

theorem keep_otherPortLeaf {s0 : State} (s : State) (port : Nat) (bits : Nat) (h0 : Keep s0 s) : Keep s0
    (otherPortLeaf s port bits) := by
  unfold otherPortLeaf
  repeat' first | with_reducible assumption | (with_reducible refine keep_setPfLeaf _ _ _ _ ?_)

theorem keep_endHolds {s0 : State} (s : State) (ps : List Nat) (port : Nat) (h0 : Keep s0 s) : Keep s0 (endHolds s
    ps port) := by
  unfold endHolds
  repeat' first
      | with_reducible assumption | (with_reducible refine keep_updPart _ _ _ ?_)
      | (with_reducible refine keep_otherPortLeaf _ _ _ ?_) | (with_reducible refine keep_ite ?_ ?_) | intro _
      | (with_reducible refine keep_foldl ?_ _ ?_)

theorem keep_losePcie {s0 : State} (s : State) (port : Nat) (h0 : Keep s0 s) : Keep s0 (losePcie s port) := by
  unfold losePcie
  repeat' first
      | with_reducible assumption | (with_reducible refine keep_updPort _ _ _ ?_)
      | (with_reducible refine keep_updFn _ _ _ ?_) | intro _ | (with_reducible refine keep_forN ?_ _ ?_)

theorem keep_portHandsFail {s0 : State} (s : State) (port : Nat) (h0 : Keep s0 s) : Keep s0 (portHandsFail s port)
    := by
  unfold portHandsFail
  repeat' first
      | with_reducible assumption | (with_reducible refine keep_handsFail _ _ _ ?_) | intro _
      | (with_reducible refine keep_forN ?_ _ ?_)

theorem keep_execPortDlDown {s0 : State} (port : Nat) (s : State) (h1 : Keep s0 s) : KeepOut s0 (execPortDlDown port
    s) := by
  unfold execPortDlDown
  repeat' first
      | with_reducible assumption | with_reducible refine keepOut_next ?_
      | (with_reducible refine keep_updPart _ _ _ ?_) | (with_reducible refine keep_losePcie _ _ ?_)
      | (with_reducible refine keep_portHandsFail _ _ ?_) | (with_reducible refine keep_otherPortLeaf _ _ _ ?_)
      | (with_reducible refine keep_ite ?_ ?_) | (with_reducible refine keepOut_ite ?_ ?_) | intro _
      | (with_reducible refine keep_foldl ?_ _ ?_)

theorem keep_execPortHoldExpiry {s0 : State} (port : Nat) (s : State) (h1 : Keep s0 s) : KeepOut s0
    (execPortHoldExpiry port s) := by
  unfold execPortHoldExpiry
  try dsimp only
  repeat' first
      | with_reducible assumption | with_reducible refine keepOut_next ?_
      | (with_reducible refine keep_endHolds _ _ _ ?_) | (with_reducible refine keep_partReset _ _ _ ?_)
      | (with_reducible refine keep_ite ?_ ?_) | (with_reducible refine keepOut_ite ?_ ?_)
      | (with_reducible refine keep_ite_fst ?_ ?_) | intro _ | split | (with_reducible refine keep_foldl ?_ _ ?_)
      | (with_reducible refine keep_forN ?_ _ ?_) | (with_reducible refine keep_foldl_fst ?_ _ ?_)
      | (with_reducible refine keep_mk ?_)

theorem keep_setPerst {s0 : State} (s : State) (port : Nat) (on : Bool) (h0 : Keep s0 s) : Keep s0 (setPerst s port
    on) := by
  unfold setPerst
  repeat' first | with_reducible assumption | split | (with_reducible refine keep_mk ?_)

theorem keep_execPerstAssert {s0 : State} (port : Nat) (s : State) (h1 : Keep s0 s) : KeepOut s0 (execPerstAssert
    port s) := by
  unfold execPerstAssert
  try dsimp only
  repeat' first
      | with_reducible assumption | with_reducible refine keepOut_next ?_
      | (with_reducible refine keep_setPerst _ _ _ ?_) | (with_reducible refine keep_endHolds _ _ _ ?_)
      | (with_reducible refine keep_updPort _ _ _ ?_) | (with_reducible refine keep_losePcie _ _ ?_)
      | (with_reducible refine keep_flrPort _ _ _ ?_) | (with_reducible refine keep_ite ?_ ?_)
      | (with_reducible refine keepOut_ite ?_ ?_) | (with_reducible refine keep_ite_fst ?_ ?_) | intro _ | split
      | (with_reducible refine keep_foldl ?_ _ ?_) | (with_reducible refine keep_forN ?_ _ ?_)
      | (with_reducible refine keep_foldl_fst ?_ _ ?_) | (with_reducible refine keep_mk ?_)

theorem keep_execPerstDeassert {s0 : State} (port : Nat) (s : State) (h1 : Keep s0 s) : KeepOut s0
    (execPerstDeassert port s) := by
  unfold execPerstDeassert
  repeat' first
      | with_reducible assumption | with_reducible refine keepOut_next ?_
      | (with_reducible refine keep_setPerst _ _ _ ?_) | (with_reducible refine keep_updPort _ _ _ ?_)
      | (with_reducible refine keep_ite ?_ ?_)

theorem keep_heldStatus {s0 : State} (s : State) (p : Nat) (h0 : Keep s0 s) : Keep s0 (heldStatus s p) := by
  unfold heldStatus
  repeat' first
      | with_reducible assumption | (with_reducible refine keep_ringStatus _ _ ?_) | intro _
      | (with_reducible refine keep_foldl ?_ _ ?_)

theorem keep_execPortLinkUp {s0 : State} (port : Nat) (s : State) (h1 : Keep s0 s) : KeepOut s0 (execPortLinkUp port
    s) := by
  unfold execPortLinkUp
  repeat' first
      | with_reducible assumption | with_reducible refine keepOut_next ?_
      | (with_reducible refine keep_heldStatus _ _ ?_) | (with_reducible refine keep_updPort _ _ _ ?_)
      | (with_reducible refine keep_ite ?_ ?_) | intro _ | (with_reducible refine keep_foldl ?_ _ ?_)

theorem keep_execChannelRepairMark {s0 : State} (channel : Nat) (cause : RepairCause) (s : State) (h2 : Keep s0 s) :
    KeepOut s0 (execChannelRepairMark channel cause s) := by
  unfold execChannelRepairMark
  repeat' first
      | with_reducible assumption | with_reducible refine keepOut_next ?_
      | (with_reducible refine keep_markRepair _ _ ?_) | (with_reducible refine keep_ite ?_ ?_)

theorem keep_setSpares {s0 : State} (s : State) (k : Nat) (l : List Nat) (h0 : Keep s0 s) : Keep s0 (setSpares s k
    l) := by
  unfold setSpares
  repeat' first | with_reducible assumption | (with_reducible refine keep_mk ?_)

theorem keep_unmark {s0 : State} (s : State) (ch : Nat) (h0 : Keep s0 s) : Keep s0 (unmark s ch) := by
  unfold unmark
  repeat' first | with_reducible assumption | (with_reducible refine keep_mk ?_)

theorem keep_startMigration {s0 : State} (s : State) (ch : Nat) (new : Nat) (h0 : Keep s0 s) : Keep s0
    (startMigration s ch new) := by
  unfold startMigration
  repeat' first
      | with_reducible assumption | (with_reducible refine keep_setSpares _ _ _ ?_)
      | (with_reducible refine keep_unmark _ _ ?_) | (with_reducible refine keep_setChannel _ _ _ ?_)
      | (with_reducible refine keep_raiseMod _ _ _ ?_) | (with_reducible refine keep_mk ?_)

theorem keep_execLiveMigrationStart {s0 : State} (channel : Nat) (s : State) (h1 : Keep s0 s) : KeepOut s0
    (execLiveMigrationStart channel s) := by
  unfold execLiveMigrationStart
  repeat' first
      | with_reducible assumption | with_reducible refine keepOut_next ?_
      | (with_reducible refine keep_startMigration _ _ _ ?_) | split

theorem keep_copyBlock {s0 : State} (s : State) (m : MemIn) (rid : Nat) (blk : Nat) (h0 : Keep s0 s) : Keep s0
    (copyBlock s m rid blk) := by
  unfold copyBlock
  try dsimp only
  repeat' first
      | with_reducible assumption | (with_reducible refine keep_setFlips _ _ _ _ ?_)
      | (with_reducible refine keep_clearFlips _ _ _ ?_) | (with_reducible refine keep_freeUnmasked _ _ ?_)
      | (with_reducible refine keep_judgeBlock _ _ _ _ ?_) | split
      | (with_reducible refine keep_fst (by with_reducible assumption) ?_)

theorem keep_copyChannel {s0 : State} (s : State) (m : MemIn) (ch : Nat) (h0 : Keep s0 s) : Keep s0 (copyChannel s m
    ch) := by
  unfold copyChannel
  repeat' first
      | with_reducible assumption | (with_reducible refine keep_copyBlock _ _ _ _ ?_) | intro _
      | (with_reducible refine keep_foldl ?_ _ ?_)

theorem keep_physFailed {s0 : State} (s : State) (stack : Nat) (phys : Nat) (h0 : Keep s0 s) : Keep s0 (physFailed s
    stack phys) := by
  unfold physFailed
  repeat' first
      | with_reducible assumption | (with_reducible refine keep_queueRecord _ _ ?_)
      | (with_reducible refine keep_mk ?_)

theorem keep_execMigrationSwitch {s0 : State} (channel : Nat) (ending : CopyEnd) (s0_2 : State) (h2 : Keep s0 s0_2)
    : KeepOut s0 (execMigrationSwitch channel ending s0_2) := by
  unfold execMigrationSwitch
  try dsimp only
  repeat' first
      | with_reducible assumption | with_reducible refine keepOut_next ?_
      | (with_reducible refine keep_dramUpsets _ _ ?_) | (with_reducible refine keep_physFailed _ _ _ ?_)
      | (with_reducible refine keep_updChannel _ _ _ ?_) | (with_reducible refine keep_startMigration _ _ _ ?_)
      | (with_reducible refine keep_copyChannel _ _ _ ?_) | (with_reducible refine keep_raiseMod _ _ _ ?_) | split
      | (with_reducible refine keep_mk ?_)

theorem keep_execOfflineRetrainDone {s0 : State} (stack : Nat) (phys : Nat) (passed : Bool) (s : State) (h3 : Keep
    s0 s) : KeepOut s0 (execOfflineRetrainDone stack phys passed s) := by
  unfold execOfflineRetrainDone
  repeat' first
      | with_reducible assumption | with_reducible refine keepOut_next ?_
      | (with_reducible refine keep_setSpares _ _ _ ?_) | (with_reducible refine keep_physFailed _ _ _ ?_)
      | (with_reducible refine keep_ite ?_ ?_) | (with_reducible refine keepOut_ite ?_ ?_)
      | (with_reducible refine keep_mk ?_)

theorem keep_loseChannel {s0 : State} (s : State) (ch : Nat) (h0 : Keep s0 s) : Keep s0 (loseChannel s ch) := by
  exact keep_dram h0 (fun w => wf_filter _ w) (fun w => wf_filter _ w)

theorem keep_execInPlaceRetrain {s0 : State} (channel : Nat) (passed : Bool) (s : State) (h2 : Keep s0 s) : KeepOut
    s0 (execInPlaceRetrain channel passed s) := by
  unfold execInPlaceRetrain
  repeat' first
      | with_reducible assumption | with_reducible refine keepOut_next ?_
      | (with_reducible refine keep_raiseMod _ _ _ ?_) | (with_reducible refine keep_unmark _ _ ?_)
      | (with_reducible refine keep_setChannel _ _ _ ?_) | (with_reducible refine keep_loseChannel _ _ ?_)
      | (with_reducible refine keep_queueRecord _ _ ?_) | (with_reducible refine keep_ite ?_ ?_)
      | (with_reducible refine keepOut_ite ?_ ?_) | (with_reducible refine keep_mk ?_)

theorem keep_execPatrolScrub {s0 : State} (rid : Nat) (granule : Nat) (block : Nat) (mem : MemIn) (s0_4 : State) (h4
    : Keep s0 s0_4) : KeepOut s0 (execPatrolScrub rid granule block mem s0_4) := by
  unfold execPatrolScrub
  repeat' first
      | with_reducible assumption | with_reducible refine keepOut_next ?_
      | (with_reducible refine keep_dramUpsets _ _ ?_) | (with_reducible refine keep_readBlock _ _ _ _ ?_)
      | (with_reducible refine keep_ite ?_ ?_)

theorem keep_execWcEntryFlush {s0 : State} (channel : Nat) (index : Nat) (mem : MemIn) (s : State) (h3 : Keep s0 s)
    : KeepOut s0 (execWcEntryFlush channel index mem s) := by
  unfold execWcEntryFlush
  repeat' first
      | with_reducible assumption | with_reducible refine keepOut_next ?_
      | (with_reducible refine keep_wcFlushAt _ _ _ _ ?_) | (with_reducible refine keep_dramUpsets _ _ ?_)

theorem keep_execRepairRecordWrite {s0 : State} (s : State) (h0 : Keep s0 s) : KeepOut s0 (execRepairRecordWrite s)
    := by
  unfold execRepairRecordWrite
  try dsimp only
  repeat' first
      | with_reducible assumption | with_reducible refine keepOut_next ?_
      | (with_reducible refine keep_storeRecord _ _ ?_) | (with_reducible refine keep_ite ?_ ?_)
      | (with_reducible refine keepOut_ite ?_ ?_) | (with_reducible refine keep_ite_fst ?_ ?_) | intro _ | split
      | (with_reducible refine keep_foldl ?_ _ ?_) | (with_reducible refine keep_forN ?_ _ ?_)
      | (with_reducible refine keep_foldl_fst ?_ _ ?_) | (with_reducible refine keep_mk ?_)

end Sys2Proof.Machine
end

