-- ==== Sys2Proof/Laws/KeepHost.lean ====
section
/-! SUPPORT. What `Keep` says of management, the host interface and the registers: one lemma for each definition. -/

namespace Sys2Proof.Machine

open Sys2Proof

set_option Elab.async false

theorem keep_serve {s0 : State} (ep : Nat) (op : Nat) (tag : BitVec 16) (reply : Bool) (whole : Bool) (refused :
    Option Reply) (act : State → State × Reply) (s : State) (h6 : ∀ t, Keep s0 t → Keep s0 (act t).1) (h7 : Keep s0 s) :
    Keep s0 (serve ep op tag reply whole refused act s) := by
  unfold serve
  repeat' first
      | with_reducible assumption | (with_reducible refine keep_respond _ _ _ ?_) | split
      | (with_reducible refine h6 _ ?_)

theorem keep_holdReq {s0 : State} (s : State) (i : Instr) (h0 : Keep s0 s) : Keep s0 (holdReq s i) := by
  unfold holdReq
  repeat' first | with_reducible assumption | (with_reducible refine keep_mk ?_)

theorem keep_mailRow {s0 : State} (i : Instr) (ep : Nat) (cold : Bool) (svc : State → State) (s : State) (h3 : ∀ t,
    Keep s0 t → Keep s0 (svc t)) (h4 : Keep s0 s) : Keep s0 (mailRow i ep cold svc s) := by
  unfold mailRow
  repeat' first
      | with_reducible assumption | (with_reducible refine keep_sendOut _ _ _ ?_)
      | (with_reducible refine keep_holdReq _ _ ?_) | (with_reducible refine keep_updFn _ _ _ ?_)
      | (with_reducible refine keep_ite ?_ ?_) | (with_reducible refine h3 _ ?_)

theorem keep_mailGetInfo {s0 : State} (ep : Nat) (tag : BitVec 16) (reply : Bool) (s : State) (h3 : Keep s0 s) :
    Keep s0 (mailGetInfo ep tag reply s) := by
  unfold mailGetInfo
  repeat' first | with_reducible assumption | (with_reducible refine keep_serve _ _ _ _ _ _ _ _ ?_ ?_) | intro _

theorem keep_execGetInfo {s0 : State} (ep : Nat) (tag : BitVec 16) (s : State) (h2 : Keep s0 s) : KeepOut s0
    (execGetInfo ep tag s) := by
  unfold execGetInfo
  repeat' first
      | with_reducible assumption | with_reducible refine keepOut_next ?_
      | (with_reducible refine keep_mailRow _ _ _ _ _ ?_ ?_) | (with_reducible refine keep_mailGetInfo _ _ _ _ ?_)
      | intro _

theorem keep_readSensor {s0 : State} (s : State) (n : Nat) (h0 : Keep s0 s) : Keep s0 (readSensor s n).1 := by
  unfold readSensor
  repeat' first | with_reducible assumption | (with_reducible refine keep_drawFree _ _ ?_) | split

theorem keep_readSensors {s0 : State} : ∀ (k n : Nat) (s : State), Keep s0 s → Keep s0 (readSensors k n s).1
  | 0, _, _, h => h
  | k + 1, n, s, h => by
    simp only [readSensors]
    exact keep_readSensors k _ _ (keep_readSensor s n h)

theorem keep_mailSensorRead {s0 : State} (ep : Nat) (tag : BitVec 16) (first : BitVec 16) (count : Byte) (reply :
    Bool) (s : State) (h5 : Keep s0 s) : Keep s0 (mailSensorRead ep tag first count reply s) := by
  unfold mailSensorRead
  repeat' first
      | with_reducible assumption | (with_reducible refine keep_serve _ _ _ _ _ _ _ _ ?_ ?_)
      | (with_reducible apply keep_readSensors)

theorem keep_execSensorRead {s0 : State} (ep : Nat) (tag : BitVec 16) (first : BitVec 16) (count : Byte) (s : State)
    (h4 : Keep s0 s) : KeepOut s0 (execSensorRead ep tag first count s) := by
  unfold execSensorRead
  repeat' first
      | with_reducible assumption | with_reducible refine keepOut_next ?_
      | (with_reducible refine keep_mailRow _ _ _ _ _ ?_ ?_)
      | (with_reducible refine keep_mailSensorRead _ _ _ _ _ _ ?_) | intro _

theorem keep_logReadAct {s0 : State} (ep : Nat) (seq : Nat) (n : Nat) (addr : Nat) (host : HostIn) (s0_5 : State)
    (h5 : Keep s0 s0_5) : Keep s0 (logReadAct ep seq n addr host s0_5).1 := by
  unfold logReadAct
  try dsimp only
  repeat' first
      | with_reducible assumption | (with_reducible refine keep_hostStores _ _ ?_)
      | (with_reducible refine keep_hostWrite _ _ _ _ ?_) | split

theorem keep_mailLogRead {s0 : State} (ep : Nat) (tag : BitVec 16) (seq : Word32) (count : BitVec 16) (addr : BitVec
    64) (host : HostIn) (reply : Bool) (s : State) (h7 : Keep s0 s) : Keep s0 (mailLogRead ep tag seq count addr host
    reply s) := by
  unfold mailLogRead
  repeat' first
      | with_reducible assumption | (with_reducible refine keep_serve _ _ _ _ _ _ _ _ ?_ ?_)
      | (with_reducible refine keep_logReadAct _ _ _ _ _ _ ?_) | intro _

theorem keep_execLogRead {s0 : State} (ep : Nat) (tag : BitVec 16) (seq : Word32) (count : BitVec 16) (addr : BitVec
    64) (host : HostIn) (s : State) (h6 : Keep s0 s) : KeepOut s0 (execLogRead ep tag seq count addr host s) := by
  unfold execLogRead
  repeat' first
      | with_reducible assumption | with_reducible refine keepOut_next ?_
      | (with_reducible refine keep_mailRow _ _ _ _ _ ?_ ?_)
      | (with_reducible refine keep_mailLogRead _ _ _ _ _ _ _ _ ?_) | intro _

theorem keep_setCapAct {s0 : State} (cap : Nat) (s : State) (h1 : Keep s0 s) : Keep s0 (setCapAct cap s).1 := by
  unfold setCapAct
  repeat' first | with_reducible assumption | (with_reducible refine keep_mk ?_)

theorem keep_mailSetMgmtCap {s0 : State} (ep : Nat) (tag : BitVec 16) (cap : BitVec 16) (reply : Bool) (s : State)
    (h4 : Keep s0 s) : Keep s0 (mailSetMgmtCap ep tag cap reply s) := by
  unfold mailSetMgmtCap
  repeat' first
      | with_reducible assumption | (with_reducible refine keep_serve _ _ _ _ _ _ _ _ ?_ ?_)
      | (with_reducible refine keep_setCapAct _ _ ?_) | intro _

theorem keep_execSetMgmtCap {s0 : State} (ep : Nat) (tag : BitVec 16) (cap : BitVec 16) (s : State) (h3 : Keep s0 s)
    : KeepOut s0 (execSetMgmtCap ep tag cap s) := by
  unfold execSetMgmtCap
  repeat' first
      | with_reducible assumption | with_reducible refine keepOut_next ?_
      | (with_reducible refine keep_mailRow _ _ _ _ _ ?_ ?_)
      | (with_reducible refine keep_mailSetMgmtCap _ _ _ _ _ ?_) | intro _

theorem keep_resetAct {s0 : State} (domain : Nat) (s : State) (h1 : Keep s0 s) : Keep s0 (resetAct domain s).1 := by
  unfold resetAct
  repeat' first | with_reducible assumption | split | (with_reducible refine keep_mk ?_)

theorem keep_mailReset {s0 : State} (ep : Nat) (tag : BitVec 16) (domain : Byte) (reply : Bool) (s : State) (h4 :
    Keep s0 s) : Keep s0 (mailReset ep tag domain reply s) := by
  unfold mailReset
  repeat' first
      | with_reducible assumption | (with_reducible refine keep_serve _ _ _ _ _ _ _ _ ?_ ?_)
      | (with_reducible refine keep_resetAct _ _ ?_) | intro _

theorem keep_execReset {s0 : State} (ep : Nat) (tag : BitVec 16) (domain : Byte) (s : State) (h3 : Keep s0 s) :
    KeepOut s0 (execReset ep tag domain s) := by
  unfold execReset
  repeat' first
      | with_reducible assumption | with_reducible refine keepOut_next ?_
      | (with_reducible refine keep_mailRow _ _ _ _ _ ?_ ?_) | (with_reducible refine keep_mailReset _ _ _ _ _ ?_)
      | intro _

theorem keep_partResetAct {s0 : State} (ep : Nat) (p : Nat) (s : State) (h2 : Keep s0 s) : Keep s0 (partResetAct ep
    p s).1 := by
  unfold partResetAct
  repeat' first | with_reducible assumption | (with_reducible refine keep_partReset _ _ _ ?_) | split

theorem keep_mailPartReset {s0 : State} (ep : Nat) (tag : BitVec 16) (part : Byte) (reply : Bool) (s : State) (h4 :
    Keep s0 s) : Keep s0 (mailPartReset ep tag part reply s) := by
  unfold mailPartReset
  repeat' first
      | with_reducible assumption | (with_reducible refine keep_serve _ _ _ _ _ _ _ _ ?_ ?_)
      | (with_reducible refine keep_partResetAct _ _ _ ?_) | intro _

theorem keep_execPartReset {s0 : State} (ep : Nat) (tag : BitVec 16) (part : Byte) (s : State) (h3 : Keep s0 s) :
    KeepOut s0 (execPartReset ep tag part s) := by
  unfold execPartReset
  repeat' first
      | with_reducible assumption | with_reducible refine keepOut_next ?_
      | (with_reducible refine keep_mailRow _ _ _ _ _ ?_ ?_)
      | (with_reducible refine keep_mailPartReset _ _ _ _ _ ?_) | intro _

theorem keep_recordNow {s0 : State} (s : State) (r : RepairRec) (h0 : Keep s0 s) : Keep s0 (recordNow s r) := by
  unfold recordNow
  try dsimp only
  repeat' first
      | with_reducible assumption | (with_reducible refine keep_storeRecord _ _ ?_)
      | (with_reducible refine keep_ite ?_ ?_) | (with_reducible refine keep_ite_fst ?_ ?_) | intro _ | split
      | (with_reducible refine keep_foldl ?_ _ ?_) | (with_reducible refine keep_forN ?_ _ ?_)
      | (with_reducible refine keep_foldl_fst ?_ _ ?_) | (with_reducible refine keep_mk ?_)

theorem keep_coreReconfigAct {s0 : State} (s : State) (h0 : Keep s0 s) : Keep s0 (coreReconfigAct s).1 := by
  unfold coreReconfigAct
  try dsimp only
  repeat' first
      | with_reducible assumption | (with_reducible refine keep_recordNow _ _ ?_)
      | (with_reducible refine keep_applyCodes _ ?_) | (with_reducible refine keep_mapEvents _ _ _ ?_)
      | (with_reducible refine keep_ite ?_ ?_) | (with_reducible refine keep_ite_fst ?_ ?_) | intro _ | split
      | (with_reducible refine keep_foldl ?_ _ ?_) | (with_reducible refine keep_forN ?_ _ ?_)
      | (with_reducible refine keep_foldl_fst ?_ _ ?_) | (with_reducible refine keep_mk ?_)

theorem keep_mailCoreReconfig {s0 : State} (ep : Nat) (tag : BitVec 16) (reply : Bool) (s : State) (h3 : Keep s0 s)
    : Keep s0 (mailCoreReconfig ep tag reply s) := by
  unfold mailCoreReconfig
  repeat' first
      | with_reducible assumption | (with_reducible refine keep_serve _ _ _ _ _ _ _ _ ?_ ?_)
      | (with_reducible refine keep_coreReconfigAct _ ?_) | intro _

theorem keep_execCoreReconfig {s0 : State} (ep : Nat) (tag : BitVec 16) (s : State) (h2 : Keep s0 s) : KeepOut s0
    (execCoreReconfig ep tag s) := by
  unfold execCoreReconfig
  repeat' first
      | with_reducible assumption | with_reducible refine keepOut_next ?_
      | (with_reducible refine keep_mailRow _ _ _ _ _ ?_ ?_)
      | (with_reducible refine keep_mailCoreReconfig _ _ _ _ ?_) | intro _

theorem keep_mailPoison {s0 : State} (s : State) (host : HostIn) (ep : Nat) (addr : Nat) (n : Nat) (h0 : Keep s0 s)
    : Keep s0 (mailPoison s host ep addr n) := by
  unfold mailPoison
  try dsimp only
  repeat' first
      | with_reducible assumption | (with_reducible refine keep_notePoison _ _ _ ?_)
      | (with_reducible refine keep_ite ?_ ?_) | (with_reducible refine keep_ite_fst ?_ ?_) | intro _ | split
      | (with_reducible refine keep_foldl ?_ _ ?_) | (with_reducible refine keep_forN ?_ _ ?_)
      | (with_reducible refine keep_foldl_fst ?_ _ ?_) | (with_reducible refine keep_mk ?_)

theorem keep_bootPlanAct {s0 : State} (ep : Nat) (addr : Nat) (len : Nat) (wait : Nat) (host : HostIn) (s0_5 :
    State) (h5 : Keep s0 s0_5) : Keep s0 (bootPlanAct ep addr len wait host s0_5).1 := by
  unfold bootPlanAct
  try dsimp only
  repeat' first
      | with_reducible assumption | (with_reducible refine keep_mailPoison _ _ _ _ _ ?_)
      | (with_reducible refine keep_hostStores _ _ ?_) | (with_reducible refine keep_recordNow _ _ ?_)
      | (with_reducible refine keep_ite ?_ ?_) | (with_reducible refine keep_ite_fst ?_ ?_) | intro _ | split
      | (with_reducible refine keep_foldl ?_ _ ?_) | (with_reducible refine keep_forN ?_ _ ?_)
      | (with_reducible refine keep_foldl_fst ?_ _ ?_) | (with_reducible refine keep_mk ?_)

theorem keep_mailBootPlanSet {s0 : State} (ep : Nat) (tag : BitVec 16) (addr : BitVec 64) (len : Word32) (wait :
    BitVec 16) (host : HostIn) (reply : Bool) (s : State) (h7 : Keep s0 s) : Keep s0 (mailBootPlanSet ep tag addr len
    wait host reply s) := by
  unfold mailBootPlanSet
  try dsimp only
  repeat' first
      | with_reducible assumption | (with_reducible refine keep_serve _ _ _ _ _ _ _ _ ?_ ?_)
      | (with_reducible refine keep_bootPlanAct _ _ _ _ _ _ ?_) | intro _

theorem keep_execBootPlanSet {s0 : State} (ep : Nat) (tag : BitVec 16) (addr : BitVec 64) (len : Word32) (wait :
    BitVec 16) (host : HostIn) (s : State) (h6 : Keep s0 s) : KeepOut s0 (execBootPlanSet ep tag addr len wait host s)
    := by
  unfold execBootPlanSet
  repeat' first
      | with_reducible assumption | with_reducible refine keepOut_next ?_
      | (with_reducible refine keep_mailRow _ _ _ _ _ ?_ ?_)
      | (with_reducible refine keep_mailBootPlanSet _ _ _ _ _ _ _ _ ?_) | intro _

theorem keep_alertAct {s0 : State} (mask : BitVec 16) (s : State) (h1 : Keep s0 s) : Keep s0 (alertAct mask s).1 := by
  unfold alertAct
  try dsimp only
  repeat' first
      | with_reducible assumption | (with_reducible refine keep_recordNow _ _ ?_)
      | (with_reducible refine keep_ite ?_ ?_) | (with_reducible refine keep_ite_fst ?_ ?_) | intro _ | split
      | (with_reducible refine keep_foldl ?_ _ ?_) | (with_reducible refine keep_forN ?_ _ ?_)
      | (with_reducible refine keep_foldl_fst ?_ _ ?_) | (with_reducible refine keep_mk ?_)

theorem keep_mailAlertMask {s0 : State} (ep : Nat) (tag : BitVec 16) (mask : BitVec 16) (reply : Bool) (s : State)
    (h4 : Keep s0 s) : Keep s0 (mailAlertMask ep tag mask reply s) := by
  unfold mailAlertMask
  repeat' first
      | with_reducible assumption | (with_reducible refine keep_serve _ _ _ _ _ _ _ _ ?_ ?_)
      | (with_reducible refine keep_alertAct _ _ ?_) | intro _

theorem keep_execAlertMask {s0 : State} (ep : Nat) (tag : BitVec 16) (mask : BitVec 16) (s : State) (h3 : Keep s0 s)
    : KeepOut s0 (execAlertMask ep tag mask s) := by
  unfold execAlertMask
  repeat' first
      | with_reducible assumption | with_reducible refine keepOut_next ?_
      | (with_reducible refine keep_mailRow _ _ _ _ _ ?_ ?_)
      | (with_reducible refine keep_mailAlertMask _ _ _ _ _ ?_) | intro _

theorem keep_mailMviewRead {s0 : State} (ep : Nat) (tag : BitVec 16) (reply : Bool) (s : State) (h3 : Keep s0 s) :
    Keep s0 (mailMviewRead ep tag reply s) := by
  unfold mailMviewRead
  repeat' first | with_reducible assumption | (with_reducible refine keep_serve _ _ _ _ _ _ _ _ ?_ ?_) | intro _

theorem keep_execMviewRead {s0 : State} (ep : Nat) (tag : BitVec 16) (s : State) (h2 : Keep s0 s) : KeepOut s0
    (execMviewRead ep tag s) := by
  unfold execMviewRead
  repeat' first
      | with_reducible assumption | with_reducible refine keepOut_next ?_
      | (with_reducible refine keep_mailRow _ _ _ _ _ ?_ ?_) | (with_reducible refine keep_mailMviewRead _ _ _ _ ?_)
      | intro _

theorem keep_mviewClearAct {s0 : State} (block : Nat) (leaves : Word32) (s : State) (h2 : Keep s0 s) : Keep s0
    (mviewClearAct block leaves s).1 := by
  unfold mviewClearAct
  repeat' first | with_reducible assumption | (with_reducible refine keep_mk ?_)

theorem keep_mailMviewClear {s0 : State} (ep : Nat) (tag : BitVec 16) (block : Byte) (leaves : Word32) (reply :
    Bool) (s : State) (h5 : Keep s0 s) : Keep s0 (mailMviewClear ep tag block leaves reply s) := by
  unfold mailMviewClear
  repeat' first
      | with_reducible assumption | (with_reducible refine keep_serve _ _ _ _ _ _ _ _ ?_ ?_)
      | (with_reducible refine keep_mviewClearAct _ _ _ ?_) | intro _

theorem keep_execMviewClear {s0 : State} (ep : Nat) (tag : BitVec 16) (block : Byte) (leaves : Word32) (s : State)
    (h4 : Keep s0 s) : KeepOut s0 (execMviewClear ep tag block leaves s) := by
  unfold execMviewClear
  repeat' first
      | with_reducible assumption | with_reducible refine keepOut_next ?_
      | (with_reducible refine keep_mailRow _ _ _ _ _ ?_ ?_)
      | (with_reducible refine keep_mailMviewClear _ _ _ _ _ _ ?_) | intro _

theorem keep_mailUnlisted {s0 : State} (ep : Nat) (req : Bytes) (reply : Bool) (s : State) (h3 : Keep s0 s) : Keep
    s0 (mailUnlisted ep req reply s) := by
  unfold mailUnlisted
  repeat' first | with_reducible assumption | (with_reducible refine keep_respond _ _ _ ?_) | split

theorem keep_execUnlistedMailboxOp {s0 : State} (ep : Nat) (req : Bytes) (s : State) (h2 : Keep s0 s) : KeepOut s0
    (execUnlistedMailboxOp ep req s) := by
  unfold execUnlistedMailboxOp
  repeat' first
      | with_reducible assumption | with_reducible refine keepOut_next ?_
      | (with_reducible refine keep_mailRow _ _ _ _ _ ?_ ?_) | (with_reducible refine keep_mailUnlisted _ _ _ _ ?_)
      | intro _

theorem keep_logStep {s0 : State} (s : State) (step : Nat) (target : Nat) (st : Nat) (bver : BitVec 64) (h0 : Keep
    s0 s) : Keep s0 (logStep s step target st bver) := by
  unfold logStep
  repeat' first | with_reducible assumption | (with_reducible refine keep_addLog _ _ _ _ _ _ ?_)

theorem keep_setLast {s0 : State} (s : State) (st : Nat) (xs : Nat) (h0 : Keep s0 s) : Keep s0 (setLast s st xs) := by
  unfold setLast
  repeat' first | with_reducible assumption | (with_reducible refine keep_mk ?_)

theorem keep_startUpdate {s0 : State} (s : State) (m : Bytes) (signatureOk : Bool) (activate : Bool) (len : Nat)
    (source : UpdateSource) (h0 : Keep s0 s) : Keep s0 (startUpdate s m signatureOk activate len source).1 := by
  unfold startUpdate
  repeat' first
      | with_reducible assumption | (with_reducible refine keep_setLast _ _ _ ?_)
      | (with_reducible refine keep_logStep _ _ _ _ _ ?_) | split | (with_reducible refine keep_mk ?_)

theorem keep_fwUpdateAct {s0 : State} (ep : Nat) (addr : Nat) (len : Nat) (activate : Bool) (signatureOk : Bool)
    (host : HostIn) (s0_6 : State) (h6 : Keep s0 s0_6) : Keep s0 (fwUpdateAct ep addr len activate signatureOk host
    s0_6).1 := by
  unfold fwUpdateAct
  try dsimp only
  repeat' first
      | with_reducible assumption | (with_reducible refine keep_mailPoison _ _ _ _ _ ?_)
      | (with_reducible refine keep_hostStores _ _ ?_) | (with_reducible refine keep_startUpdate _ _ _ _ _ _ ?_)
      | (with_reducible refine keep_ite ?_ ?_) | (with_reducible refine keep_ite_fst ?_ ?_) | intro _ | split
      | (with_reducible refine keep_foldl ?_ _ ?_) | (with_reducible refine keep_forN ?_ _ ?_)
      | (with_reducible refine keep_foldl_fst ?_ _ ?_)
      | (with_reducible refine keep_fst (by with_reducible assumption) ?_) | (with_reducible refine keep_mk ?_)

theorem keep_mailFwUpdate {s0 : State} (ep : Nat) (tag : BitVec 16) (addr : BitVec 64) (len : Word32) (flags : Byte)
    (signatureOk : Bool) (host : HostIn) (reply : Bool) (s : State) (h8 : Keep s0 s) : Keep s0 (mailFwUpdate ep tag addr
    len flags signatureOk host reply s) := by
  unfold mailFwUpdate
  repeat' first
      | with_reducible assumption | (with_reducible refine keep_serve _ _ _ _ _ _ _ _ ?_ ?_)
      | (with_reducible refine keep_fwUpdateAct _ _ _ _ _ _ _ ?_) | intro _

theorem keep_execFwUpdate {s0 : State} (ep : Nat) (tag : BitVec 16) (addr : BitVec 64) (len : Word32) (flags : Byte)
    (signatureOk : Bool) (host : HostIn) (s : State) (h7 : Keep s0 s) : KeepOut s0 (execFwUpdate ep tag addr len flags
    signatureOk host s) := by
  unfold execFwUpdate
  repeat' first
      | with_reducible assumption | with_reducible refine keepOut_next ?_
      | (with_reducible refine keep_mailRow _ _ _ _ _ ?_ ?_)
      | (with_reducible refine keep_mailFwUpdate _ _ _ _ _ _ _ _ _ ?_) | intro _

theorem keep_pldmSend {s0 : State} (s : State) (u : Update) (command : Byte) (data : Bytes) (h0 : Keep s0 s) : Keep
    s0 (pldmSend s u command data) := by
  unfold pldmSend
  try dsimp only
  repeat' first
      | with_reducible assumption | (with_reducible refine keep_sendOut _ _ _ ?_)
      | (with_reducible refine keep_ite ?_ ?_) | (with_reducible refine keep_ite_fst ?_ ?_) | intro _ | split
      | (with_reducible refine keep_foldl ?_ _ ?_) | (with_reducible refine keep_forN ?_ _ ?_)
      | (with_reducible refine keep_foldl_fst ?_ _ ?_) | (with_reducible refine keep_mk ?_)

theorem keep_endUpdate {s0 : State} (s : State) (u : Update) (st : Nat) (xs : Nat) (h0 : Keep s0 s) : Keep s0
    (endUpdate s u st xs) := by
  unfold endUpdate
  repeat' first
      | with_reducible assumption | (with_reducible refine keep_setLast _ _ _ ?_)
      | (with_reducible refine keep_postNotice _ _ _ _ ?_) | split | (with_reducible refine keep_mk ?_)

theorem keep_updateFailed {s0 : State} (s : State) (u : Update) (h0 : Keep s0 s) : Keep s0 (updateFailed s u) := by
  unfold updateFailed
  try dsimp only
  repeat' first
      | with_reducible assumption | (with_reducible refine keep_setSlot _ _ _ ?_)
      | (with_reducible refine keep_logStep _ _ _ _ _ ?_) | (with_reducible refine keep_endUpdate _ _ _ _ ?_)
      | (with_reducible refine keep_pldmSend _ _ _ _ ?_) | (with_reducible refine keep_ite ?_ ?_)
      | (with_reducible refine keep_ite_fst ?_ ?_) | intro _ | split | (with_reducible refine keep_foldl ?_ _ ?_)
      | (with_reducible refine keep_forN ?_ _ ?_) | (with_reducible refine keep_foldl_fst ?_ _ ?_)
      | (with_reducible refine keep_mk ?_)

theorem keep_stepPassed {s0 : State} (s : State) (u : Update) (h0 : Keep s0 s) : Keep s0 (stepPassed s u) := by
  unfold stepPassed
  try dsimp only
  repeat' first
      | with_reducible assumption | (with_reducible refine keep_logStep _ _ _ _ _ ?_)
      | (with_reducible refine keep_ite ?_ ?_) | (with_reducible refine keep_ite_fst ?_ ?_) | intro _ | split
      | (with_reducible refine keep_foldl ?_ _ ?_) | (with_reducible refine keep_forN ?_ _ ?_)
      | (with_reducible refine keep_foldl_fst ?_ _ ?_) | (with_reducible refine keep_mk ?_)

theorem keep_updateStep {s0 : State} (s : State) (u : Update) (e : StepEnd) (h0 : Keep s0 s) : Keep s0 (updateStep s
    u e) := by
  unfold updateStep
  try dsimp only
  repeat' first
      | with_reducible assumption | (with_reducible refine keep_stepPassed _ _ ?_)
      | (with_reducible refine keep_setSlot _ _ _ ?_) | (with_reducible refine keep_pldmSend _ _ _ _ ?_)
      | (with_reducible refine keep_updateFailed _ _ ?_) | (with_reducible refine keep_logStep _ _ _ _ _ ?_)
      | (with_reducible refine keep_endUpdate _ _ _ _ ?_) | (with_reducible refine keep_ite ?_ ?_)
      | (with_reducible refine keep_ite_fst ?_ ?_) | intro _ | split | (with_reducible refine keep_foldl ?_ _ ?_)
      | (with_reducible refine keep_forN ?_ _ ?_) | (with_reducible refine keep_foldl_fst ?_ _ ?_)
      | (with_reducible refine keep_mk ?_)

theorem keep_stepHost {s0 : State} (s : State) (u : Update) (e : StepEnd) (h0 : Keep s0 s) : Keep s0 (stepHost s u
    e) := by
  unfold stepHost
  try dsimp only
  repeat' first
      | with_reducible assumption | (with_reducible refine keep_mailPoison _ _ _ _ _ ?_)
      | (with_reducible refine keep_hostStores _ _ ?_) | (with_reducible refine keep_ite ?_ ?_)
      | (with_reducible refine keep_ite_fst ?_ ?_) | intro _ | split | (with_reducible refine keep_foldl ?_ _ ?_)
      | (with_reducible refine keep_forN ?_ _ ?_) | (with_reducible refine keep_foldl_fst ?_ _ ?_)
      | (with_reducible refine keep_mk ?_)

theorem keep_execFwUpdateStepDone {s0 : State} (ending : StepEnd) (s : State) (h1 : Keep s0 s) : KeepOut s0
    (execFwUpdateStepDone ending s) := by
  unfold execFwUpdateStepDone
  try dsimp only
  repeat' first
      | with_reducible assumption | with_reducible refine keepOut_next ?_
      | (with_reducible refine keep_updateFailed _ _ ?_) | (with_reducible refine keep_updateStep _ _ _ ?_)
      | (with_reducible refine keep_stepHost _ _ _ ?_) | (with_reducible refine keep_ite ?_ ?_)
      | (with_reducible refine keepOut_ite ?_ ?_) | (with_reducible refine keep_ite_fst ?_ ?_) | intro _ | split
      | (with_reducible refine keep_foldl ?_ _ ?_) | (with_reducible refine keep_forN ?_ _ ?_)
      | (with_reducible refine keep_foldl_fst ?_ _ ?_) | (with_reducible refine keep_mk ?_)

theorem keep_mailFwStatus {s0 : State} (ep : Nat) (tag : BitVec 16) (reply : Bool) (s : State) (h3 : Keep s0 s) :
    Keep s0 (mailFwStatus ep tag reply s) := by
  unfold mailFwStatus
  repeat' first | with_reducible assumption | (with_reducible refine keep_serve _ _ _ _ _ _ _ _ ?_ ?_) | intro _

theorem keep_execFwStatus {s0 : State} (ep : Nat) (tag : BitVec 16) (s : State) (h2 : Keep s0 s) : KeepOut s0
    (execFwStatus ep tag s) := by
  unfold execFwStatus
  repeat' first
      | with_reducible assumption | with_reducible refine keepOut_next ?_
      | (with_reducible refine keep_mailRow _ _ _ _ _ ?_ ?_) | (with_reducible refine keep_mailFwStatus _ _ _ _ ?_)
      | intro _

theorem keep_activateAct {s0 : State} (slot : Nat) (s : State) (h1 : Keep s0 s) : Keep s0 (activateAct slot s).1 := by
  unfold activateAct
  repeat' first | with_reducible assumption | split | (with_reducible refine keep_mk ?_)

theorem keep_mailFwActivate {s0 : State} (ep : Nat) (tag : BitVec 16) (slot : Byte) (reply : Bool) (s : State) (h4 :
    Keep s0 s) : Keep s0 (mailFwActivate ep tag slot reply s) := by
  unfold mailFwActivate
  repeat' first
      | with_reducible assumption | (with_reducible refine keep_serve _ _ _ _ _ _ _ _ ?_ ?_)
      | (with_reducible refine keep_activateAct _ _ ?_) | intro _

theorem keep_execFwActivate {s0 : State} (ep : Nat) (tag : BitVec 16) (slot : Byte) (s : State) (h3 : Keep s0 s) :
    KeepOut s0 (execFwActivate ep tag slot s) := by
  unfold execFwActivate
  repeat' first
      | with_reducible assumption | with_reducible refine keepOut_next ?_
      | (with_reducible refine keep_mailRow _ _ _ _ _ ?_ ?_)
      | (with_reducible refine keep_mailFwActivate _ _ _ _ _ ?_) | intro _

theorem keep_svnAct {s0 : State} (s : State) (h0 : Keep s0 s) : Keep s0 (svnAct s).1 := by
  unfold svnAct
  split
  · exact h0
  · refine keep_ite_fst h0 ?_
    exact keep_trans h0 ⟨rfl, rfl, Nat.le_max_left _ _, Nat.le_refl _, Nat.le_refl _, .inl rfl, id, id, id, id⟩

theorem keep_mailSvnCommit {s0 : State} (ep : Nat) (tag : BitVec 16) (reply : Bool) (s : State) (h3 : Keep s0 s) :
    Keep s0 (mailSvnCommit ep tag reply s) := by
  unfold mailSvnCommit
  repeat' first
      | with_reducible assumption | (with_reducible refine keep_serve _ _ _ _ _ _ _ _ ?_ ?_)
      | (with_reducible refine keep_svnAct _ ?_) | intro _

theorem keep_execSvnCommit {s0 : State} (ep : Nat) (tag : BitVec 16) (s : State) (h2 : Keep s0 s) : KeepOut s0
    (execSvnCommit ep tag s) := by
  unfold execSvnCommit
  repeat' first
      | with_reducible assumption | with_reducible refine keepOut_next ?_
      | (with_reducible refine keep_mailRow _ _ _ _ _ ?_ ?_) | (with_reducible refine keep_mailSvnCommit _ _ _ _ ?_)
      | intro _

theorem keep_doeRow {s0 : State} (i : Instr) (port : Nat) (object : Bytes) (svc : State → State) (s : State) (h3 : ∀
    t, Keep s0 t → Keep s0 (svc t)) (h4 : Keep s0 s) : Keep s0 (doeRow i port object svc s) := by
  unfold doeRow
  try dsimp only
  repeat' first
      | with_reducible assumption | (with_reducible refine keep_holdReq _ _ ?_)
      | (with_reducible refine keep_ite ?_ ?_) | (with_reducible refine keep_ite_fst ?_ ?_) | intro _ | split
      | (with_reducible refine keep_foldl ?_ _ ?_) | (with_reducible refine keep_forN ?_ _ ?_)
      | (with_reducible refine keep_foldl_fst ?_ _ ?_) | (with_reducible refine h3 _ ?_)
      | (with_reducible refine keep_mk ?_)

theorem keep_doeAnswer {s0 : State} (s : State) (port : Nat) (payload : Bytes) (h0 : Keep s0 s) : Keep s0 (doeAnswer
    s port payload) := by
  unfold doeAnswer
  repeat' first | with_reducible assumption | (with_reducible refine keep_sendOut _ _ _ ?_)

theorem keep_serveCerts {s0 : State} (port : Nat) (object : Bytes) (s : State) (h2 : Keep s0 s) : Keep s0
    (serveCerts port object s) := by
  unfold serveCerts
  try dsimp only
  repeat' first
      | with_reducible assumption | (with_reducible refine keep_doeAnswer _ _ _ ?_)
      | (with_reducible refine keep_ite ?_ ?_) | (with_reducible refine keep_ite_fst ?_ ?_) | intro _ | split
      | (with_reducible refine keep_foldl ?_ _ ?_) | (with_reducible refine keep_forN ?_ _ ?_)
      | (with_reducible refine keep_foldl_fst ?_ _ ?_) | (with_reducible refine keep_mk ?_)

theorem keep_execGetCerts {s0 : State} (port : Nat) (object : Bytes) (s : State) (h2 : Keep s0 s) : KeepOut s0
    (execGetCerts port object s) := by
  unfold execGetCerts
  try dsimp only
  repeat' first
      | with_reducible assumption | with_reducible refine keepOut_next ?_
      | (with_reducible refine keep_doeRow _ _ _ _ _ ?_ ?_) | (with_reducible refine keep_serveCerts _ _ _ ?_)
      | (with_reducible refine keep_ite ?_ ?_) | (with_reducible refine keepOut_ite ?_ ?_)
      | (with_reducible refine keep_ite_fst ?_ ?_) | intro _ | split | (with_reducible refine keep_foldl ?_ _ ?_)
      | (with_reducible refine keep_forN ?_ _ ?_) | (with_reducible refine keep_foldl_fst ?_ _ ?_)
      | (with_reducible refine keep_mk ?_)

theorem keep_serveMeasure {s0 : State} (port : Nat) (object : Bytes) (s : State) (h2 : Keep s0 s) : Keep s0
    (serveMeasure port object s) := by
  unfold serveMeasure
  try dsimp only
  repeat' first
      | with_reducible assumption | (with_reducible refine keep_doeAnswer _ _ _ ?_)
      | (with_reducible refine keep_ite ?_ ?_) | (with_reducible refine keep_ite_fst ?_ ?_) | intro _ | split
      | (with_reducible refine keep_foldl ?_ _ ?_) | (with_reducible refine keep_forN ?_ _ ?_)
      | (with_reducible refine keep_foldl_fst ?_ _ ?_) | (with_reducible refine keep_mk ?_)

theorem keep_execMeasure {s0 : State} (port : Nat) (object : Bytes) (s : State) (h2 : Keep s0 s) : KeepOut s0
    (execMeasure port object s) := by
  unfold execMeasure
  try dsimp only
  repeat' first
      | with_reducible assumption | with_reducible refine keepOut_next ?_
      | (with_reducible refine keep_doeRow _ _ _ _ _ ?_ ?_) | (with_reducible refine keep_serveMeasure _ _ _ ?_)
      | (with_reducible refine keep_ite ?_ ?_) | (with_reducible refine keepOut_ite ?_ ?_)
      | (with_reducible refine keep_ite_fst ?_ ?_) | intro _ | split | (with_reducible refine keep_foldl ?_ _ ?_)
      | (with_reducible refine keep_forN ?_ _ ?_) | (with_reducible refine keep_foldl_fst ?_ _ ?_)
      | (with_reducible refine keep_mk ?_)

theorem keep_execDoeAbort {s0 : State} (port : Nat) (s : State) (h1 : Keep s0 s) : KeepOut s0 (execDoeAbort port s)
    := by
  unfold execDoeAbort
  repeat' first
      | with_reducible assumption | with_reducible refine keepOut_next ?_ | (with_reducible refine keep_mk ?_)

theorem keep_execDoeDiscovery {s0 : State} (port : Nat) (index : Byte) (s : State) (h2 : Keep s0 s) : KeepOut s0
    (execDoeDiscovery port index s) := by
  unfold execDoeDiscovery
  repeat' first
      | with_reducible assumption | with_reducible refine keepOut_next ?_
      | (with_reducible refine keep_sendOut _ _ _ ?_) | (with_reducible refine keep_ite ?_ ?_)

theorem keep_oobRow {s0 : State} (i : Instr) (ep : Nat) (svc : State → State) (s : State) (h2 : ∀ t, Keep s0 t →
    Keep s0 (svc t)) (h3 : Keep s0 s) : Keep s0 (oobRow i ep svc s) := by
  unfold oobRow
  repeat' first
      | with_reducible assumption | (with_reducible refine keep_holdReq _ _ ?_)
      | (with_reducible refine keep_ite ?_ ?_) | (with_reducible refine h2 _ ?_)

theorem keep_serveMctp {s0 : State} (ep : Nat) (msg : MctpControl) (s : State) (h2 : Keep s0 s) : Keep s0 (serveMctp
    ep msg s) := by
  unfold serveMctp
  repeat' first
      | with_reducible assumption | (with_reducible refine keep_sendOut _ _ _ ?_) | split
      | (with_reducible refine keep_mk ?_)

theorem keep_execMctpControlMessage {s0 : State} (ep : Nat) (msg : MctpControl) (s : State) (h2 : Keep s0 s) :
    KeepOut s0 (execMctpControlMessage ep msg s) := by
  unfold execMctpControlMessage
  repeat' first
      | with_reducible assumption | with_reducible refine keepOut_next ?_
      | (with_reducible refine keep_oobRow _ _ _ _ ?_ ?_) | (with_reducible refine keep_serveMctp _ _ _ ?_)
      | intro _

theorem keep_serveDiscovery {s0 : State} (ep : Nat) (command : PldmBase) (s : State) (h2 : Keep s0 s) : Keep s0
    (serveDiscovery ep command s) := by
  unfold serveDiscovery
  try dsimp only
  repeat' first
      | with_reducible assumption | (with_reducible refine keep_sendOut _ _ _ ?_)
      | (with_reducible refine keep_ite ?_ ?_) | (with_reducible refine keep_ite_fst ?_ ?_) | intro _ | split
      | (with_reducible refine keep_foldl ?_ _ ?_) | (with_reducible refine keep_forN ?_ _ ?_)
      | (with_reducible refine keep_foldl_fst ?_ _ ?_) | (with_reducible refine keep_mk ?_)

theorem keep_execPldmDiscovery {s0 : State} (ep : Nat) (command : PldmBase) (s : State) (h2 : Keep s0 s) : KeepOut
    s0 (execPldmDiscovery ep command s) := by
  unfold execPldmDiscovery
  repeat' first
      | with_reducible assumption | with_reducible refine keepOut_next ?_
      | (with_reducible refine keep_oobRow _ _ _ _ ?_ ?_) | (with_reducible refine keep_serveDiscovery _ _ _ ?_)
      | intro _

theorem keep_serveSensor {s0 : State} (ep : Nat) (sensorId : Nat) (s : State) (h2 : Keep s0 s) : Keep s0
    (serveSensor ep sensorId s) := by
  unfold serveSensor
  try dsimp only
  repeat' first
      | with_reducible assumption | (with_reducible refine keep_sendOut _ _ _ ?_)
      | (with_reducible refine keep_readSensor _ _ ?_) | (with_reducible refine keep_drawFree _ _ ?_)
      | (with_reducible refine keep_ite ?_ ?_) | (with_reducible refine keep_ite_fst ?_ ?_) | intro _ | split
      | (with_reducible refine keep_foldl ?_ _ ?_) | (with_reducible refine keep_forN ?_ _ ?_)
      | (with_reducible refine keep_foldl_fst ?_ _ ?_)
      | (with_reducible refine keep_fst (by with_reducible assumption) ?_) | (with_reducible refine keep_mk ?_)

theorem keep_servePdr {s0 : State} (ep : Nat) (handle : Nat) (s : State) (h2 : Keep s0 s) : Keep s0 (servePdr ep
    handle s) := by
  unfold servePdr
  try dsimp only
  repeat' first
      | with_reducible assumption | (with_reducible refine keep_sendOut _ _ _ ?_)
      | (with_reducible refine keep_drawFree _ _ ?_) | (with_reducible refine keep_ite ?_ ?_)
      | (with_reducible refine keep_ite_fst ?_ ?_) | intro _ | split | (with_reducible refine keep_foldl ?_ _ ?_)
      | (with_reducible refine keep_forN ?_ _ ?_) | (with_reducible refine keep_foldl_fst ?_ _ ?_)
      | (with_reducible refine keep_mk ?_)

theorem keep_servePdrInfo {s0 : State} (ep : Nat) (s : State) (h1 : Keep s0 s) : Keep s0 (servePdrInfo ep s) := by
  unfold servePdrInfo
  try dsimp only
  repeat' first
      | with_reducible assumption | (with_reducible refine keep_sendOut _ _ _ ?_)
      | (with_reducible refine keep_drawFree _ _ ?_) | (with_reducible refine keep_ite ?_ ?_)
      | (with_reducible refine keep_ite_fst ?_ ?_) | intro _ | split | (with_reducible refine keep_foldl ?_ _ ?_)
      | (with_reducible refine keep_forN ?_ _ ?_) | (with_reducible refine keep_foldl_fst ?_ _ ?_)
      | (with_reducible refine keep_mk ?_)

theorem keep_serveReading {s0 : State} (ep : Nat) (request : PldmSensor) (s : State) (h2 : Keep s0 s) : Keep s0
    (serveReading ep request s) := by
  unfold serveReading
  try dsimp only
  repeat' first
      | with_reducible assumption | (with_reducible refine keep_serveSensor _ _ _ ?_)
      | (with_reducible refine keep_servePdr _ _ _ ?_) | (with_reducible refine keep_servePdrInfo _ _ ?_)
      | (with_reducible refine keep_ite ?_ ?_) | (with_reducible refine keep_ite_fst ?_ ?_) | intro _ | split
      | (with_reducible refine keep_foldl ?_ _ ?_) | (with_reducible refine keep_forN ?_ _ ?_)
      | (with_reducible refine keep_foldl_fst ?_ _ ?_) | (with_reducible refine keep_mk ?_)

theorem keep_execPldmGetSensorReading {s0 : State} (ep : Nat) (request : PldmSensor) (s : State) (h2 : Keep s0 s) :
    KeepOut s0 (execPldmGetSensorReading ep request s) := by
  unfold execPldmGetSensorReading
  repeat' first
      | with_reducible assumption | with_reducible refine keepOut_next ?_
      | (with_reducible refine keep_oobRow _ _ _ _ ?_ ?_) | (with_reducible refine keep_serveReading _ _ _ ?_)
      | intro _

theorem keep_serveRequestUpdate {s0 : State} (ep : Nat) (manifest : Bytes) (len : Nat) (signatureOk : Bool) (s :
    State) (h4 : Keep s0 s) : Keep s0 (serveRequestUpdate ep manifest len signatureOk s) := by
  unfold serveRequestUpdate
  try dsimp only
  repeat' first
      | with_reducible assumption | (with_reducible refine keep_sendOut _ _ _ ?_)
      | (with_reducible refine keep_startUpdate _ _ _ _ _ _ ?_) | (with_reducible refine keep_ite ?_ ?_)
      | (with_reducible refine keep_ite_fst ?_ ?_) | intro _ | split | (with_reducible refine keep_foldl ?_ _ ?_)
      | (with_reducible refine keep_forN ?_ _ ?_) | (with_reducible refine keep_foldl_fst ?_ _ ?_)
      | (with_reducible refine keep_fst (by with_reducible assumption) ?_) | (with_reducible refine keep_mk ?_)

theorem keep_execPldmRequestUpdate {s0 : State} (ep : Nat) (manifest : Bytes) (len : Nat) (signatureOk : Bool) (s :
    State) (h4 : Keep s0 s) : KeepOut s0 (execPldmRequestUpdate ep manifest len signatureOk s) := by
  unfold execPldmRequestUpdate
  repeat' first
      | with_reducible assumption | with_reducible refine keepOut_next ?_
      | (with_reducible refine keep_oobRow _ _ _ _ ?_ ?_)
      | (with_reducible refine keep_serveRequestUpdate _ _ _ _ _ ?_) | intro _

theorem keep_serveActivate {s0 : State} (ep : Nat) (s : State) (h1 : Keep s0 s) : Keep s0 (serveActivate ep s) := by
  unfold serveActivate
  repeat' first
      | with_reducible assumption | (with_reducible refine keep_activateAct _ _ ?_)
      | (with_reducible refine keep_sendOut _ _ _ ?_)

theorem keep_execPldmActivateFirmware {s0 : State} (ep : Nat) (s : State) (h1 : Keep s0 s) : KeepOut s0
    (execPldmActivateFirmware ep s) := by
  unfold execPldmActivateFirmware
  repeat' first
      | with_reducible assumption | with_reducible refine keepOut_next ?_
      | (with_reducible refine keep_oobRow _ _ _ _ ?_ ?_) | (with_reducible refine keep_serveActivate _ _ ?_)
      | intro _

theorem keep_scanPins {s0 : State} (s : State) (op : JtagOp) (pins : Sideband) (shifted : Sideband) (h0 : Keep s0 s)
    : Keep s0 (scanPins s op pins shifted) := by
  unfold scanPins
  try dsimp only
  repeat' first
      | with_reducible assumption | (with_reducible refine keep_ite ?_ ?_)
      | (with_reducible refine keep_ite_fst ?_ ?_) | intro _ | split | (with_reducible refine keep_foldl ?_ _ ?_)
      | (with_reducible refine keep_forN ?_ _ ?_) | (with_reducible refine keep_foldl_fst ?_ _ ?_)
      | (with_reducible refine keep_mk ?_)

theorem keep_execJtagInstruction {s0 : State} (instr : JtagOp) (s : State) (h1 : Keep s0 s) : KeepOut s0
    (execJtagInstruction instr s) := by
  unfold execJtagInstruction
  try dsimp only
  repeat' first
      | with_reducible assumption | with_reducible refine keepOut_next ?_
      | (with_reducible refine keep_scanPins _ _ _ _ ?_) | (with_reducible refine keep_ite ?_ ?_)
      | (with_reducible refine keepOut_ite ?_ ?_) | (with_reducible refine keep_ite_fst ?_ ?_) | intro _ | split
      | (with_reducible refine keep_foldl ?_ _ ?_) | (with_reducible refine keep_forN ?_ _ ?_)
      | (with_reducible refine keep_foldl_fst ?_ _ ?_) | (with_reducible refine keep_mk ?_)

theorem keep_guarded {s0 : State} (s : State) (f : Nat) (a : Auth) (g : State) (h0 : Keep s0 s) (h3 : Keep s0 g) :
    Keep s0 (guarded s f a g) := by
  unfold guarded
  repeat' first | with_reducible assumption | (with_reducible refine keep_updFn _ _ _ ?_) | split

theorem keep_partEnable {s0 : State} (s : State) (f : Nat) (p : Nat) (owner : Nat) (h0 : Keep s0 s) : Keep s0
    (partEnable s f p owner) := by
  unfold partEnable
  repeat' first
      | with_reducible assumption | (with_reducible refine keep_updPart _ _ _ ?_)
      | (with_reducible refine keep_ite ?_ ?_)

theorem keep_regionOff {s0 : State} (s : State) (rid : Nat) (h0 : Keep s0 s) : Keep s0 (regionOff s rid) := by
  unfold regionOff
  try dsimp only
  repeat' first
      | with_reducible assumption | (with_reducible refine keep_regionDisable _ _ ?_)
      | (with_reducible refine keep_setRegion _ _ _ ?_) | (with_reducible refine keep_ite ?_ ?_)
      | (with_reducible refine keep_ite_fst ?_ ?_) | intro _ | split | (with_reducible refine keep_foldl ?_ _ ?_)
      | (with_reducible refine keep_forN ?_ _ ?_) | (with_reducible refine keep_foldl_fst ?_ _ ?_)
      | (with_reducible refine keep_mk ?_)

theorem keep_partDisable {s0 : State} (s0_0 : State) (p : Nat) (h0 : Keep s0 s0_0) : Keep s0 (partDisable s0_0 p)
    := by
  unfold partDisable
  try dsimp only
  repeat' first
      | with_reducible assumption | (with_reducible refine keep_handFail _ _ ?_)
      | (with_reducible refine keep_flrReport _ _ _ _ ?_) | (with_reducible refine keep_wipePart _ _ ?_)
      | (with_reducible refine keep_mapORings _ _ _ ?_) | (with_reducible refine keep_mapRings _ _ _ ?_)
      | (with_reducible refine keep_regionOff _ _ ?_) | (with_reducible refine keep_updPart _ _ _ ?_)
      | (with_reducible refine keep_ite ?_ ?_) | (with_reducible refine keep_ite_fst ?_ ?_) | intro _ | split
      | (with_reducible refine keep_foldl ?_ _ ?_) | (with_reducible refine keep_forN ?_ _ ?_)
      | (with_reducible refine keep_foldl_fst ?_ _ ?_) | (with_reducible refine keep_mk ?_)

theorem keep_writePartCtl {s0 : State} (s : State) (f : Nat) (p : Nat) (v : Nat) (h0 : Keep s0 s) : Keep s0
    (writePartCtl s f p v) := by
  unfold writePartCtl
  repeat' first
      | with_reducible assumption | (with_reducible refine keep_guarded _ _ _ _ ?_ ?_)
      | (with_reducible refine keep_partEnable _ _ _ _ ?_) | (with_reducible refine keep_updPart _ _ _ ?_)
      | (with_reducible refine keep_updFn _ _ _ ?_) | (with_reducible refine keep_partDisable _ _ ?_)
      | (with_reducible refine keep_ite ?_ ?_)

theorem keep_ringStart {s0 : State} (s : State) (f : Nat) (p : Nat) (ring : Nat) (h0 : Keep s0 s) : Keep s0
    (ringStart s f p ring) := by
  unfold ringStart
  repeat' first
      | with_reducible assumption | (with_reducible refine keep_ringStatus _ _ ?_)
      | (with_reducible refine keep_updRing _ _ _ ?_) | (with_reducible refine keep_ite ?_ ?_)

theorem keep_abortWaiting {s0 : State} (p : Nat) (ring : Nat) (fs : List Fetched) (s : State) (h3 : Keep s0 s) :
    Keep s0 (abortWaiting p ring fs s) := by
  unfold abortWaiting
  repeat' first
      | with_reducible assumption | (with_reducible refine keep_completeUndispatched _ _ _ _ _ _ _ _ ?_) | intro _
      | (with_reducible refine keep_foldl ?_ _ ?_)

theorem keep_ringStop {s0 : State} (s : State) (p : Nat) (ring : Nat) (h0 : Keep s0 s) : Keep s0 (ringStop s p ring)
    := by
  unfold ringStop
  repeat' first
      | with_reducible assumption | (with_reducible refine keep_abortWaiting _ _ _ _ ?_)
      | (with_reducible refine keep_ringStatus _ _ ?_) | (with_reducible refine keep_updRing _ _ _ ?_)

theorem keep_writeRingCfg {s0 : State} (s : State) (f : Nat) (ring : Nat) (v : Nat) (h0 : Keep s0 s) : Keep s0
    (writeRingCfg s f ring v) := by
  unfold writeRingCfg
  repeat' first
      | with_reducible assumption | (with_reducible refine keep_guarded _ _ _ _ ?_ ?_)
      | (with_reducible refine keep_ringStop _ _ _ ?_) | (with_reducible refine keep_updRing _ _ _ ?_)
      | (with_reducible refine keep_ringStart _ _ _ _ ?_) | split

theorem keep_writeORingCfg {s0 : State} (s : State) (f : Nat) (o : Nat) (v : Nat) (h0 : Keep s0 s) : Keep s0
    (writeORingCfg s f o v) := by
  unfold writeORingCfg
  try dsimp only
  repeat' first
      | with_reducible assumption | (with_reducible refine keep_guarded _ _ _ _ ?_ ?_)
      | (with_reducible refine keep_updORing _ _ _ ?_) | split

theorem keep_freeStashes {s0 : State} (s : State) (p : Nat) (h0 : Keep s0 s) : Keep s0 (freeStashes s p) := by
  unfold freeStashes
  repeat' first
      | with_reducible assumption | (with_reducible refine keep_dropStash _ _ _ ?_) | intro _
      | (with_reducible refine keep_foldl ?_ _ ?_)

theorem keep_writeCaddy {s0 : State} (s : State) (p : Nat) (en : Bool) (h0 : Keep s0 s) : Keep s0 (writeCaddy s p
    en) := by
  unfold writeCaddy
  repeat' first
      | with_reducible assumption | (with_reducible refine keep_updPart _ _ _ ?_)
      | (with_reducible refine keep_freeStashes _ _ ?_) | (with_reducible refine keep_ite ?_ ?_)

theorem keep_negotiate {s0 : State} (s : State) (f : Nat) (v : Nat) (h0 : Keep s0 s) : Keep s0 (negotiate s f v) := by
  unfold negotiate
  repeat' first
      | with_reducible assumption | (with_reducible refine keep_updFn _ _ _ ?_)
      | (with_reducible refine keep_ite ?_ ?_)

theorem keep_clearLeaf {s0 : State} (s : State) (f : Nat) (o : Nat) (v : Word32) (h0 : Keep s0 s) : Keep s0
    (clearLeaf s f o v) := by
  unfold clearLeaf
  repeat' first | with_reducible assumption | (with_reducible refine keep_updFn _ _ _ ?_)

theorem keep_writeMask {s0 : State} (s : State) (f : Nat) (v : Word32) (h0 : Keep s0 s) : Keep s0 (writeMask s f v)
    := by
  unfold writeMask
  repeat' first | with_reducible assumption | (with_reducible refine keep_updFn _ _ _ ?_)

theorem keep_writeAsync {s0 : State} (s : State) (f : Nat) (v : Nat) (h0 : Keep s0 s) : Keep s0 (writeAsync s f v)
    := by
  unfold writeAsync
  try dsimp only
  repeat' first
      | with_reducible assumption | (with_reducible refine keep_updFn _ _ _ ?_)
      | (with_reducible refine keep_setLeaf _ _ _ _ ?_) | (with_reducible refine keep_ite ?_ ?_)
      | (with_reducible refine keep_ite_fst ?_ ?_) | intro _ | split | (with_reducible refine keep_foldl ?_ _ ?_)
      | (with_reducible refine keep_forN ?_ _ ?_) | (with_reducible refine keep_foldl_fst ?_ _ ?_)
      | (with_reducible refine keep_mk ?_)

theorem keep_writeDet {s0 : State} (s : State) (on : Bool) (h0 : Keep s0 s) : Keep s0 (writeDet s on) := by
  unfold writeDet
  have k : Keep s0 { s with kt := { s.kt with
      det := on
      f := if on then floorLevel s else s.kt.f
      heldF := if on then s.kt.heldF.map (fun _ => floorLevel s) else s.kt.heldF } } := by
    refine keep_kt h0 ?_
    rw [levelsOk_iff, levelsOk_iff]
    intro w
    cases on
    · exact w
    · refine ⟨floorLevel_le s, w.2.1, fun f e => ?_⟩
      dsimp only at e
      simp only [if_true] at e
      cases e' : s.kt.heldF <;> rw [e'] at e <;> cases e
      exact floorLevel_le s
  exact keep_ite (keep_raiseBreach _ k) k

theorem keep_writeNamedRing {s0 : State} (s : State) (f : Nat) (p : Nat) (v : Nat) (set : Bool → Nat → PartRegs →
    PartRegs) (h0 : Keep s0 s) : Keep s0 (writeNamedRing s f p v set) := by
  unfold writeNamedRing
  repeat' first
      | with_reducible assumption | (with_reducible refine keep_guarded _ _ _ _ ?_ ?_)
      | (with_reducible refine keep_updPart _ _ _ ?_)

theorem keep_writeRegionCfg {s0 : State} (s : State) (rid : Nat) (v : Nat) (h0 : Keep s0 s) : Keep s0
    (writeRegionCfg s rid v) := by
  unfold writeRegionCfg
  try dsimp only
  repeat' first
      | with_reducible assumption | (with_reducible refine keep_setRegion _ _ _ ?_)
      | (with_reducible refine keep_regionEnable _ _ ?_) | (with_reducible refine keep_regionOff _ _ ?_)
      | (with_reducible refine keep_ite ?_ ?_) | (with_reducible refine keep_ite_fst ?_ ?_) | intro _ | split
      | (with_reducible refine keep_foldl ?_ _ ?_) | (with_reducible refine keep_forN ?_ _ ?_)
      | (with_reducible refine keep_foldl_fst ?_ _ ?_) | (with_reducible refine keep_mk ?_)

theorem keep_changed {s0 : State} (s : State) (f : Nat) (same : Bool) (a : Auth) (word : Auth) (g : State) (h0 :
    Keep s0 s) (h5 : Keep s0 g) : Keep s0 (changed s f same a word g) := by
  unfold changed
  repeat' first
      | with_reducible assumption | (with_reducible refine keep_guarded _ _ _ _ ?_ ?_)
      | (with_reducible refine keep_ite ?_ ?_)

theorem keep_writeReg {s0 : State} (s : State) (f : Nat) (g : Reg) (w : Word32) (mem : MemIn) (h0 : Keep s0 s) :
    Keep s0 (writeReg s f g w mem) := by
  unfold writeReg
  try dsimp only
  repeat' first
      | with_reducible assumption | (with_reducible refine keep_sweep _ _ _ _ ?_)
      | (with_reducible refine keep_guarded _ _ _ _ ?_ ?_) | (with_reducible refine keep_negotiate _ _ _ ?_)
      | (with_reducible refine keep_updFn _ _ _ ?_) | (with_reducible refine keep_updPort _ _ _ ?_)
      | (with_reducible refine keep_writePartCtl _ _ _ _ ?_) | (with_reducible refine keep_updPart _ _ _ ?_)
      | (with_reducible refine keep_writeNamedRing _ _ _ _ _ ?_) | (with_reducible refine keep_updORing _ _ _ ?_)
      | (with_reducible refine keep_writeORingCfg _ _ _ _ ?_) | (with_reducible refine keep_updRing _ _ _ ?_)
      | (with_reducible refine keep_writeRingCfg _ _ _ _ ?_) | (with_reducible refine keep_writeMask _ _ _ ?_)
      | (with_reducible refine keep_clearLeaf _ _ _ _ ?_) | (with_reducible refine keep_writeRegionCfg _ _ _ ?_)
      | (with_reducible refine keep_setRegion _ _ _ ?_) | (with_reducible refine keep_changed _ _ _ _ _ _ ?_ ?_)
      | (with_reducible refine keep_layerLoad _ _ _ ?_) | (with_reducible refine keep_writeCaddy _ _ _ ?_)
      | (with_reducible refine keep_writeDet _ _ ?_) | (with_reducible refine keep_writeAsync _ _ _ ?_)
      | (with_reducible refine keep_ite ?_ ?_) | (with_reducible refine keep_ite_fst ?_ ?_) | intro _ | split
      | (with_reducible refine keep_foldl ?_ _ ?_) | (with_reducible refine keep_forN ?_ _ ?_)
      | (with_reducible refine keep_foldl_fst ?_ _ ?_) | (with_reducible refine keep_mk ?_)

theorem keep_regRow {s0 : State} (s : State) (f : Nat) (g : Reg) (w : Word32) (mem : MemIn) (h0 : Keep s0 s) :
    KeepOut s0 (regRow s f g w mem) := by
  unfold regRow
  repeat' first
      | with_reducible assumption | with_reducible refine keepOut_next ?_
      | (with_reducible refine keep_writeReg _ _ _ _ _ ?_) | (with_reducible refine keep_ite ?_ ?_)

theorem keep_execRegisterWrite {s0 : State} (fn : Nat) (offset : Nat) (enables : BitVec 4) (value : Word32) (s :
    State) (h4 : Keep s0 s) : KeepOut s0 (execRegisterWrite fn offset enables value s) := by
  unfold execRegisterWrite
  repeat' first
      | with_reducible assumption | with_reducible refine keepOut_next ?_
      | (with_reducible refine keep_updFn _ _ _ ?_) | (with_reducible refine keep_writeReg _ _ _ _ _ ?_) | split

theorem keep_execRingEnable {s0 : State} (fn : Nat) (ring : Nat) (value : Word32) (s : State) (h3 : Keep s0 s) :
    KeepOut s0 (execRingEnable fn ring value s) := by
  unfold execRingEnable
  repeat' first
      | with_reducible assumption | with_reducible refine keepOut_next ?_
      | (with_reducible refine keep_regRow _ _ _ _ _ ?_) | (with_reducible refine keepOut_ite ?_ ?_)

theorem keep_execRingDisable {s0 : State} (fn : Nat) (ring : Nat) (value : Word32) (s : State) (h3 : Keep s0 s) :
    KeepOut s0 (execRingDisable fn ring value s) := by
  unfold execRingDisable
  repeat' first
      | with_reducible assumption | with_reducible refine keepOut_next ?_
      | (with_reducible refine keep_regRow _ _ _ _ _ ?_) | (with_reducible refine keepOut_ite ?_ ?_)

theorem keep_execOringEnable {s0 : State} (fn : Nat) (oring : Nat) (value : Word32) (s : State) (h3 : Keep s0 s) :
    KeepOut s0 (execOringEnable fn oring value s) := by
  unfold execOringEnable
  repeat' first
      | with_reducible assumption | with_reducible refine keepOut_next ?_
      | (with_reducible refine keep_regRow _ _ _ _ _ ?_) | (with_reducible refine keepOut_ite ?_ ?_)

theorem keep_execOringDisable {s0 : State} (fn : Nat) (oring : Nat) (value : Word32) (s : State) (h3 : Keep s0 s) :
    KeepOut s0 (execOringDisable fn oring value s) := by
  unfold execOringDisable
  repeat' first
      | with_reducible assumption | with_reducible refine keepOut_next ?_
      | (with_reducible refine keep_regRow _ _ _ _ _ ?_) | (with_reducible refine keepOut_ite ?_ ?_)

theorem keep_execDriverNegotiate {s0 : State} (fn : Nat) (value : Word32) (s : State) (h2 : Keep s0 s) : KeepOut s0
    (execDriverNegotiate fn value s) := by
  unfold execDriverNegotiate
  repeat' first
      | with_reducible assumption | with_reducible refine keepOut_next ?_
      | (with_reducible refine keep_regRow _ _ _ _ _ ?_)

theorem keep_execPartitionEnable {s0 : State} (fn : Nat) (p : Nat) (value : Word32) (s : State) (h3 : Keep s0 s) :
    KeepOut s0 (execPartitionEnable fn p value s) := by
  unfold execPartitionEnable
  repeat' first
      | with_reducible assumption | with_reducible refine keepOut_next ?_
      | (with_reducible refine keep_regRow _ _ _ _ _ ?_) | (with_reducible refine keepOut_ite ?_ ?_)

theorem keep_execPartitionDisable {s0 : State} (fn : Nat) (p : Nat) (value : Word32) (s : State) (h3 : Keep s0 s) :
    KeepOut s0 (execPartitionDisable fn p value s) := by
  unfold execPartitionDisable
  repeat' first
      | with_reducible assumption | with_reducible refine keepOut_next ?_
      | (with_reducible refine keep_regRow _ _ _ _ _ ?_) | (with_reducible refine keepOut_ite ?_ ?_)

theorem keep_execRegionEnable {s0 : State} (fn : Nat) (rid : Nat) (value : Word32) (s : State) (h3 : Keep s0 s) :
    KeepOut s0 (execRegionEnable fn rid value s) := by
  unfold execRegionEnable
  repeat' first
      | with_reducible assumption | with_reducible refine keepOut_next ?_
      | (with_reducible refine keep_regRow _ _ _ _ _ ?_) | (with_reducible refine keepOut_ite ?_ ?_)

theorem keep_execRegionDisable {s0 : State} (fn : Nat) (rid : Nat) (value : Word32) (s : State) (h3 : Keep s0 s) :
    KeepOut s0 (execRegionDisable fn rid value s) := by
  unfold execRegionDisable
  repeat' first
      | with_reducible assumption | with_reducible refine keepOut_next ?_
      | (with_reducible refine keep_regRow _ _ _ _ _ ?_) | (with_reducible refine keepOut_ite ?_ ?_)

theorem keep_execRegionInitDone {s0 : State} (rid : Nat) (s : State) (h1 : Keep s0 s) : KeepOut s0
    (execRegionInitDone rid s) := by
  unfold execRegionInitDone
  repeat' first
      | with_reducible assumption | with_reducible refine keepOut_next ?_
      | (with_reducible refine keep_setRegion _ _ _ ?_) | (with_reducible refine keep_ite ?_ ?_)

theorem keep_execLayerTableLoad {s0 : State} (fn : Nat) (p : Nat) (value : Word32) (mem : MemIn) (s : State) (h4 :
    Keep s0 s) : KeepOut s0 (execLayerTableLoad fn p value mem s) := by
  unfold execLayerTableLoad
  repeat' first
      | with_reducible assumption | with_reducible refine keepOut_next ?_
      | (with_reducible refine keep_regRow _ _ _ _ _ ?_) | (with_reducible refine keepOut_ite ?_ ?_)

theorem keep_execCaddyEnable {s0 : State} (fn : Nat) (p : Nat) (value : Word32) (s : State) (h3 : Keep s0 s) :
    KeepOut s0 (execCaddyEnable fn p value s) := by
  unfold execCaddyEnable
  repeat' first
      | with_reducible assumption | with_reducible refine keepOut_next ?_
      | (with_reducible refine keep_regRow _ _ _ _ _ ?_) | (with_reducible refine keepOut_ite ?_ ?_)

theorem keep_execCaddyDisable {s0 : State} (fn : Nat) (p : Nat) (value : Word32) (s : State) (h3 : Keep s0 s) :
    KeepOut s0 (execCaddyDisable fn p value s) := by
  unfold execCaddyDisable
  repeat' first
      | with_reducible assumption | with_reducible refine keepOut_next ?_
      | (with_reducible refine keep_regRow _ _ _ _ _ ?_) | (with_reducible refine keepOut_ite ?_ ?_)

theorem keep_execDetModeWrite {s0 : State} (fn : Nat) (value : Word32) (s : State) (h2 : Keep s0 s) : KeepOut s0
    (execDetModeWrite fn value s) := by
  unfold execDetModeWrite
  repeat' first
      | with_reducible assumption | with_reducible refine keepOut_next ?_
      | (with_reducible refine keep_regRow _ _ _ _ _ ?_)

theorem keep_execMbAsyncRemove {s0 : State} (fn : Nat) (value : Word32) (s : State) (h2 : Keep s0 s) : KeepOut s0
    (execMbAsyncRemove fn value s) := by
  unfold execMbAsyncRemove
  repeat' first
      | with_reducible assumption | with_reducible refine keepOut_next ?_
      | (with_reducible refine keep_regRow _ _ _ _ _ ?_)

theorem keep_execIrqLeafClear {s0 : State} (fn : Nat) (offset : Nat) (value : Word32) (s : State) (h3 : Keep s0 s) :
    KeepOut s0 (execIrqLeafClear fn offset value s) := by
  unfold execIrqLeafClear
  repeat' first
      | with_reducible assumption | with_reducible refine keepOut_next ?_
      | (with_reducible refine keep_regRow _ _ _ _ _ ?_) | split

theorem keep_execIrqMaskWrite {s0 : State} (fn : Nat) (value : Word32) (s : State) (h2 : Keep s0 s) : KeepOut s0
    (execIrqMaskWrite fn value s) := by
  unfold execIrqMaskWrite
  repeat' first
      | with_reducible assumption | with_reducible refine keepOut_next ?_
      | (with_reducible refine keep_regRow _ _ _ _ _ ?_)

theorem keep_execQeWake {s0 : State} (fn : Nat) (value : Word32) (host : HostIn) (s0_3 : State) (h3 : Keep s0 s0_3)
    : KeepOut s0 (execQeWake fn value host s0_3) := by
  unfold execQeWake
  repeat' first
      | with_reducible assumption | with_reducible refine keepOut_next ?_
      | (with_reducible refine keep_hostStores _ _ ?_) | (with_reducible refine keep_sweep _ _ _ _ ?_)
      | (with_reducible refine keep_ite ?_ ?_)

theorem keep_readWord {s0 : State} (s : State) (fn : Nat) (offset : Nat) (h0 : Keep s0 s) : Keep s0 (readWord s fn
    offset).1 := by
  unfold readWord
  try dsimp only
  repeat' first
      | with_reducible assumption | (with_reducible refine keep_updFn _ _ _ ?_)
      | (with_reducible refine keep_ite ?_ ?_) | (with_reducible refine keep_ite_fst ?_ ?_) | intro _ | split
      | (with_reducible refine keep_foldl ?_ _ ?_) | (with_reducible refine keep_forN ?_ _ ?_)
      | (with_reducible refine keep_foldl_fst ?_ _ ?_) | (with_reducible refine keep_mk ?_)

theorem keep_readWords {s0 : State} (fn : Nat) : ∀ (n offset : Nat) (s : State), Keep s0 s → Keep s0 (readWords fn n
    offset s).1
  | 0, _, _, h => h
  | n + 1, offset, s, h => by
    simp only [readWords]
    exact keep_readWords fn n _ _ (keep_readWord _ _ _ h)

theorem keep_execLowWordRead {s0 : State} (fn : Nat) (at_ : BarSpan) (s : State) (h2 : Keep s0 s) : KeepOut s0
    (execLowWordRead fn at_ s) := by
  unfold execLowWordRead
  try dsimp only
  repeat' first
      | with_reducible assumption | with_reducible refine keepOut_next ?_
      | (with_reducible refine keep_readWord _ _ _ ?_) | (with_reducible apply keep_readWords)
      | (with_reducible refine keep_ite ?_ ?_) | (with_reducible refine keepOut_ite ?_ ?_)
      | (with_reducible refine keep_ite_fst ?_ ?_) | intro _ | split | (with_reducible refine keep_foldl ?_ _ ?_)
      | (with_reducible refine keep_forN ?_ _ ?_) | (with_reducible refine keep_foldl_fst ?_ _ ?_)
      | (with_reducible refine keep_fst (by with_reducible assumption) ?_) | (with_reducible refine keep_mk ?_)

theorem keep_bar2Refused {s0 : State} (s : State) (fn : Nat) (h0 : Keep s0 s) : Keep s0 (bar2Refused s fn) := by
  unfold bar2Refused
  repeat' first
      | with_reducible assumption | (with_reducible refine keep_noteAer _ _ _ ?_)
      | (with_reducible refine keep_mk ?_)

theorem keep_bar2Read {s0 : State} (s : State) (fn : Nat) (addr : Nat) (len : Nat) (mem : MemIn) (h0 : Keep s0 s) :
    Keep s0 (bar2Read s fn addr len mem) := by
  unfold bar2Read
  repeat' first
      | with_reducible assumption | (with_reducible refine keep_bar2Refused _ _ ?_)
      | (with_reducible refine keep_checkRange _ _ _ _ _ ?_) | split | (with_reducible refine keep_mk ?_)

theorem keep_execBar2Read {s0 : State} (fn : Nat) (addr : Nat) (len : Nat) (mem : MemIn) (s : State) (h4 : Keep s0
    s) : KeepOut s0 (execBar2Read fn addr len mem s) := by
  unfold execBar2Read
  repeat' first
      | with_reducible assumption | with_reducible refine keepOut_next ?_
      | (with_reducible refine keep_bar2Read _ _ _ _ _ ?_) | (with_reducible refine keep_dramUpsets _ _ ?_)

theorem keep_readsFinish {s0 : State} (s : State) (h0 : Keep s0 s) : Keep s0 (readsFinish s) := by
  unfold readsFinish
  repeat' first
      | with_reducible assumption | (with_reducible refine keep_bar2Read _ _ _ _ _ ?_) | intro _
      | (with_reducible refine keep_foldl ?_ _ ?_) | (with_reducible refine keep_mk ?_)

theorem keep_execBar2Write {s0 : State} (fn : Nat) (addr : Nat) (w : Bar2Data) (s0_3 : State) (h3 : Keep s0 s0_3) :
    KeepOut s0 (execBar2Write fn addr w s0_3) := by
  unfold execBar2Write
  try dsimp only
  repeat' first
      | with_reducible assumption | with_reducible refine keepOut_next ?_
      | (with_reducible refine keep_dramUpsets _ _ ?_) | (with_reducible refine keep_noteAer _ _ _ ?_)
      | (with_reducible refine keep_devWrite _ _ _ _ _ ?_) | (with_reducible refine keep_ite ?_ ?_)
      | (with_reducible refine keepOut_ite ?_ ?_) | (with_reducible refine keep_ite_fst ?_ ?_) | intro _ | split
      | (with_reducible refine keep_foldl ?_ _ ?_) | (with_reducible refine keep_forN ?_ _ ?_)
      | (with_reducible refine keep_foldl_fst ?_ _ ?_) | (with_reducible refine keep_mk ?_)

theorem keep_stopCore {s0 : State} (s : State) (core : Nat) (h0 : Keep s0 s) : Keep s0 (stopCore s core) := by
  unfold stopCore
  repeat' first
      | with_reducible assumption | (with_reducible refine keep_updCore _ _ _ ?_)
      | (with_reducible refine keep_mk ?_)

theorem keep_execCoreAckTimeout {s0 : State} (core : Nat) (s : State) (h1 : Keep s0 s) : KeepOut s0
    (execCoreAckTimeout core s) := by
  unfold execCoreAckTimeout
  repeat' first
      | with_reducible assumption | with_reducible refine keepOut_next ?_
      | (with_reducible refine keep_stopCore _ _ ?_) | (with_reducible refine keep_ite ?_ ?_)

theorem keep_execCoreFailure {s0 : State} (core : Nat) (s : State) (h1 : Keep s0 s) : KeepOut s0 (execCoreFailure
    core s) := by
  unfold execCoreFailure
  repeat' first
      | with_reducible assumption | with_reducible refine keepOut_next ?_
      | (with_reducible refine keep_stopCore _ _ ?_) | (with_reducible refine keep_ite ?_ ?_)

theorem keep_rerunOne {s0 : State} (s : State) (core : Nat) (env : Env) (w : WinEntry) (h0 : Keep s0 s) : Keep s0
    (rerunOne s core env w).1 := by
  unfold rerunOne
  try dsimp only
  repeat' first
      | with_reducible assumption | (with_reducible refine keep_devWrite _ _ _ _ _ ?_)
      | (with_reducible refine keep_stashDecode _ _ _ ?_) | (with_reducible refine keep_getWrite _ _ _ _ _ ?_)
      | (with_reducible refine keep_runDesc _ _ _ _ ?_) | split
      | (with_reducible refine keep_fst (by with_reducible assumption) ?_)

theorem keep_rerunAll {s0 : State} (core : Nat) (env : Env) : ∀ (l : List WinEntry) (s : State), Keep s0 s → Keep s0
    (rerunAll core env l s).1
  | [], _, h => h
  | w :: t, s, h => by
    have k := keep_rerunOne s core env w h
    simp only [rerunAll]
    refine keep_ite_fst (keep_rerunAll core env t s h) ?_
    split
    · rename_i e; rw [e] at k; exact keep_rerunAll core env t _ k
    · rename_i e; rw [e] at k; exact k

theorem keep_replayCore {s0 : State} (s : State) (core : Nat) (env : Env) (h0 : Keep s0 s) : Keep s0 (replayCore s
    core env) := by
  unfold replayCore
  repeat' first
      | with_reducible assumption | (with_reducible apply keep_rerunAll)
      | (with_reducible refine keep_updWindow _ _ _ ?_) | (with_reducible refine keep_updCore _ _ _ ?_) | split
      | (with_reducible refine keep_mk ?_)

theorem keep_clearSram {s0 : State} (s : State) (core : Nat) (h0 : Keep s0 s) : Keep s0 (clearSram s core) := by
  exact keep_cores h0 (fun w => wf_filter _ w)

theorem keep_recordFailure {s0 : State} (s : State) (phys : Nat) (h0 : Keep s0 s) : Keep s0 (recordFailure s phys)
    := by
  unfold recordFailure
  repeat' first | with_reducible assumption | (with_reducible refine keep_queueRecord _ _ ?_)

theorem keep_makeHole {s0 : State} (s : State) (core : Nat) (phys : Nat) (h0 : Keep s0 s) : Keep s0 (makeHole s core
    phys) := by
  unfold makeHole
  try dsimp only
  repeat' first
      | with_reducible assumption | (with_reducible refine keep_raiseMod _ _ _ ?_)
      | (with_reducible refine keep_queueRecord _ _ ?_) | (with_reducible refine keep_complete _ _ _ _ _ ?_)
      | (with_reducible refine keep_freePins _ _ ?_) | (with_reducible refine keep_updCore _ _ _ ?_)
      | (with_reducible refine keep_ite ?_ ?_) | (with_reducible refine keep_ite_fst ?_ ?_) | intro _ | split
      | (with_reducible refine keep_foldl ?_ _ ?_) | (with_reducible refine keep_forN ?_ _ ?_)
      | (with_reducible refine keep_foldl_fst ?_ _ ?_) | (with_reducible refine keep_mk ?_)

theorem keep_bindSpare {s0 : State} (s : State) (core : Nat) (phys : Nat) (new : Nat) (h0 : Keep s0 s) : Keep s0
    (bindSpare s core phys new) := by
  unfold bindSpare
  repeat' first
      | with_reducible assumption | (with_reducible refine keep_updCore _ _ _ ?_)
      | (with_reducible refine keep_clearSram _ _ ?_) | (with_reducible refine keep_raiseMod _ _ _ ?_)
      | (with_reducible refine keep_recordFailure _ _ ?_) | (with_reducible refine keep_mk ?_)

theorem keep_execCoreRebind {s0 : State} (core : Nat) (env : Env) (s0_2 : State) (h2 : Keep s0 s0_2) : KeepOut s0
    (execCoreRebind core env s0_2) := by
  unfold execCoreRebind
  try dsimp only
  repeat' first
      | with_reducible assumption | with_reducible refine keepOut_next ?_
      | (with_reducible refine keep_envIn _ _ ?_) | (with_reducible refine keep_makeHole _ _ _ ?_)
      | (with_reducible refine keep_countSbe _ _ _ ?_) | (with_reducible refine keep_replayCore _ _ _ ?_)
      | (with_reducible refine keep_bindSpare _ _ _ _ ?_) | (with_reducible refine keep_ite ?_ ?_)
      | (with_reducible refine keepOut_ite ?_ ?_) | (with_reducible refine keep_ite_fst ?_ ?_) | intro _ | split
      | (with_reducible refine keep_foldl ?_ _ ?_) | (with_reducible refine keep_forN ?_ _ ?_)
      | (with_reducible refine keep_foldl_fst ?_ _ ?_) | (with_reducible refine keep_mk ?_)

theorem keep_execSramDoubleBitError {s0 : State} (core : Nat) (word : Nat) (env : Env) (s0_3 : State) (h3 : Keep s0
    s0_3) : KeepOut s0 (execSramDoubleBitError core word env s0_3) := by
  unfold execSramDoubleBitError
  try dsimp only
  repeat' first
      | with_reducible assumption | with_reducible refine keepOut_next ?_
      | (with_reducible refine keep_envIn _ _ ?_) | (with_reducible refine keep_stopCore _ _ ?_)
      | (with_reducible refine keep_updWindow _ _ _ ?_) | (with_reducible refine keep_countSbe _ _ _ ?_)
      | (with_reducible refine keep_replayCore _ _ _ ?_) | (with_reducible refine keep_ite ?_ ?_)
      | (with_reducible refine keepOut_ite ?_ ?_) | (with_reducible refine keep_ite_fst ?_ ?_) | intro _ | split
      | (with_reducible refine keep_foldl ?_ _ ?_) | (with_reducible refine keep_forN ?_ _ ?_)
      | (with_reducible refine keep_foldl_fst ?_ _ ?_) | (with_reducible refine keep_mk ?_)

theorem keep_oldStatus {s0 : State} (port : Nat) (s : State) (k : Nat) (h1 : Keep s0 s) : Keep s0 (oldStatus port s
    k) := by
  unfold oldStatus
  repeat' first
      | with_reducible assumption | (with_reducible refine keep_hostWrite _ _ _ _ ?_)
      | (with_reducible refine keep_ite ?_ ?_)

theorem keep_moveSub {s0 : State} (img : Bytes) (s : State) (e : Nat × Nat) (h1 : Keep s0 s) : Keep s0 (moveSub img
    s e) := by
  unfold moveSub
  repeat' first | with_reducible assumption | (with_reducible refine keep_updRing _ _ _ ?_)

theorem keep_moveOut {s0 : State} (img : Bytes) (s : State) (e : Nat × Nat) (h1 : Keep s0 s) : Keep s0 (moveOut img
    s e) := by
  unfold moveOut
  repeat' first | with_reducible assumption | (with_reducible refine keep_updORing _ _ _ ?_)

theorem keep_releaseHeld {s0 : State} (oring : Nat) : ∀ (n : Nat) (s : State), Keep s0 s → Keep s0 (releaseHeld
    oring n s)
  | 0, _, h => h
  | n + 1, s, h => by
    have k := keep_execHeldRecordRelease oring s h
    simp only [releaseHeld]
    split
    · rename_i e; exact keep_releaseHeld oring n _ (k.keep _ e)
    · exact h

theorem keep_handOverTo {s0 : State} (s : State) (p : Nat) (h_2 : HandOver) (h0 : Keep s0 s) : Keep s0 (handOverTo s
    p h_2) := by
  unfold handOverTo
  repeat' first
      | with_reducible assumption | (with_reducible refine keep_oldStatus _ _ _ ?_)
      | (with_reducible refine keep_moveSub _ _ _ ?_) | (with_reducible refine keep_moveOut _ _ _ ?_)
      | (with_reducible refine keep_hostWrite _ _ _ _ ?_) | (with_reducible refine keep_updPart _ _ _ ?_)
      | (with_reducible apply keep_releaseHeld) | (with_reducible refine keep_setLeaf _ _ _ _ ?_)
      | (with_reducible refine keep_ite ?_ ?_) | intro _ | (with_reducible refine keep_foldl ?_ _ ?_)

theorem keep_handFinish {s0 : State} (p : Nat) (s : State) (h1 : Keep s0 s) : Keep s0 (handFinish p s) := by
  unfold handFinish
  try dsimp only
  repeat' first
      | with_reducible assumption | (with_reducible refine keep_handOverTo _ _ _ ?_)
      | (with_reducible refine keep_respond _ _ _ ?_) | split | (with_reducible refine keep_foldl ?_ _ ?_)

theorem keep_handsFinish {s0 : State} (s : State) (h0 : Keep s0 s) : Keep s0 (handsFinish s) := by
  unfold handsFinish
  repeat' first
      | with_reducible assumption | (with_reducible refine keep_handFinish _ _ ?_) | intro _
      | (with_reducible refine keep_forN ?_ _ ?_)

theorem keep_handoverAct {s0 : State} (ep : Nat) (tag : BitVec 16) (p : Nat) (newFn : Nat) (force : Nat) (image :
    Nat) (record : Nat) (host : HostIn) (s0_8 : State) (h8 : Keep s0 s0_8) : Keep s0 (handoverAct ep tag p newFn force
    image record host s0_8).1 := by
  unfold handoverAct
  try dsimp only
  repeat' first
      | with_reducible assumption | (with_reducible refine keep_mailPoison _ _ _ _ _ ?_)
      | (with_reducible refine keep_hostStores _ _ ?_) | (with_reducible refine keep_updFn _ _ _ ?_)
      | (with_reducible refine keep_updPart _ _ _ ?_) | (with_reducible refine keep_ite ?_ ?_)
      | (with_reducible refine keep_ite_fst ?_ ?_) | intro _ | split | (with_reducible refine keep_foldl ?_ _ ?_)
      | (with_reducible refine keep_forN ?_ _ ?_) | (with_reducible refine keep_foldl_fst ?_ _ ?_)
      | (with_reducible refine keep_mk ?_)

theorem keep_mailPartHandover {s0 : State} (ep : Nat) (tag : BitVec 16) (part : Byte) (newFn : Byte) (force : Byte)
    (image : BitVec 64) (record : BitVec 64) (host : HostIn) (reply : Bool) (s : State) (h9 : Keep s0 s) : Keep s0
    (mailPartHandover ep tag part newFn force image record host reply s) := by
  unfold mailPartHandover
  try dsimp only
  repeat' first
      | with_reducible assumption | (with_reducible refine keep_respond _ _ _ ?_)
      | (with_reducible refine keep_handoverAct _ _ _ _ _ _ _ _ _ ?_) | split
      | (with_reducible refine keep_fst (by with_reducible assumption) ?_)

theorem keep_execPartHandover {s0 : State} (ep : Nat) (tag : BitVec 16) (part : Byte) (newFn : Byte) (force : Byte)
    (image : BitVec 64) (record : BitVec 64) (host : HostIn) (s : State) (h8 : Keep s0 s) : KeepOut s0 (execPartHandover
    ep tag part newFn force image record host s) := by
  unfold execPartHandover
  repeat' first
      | with_reducible assumption | with_reducible refine keepOut_next ?_
      | (with_reducible refine keep_mailRow _ _ _ _ _ ?_ ?_)
      | (with_reducible refine keep_mailPartHandover _ _ _ _ _ _ _ _ _ _ ?_) | intro _

theorem keep_serveHeld {s0 : State} (s : State) (q : HeldReq) (h0 : Keep s0 s) : Keep s0 (serveHeld s q) := by
  unfold serveHeld
  repeat' first
      | with_reducible assumption | (with_reducible refine keep_mailGetInfo _ _ _ _ ?_)
      | (with_reducible refine keep_mailSensorRead _ _ _ _ _ _ ?_)
      | (with_reducible refine keep_mailLogRead _ _ _ _ _ _ _ _ ?_)
      | (with_reducible refine keep_mailSetMgmtCap _ _ _ _ _ ?_)
      | (with_reducible refine keep_mailReset _ _ _ _ _ ?_)
      | (with_reducible refine keep_mailPartReset _ _ _ _ _ ?_)
      | (with_reducible refine keep_mailPartHandover _ _ _ _ _ _ _ _ _ _ ?_)
      | (with_reducible refine keep_mailCoreReconfig _ _ _ _ ?_)
      | (with_reducible refine keep_mailBootPlanSet _ _ _ _ _ _ _ _ ?_)
      | (with_reducible refine keep_mailAlertMask _ _ _ _ _ ?_)
      | (with_reducible refine keep_mailMviewRead _ _ _ _ ?_)
      | (with_reducible refine keep_mailMviewClear _ _ _ _ _ _ ?_)
      | (with_reducible refine keep_mailFwUpdate _ _ _ _ _ _ _ _ _ ?_)
      | (with_reducible refine keep_mailFwStatus _ _ _ _ ?_)
      | (with_reducible refine keep_mailFwActivate _ _ _ _ _ ?_)
      | (with_reducible refine keep_mailSvnCommit _ _ _ _ ?_) | (with_reducible refine keep_mailUnlisted _ _ _ _ ?_)
      | (with_reducible refine keep_serveCerts _ _ _ ?_) | (with_reducible refine keep_serveMeasure _ _ _ ?_)
      | (with_reducible refine keep_serveMctp _ _ _ ?_) | (with_reducible refine keep_serveDiscovery _ _ _ ?_)
      | (with_reducible refine keep_serveReading _ _ _ ?_)
      | (with_reducible refine keep_serveRequestUpdate _ _ _ _ _ ?_)
      | (with_reducible refine keep_serveActivate _ _ ?_) | split

theorem keep_execDrabexWatchdogExpiry {s0 : State} (s : State) (h0 : Keep s0 s) : KeepOut s0
    (execDrabexWatchdogExpiry s) := by
  unfold execDrabexWatchdogExpiry
  repeat' first
      | with_reducible assumption | with_reducible refine keepOut_next ?_
      | (with_reducible refine keep_setSlot _ _ _ ?_) | split | (with_reducible refine keep_mk ?_)

theorem keep_execDbxRestart {s0 : State} (s : State) (h0 : Keep s0 s) : KeepOut s0 (execDbxRestart s) := by
  unfold execDbxRestart
  try dsimp only
  repeat' first
      | with_reducible assumption | with_reducible refine keepOut_next ?_
      | (with_reducible refine keep_raiseMod _ _ _ ?_) | (with_reducible refine keep_postNotice _ _ _ _ ?_)
      | (with_reducible refine keep_decideLasers _ ?_) | (with_reducible refine keep_serveHeld _ _ ?_)
      | (with_reducible refine keep_ite ?_ ?_) | (with_reducible refine keepOut_ite ?_ ?_)
      | (with_reducible refine keep_ite_fst ?_ ?_) | intro _ | split | (with_reducible refine keep_foldl ?_ _ ?_)
      | (with_reducible refine keep_forN ?_ _ ?_) | (with_reducible refine keep_foldl_fst ?_ _ ?_)
      | (with_reducible refine keep_mk ?_)

theorem logAppend_sub (log : List LogEntry) (e : LogEntry) : (logAppend log e).Sublist (log ++ [e]) := by
  unfold logAppend
  split
  · exact (List.drop_sublist _ _).append (List.Sublist.refl _)
  · exact List.Sublist.refl _

theorem logOk_move {s : State} {e : LogEntry} {t : List LogEntry} (he : s.dbx.logHeld = e :: t)
    (hp : ((s.dbx.log ++ s.dbx.logHeld).map (·.seq)).Pairwise (· < ·)) (hb : ∀ e ∈ s.dbx.log ++ s.dbx.logHeld, e.seq
        < s.dbx.logSeq)
    (h1 : s.dbx.logHeld.length ≤ 4096) (h2 : s.dbx.log.length ≤ 262144) :
    logOk { s with dbx := { s.dbx with log := logAppend s.dbx.log e, logHeld := t } } := by
  have hs : (logAppend s.dbx.log e ++ t).Sublist (s.dbx.log ++ s.dbx.logHeld) := by
    rw [he, show s.dbx.log ++ e :: t = (s.dbx.log ++ [e]) ++ t by simp]
    exact (logAppend_sub _ _).append (List.Sublist.refl _)
  refine ⟨hp.sublist (hs.map _), fun x hx => hb x (hs.subset hx), ?_, ?_⟩
  · rw [he, List.length_cons] at h1; dsimp only; omega
  · dsimp only; unfold logAppend
    split <;> simp <;> omega

theorem keep_execLogEntryWrite {s0 : State} (s : State) (h0 : Keep s0 s) : KeepOut s0 (execLogEntryWrite s) := by
  refine keepOut_next ?_
  split
  · exact h0
  · rename_i e t he
    refine keep_ite h0 (keep_dbx h0 (Nat.le_refl _) ?_)
    intro ⟨hp, hb, h1, h2⟩
    exact logOk_move he hp hb h1 h2

theorem keep_updKt {s0 : State} (s : State) (g : Kettle → Kettle) (h : Keep s0 s) (hf : (g s.kt).f = s.kt.f)
    (hd : (g s.kt).depthF = s.kt.depthF) (hh : (g s.kt).heldF = s.kt.heldF) : Keep s0 (updKt s g) := by
  refine keep_kt h ?_
  rw [levelsOk_iff, levelsOk_iff, hf, hd, hh]
  exact id

theorem keep_detBreach {s0 : State} (s : State) (h0 : Keep s0 s) : Keep s0 (detBreach s) := by
  unfold detBreach
  try dsimp only
  repeat' first
      | with_reducible assumption | (with_reducible refine keep_raiseBreach _ ?_)
      | (with_reducible refine keep_ite ?_ ?_) | (with_reducible refine keep_ite_fst ?_ ?_) | intro _ | split
      | (with_reducible refine keep_foldl ?_ _ ?_) | (with_reducible refine keep_forN ?_ _ ?_)
      | (with_reducible refine keep_foldl_fst ?_ _ ?_) | (with_reducible refine keep_mk ?_)

theorem keep_startSkip {s0 : State} (s : State) (h0 : Keep s0 s) : Keep s0 (startSkip s) := by
  unfold startSkip
  refine keep_detBreach _ ?_
  refine keep_upd (s := updKt s (fun k => { k with depth := 1, depthF := k.f, skipTick := s.power.tick.toNat, overs
      := 0 })) (keep_kt h0 ?_) rfl
  rw [levelsOk_iff, levelsOk_iff]
  exact fun w => ⟨w.1, w.1, w.2.2⟩

theorem keep_endSkip {s0 : State} (s : State) (h0 : Keep s0 s) : Keep s0 (endSkip s) := by
  unfold endSkip
  try dsimp only
  repeat' first
      | with_reducible assumption | (with_reducible refine keep_updKt _ _ ?_ rfl rfl rfl)
      | (with_reducible refine keep_detBreach _ ?_) | (with_reducible refine keep_updKt _ _ ?_ rfl rfl rfl)
      | (with_reducible refine keep_ite ?_ ?_) | (with_reducible refine keep_ite_fst ?_ ?_) | intro _ | split
      | (with_reducible refine keep_foldl ?_ _ ?_) | (with_reducible refine keep_forN ?_ _ ?_)
      | (with_reducible refine keep_foldl_fst ?_ _ ?_) | (with_reducible refine keep_mk ?_)

theorem keep_startDeep {s0 : State} (s : State) (h0 : Keep s0 s) : Keep s0 (startDeep s) := by
  unfold startDeep
  repeat' first
      | with_reducible assumption | (with_reducible refine keep_updKt _ _ ?_ rfl rfl rfl)
      | (with_reducible refine keep_raiseMod _ _ _ ?_) | (with_reducible refine keep_updKt _ _ ?_ rfl rfl rfl)
      | (with_reducible refine keep_ite ?_ ?_)

theorem keep_execLimiterSample {s0 : State} (milliamps : Nat) (s : State) (h1 : Keep s0 s) : KeepOut s0
    (execLimiterSample milliamps s) := by
  unfold execLimiterSample
  try dsimp only
  repeat' first
      | with_reducible assumption | with_reducible refine keepOut_next ?_
      | (with_reducible refine keep_updKt _ _ ?_ rfl rfl rfl) | (with_reducible refine keep_startSkip _ ?_)
      | (with_reducible refine keep_startDeep _ ?_) | (with_reducible refine keep_updKt _ _ ?_ rfl rfl rfl) | split

theorem keep_limiterPeriod {s0 : State} (s : State) (p : Nat) (currentBelow : Bool) (h0 : Keep s0 s) : Keep s0
    (limiterPeriod s p currentBelow) := by
  unfold limiterPeriod
  try dsimp only
  repeat' first
      | with_reducible assumption | (with_reducible refine keep_startDeep _ ?_)
      | (with_reducible refine keep_endSkip _ ?_) | (with_reducible refine keep_updKt _ _ ?_ rfl rfl rfl)
      | (with_reducible refine keep_updKt _ _ ?_ rfl rfl rfl) | split

theorem keep_belowFloor {s0 : State} (s : State) (h0 : Keep s0 s) : Keep s0 (belowFloor s) := by
  unfold belowFloor
  repeat' first
      | with_reducible assumption | (with_reducible refine keep_raiseMod _ _ _ ?_)
      | (with_reducible refine keep_updKt _ _ ?_ rfl rfl rfl)
      | (with_reducible refine keep_updKt _ _ ?_ rfl rfl rfl) | (with_reducible refine keep_ite ?_ ?_)

theorem keep_telemetry {s0 : State} (s : State) (missingRail : Option Nat) (h0 : Keep s0 s) : Keep s0 (telemetry s
    missingRail) := by
  unfold telemetry
  split
  · refine keep_kt h0 ?_
    rw [levelsOk_iff, levelsOk_iff]
    exact fun w => ⟨w.1, w.2.1, fun _ e => by cases e⟩
  · dsimp only
    have k : Keep s0 (updKt s (fun k => { k with missing := s.kt.missing + 1 })) := keep_updKt _ _ h0 rfl rfl rfl
    refine keep_ite (keep_raiseMod _ _ _ ?_) k
    have m (w : s.kt.f ≤ 224) : max (floorLevel s) s.kt.f ≤ 224 := Nat.max_le.mpr ⟨floorLevel_le s, w⟩
    refine keep_kt k ?_
    rw [levelsOk_iff, levelsOk_iff]
    refine fun w => ⟨m w.1, w.2.1, fun _ e => ?_⟩
    cases e
    exact m w.1

theorem keep_takeRails {s0 : State} (s : State) (missing : Option Nat) (rails : List RailReport) (h0 : Keep s0 s) :
    Keep s0 (takeRails s missing rails) := by
  unfold takeRails
  repeat' first | with_reducible assumption | (with_reducible refine keep_mk ?_)

theorem nextLevel_le (s : State) (p quiet : Nat) : nextLevel s p quiet ≤ 224 := by
  unfold nextLevel
  dsimp only
  split
  · exact floorLevel_le s
  · exact Nat.min_le_left _ _

theorem keep_execCapLoopPeriod {s0 : State} (watts : Nat) (centivolts : Nat) (currentBelow : Bool) (report :
    Telemetry) (s0_4 : State) (h4 : Keep s0 s0_4) : KeepOut s0 (execCapLoopPeriod watts centivolts currentBelow report
    s0_4) := by
  unfold execCapLoopPeriod
  dsimp only
  have k := keep_telemetry _ report.missing (keep_updKt (takeRails s0_4 report.missing report.rails)
    (fun k => { k with watts := watts % 2 ^ 16, volts := centivolts % 2 ^ 16, mgmtNow := k.mgmtCap })
        (keep_takeRails _ _ _ h4) rfl rfl rfl)
  generalize telemetry (updKt (takeRails s0_4 report.missing report.rails)
    (fun k => { k with watts := watts % 2 ^ 16, volts := centivolts % 2 ^ 16, mgmtNow := k.mgmtCap }))
        report.missing = s at k ⊢
  generalize (if 100 * watts < 96 * capWatts s then s.kt.quiet + 1 else 0) = quiet
  refine keepOut_next (keep_belowFloor _ (keep_limiterPeriod _ _ _ ?_))
  refine keep_power (s := updKt s (fun k => { k with
    quiet, f := if k.heldF.isSome then k.f else nextLevel s watts quiet })) (keep_kt k ?_) rfl id
  rw [levelsOk_iff, levelsOk_iff]
  refine fun w => ⟨?_, w.2⟩
  dsimp only
  split
  · exact w.1
  · exact nextLevel_le _ _ _

theorem keep_execCoreCodeSwitch {s0 : State} (core : Nat) (s : State) (h1 : Keep s0 s) : KeepOut s0
    (execCoreCodeSwitch core s) := by
  unfold execCoreCodeSwitch
  repeat' first
      | with_reducible assumption | with_reducible refine keepOut_next ?_
      | (with_reducible refine keep_updCore _ _ _ ?_) | split

theorem keep_execVcoreDroop {s0 : State} (rail : DomainVolts) (s : State) (h1 : Keep s0 s) : KeepOut s0
    (execVcoreDroop rail s) := by
  unfold execVcoreDroop
  repeat' first
      | with_reducible assumption | with_reducible refine keepOut_next ?_ | (with_reducible refine keep_ite ?_ ?_)
      | (with_reducible refine keep_mk ?_)

theorem keep_execDroopStretchEnd {s0 : State} (rail : DomainVolts) (s : State) (h1 : Keep s0 s) : KeepOut s0
    (execDroopStretchEnd rail s) := by
  unfold execDroopStretchEnd
  repeat' first
      | with_reducible assumption | with_reducible refine keepOut_next ?_ | (with_reducible refine keep_ite ?_ ?_)
      | (with_reducible refine keep_mk ?_)

theorem keep_keepReadings {s0 : State} (num : Nat) (ev : Nat) (l : List Reading) (s : State) (h3 : Keep s0 s) : Keep
    s0 (keepReadings num ev l s) := by
  unfold keepReadings
  repeat' first
      | with_reducible assumption | (with_reducible refine keep_raiseMod _ _ _ ?_)
      | (with_reducible refine keep_ite ?_ ?_) | intro _ | (with_reducible refine keep_foldl ?_ _ ?_)
      | (with_reducible refine keep_mk ?_)

theorem keep_setRefresh {s0 : State} (ts : List (Nat × Int)) (s : State) (h1 : Keep s0 s) : Keep s0 (setRefresh ts
    s) := by
  unfold setRefresh
  repeat' first
      | with_reducible assumption | intro _ | (with_reducible refine keep_foldl ?_ _ ?_)
      | (with_reducible refine keep_mk ?_)

theorem keep_laserHot {s0 : State} (r : Reading) (s : State) (h1 : Keep s0 s) : Keep s0 (laserHot r s) := by
  unfold laserHot
  repeat' first
      | with_reducible assumption | (with_reducible refine keep_raiseMod _ _ _ ?_) | split
      | (with_reducible refine keep_mk ?_)

theorem keep_execThermalSensorScan {s0 : State} (die : List Reading) (stack : List Reading) (laserBank : Reading)
    (s0_3 : State) (h3 : Keep s0 s0_3) : KeepOut s0 (execThermalSensorScan die stack laserBank s0_3) := by
  unfold execThermalSensorScan
  try dsimp only
  repeat' first
      | with_reducible assumption | with_reducible refine keepOut_next ?_
      | (with_reducible refine keep_laserHot _ _ ?_) | (with_reducible refine keep_keepReadings _ _ _ _ ?_)
      | (with_reducible refine keep_thermalTrip _ _ _ ?_) | (with_reducible refine keep_setRefresh _ _ ?_)
      | (with_reducible refine keep_updKt _ _ ?_ rfl rfl rfl) | (with_reducible refine keep_startSkip _ ?_)
      | (with_reducible refine keep_updKt _ _ ?_ rfl rfl rfl) | split

theorem keep_execConverterFail {s0 : State} (converter : Nat) (s : State) (h1 : Keep s0 s) : KeepOut s0
    (execConverterFail converter s) := by
  unfold execConverterFail
  try dsimp only
  repeat' first
      | with_reducible assumption | with_reducible refine keepOut_next ?_
      | (with_reducible refine keep_updKt _ _ ?_ rfl rfl rfl) | (with_reducible refine keep_raiseMod _ _ _ ?_)
      | (with_reducible refine keep_alertOn _ ?_) | (with_reducible refine keep_shutDown _ _ _ _ ?_)
      | (with_reducible refine keep_updKt _ _ ?_ rfl rfl rfl) | (with_reducible refine keep_ite ?_ ?_)
      | (with_reducible refine keepOut_ite ?_ ?_) | (with_reducible refine keep_ite_fst ?_ ?_) | intro _ | split
      | (with_reducible refine keep_foldl ?_ _ ?_) | (with_reducible refine keep_forN ?_ _ ?_)
      | (with_reducible refine keep_foldl_fst ?_ _ ?_) | (with_reducible refine keep_mk ?_)

theorem keep_execPhaseFail {s0 : State} (rail : Nat) (phase : Nat) (s : State) (h2 : Keep s0 s) : KeepOut s0
    (execPhaseFail rail phase s) := by
  unfold execPhaseFail
  repeat' first
      | with_reducible assumption | with_reducible refine keepOut_next ?_
      | (with_reducible refine keep_raiseMod _ _ _ ?_) | (with_reducible refine keep_updKt _ _ ?_ rfl rfl rfl)
      | (with_reducible refine keep_updKt _ _ ?_ rfl rfl rfl) | (with_reducible refine keep_ite ?_ ?_)

theorem keep_execNop {s0 : State} (op : Nat) (env : Env) (s : State) (h2 : Keep s0 s) : KeepOut s0 (execNop op env
    s) := by
  unfold execNop
  repeat' first
      | with_reducible assumption | with_reducible refine keepOut_next ?_
      | (with_reducible refine keep_runOp _ _ _ _ _ ?_ ?_) | (with_reducible refine keep_finishOk _ _ _ _ _ ?_)
      | intro _

theorem keep_execEvtSet {s0 : State} (op : Nat) (env : Env) (s : State) (h2 : Keep s0 s) : KeepOut s0 (execEvtSet op
    env s) := by
  unfold execEvtSet
  repeat' first
      | with_reducible assumption | with_reducible refine keepOut_next ?_
      | (with_reducible refine keep_runOp _ _ _ _ _ ?_ ?_) | (with_reducible refine keep_setEvt _ _ _ ?_)
      | (with_reducible refine keep_finishOk _ _ _ _ _ ?_) | (with_reducible refine keep_ite ?_ ?_) | intro _

theorem keep_execEvtAdd {s0 : State} (op : Nat) (env : Env) (s : State) (h2 : Keep s0 s) : KeepOut s0 (execEvtAdd op
    env s) := by
  unfold execEvtAdd
  repeat' first
      | with_reducible assumption | with_reducible refine keepOut_next ?_
      | (with_reducible refine keep_runOp _ _ _ _ _ ?_ ?_) | (with_reducible refine keep_setEvt _ _ _ ?_)
      | (with_reducible refine keep_finishOk _ _ _ _ _ ?_) | (with_reducible refine keep_ite ?_ ?_) | intro _

theorem keep_windowTick {s0 : State} (s : State) (core : Nat) (id : Nat) (h0 : Keep s0 s) : Keep s0 (windowTick s
    core id) := by
  unfold windowTick
  repeat' first
      | with_reducible assumption | (with_reducible refine keep_updWindow _ _ _ ?_)
      | (with_reducible refine keep_ite ?_ ?_)

theorem keep_execTimestamp {s0 : State} (op : Nat) (env : Env) (s : State) (h2 : Keep s0 s) : KeepOut s0
    (execTimestamp op env s) := by
  unfold execTimestamp
  repeat' first
      | with_reducible assumption | with_reducible refine keepOut_next ?_
      | (with_reducible refine keep_runOp _ _ _ _ _ ?_ ?_) | (with_reducible refine keep_failRun _ _ _ _ _ ?_)
      | (with_reducible refine keep_finishOk _ _ _ _ _ ?_) | (with_reducible refine keep_hostWrite _ _ _ _ ?_)
      | (with_reducible refine keep_windowTick _ _ _ ?_) | (with_reducible refine keep_devWrite _ _ _ _ _ ?_)
      | (with_reducible refine keep_ite ?_ ?_) | intro _

theorem keep_timeoutWaiting {s0 : State} (s : State) (ring : Nat) (index : Nat) (h0 : Keep s0 s) : Keep s0
    (timeoutWaiting s ring index) := by
  unfold timeoutWaiting
  try dsimp only
  repeat' first
      | with_reducible assumption | (with_reducible refine keep_updRing _ _ _ ?_)
      | (with_reducible refine keep_completeUndispatched _ _ _ _ _ _ _ _ ?_)
      | (with_reducible refine keep_stepUndecided _ _ _ ?_) | (with_reducible refine keep_ite ?_ ?_)
      | (with_reducible refine keep_ite_fst ?_ ?_) | intro _ | split | (with_reducible refine keep_foldl ?_ _ ?_)
      | (with_reducible refine keep_forN ?_ _ ?_) | (with_reducible refine keep_foldl_fst ?_ _ ?_)
      | (with_reducible refine keep_mk ?_)

theorem keep_timeoutArm {s0 : State} (s : State) (o : Op) (h0 : Keep s0 s) : Keep s0 (timeoutArm s o) := by
  unfold timeoutArm
  repeat' first
      | with_reducible assumption | (with_reducible refine keep_failArming _ _ _ _ _ ?_)
      | (with_reducible refine keep_complete _ _ _ _ _ ?_) | split

theorem keep_timeoutColl {s0 : State} (s : State) (o : Op) (h0 : Keep s0 s) : Keep s0 (timeoutColl s o) := by
  unfold timeoutColl
  repeat' first
      | with_reducible assumption | (with_reducible refine keep_failColl _ _ _ _ _ ?_)
      | (with_reducible refine keep_failRun _ _ _ _ _ ?_) | (with_reducible refine keep_complete _ _ _ _ _ ?_)
      | (with_reducible refine keep_voteUndecided _ _ ?_) | split

theorem keep_timeoutChange {s0 : State} (s : State) (o : Op) (c : EpochChange) (h0 : Keep s0 s) : Keep s0
    (timeoutChange s o c) := by
  unfold timeoutChange
  repeat' first
      | with_reducible assumption | (with_reducible refine keep_inject _ ?_)
      | (with_reducible refine keep_complete _ _ _ _ _ ?_) | (with_reducible refine keep_ite ?_ ?_)
      | (with_reducible refine keep_mk ?_)

theorem keep_timeoutOp {s0 : State} (s : State) (o : Op) (h0 : Keep s0 s) : Keep s0 (timeoutOp s o) := by
  unfold timeoutOp
  try dsimp only
  repeat' first
      | with_reducible assumption | (with_reducible refine keep_setStash _ _ _ _ ?_)
      | (with_reducible refine keep_complete _ _ _ _ _ ?_) | (with_reducible refine keep_drawFree _ _ ?_)
      | (with_reducible refine keep_timeoutArm _ _ ?_) | (with_reducible refine keep_timeoutColl _ _ ?_)
      | (with_reducible refine keep_timeoutChange _ _ _ ?_) | (with_reducible refine keep_failTimed _ _ _ _ ?_)
      | split

theorem keep_execDescriptorTimeout {s0 : State} (at_ : TimerOf) (s : State) (h1 : Keep s0 s) : KeepOut s0
    (execDescriptorTimeout at_ s) := by
  unfold execDescriptorTimeout
  repeat' first
      | with_reducible assumption | with_reducible refine keepOut_next ?_
      | (with_reducible refine keep_timeoutWaiting _ _ _ ?_) | (with_reducible refine keep_timeoutOp _ _ ?_) | split

end Sys2Proof.Machine
end

