-- ==== Sys2Proof/Laws/KeepAll.lean ====
section
/-! SUPPORT. Every command, and the idle period, keeps the whole-machine properties. -/

namespace Sys2Proof.Machine

open Sys2Proof

/-- Every command keeps the whole-machine properties. -/
theorem keep_exec {s0 : State} (c : Instr) (s : State) (h : Keep s0 s) : KeepOut s0 (exec c s) := by
  cases c with
  | descriptorFetch ring host => dsimp only [exec]; exact keep_execDescriptorFetch ring host s h
  | dispatch ring => dsimp only [exec]; exact keep_execDispatch ring s h
  | descriptorTimeout at_ => dsimp only [exec]; exact keep_execDescriptorTimeout at_ s h
  | heldRecordRelease oring => dsimp only [exec]; exact keep_execHeldRecordRelease oring s h
  | doorbellSweep fn host => dsimp only [exec]; exact keep_execDoorbellSweep fn host s h
  | qeWake fn value host => dsimp only [exec]; exact keep_execQeWake fn value host s h
  | irqLeafClear fn offset value => dsimp only [exec]; exact keep_execIrqLeafClear fn offset value s h
  | irqMaskWrite fn value => dsimp only [exec]; exact keep_execIrqMaskWrite fn value s h
  | ringEnable fn ring value => dsimp only [exec]; exact keep_execRingEnable fn ring value s h
  | ringDisable fn ring value => dsimp only [exec]; exact keep_execRingDisable fn ring value s h
  | oringEnable fn oring value => dsimp only [exec]; exact keep_execOringEnable fn oring value s h
  | driverNegotiate fn value => dsimp only [exec]; exact keep_execDriverNegotiate fn value s h
  | partitionEnable fn p value => dsimp only [exec]; exact keep_execPartitionEnable fn p value s h
  | partitionDisable fn p value => dsimp only [exec]; exact keep_execPartitionDisable fn p value s h
  | regionEnable fn rid value => dsimp only [exec]; exact keep_execRegionEnable fn rid value s h
  | regionInitDone rid => dsimp only [exec]; exact keep_execRegionInitDone rid s h
  | regionDisable fn rid value => dsimp only [exec]; exact keep_execRegionDisable fn rid value s h
  | layerTableLoad fn p value mem => dsimp only [exec]; exact keep_execLayerTableLoad fn p value mem s h
  | caddyEnable fn p value => dsimp only [exec]; exact keep_execCaddyEnable fn p value s h
  | caddyDisable fn p value => dsimp only [exec]; exact keep_execCaddyDisable fn p value s h
  | detModeWrite fn value => dsimp only [exec]; exact keep_execDetModeWrite fn value s h
  | mbAsyncRemove fn value => dsimp only [exec]; exact keep_execMbAsyncRemove fn value s h
  | registerWrite fn offset enables value => dsimp only [exec]; exact keep_execRegisterWrite fn offset enables value s h
  | bar2Read fn addr len mem => dsimp only [exec]; exact keep_execBar2Read fn addr len mem s h
  | bar2Write fn addr data => dsimp only [exec]; exact keep_execBar2Write fn addr data s h
  | nop op env => dsimp only [exec]; exact keep_execNop op env s h
  | evtSet op env => dsimp only [exec]; exact keep_execEvtSet op env s h
  | evtAdd op env => dsimp only [exec]; exact keep_execEvtAdd op env s h
  | timestamp op env => dsimp only [exec]; exact keep_execTimestamp op env s h
  | gemm op env => dsimp only [exec]; exact keep_execGemm op env s h
  | expr op env => dsimp only [exec]; exact keep_execExpr op env s h
  | rowReduce op env => dsimp only [exec]; exact keep_execRowReduce op env s h
  | colReduce op env => dsimp only [exec]; exact keep_execColReduce op env s h
  | softmaxFwd op env => dsimp only [exec]; exact keep_execSoftmaxFwd op env s h
  | softmaxBwd op env => dsimp only [exec]; exact keep_execSoftmaxBwd op env s h
  | normFwd op env => dsimp only [exec]; exact keep_execNormFwd op env s h
  | normBwd op env => dsimp only [exec]; exact keep_execNormBwd op env s h
  | copy op env => dsimp only [exec]; exact keep_execCopy op env s h
  | transpose op env => dsimp only [exec]; exact keep_execTranspose op env s h
  | pack op env => dsimp only [exec]; exact keep_execPack op env s h
  | unpack op env => dsimp only [exec]; exact keep_execUnpack op env s h
  | gather op env => dsimp only [exec]; exact keep_execGather op env s h
  | scatterAdd op env => dsimp only [exec]; exact keep_execScatterAdd op env s h
  | hostRead op env => dsimp only [exec]; exact keep_execHostRead op env s h
  | hostWrite op env => dsimp only [exec]; exact keep_execHostWrite op env s h
  | rngUniform op env => dsimp only [exec]; exact keep_execRngUniform op env s h
  | rngNormal op env => dsimp only [exec]; exact keep_execRngNormal op env s h
  | rngBernoulli op env => dsimp only [exec]; exact keep_execRngBernoulli op env s h
  | stashPut op env => dsimp only [exec]; exact keep_execStashPut op env s h
  | stashGet op env => dsimp only [exec]; exact keep_execStashGet op env s h
  | stashFree op env => dsimp only [exec]; exact keep_execStashFree op env s h
  | stArm op env => dsimp only [exec]; exact keep_execStArm op env s h
  | stShardSet op env => dsimp only [exec]; exact keep_execStShardSet op env s h
  | stSchedSet op env => dsimp only [exec]; exact keep_execStSchedSet op env s h
  | allReduce op env => dsimp only [exec]; exact keep_execAllReduce op env s h
  | reduceScatter op env => dsimp only [exec]; exact keep_execReduceScatter op env s h
  | allGather op env => dsimp only [exec]; exact keep_execAllGather op env s h
  | broadcast op env => dsimp only [exec]; exact keep_execBroadcast op env s h
  | reduce op env => dsimp only [exec]; exact keep_execReduce op env s h
  | allToAll op env => dsimp only [exec]; exact keep_execAllToAll op env s h
  | barrier op env => dsimp only [exec]; exact keep_execBarrier op env s h
  | stepVote op env => dsimp only [exec]; exact keep_execStepVote op env s h
  | send op env => dsimp only [exec]; exact keep_execSend op env s h
  | recv op env => dsimp only [exec]; exact keep_execRecv op env s h
  | mcastPut op env => dsimp only [exec]; exact keep_execMcastPut op env s h
  | groupSet op env => dsimp only [exec]; exact keep_execGroupSet op env s h
  | planStage op env => dsimp only [exec]; exact keep_execPlanStage op env s h
  | planCommit op env => dsimp only [exec]; exact keep_execPlanCommit op env s h
  | fence op env => dsimp only [exec]; exact keep_execFence op env s h
  | mcastSet op env => dsimp only [exec]; exact keep_execMcastSet op env s h
  | getInfo ep tag => dsimp only [exec]; exact keep_execGetInfo ep tag s h
  | sensorRead ep tag first count => dsimp only [exec]; exact keep_execSensorRead ep tag first count s h
  | logRead ep tag seq count addr host => dsimp only [exec]; exact keep_execLogRead ep tag seq count addr host s h
  | setMgmtCap ep tag cap => dsimp only [exec]; exact keep_execSetMgmtCap ep tag cap s h
  | reset ep tag domain => dsimp only [exec]; exact keep_execReset ep tag domain s h
  | partReset ep tag part => dsimp only [exec]; exact keep_execPartReset ep tag part s h
  | partHandover ep tag part newFn force image record host => dsimp only [exec]; exact keep_execPartHandover ep tag part newFn force image record host s h
  | coreReconfig ep tag => dsimp only [exec]; exact keep_execCoreReconfig ep tag s h
  | bootPlanSet ep tag addr len wait host => dsimp only [exec]; exact keep_execBootPlanSet ep tag addr len wait host s h
  | alertMask ep tag mask => dsimp only [exec]; exact keep_execAlertMask ep tag mask s h
  | mviewRead ep tag => dsimp only [exec]; exact keep_execMviewRead ep tag s h
  | mviewClear ep tag block leaves => dsimp only [exec]; exact keep_execMviewClear ep tag block leaves s h
  | fwUpdate ep tag addr len flags signatureOk host => dsimp only [exec]; exact keep_execFwUpdate ep tag addr len flags signatureOk host s h
  | fwUpdateStepDone ending => dsimp only [exec]; exact keep_execFwUpdateStepDone ending s h
  | fwStatus ep tag => dsimp only [exec]; exact keep_execFwStatus ep tag s h
  | fwActivate ep tag slot => dsimp only [exec]; exact keep_execFwActivate ep tag slot s h
  | svnCommit ep tag => dsimp only [exec]; exact keep_execSvnCommit ep tag s h
  | inputPowerApplied bu => dsimp only [exec]; exact keep_execInputPowerApplied bu s h
  | bootWaitExpiry => dsimp only [exec]; exact keep_execBootWaitExpiry s h
  | brownOutTrip mv => dsimp only [exec]; exact keep_execBrownOutTrip mv s h
  | overvoltageTrip mv => dsimp only [exec]; exact keep_execOvervoltageTrip mv s h
  | bladeWithdrawal mv => dsimp only [exec]; exact keep_execBladeWithdrawal mv s h
  | rootPllLoss bu => dsimp only [exec]; exact keep_execRootPllLoss bu s h
  | coldReset bu => dsimp only [exec]; exact keep_execColdReset bu s h
  | warmReset bu => dsimp only [exec]; exact keep_execWarmReset bu s h
  | fabricReset bu => dsimp only [exec]; exact keep_execFabricReset bu s h
  | computeReset => dsimp only [exec]; exact keep_execComputeReset s h
  | functionLevelReset fn => dsimp only [exec]; exact keep_execFunctionLevelReset fn s h
  | perstAssert port => dsimp only [exec]; exact keep_execPerstAssert port s h
  | d3hotReturn fn => dsimp only [exec]; exact keep_execD3hotReturn fn s h
  | portDlDown port => dsimp only [exec]; exact keep_execPortDlDown port s h
  | portHoldExpiry port => dsimp only [exec]; exact keep_execPortHoldExpiry port s h
  | coreAckTimeout core => dsimp only [exec]; exact keep_execCoreAckTimeout core s h
  | coreFailure core => dsimp only [exec]; exact keep_execCoreFailure core s h
  | coreRebind core env => dsimp only [exec]; exact keep_execCoreRebind core env s h
  | sramDoubleBitError core word env => dsimp only [exec]; exact keep_execSramDoubleBitError core word env s h
  | channelRepairMark channel cause => dsimp only [exec]; exact keep_execChannelRepairMark channel cause s h
  | liveMigrationStart channel => dsimp only [exec]; exact keep_execLiveMigrationStart channel s h
  | migrationSwitch channel ending => dsimp only [exec]; exact keep_execMigrationSwitch channel ending s h
  | offlineRetrainDone stack phys passed => dsimp only [exec]; exact keep_execOfflineRetrainDone stack phys passed s h
  | inPlaceRetrain channel passed => dsimp only [exec]; exact keep_execInPlaceRetrain channel passed s h
  | patrolScrub rid granule block mem => dsimp only [exec]; exact keep_execPatrolScrub rid granule block mem s h
  | wcEntryFlush channel index mem => dsimp only [exec]; exact keep_execWcEntryFlush channel index mem s h
  | repairRecordWrite => dsimp only [exec]; exact keep_execRepairRecordWrite s h
  | stashReexecution op env => dsimp only [exec]; exact keep_execStashReexecution op env s h
  | stashFreeDeferred op => dsimp only [exec]; exact keep_execStashFreeDeferred op s h
  | slotClaim op layer => dsimp only [exec]; exact keep_execSlotClaim op layer s h
  | reducedChunkApply coll chunk env => dsimp only [exec]; exact keep_execReducedChunkApply coll chunk env s h
  | shardFinish op entry env => dsimp only [exec]; exact keep_execShardFinish op entry env s h
  | ruleVResume op entry env => dsimp only [exec]; exact keep_execRuleVResume op entry env s h
  | computeValuesReceive mcast src msg => dsimp only [exec]; exact keep_execComputeValuesReceive mcast src msg s h
  | computeValuesAck op member msg answer => dsimp only [exec]; exact keep_execComputeValuesAck op member msg answer s h
  | computeValuesResend op => dsimp only [exec]; exact keep_execComputeValuesResend op s h
  | statisticsExchange op host mem => dsimp only [exec]; exact keep_execStatisticsExchange op host mem s h
  | voteContribute op => dsimp only [exec]; exact keep_execVoteContribute op s h
  | voteDecision op record => dsimp only [exec]; exact keep_execVoteDecision op record s h
  | collectiveOpen op env => dsimp only [exec]; exact keep_execCollectiveOpen op env s h
  | chunkReceive via bytes => dsimp only [exec]; exact keep_execChunkReceive via bytes s h
  | grantReceive coll fromRank count => dsimp only [exec]; exact keep_execGrantReceive coll fromRank count s h
  | ackReceive coll fromRank ack => dsimp only [exec]; exact keep_execAckReceive coll fromRank ack s h
  | nakReceive coll fromRank key => dsimp only [exec]; exact keep_execNakReceive coll fromRank key s h
  | chunkResendTimeout coll toRank key => dsimp only [exec]; exact keep_execChunkResendTimeout coll toRank key s h
  | abortNoticeReceive coll kind rank => dsimp only [exec]; exact keep_execAbortNoticeReceive coll kind rank s h
  | voteRecordReceive via bytes => dsimp only [exec]; exact keep_execVoteRecordReceive via bytes s h
  | packetReceive via bytes => dsimp only [exec]; exact keep_execPacketReceive via bytes s h
  | packetTransmit seg turn => dsimp only [exec]; exact keep_execPacketTransmit seg turn s h
  | creditReturn port tag => dsimp only [exec]; exact keep_execCreditReturn port tag s h
  | expressAnnounce port tag => dsimp only [exec]; exact keep_execExpressAnnounce port tag s h
  | expressBusy port tag => dsimp only [exec]; exact keep_execExpressBusy port tag s h
  | expressRetry seg vc => dsimp only [exec]; exact keep_execExpressRetry seg vc s h
  | expressEnd port tag => dsimp only [exec]; exact keep_execExpressEnd port tag s h
  | expressIdleKeepalive seg => dsimp only [exec]; exact keep_execExpressIdleKeepalive seg s h
  | epochSwitch => dsimp only [exec]; exact keep_execEpochSwitch s h
  | previousBankRetire => dsimp only [exec]; exact keep_execPreviousBankRetire s h
  | identityRecordSend port => dsimp only [exec]; exact keep_execIdentityRecordSend port s h
  | identityRecordReceive port bytes => dsimp only [exec]; exact keep_execIdentityRecordReceive port bytes s h
  | neighbourRecordTimeout port => dsimp only [exec]; exact keep_execNeighbourRecordTimeout port s h
  | fabLinkDown port => dsimp only [exec]; exact keep_execFabLinkDown port s h
  | routeFaultNotice payload => dsimp only [exec]; exact keep_execRouteFaultNotice payload s h
  | flitReceive seg lane index light => dsimp only [exec]; exact keep_execFlitReceive seg lane index light s h
  | relayAck port tag => dsimp only [exec]; exact keep_execRelayAck port tag s h
  | relayNak port tag => dsimp only [exec]; exact keep_execRelayNak port tag s h
  | replayTimeout seg seq => dsimp only [exec]; exact keep_execReplayTimeout seg seq s h
  | lanesFrame port tag => dsimp only [exec]; exact keep_execLanesFrame port tag s h
  | laneRetrainDone seg lane => dsimp only [exec]; exact keep_execLaneRetrainDone seg lane s h
  | enobWindowEnd seg lane enob xt => dsimp only [exec]; exact keep_execEnobWindowEnd seg lane enob xt s h
  | keepSend port => dsimp only [exec]; exact keep_execKeepSend port s h
  | keepFrame port tag => dsimp only [exec]; exact keep_execKeepFrame port tag s h
  | loopOpenTimeout port => dsimp only [exec]; exact keep_execLoopOpenTimeout port s h
  | portTrainingTimeout port => dsimp only [exec]; exact keep_execPortTrainingTimeout port s h
  | ringLockCheck port lane tone margin marker => dsimp only [exec]; exact keep_execRingLockCheck port lane tone margin marker s h
  | ringSweepDone port lane => dsimp only [exec]; exact keep_execRingSweepDone port lane s h
  | laserPowerSample laser delta => dsimp only [exec]; exact keep_execLaserPowerSample laser delta s h
  | laserStop laser => dsimp only [exec]; exact keep_execLaserStop laser s h
  | spareWarmDone laser => dsimp only [exec]; exact keep_execSpareWarmDone laser s h
  | spareLockTimeout laser => dsimp only [exec]; exact keep_execSpareLockTimeout laser s h
  | laserChangeoverDone wavelength => dsimp only [exec]; exact keep_execLaserChangeoverDone wavelength s h
  | tagEmitterFailure port => dsimp only [exec]; exact keep_execTagEmitterFailure port s h
  | capLoopPeriod watts centivolts currentBelow report => dsimp only [exec]; exact keep_execCapLoopPeriod watts centivolts currentBelow report s h
  | limiterSample milliamps => dsimp only [exec]; exact keep_execLimiterSample milliamps s h
  | coreCodeSwitch core => dsimp only [exec]; exact keep_execCoreCodeSwitch core s h
  | vcoreDroop rail => dsimp only [exec]; exact keep_execVcoreDroop rail s h
  | thermalSensorScan die stack laserBank => dsimp only [exec]; exact keep_execThermalSensorScan die stack laserBank s h
  | converterFail converter => dsimp only [exec]; exact keep_execConverterFail converter s h
  | phaseFail rail phase => dsimp only [exec]; exact keep_execPhaseFail rail phase s h
  | drabexWatchdogExpiry => dsimp only [exec]; exact keep_execDrabexWatchdogExpiry s h
  | dbxRestart => dsimp only [exec]; exact keep_execDbxRestart s h
  | logEntryWrite => dsimp only [exec]; exact keep_execLogEntryWrite s h
  | getCerts port object => dsimp only [exec]; exact keep_execGetCerts port object s h
  | measure port object => dsimp only [exec]; exact keep_execMeasure port object s h
  | doeAbort port => dsimp only [exec]; exact keep_execDoeAbort port s h
  | doeDiscovery port index => dsimp only [exec]; exact keep_execDoeDiscovery port index s h
  | mctpControlMessage ep msg => dsimp only [exec]; exact keep_execMctpControlMessage ep msg s h
  | pldmDiscovery ep command => dsimp only [exec]; exact keep_execPldmDiscovery ep command s h
  | pldmGetSensorReading ep request => dsimp only [exec]; exact keep_execPldmGetSensorReading ep request s h
  | pldmRequestUpdate ep manifest len signatureOk => dsimp only [exec]; exact keep_execPldmRequestUpdate ep manifest len signatureOk s h
  | pldmActivateFirmware ep => dsimp only [exec]; exact keep_execPldmActivateFirmware ep s h
  | jtagInstruction instr => dsimp only [exec]; exact keep_execJtagInstruction instr s h
  | d3hotEntry fn => dsimp only [exec]; exact keep_execD3hotEntry fn s h
  | perstDeassert port => dsimp only [exec]; exact keep_execPerstDeassert port s h
  | portLinkUp port => dsimp only [exec]; exact keep_execPortLinkUp port s h
  | oringDisable fn oring value => dsimp only [exec]; exact keep_execOringDisable fn oring value s h
  | reverseRelayFrame port tag => dsimp only [exec]; exact keep_execReverseRelayFrame port tag s h
  | droopStretchEnd rail => dsimp only [exec]; exact keep_execDroopStretchEnd rail s h
  | lowWordRead fn at_ => dsimp only [exec]; exact keep_execLowWordRead fn at_ s h
  | bladeInsertion bu => dsimp only [exec]; exact keep_execBladeInsertion bu s h
  | unlistedMailboxOp ep req => dsimp only [exec]; exact keep_execUnlistedMailboxOp ep req s h

/-- What an empty queue does keeps everything but TICK, which an idle period raises by 1 while the root clock runs. -/
theorem keep_idleWork {s0 : State} (s : State) (h : Keep s0 s) : Keep s0 (readsFinish (handsFinish s)) :=
  keep_readsFinish _ (keep_handsFinish _ h)

end Sys2Proof.Machine
end

