-- ==== Sys2Proof/Laws/Quiet.lean ====
section
/-! SUPPORT. What the descriptor operations of a core, the queue engine and the memory never touch: one lemma for each
operation, saying that it leaves power, pins, partitions, regions, the layer table, plans, links, the Kettle, the core
map, the Steeper and the Plait's contexts as they are. -/

namespace Sys2Proof.Machine

open Sys2Proof

/-- From `s` to `t` nothing but the queues, function registers, memory bytes, channels, versions, statistics, sequence
numbers, the counts of VFs and of corrected SRAM errors, host memory and the log may change. -/
structure Quiet (s t : State) : Prop where
  pending : t.pending = s.pending
  lastRead : t.lastRead = s.lastRead
  part : t.part = s.part
  power : t.power = s.power
  ports : ∀ p, getPort t p = { getPort s p with vfs := (getPort t p).vfs, vfsLost := (getPort t p).vfsLost }
  owner : t.fabOwner = s.fabOwner ∧ t.fabOwnerPart = s.fabOwnerPart
  parts : t.parts = s.parts
  cores : { t.cores with sram := [], sbe := [] } = { s.cores with sram := [], sbe := [] }
  regions : t.dram.regions = s.dram.regions
  layers : t.tr.layers = s.tr.layers
  st : t.st = s.st
  ctxs : t.pl.ctxs = s.pl.ctxs
  fab : t.fab = s.fab
  links : t.links = s.links
  kt : t.kt = s.kt
  slots : t.dbx.slots = s.dbx.slots ∧ t.dbx.update = s.dbx.update ∧ t.dbx.nextBoot = s.dbx.nextBoot

/-- The same for the outcome of a command. -/
structure QuietOut (s : State) (o : Out) : Prop where
  quiet : ∀ t, o = .next t → Quiet s t

theorem quiet_refl (s : State) : Quiet s s := ⟨rfl, rfl, rfl, rfl, fun _ => rfl, ⟨rfl, rfl⟩, rfl, rfl, rfl, rfl, rfl, rfl, rfl, rfl, rfl, ⟨rfl, rfl, rfl⟩⟩

theorem quiet_trans {s t u : State} (a : Quiet s t) (b : Quiet t u) : Quiet s u where
  pending := b.pending.trans a.pending
  lastRead := b.lastRead.trans a.lastRead
  part := b.part.trans a.part
  power := b.power.trans a.power
  ports p := by rw [b.ports p, a.ports p]
  owner := ⟨b.owner.1.trans a.owner.1, b.owner.2.trans a.owner.2⟩
  parts := b.parts.trans a.parts
  cores := b.cores.trans a.cores
  regions := b.regions.trans a.regions
  layers := b.layers.trans a.layers
  st := b.st.trans a.st
  ctxs := b.ctxs.trans a.ctxs
  fab := b.fab.trans a.fab
  links := b.links.trans a.links
  kt := b.kt.trans a.kt
  slots := ⟨b.slots.1.trans a.slots.1, b.slots.2.1.trans a.slots.2.1, b.slots.2.2.trans a.slots.2.2⟩

/-- An update of the parts that may change. -/
theorem quiet_mk {s0 s : State} {free : Nat} {host : Mem} {rd : List (Nat × Nat × Nat)} {fns : Tbl FnRegs} {q : Queues} {cores : Cores}
    {dram : Dram} {tr : Training} {pl : Plait} {dbx : Drabex} (h : Quiet s0 s)
    (e1 : { cores with sram := [], sbe := [] } = { s.cores with sram := [], sbe := [] } := by rfl)
    (e2 : dram.regions = s.dram.regions := by rfl)
    (e3 : tr.layers = s.tr.layers := by rfl) (e4 : pl.ctxs = s.pl.ctxs := by rfl) (e5 : dbx.slots = s.dbx.slots := by rfl)
    (e6 : dbx.update = s.dbx.update := by rfl) (e7 : dbx.nextBoot = s.dbx.nextBoot := by rfl) :
    Quiet s0 (State.mk s.pending free host s.lastRead rd s.part s.power fns s.ports s.fabOwner s.fabOwnerPart s.parts q cores dram tr s.st
      pl s.fab s.links s.kt dbx) :=
  quiet_trans h ⟨rfl, rfl, rfl, rfl, fun _ => rfl, ⟨rfl, rfl⟩, rfl, e1, e2, e3, rfl, e4, rfl, rfl, rfl, ⟨e5, e6, e7⟩⟩

/-- An update of the counts of corrected SRAM errors. -/
theorem quiet_sbe {s0 s : State} {l : Tbl Nat} (h : Quiet s0 s) : Quiet s0 { s with cores := { s.cores with sbe := l } } :=
  quiet_trans h ⟨rfl, rfl, rfl, rfl, fun _ => rfl, ⟨rfl, rfl⟩, rfl, rfl, rfl, rfl, rfl, rfl, rfl, rfl, rfl, ⟨rfl, rfl, rfl⟩⟩

/-- An update of a port's count of VFs. -/
theorem quiet_vfs {s0 s : State} (p n : Nat) (h : Quiet s0 s) :
    Quiet s0 (updPort s p (fun x => { x with vfs := n, vfsLost := max x.vfsLost x.vfs })) := by
  refine quiet_trans h ⟨rfl, rfl, rfl, rfl, fun k => ?_, ⟨rfl, rfl⟩, rfl, rfl, rfl, rfl, rfl, rfl, rfl, rfl, rfl, ⟨rfl, rfl, rfl⟩⟩
  simp only [updPort, getPort, tget_tset]
  split
  · subst_vars; rfl
  · rfl

theorem quiet_fst {s0 a : State} {β : Type} {b : β} {p : State × β} (e : p = (a, b)) (h : Quiet s0 p.1) : Quiet s0 a := by
  subst e; exact h

theorem quiet_foldl {s0 : State} {β : Type} {g : State → β → State} (hg : ∀ t x, Quiet s0 t → Quiet s0 (g t x)) :
    ∀ (l : List β) {s : State}, Quiet s0 s → Quiet s0 (l.foldl g s)
  | [], _, h => h
  | x :: l, _, h => quiet_foldl hg l (hg _ x h)

theorem quiet_foldl_fst {s0 : State} {β γ : Type} {g : State × γ → β → State × γ}
    (hg : ∀ t x, Quiet s0 t.1 → Quiet s0 (g t x).1) : ∀ (l : List β) {s : State × γ}, Quiet s0 s.1 → Quiet s0 (l.foldl g s).1
  | [], _, h => h
  | x :: l, _, h => quiet_foldl_fst hg l (hg _ x h)

theorem quiet_forN {s0 : State} {g : Nat → State → State} (hg : ∀ i t, Quiet s0 t → Quiet s0 (g i t)) :
    ∀ (n : Nat) {s : State}, Quiet s0 s → Quiet s0 (forN n g s)
  | 0, _, h => h
  | n + 1, _, h => hg n _ (quiet_forN hg n h)

theorem quiet_ite {s0 a b : State} {c : Prop} [Decidable c] (ha : Quiet s0 a) (hb : Quiet s0 b) : Quiet s0 (if c then a else b) := by
  split
  · exact ha
  · exact hb

theorem quiet_ite_fst {s0 : State} {β : Type} {a b : State × β} {c : Prop} [Decidable c] (ha : Quiet s0 a.1) (hb : Quiet s0 b.1) :
    Quiet s0 (if c then a else b).1 := by
  split
  · exact ha
  · exact hb

theorem quiet_ite_ran {s0 : State} {a b : Ran} {c : Prop} [Decidable c] (ha : Quiet s0 a.s) (hb : Quiet s0 b.s) :
    Quiet s0 (if c then a else b).s := by
  split
  · exact ha
  · exact hb

theorem quietOut_ite {s0 : State} {a b : Out} {c : Prop} [Decidable c] (ha : QuietOut s0 a) (hb : QuietOut s0 b) :
    QuietOut s0 (if c then a else b) := by
  split
  · exact ha
  · exact hb

theorem quietOut_next {s0 t : State} (h : Quiet s0 t) : QuietOut s0 (.next t) := ⟨fun _ e => by cases e; exact h⟩

end Sys2Proof.Machine
end

