-- ==== Sys2Proof/Laws/QuietOps.lean ====
section
/-! SUPPORT. What `Quiet` says of each operation of the queue engine, the cores and the memory. -/

namespace Sys2Proof.Machine

open Sys2Proof

set_option Elab.async false

theorem quiet_setFn {s0 : State} (s : State) (f : Nat) (r : FnRegs) (h0 : Quiet s0 s) : Quiet s0 (setFn s f r) := by
  unfold setFn
  repeat' first | with_reducible assumption | (with_reducible refine quiet_mk ?_)

theorem quiet_updFn {s0 : State} (s : State) (f : Nat) (g : FnRegs → FnRegs) (h0 : Quiet s0 s) : Quiet s0 (updFn s f g)
    := by
  unfold updFn
  repeat' first | with_reducible assumption | (with_reducible refine quiet_setFn _ _ _ ?_)

theorem quiet_setRing {s0 : State} (s : State) (r : Nat) (x : Ring) (h0 : Quiet s0 s) : Quiet s0 (setRing s r x) := by
  unfold setRing
  repeat' first | with_reducible assumption | (with_reducible refine quiet_mk ?_)

theorem quiet_updRing {s0 : State} (s : State) (r : Nat) (g : Ring → Ring) (h0 : Quiet s0 s) : Quiet s0 (updRing s r g)
    := by
  unfold updRing
  repeat' first | with_reducible assumption | (with_reducible refine quiet_setRing _ _ _ ?_)

theorem quiet_setORing {s0 : State} (s : State) (o : Nat) (x : ORing) (h0 : Quiet s0 s) : Quiet s0 (setORing s o x) := by
  unfold setORing
  repeat' first | with_reducible assumption | (with_reducible refine quiet_mk ?_)

theorem quiet_updORing {s0 : State} (s : State) (o : Nat) (g : ORing → ORing) (h0 : Quiet s0 s) : Quiet s0 (updORing s
    o g) := by
  unfold updORing
  repeat' first | with_reducible assumption | (with_reducible refine quiet_setORing _ _ _ ?_)

theorem quiet_setEvt {s0 : State} (s : State) (e : Nat) (x : EvtCounter) (h0 : Quiet s0 s) : Quiet s0 (setEvt s e x)
    := by
  unfold setEvt
  repeat' first | with_reducible assumption | (with_reducible refine quiet_mk ?_)

theorem quiet_updWindow {s0 : State} (s : State) (l : Nat) (g : Window → Window) (h0 : Quiet s0 s) : Quiet s0
    (updWindow s l g) := by
  unfold updWindow
  repeat' first | with_reducible assumption | (with_reducible refine quiet_mk ?_)

theorem quiet_setChannel {s0 : State} (s : State) (l : Nat) (c : Channel) (h0 : Quiet s0 s) : Quiet s0 (setChannel s l
    c) := by
  unfold setChannel
  repeat' first | with_reducible assumption | (with_reducible refine quiet_mk ?_)

theorem quiet_updChannel {s0 : State} (s : State) (l : Nat) (g : Channel → Channel) (h0 : Quiet s0 s) : Quiet s0
    (updChannel s l g) := by
  unfold updChannel
  repeat' first | with_reducible assumption | (with_reducible refine quiet_setChannel _ _ _ ?_)

theorem quiet_setVer {s0 : State} (s : State) (l : Nat) (v : VerState) (h0 : Quiet s0 s) : Quiet s0 (setVer s l v) := by
  unfold setVer
  repeat' first | with_reducible assumption | (with_reducible refine quiet_mk ?_)

theorem quiet_setGov {s0 : State} (s : State) (l : Nat) (v : GovState) (h0 : Quiet s0 s) : Quiet s0 (setGov s l v) := by
  unfold setGov
  repeat' first | with_reducible assumption | (with_reducible refine quiet_mk ?_)

theorem quiet_setStash {s0 : State} (s : State) (p : Nat) (entry : Nat) (x : Option Stash) (h0 : Quiet s0 s) : Quiet s0
    (setStash s p entry x) := by
  unfold setStash
  repeat' first | with_reducible assumption | (with_reducible refine quiet_mk ?_)

theorem quiet_setGroup {s0 : State} (s : State) (g : Nat) (x : Group) (h0 : Quiet s0 s) : Quiet s0 (setGroup s g x) := by
  unfold setGroup
  repeat' first | with_reducible assumption | (with_reducible refine quiet_mk ?_)

theorem quiet_setLeaf {s0 : State} (s : State) (f : Nat) (off : Nat) (bits : Nat) (h0 : Quiet s0 s) : Quiet s0 (setLeaf
    s f off bits) := by
  unfold setLeaf
  repeat' first | with_reducible assumption | (with_reducible refine quiet_updFn _ _ _ ?_)

theorem quiet_setOwnerLeaf {s0 : State} (s : State) (p : Nat) (off : Nat) (bits : Nat) (h0 : Quiet s0 s) : Quiet s0
    (setOwnerLeaf s p off bits) := by
  unfold setOwnerLeaf
  repeat' first
      | with_reducible assumption | (with_reducible refine quiet_setLeaf _ _ _ _ ?_)
      | (with_reducible refine quiet_ite ?_ ?_)

theorem quiet_hostStores {s0 : State} (s : State) (h_1 : HostIn) (h0 : Quiet s0 s) : Quiet s0 (hostStores s h_1) := by
  exact quiet_mk h0

theorem quiet_hostWrite {s0 : State} (s : State) (port : Nat) (addr : Nat) (b : Bytes) (h0 : Quiet s0 s) : Quiet s0
    (hostWrite s port addr b) := by
  exact quiet_mk h0

theorem quiet_addLog {s0 : State} (s : State) (kind : Nat) (code : Nat) (part : Nat) (sev : Nat) (args : Bytes) (h0 :
    Quiet s0 s) : Quiet s0 (addLog s kind code part sev args) := by
  refine quiet_trans h0 ?_
  rw [addLog_eq]
  unfold addLog; dsimp only
  refine quiet_mk (quiet_refl s) rfl rfl rfl rfl ?_ ?_ ?_ <;> (repeat' split) <;> rfl

theorem quiet_oringStatus {s0 : State} (s : State) (p : Nat) (o : Nat) (h0 : Quiet s0 s) : Quiet s0 (oringStatus s p o)
    := by
  unfold oringStatus
  repeat' first | with_reducible assumption | (with_reducible refine quiet_hostWrite _ _ _ _ ?_)

theorem quiet_putRecord {s0 : State} (s : State) (p : Nat) (o : Nat) (b : Bytes) (h0 : Quiet s0 s) : Quiet s0
    (putRecord s p o b) := by
  unfold putRecord
  repeat' first
      | with_reducible assumption | (with_reducible refine quiet_hostWrite _ _ _ _ ?_)
      | (with_reducible refine quiet_oringStatus _ _ _ ?_) | (with_reducible refine quiet_setORing _ _ _ ?_)

theorem quiet_holdRecord {s0 : State} (s : State) (p : Nat) (o : Nat) (r : HeldRec) (h0 : Quiet s0 s) : Quiet s0
    (holdRecord s p o r) := by
  unfold holdRecord
  repeat' first
      | with_reducible assumption | (with_reducible refine quiet_setOwnerLeaf _ _ _ _ ?_)
      | (with_reducible refine quiet_updORing _ _ _ ?_)

theorem quiet_eventToPart {s0 : State} (s : State) (p : Nat) (b : Bytes) (h0 : Quiet s0 s) : Quiet s0 (eventToPart s p
    b) := by
  unfold eventToPart
  repeat' first
      | with_reducible assumption | (with_reducible refine quiet_setOwnerLeaf _ _ _ _ ?_)
      | (with_reducible refine quiet_putRecord _ _ _ _ ?_) | (with_reducible refine quiet_updORing _ _ _ ?_)
      | (with_reducible refine quiet_holdRecord _ _ _ _ ?_) | (with_reducible refine quiet_ite ?_ ?_)

theorem quiet_setPfLeaf {s0 : State} (s : State) (port : Nat) (off : Nat) (bits : Nat) (h0 : Quiet s0 s) : Quiet s0
    (setPfLeaf s port off bits) := by
  unfold setPfLeaf
  repeat' first
      | with_reducible assumption | (with_reducible refine quiet_setLeaf _ _ _ _ ?_)
      | (with_reducible refine quiet_ite ?_ ?_)

theorem quiet_raise {s0 : State} (s : State) (code : Nat) (part : Nat) (args : Bytes) (h0 : Quiet s0 s) : Quiet s0
    (raise s code part args) := by
  unfold raise
  repeat' first
      | with_reducible assumption | (with_reducible refine quiet_addLog _ _ _ _ _ _ ?_)
      | (with_reducible refine quiet_setPfLeaf _ _ _ _ ?_) | (with_reducible refine quiet_eventToPart _ _ _ ?_)
      | (with_reducible refine quiet_ite ?_ ?_) | intro _ | (with_reducible refine quiet_forN ?_ _ ?_)
      | (with_reducible refine quiet_mk ?_)

theorem quiet_raiseMod {s0 : State} (s : State) (code : Nat) (args : Bytes) (h0 : Quiet s0 s) : Quiet s0 (raiseMod s
    code args) := by
  unfold raiseMod
  repeat' first | with_reducible assumption | (with_reducible refine quiet_raise _ _ _ _ ?_)

theorem quiet_configWrite {s0 : State} (s : State) (e : Nat × ConfigWrite) (h0 : Quiet s0 s) : Quiet s0 (configWrite s
    e) := by
  unfold configWrite
  repeat' first
      | (with_reducible refine quiet_vfs _ _ ?_) | with_reducible assumption
      | (with_reducible refine quiet_updFn _ _ _ ?_) | (with_reducible refine quiet_updPort _ _ _ ?_) | split

theorem quiet_configWrites {s0 : State} (s : State) (h_1 : HostIn) (h0 : Quiet s0 s) : Quiet s0 (configWrites s h_1)
    := by
  unfold configWrites
  repeat' first
      | with_reducible assumption | (with_reducible refine quiet_configWrite _ _ ?_) | intro _
      | (with_reducible refine quiet_foldl ?_ _ ?_)

theorem quiet_noteAer {s0 : State} (s : State) (f : Nat) (bits : Word32) (h0 : Quiet s0 s) : Quiet s0 (noteAer s f
    bits) := by
  unfold noteAer
  repeat' first
      | with_reducible assumption | (with_reducible refine quiet_updFn _ _ _ ?_)
      | (with_reducible refine quiet_ite ?_ ?_)

theorem quiet_notePoison {s0 : State} (s : State) (f : Nat) (d : HostData) (h0 : Quiet s0 s) : Quiet s0 (notePoison s f
    d) := by
  unfold notePoison
  try dsimp only
  repeat' first
      | with_reducible assumption | (with_reducible refine quiet_noteAer _ _ _ ?_)
      | (with_reducible refine quiet_ite ?_ ?_) | (with_reducible refine quiet_ite_fst ?_ ?_) | intro _ | split
      | (with_reducible refine quiet_foldl ?_ _ ?_) | (with_reducible refine quiet_forN ?_ _ ?_)
      | (with_reducible refine quiet_foldl_fst ?_ _ ?_) | (with_reducible refine quiet_mk ?_)

theorem quiet_signalEvt {s0 : State} (s : State) (e : Nat) (fail : Bool) (h0 : Quiet s0 s) : Quiet s0 (signalEvt s e
    fail) := by
  unfold signalEvt
  repeat' first
      | with_reducible assumption | (with_reducible refine quiet_setEvt _ _ _ ?_)
      | (with_reducible refine quiet_ite ?_ ?_)

theorem quiet_fenceAdd {s0 : State} (s : State) (layer : Nat) (slot : Nat) (h0 : Quiet s0 s) : Quiet s0 (fenceAdd s
    layer slot) := by
  unfold fenceAdd
  repeat' first | with_reducible assumption | (with_reducible refine quiet_setVer _ _ _ ?_)

theorem quiet_fenceSub {s0 : State} (s : State) (layer : Nat) (slot : Nat) (h0 : Quiet s0 s) : Quiet s0 (fenceSub s
    layer slot) := by
  unfold fenceSub
  repeat' first | with_reducible assumption | (with_reducible refine quiet_setVer _ _ _ ?_)

theorem quiet_releaseLatches {s0 : State} (s : State) (ls : List Latch) (h0 : Quiet s0 s) : Quiet s0 (releaseLatches s
    ls) := by
  unfold releaseLatches
  repeat' first
      | with_reducible assumption | (with_reducible refine quiet_fenceSub _ _ _ ?_) | intro _
      | (with_reducible refine quiet_foldl ?_ _ ?_)

theorem quiet_releasePins {s0 : State} (s : State) (ps : List Pin) (h0 : Quiet s0 s) : Quiet s0 (releasePins s ps) := by
  unfold releasePins
  repeat' first
      | with_reducible assumption | (with_reducible refine quiet_fenceSub _ _ _ ?_) | intro _
      | (with_reducible refine quiet_foldl ?_ _ ?_)

theorem quiet_removeOp {s0 : State} (s : State) (id : Nat) (h0 : Quiet s0 s) : Quiet s0 (removeOp s id) := by
  unfold removeOp
  repeat' first | with_reducible assumption | (with_reducible refine quiet_mk ?_)

theorem quiet_updOp {s0 : State} (s : State) (id : Nat) (g : Op → Op) (h0 : Quiet s0 s) : Quiet s0 (updOp s id g) := by
  unfold updOp
  repeat' first | with_reducible assumption | (with_reducible refine quiet_mk ?_)

theorem quiet_windowDone {s0 : State} (s : State) (core : Nat) (op : Nat) (st : Nat) (srel : Bool) (h0 : Quiet s0 s) :
    Quiet s0 (windowDone s core op st srel) := by
  unfold windowDone
  repeat' first
      | with_reducible assumption | (with_reducible refine quiet_updWindow _ _ _ ?_)
      | (with_reducible refine quiet_ite ?_ ?_)

theorem quiet_recentDone {s0 : State} (s : State) (ring : Nat) (pos : Nat) (st : Nat) (ls : List Latch) (h0 : Quiet s0
    s) : Quiet s0 (recentDone s ring pos st ls) := by
  unfold recentDone
  repeat' first | with_reducible assumption | (with_reducible refine quiet_updRing _ _ _ ?_)

theorem quiet_recordOut {s0 : State} (s : State) (p : Nat) (ring : Nat) (irq : Bool) (op : Option Nat) (b : Bytes)
    (h0 : Quiet s0 s) : Quiet s0 (recordOut s p ring irq op b) := by
  unfold recordOut
  try dsimp only
  repeat' first
      | with_reducible assumption | (with_reducible refine quiet_putRecord _ _ _ _ ?_)
      | (with_reducible refine quiet_setOwnerLeaf _ _ _ _ ?_) | (with_reducible refine quiet_updOp _ _ _ ?_)
      | (with_reducible refine quiet_holdRecord _ _ _ _ ?_) | split

theorem quiet_consumeSeq {s0 : State} (s : State) (p : Nat) (d : Bytes) (h0 : Quiet s0 s) : Quiet s0 (consumeSeq s p d)
    := by
  unfold consumeSeq
  repeat' first
      | with_reducible assumption | (with_reducible refine quiet_setGroup _ _ _ ?_)
      | (with_reducible refine quiet_ite ?_ ?_)

theorem quiet_completeUndispatched {s0 : State} (s : State) (p : Nat) (ring : Nat) (pos : Nat) (d : Bytes) (signal :
    Bool) (st : Nat) (xs : Nat) (h0 : Quiet s0 s) : Quiet s0 (completeUndispatched s p ring pos d signal st xs) := by
  unfold completeUndispatched
  repeat' first
      | with_reducible assumption | (with_reducible refine quiet_consumeSeq _ _ _ ?_)
      | (with_reducible refine quiet_signalEvt _ _ _ ?_) | (with_reducible refine quiet_recentDone _ _ _ _ _ ?_)
      | (with_reducible refine quiet_recordOut _ _ _ _ _ _ ?_) | (with_reducible refine quiet_ite ?_ ?_)

theorem quiet_complete {s0 : State} (s : State) (o : Op) (st : Nat) (xs : Nat) (info : Nat) (h0 : Quiet s0 s) : Quiet
    s0 (complete s o st xs info) := by
  unfold complete
  try dsimp only
  repeat' first
      | with_reducible assumption | (with_reducible refine quiet_consumeSeq _ _ _ ?_)
      | (with_reducible refine quiet_signalEvt _ _ _ ?_) | (with_reducible refine quiet_releaseLatches _ _ ?_)
      | (with_reducible refine quiet_recentDone _ _ _ _ _ ?_) | (with_reducible refine quiet_windowDone _ _ _ _ _ ?_)
      | (with_reducible refine quiet_recordOut _ _ _ _ _ _ ?_) | (with_reducible refine quiet_updOp _ _ _ ?_)
      | (with_reducible refine quiet_removeOp _ _ ?_) | split

theorem quiet_drawFree {s0 : State} (s : State) (n : Nat) (h0 : Quiet s0 s) : Quiet s0 (drawFree s n) := by
  exact quiet_mk h0

theorem quiet_ringStatus {s0 : State} (s : State) (ring : Nat) (h0 : Quiet s0 s) : Quiet s0 (ringStatus s ring) := by
  unfold ringStatus
  repeat' first | with_reducible assumption | (with_reducible refine quiet_hostWrite _ _ _ _ ?_) | split

theorem quiet_stopRing {s0 : State} (s : State) (ring : Nat) (err : Nat) (h0 : Quiet s0 s) : Quiet s0 (stopRing s ring
    err) := by
  unfold stopRing
  repeat' first
      | with_reducible assumption | (with_reducible refine quiet_ringStatus _ _ ?_)
      | (with_reducible refine quiet_updRing _ _ _ ?_) | (with_reducible refine quiet_setOwnerLeaf _ _ _ _ ?_) | split

theorem quiet_dramUpsets {s0 : State} (s : State) (m : MemIn) (h0 : Quiet s0 s) : Quiet s0 (dramUpsets s m) := by
  exact quiet_mk h0

theorem quiet_clearFlips {s0 : State} (s : State) (rid : Nat) (blk : Nat) (h0 : Quiet s0 s) : Quiet s0 (clearFlips s
    rid blk) := by
  exact quiet_mk h0

theorem quiet_setFlips {s0 : State} (s : State) (rid : Nat) (blk : Nat) (b : Bytes) (h0 : Quiet s0 s) : Quiet s0
    (setFlips s rid blk b) := by
  exact quiet_mk h0

theorem quiet_raiseUncorrected {s0 : State} (s : State) (rid : Nat) (blk : Nat) (h0 : Quiet s0 s) : Quiet s0
    (raiseUncorrected s rid blk) := by
  unfold raiseUncorrected
  repeat' first | with_reducible assumption | (with_reducible refine quiet_raiseMod _ _ _ ?_)

theorem quiet_repairCopy {s0 : State} (m : MemIn) (s : State) (rid : Nat) (blk : Nat) (h1 : Quiet s0 s) : Quiet s0
    (repairCopy m s rid blk) := by
  unfold repairCopy
  try dsimp only
  repeat' first
      | with_reducible assumption | (with_reducible refine quiet_setFlips _ _ _ _ ?_)
      | (with_reducible refine quiet_raiseUncorrected _ _ _ ?_) | split

theorem quiet_copySlot {s0 : State} (m : MemIn) (s : State) (ch : Nat) (q : Nat) (h1 : Quiet s0 s) : Quiet s0 (copySlot
    m s ch q) := by
  unfold copySlot
  try dsimp only
  repeat' first
      | with_reducible assumption | (with_reducible refine quiet_repairCopy _ _ _ _ ?_)
      | (with_reducible refine quiet_ite ?_ ?_) | (with_reducible refine quiet_ite_fst ?_ ?_) | intro _ | split
      | (with_reducible refine quiet_foldl ?_ _ ?_) | (with_reducible refine quiet_forN ?_ _ ?_)
      | (with_reducible refine quiet_foldl_fst ?_ _ ?_) | (with_reducible refine quiet_mk ?_)

theorem quiet_retireSlot {s0 : State} (m : MemIn) (s0_1 : State) (ch : Nat) (q : Nat) (h1 : Quiet s0 s0_1) : Quiet s0
    (retireSlot m s0_1 ch q) := by
  unfold retireSlot
  try dsimp only
  repeat' first
      | with_reducible assumption | (with_reducible refine quiet_copySlot _ _ _ _ ?_)
      | (with_reducible refine quiet_updChannel _ _ _ ?_) | (with_reducible refine quiet_raiseMod _ _ _ ?_)
      | (with_reducible refine quiet_ite ?_ ?_) | (with_reducible refine quiet_ite_fst ?_ ?_) | intro _ | split
      | (with_reducible refine quiet_foldl ?_ _ ?_) | (with_reducible refine quiet_forN ?_ _ ?_)
      | (with_reducible refine quiet_foldl_fst ?_ _ ?_) | (with_reducible refine quiet_mk ?_)

theorem quiet_mapRow {s0 : State} (s : State) (phys : Nat) (bank : Nat) (row : Nat) (n : Nat) (spare : Nat) (h0 :
    Quiet s0 s) : Quiet s0 (mapRow s phys bank row n spare) := by
  unfold mapRow
  repeat' first | with_reducible assumption | (with_reducible refine quiet_mk ?_)

theorem quiet_rowFault {s0 : State} (m : MemIn) (s : State) (ch : Nat) (q : Nat) (h1 : Quiet s0 s) : Quiet s0 (rowFault
    m s ch q) := by
  unfold rowFault
  try dsimp only
  repeat' first
      | with_reducible assumption | (with_reducible refine quiet_mapRow _ _ _ _ _ _ ?_)
      | (with_reducible refine quiet_copySlot _ _ _ _ ?_) | (with_reducible refine quiet_raiseMod _ _ _ ?_)
      | (with_reducible refine quiet_retireSlot _ _ _ _ ?_) | (with_reducible refine quiet_ite ?_ ?_)
      | (with_reducible refine quiet_ite_fst ?_ ?_) | intro _ | split | (with_reducible refine quiet_foldl ?_ _ ?_)
      | (with_reducible refine quiet_forN ?_ _ ?_) | (with_reducible refine quiet_foldl_fst ?_ _ ?_)
      | (with_reducible refine quiet_mk ?_)

theorem quiet_markRepair {s0 : State} (s : State) (ch : Nat) (h0 : Quiet s0 s) : Quiet s0 (markRepair s ch) := by
  unfold markRepair
  repeat' first
      | with_reducible assumption | (with_reducible refine quiet_ite ?_ ?_) | (with_reducible refine quiet_mk ?_)

theorem quiet_badBlock {s0 : State} (m : MemIn) (s : State) (rid : Nat) (blk : Nat) (cls : Nat) (w : Bytes) (h1 :
    Quiet s0 s) : Quiet s0 (badBlock m s rid blk cls w) := by
  unfold badBlock
  try dsimp only
  repeat' first
      | with_reducible assumption | (with_reducible refine quiet_raiseUncorrected _ _ _ ?_)
      | (with_reducible refine quiet_rowFault _ _ _ _ ?_) | (with_reducible refine quiet_ite ?_ ?_)
      | (with_reducible refine quiet_ite_fst ?_ ?_) | intro _ | split | (with_reducible refine quiet_foldl ?_ _ ?_)
      | (with_reducible refine quiet_forN ?_ _ ?_) | (with_reducible refine quiet_foldl_fst ?_ _ ?_)
      | (with_reducible refine quiet_mk ?_)

theorem quiet_judgeBlock {s0 : State} (s : State) (m : MemIn) (rid : Nat) (blk : Nat) (h0 : Quiet s0 s) : Quiet s0
    (judgeBlock s m rid blk).1 := by
  unfold judgeBlock
  try dsimp only
  repeat' first
      | with_reducible assumption | (with_reducible refine quiet_setFlips _ _ _ _ ?_)
      | (with_reducible refine quiet_rowFault _ _ _ _ ?_) | (with_reducible refine quiet_badBlock _ _ _ _ _ _ ?_)
      | (with_reducible refine quiet_ite ?_ ?_) | (with_reducible refine quiet_ite_fst ?_ ?_) | intro _ | split
      | (with_reducible refine quiet_foldl ?_ _ ?_) | (with_reducible refine quiet_forN ?_ _ ?_)
      | (with_reducible refine quiet_foldl_fst ?_ _ ?_) | (with_reducible refine quiet_mk ?_)

theorem quiet_readBlock {s0 : State} (s : State) (m : MemIn) (rid : Nat) (blk : Nat) (h0 : Quiet s0 s) : Quiet s0
    (readBlock s m rid blk).1 := by
  unfold readBlock
  repeat' first
      | with_reducible assumption | (with_reducible refine quiet_markRepair _ _ ?_)
      | (with_reducible refine quiet_judgeBlock _ _ _ _ ?_) | split

theorem quiet_readPart {s0 : State} (s : State) (m : MemIn) (rid : Nat) (blk : Nat) (lo : Nat) (hi : Nat) (h0 : Quiet
    s0 s) : Quiet s0 (readPart s m rid blk lo hi).1 := by
  unfold readPart
  try dsimp only
  repeat' first
      | with_reducible assumption | (with_reducible refine quiet_readBlock _ _ _ _ ?_)
      | (with_reducible refine quiet_ite ?_ ?_) | (with_reducible refine quiet_ite_fst ?_ ?_) | intro _ | split
      | (with_reducible refine quiet_foldl ?_ _ ?_) | (with_reducible refine quiet_forN ?_ _ ?_)
      | (with_reducible refine quiet_foldl_fst ?_ _ ?_)
      | (with_reducible refine quiet_fst (by with_reducible assumption) ?_) | (with_reducible refine quiet_mk ?_)

theorem quiet_readBlocks {s0 : State} (m : MemIn) (rid off end_ : Nat) : ∀ (n blk : Nat) (s : State), Quiet s0 s →
    Quiet s0 (readBlocks m rid off end_ blk n s).1
  | 0, _, _, h => h
  | n + 1, blk, s, h => by
    simp only [readBlocks]
    exact quiet_readBlocks m rid off end_ n (blk + 1) _ (quiet_readPart s m rid blk _ _ h)

theorem quiet_readRange {s0 : State} (s : State) (m : MemIn) (rid : Nat) (off : Nat) (len : Nat) (h0 : Quiet s0 s) :
    Quiet s0 (readRange s m rid off len).1 := by
  unfold readRange
  try dsimp only
  repeat' first
      | with_reducible assumption | (with_reducible apply quiet_readBlocks) | (with_reducible refine quiet_ite ?_ ?_)
      | (with_reducible refine quiet_ite_fst ?_ ?_) | intro _ | split | (with_reducible refine quiet_foldl ?_ _ ?_)
      | (with_reducible refine quiet_forN ?_ _ ?_) | (with_reducible refine quiet_foldl_fst ?_ _ ?_)
      | (with_reducible refine quiet_fst (by with_reducible assumption) ?_) | (with_reducible refine quiet_mk ?_)

theorem quiet_setWc {s0 : State} (s : State) (ch : Nat) (l : List WcEntry) (h0 : Quiet s0 s) : Quiet s0 (setWc s ch l)
    := by
  unfold setWc
  repeat' first | with_reducible assumption | (with_reducible refine quiet_mk ?_)

theorem quiet_freeUnmasked {s0 : State} (s : State) (e : WcEntry) (h0 : Quiet s0 s) : Quiet s0 (freeUnmasked s e) := by
  unfold freeUnmasked
  exact quiet_mk (quiet_drawFree s 128 h0)

theorem quiet_wcEnter {s0 : State} (s : State) (m : MemIn) (ch : Nat) (e : WcEntry) (done : State → State) (h0 : Quiet
    s0 s) (h4 : ∀ t, Quiet s0 t → Quiet s0 (done t)) : Quiet s0 (wcEnter s m ch e done) := by
  unfold wcEnter
  repeat' first
      | with_reducible assumption | (with_reducible refine quiet_setWc _ _ _ ?_)
      | (with_reducible refine quiet_markRepair _ _ ?_) | (with_reducible refine quiet_ite ?_ ?_)
      | (with_reducible refine h4 _ ?_)

theorem quiet_wcCheck {s0 : State} (s : State) (m : MemIn) (ch : Nat) (e : WcEntry) (h0 : Quiet s0 s) : Quiet s0
    (wcCheck s m ch e) := by
  unfold wcCheck
  dsimp only
  exact quiet_ite h0 (quiet_wcEnter _ _ _ _ _ h0 (fun _ h => h))

theorem quiet_wcStore {s0 : State} (s : State) (m : MemIn) (e : WcEntry) (h0 : Quiet s0 s) : Quiet s0 (wcStore s m e)
    := by
  unfold wcStore
  try dsimp only
  repeat' first
      | with_reducible assumption | (with_reducible refine quiet_clearFlips _ _ _ ?_)
      | (with_reducible refine quiet_setFlips _ _ _ _ ?_) | (with_reducible refine quiet_readBlock _ _ _ _ ?_)
      | (with_reducible refine quiet_raiseUncorrected _ _ _ ?_) | (with_reducible refine quiet_freeUnmasked _ _ ?_)
      | split | (with_reducible refine quiet_fst (by with_reducible assumption) ?_)

theorem quiet_wcWrite {s0 : State} (s : State) (m : MemIn) (ch : Nat) (e : WcEntry) (h0 : Quiet s0 s) : Quiet s0
    (wcWrite s m ch e) := by
  unfold wcWrite
  repeat' first
      | with_reducible assumption | (with_reducible refine quiet_wcCheck _ _ _ _ ?_)
      | (with_reducible refine quiet_wcStore _ _ _ ?_) | (with_reducible refine quiet_ite ?_ ?_)

theorem quiet_wcFlushAt {s0 : State} (s : State) (m : MemIn) (ch : Nat) (i : Nat) (h0 : Quiet s0 s) : Quiet s0
    (wcFlushAt s m ch i) := by
  unfold wcFlushAt
  dsimp only
  split
  · exact h0
  · exact quiet_ite (quiet_markRepair _ _ h0) (quiet_wcWrite _ _ _ _ (quiet_setWc _ _ _ h0))

theorem quiet_wcFlushTo {s0 : State} (m : MemIn) (ch n : Nat) : ∀ (fuel i : Nat) (s : State), Quiet s0 s → Quiet s0
    (wcFlushTo m ch n fuel i s)
  | 0, _, _, h => h
  | fuel + 1, i, s, h => by
    simp only [wcFlushTo]
    refine quiet_ite h ?_
    split
    · exact h
    · exact quiet_wcFlushTo m ch n fuel _ _ (quiet_wcFlushAt _ _ _ _ h)

theorem quiet_wcTouch {s0 : State} (s : State) (m : MemIn) (rid : Nat) (blk : Nat) (lo : Nat) (hi : Nat) (h0 : Quiet
    s0 s) : Quiet s0 (wcTouch s m rid blk lo hi) := by
  unfold wcTouch
  exact quiet_wcFlushTo _ _ _ _ _ _ (quiet_wcEnter _ _ _ _ _ h0 (fun t h => quiet_wcWrite t _ _ _ h))

theorem quiet_writePart {s0 : State} (s : State) (m : MemIn) (rid : Nat) (off : Nat) (b : Bytes) (h0 : Quiet s0 s) :
    Quiet s0 (writePart s m rid off b) := by
  unfold writePart
  exact quiet_wcTouch _ _ _ _ _ _ (quiet_mk h0)

theorem quiet_writeParts {s0 : State} (m : MemIn) (rid : Nat) : ∀ (n off : Nat) (b : Bytes) (s : State), Quiet s0 s →
    Quiet s0 (writeParts m rid n off b s)
  | 0, _, _, _, h => h
  | n + 1, off, b, s, h => by
    simp only [writeParts]
    exact quiet_writeParts m rid n _ _ _ (quiet_writePart _ _ _ _ _ h)

theorem quiet_dramWrite {s0 : State} (s : State) (m : MemIn) (rid : Nat) (off : Nat) (b : Bytes) (h0 : Quiet s0 s) :
    Quiet s0 (dramWrite s m rid off b) := by
  unfold dramWrite
  exact quiet_writeParts _ _ _ _ _ _ h0

theorem quiet_checkRange {s0 : State} (s : State) (c : ExecCtx) (sram : Bool) (a : Nat) (n : Nat) (h0 : Quiet s0 s) :
    Quiet s0 (checkRange s c sram a n).1 := by
  unfold checkRange
  repeat' first
      | with_reducible assumption | (with_reducible refine quiet_readRange _ _ _ _ _ ?_) | intro _ | split
      | (with_reducible refine quiet_foldl_fst ?_ _ ?_)

theorem quiet_checkExt {s0 : State} (c : ExecCtx) (t : State × Option Nat) (e : Ext) (h1 : Quiet s0 t.1) : Quiet s0
    (checkExt c t e).1 := by
  unfold checkExt
  repeat' first
      | with_reducible assumption | (with_reducible refine quiet_checkRange _ _ _ _ _ ?_) | intro _
      | (with_reducible refine quiet_foldl_fst ?_ _ ?_)

theorem quiet_checkExts {s0 : State} (s : State) (c : ExecCtx) (es : List Ext) (h0 : Quiet s0 s) : Quiet s0 (checkExts
    s c es).1 := by
  unfold checkExts
  repeat' first
      | with_reducible assumption | (with_reducible refine quiet_checkExt _ _ _ ?_) | intro _
      | (with_reducible refine quiet_foldl_fst ?_ _ ?_)

theorem quiet_placeWrite {s0 : State} (s : State) (c : ExecCtx) (p : Place) (b : Bytes) (h0 : Quiet s0 s) : Quiet s0
    (placeWrite s c p b) := by
  unfold placeWrite
  split
  · split
    · exact quiet_mk h0
    · exact h0
  · split
    · exact quiet_dramWrite _ _ _ _ _ h0
    · exact h0
  · exact h0

theorem quiet_devWrite {s0 : State} (s : State) (c : ExecCtx) (sram : Bool) (a : Nat) (b : Bytes) (h0 : Quiet s0 s) :
    Quiet s0 (devWrite s c sram a b) := by
  unfold devWrite
  repeat' first
      | with_reducible assumption | (with_reducible refine quiet_placeWrite _ _ _ _ ?_) | intro _
      | (with_reducible refine quiet_foldl_fst ?_ _ ?_)

theorem quiet_freeExt {s0 : State} (c : ExecCtx) (s : State) (e : Ext) (h1 : Quiet s0 s) : Quiet s0 (freeExt c s e) := by
  unfold freeExt
  repeat' first
      | with_reducible assumption | (with_reducible refine quiet_devWrite _ _ _ _ _ ?_)
      | (with_reducible refine quiet_drawFree _ _ ?_) | intro _ | (with_reducible refine quiet_foldl ?_ _ ?_)

theorem quiet_freeExts {s0 : State} (s : State) (c : ExecCtx) (es : List Ext) (h0 : Quiet s0 s) : Quiet s0 (freeExts s
    c es) := by
  unfold freeExts
  repeat' first
      | with_reducible assumption | (with_reducible refine quiet_freeExt _ _ _ ?_) | intro _
      | (with_reducible refine quiet_foldl ?_ _ ?_)

theorem quiet_writeTensor {s0 : State} (s : State) (c : ExecCtx) (v : TView) (rows : List RowCodes) (h0 : Quiet s0 s)
    : Quiet s0 (writeTensor s c v rows) := by
  unfold writeTensor
  repeat' first
      | with_reducible assumption | (with_reducible refine quiet_devWrite _ _ _ _ _ ?_)
      | (with_reducible refine quiet_ite ?_ ?_) | intro _ | (with_reducible refine quiet_foldl ?_ _ ?_)

theorem quiet_holdLatches {s0 : State} (s : State) (ls : List Latch) (h0 : Quiet s0 s) : Quiet s0 (holdLatches s ls)
    := by
  unfold holdLatches
  repeat' first
      | with_reducible assumption | (with_reducible refine quiet_fenceAdd _ _ _ ?_) | intro _
      | (with_reducible refine quiet_foldl ?_ _ ?_)

theorem quiet_takeDescriptor {s0 : State} (s : State) (ring : Nat) (n : Nat) (b : Bytes) (h0 : Quiet s0 s) : Quiet s0
    (takeDescriptor s ring n b) := by
  unfold takeDescriptor
  repeat' first
      | with_reducible assumption | (with_reducible refine quiet_ringStatus _ _ ?_)
      | (with_reducible refine quiet_updRing _ _ _ ?_)

theorem quiet_servedRing {s0 : State} (s : State) (p : Nat) (ring : Nat) (h0 : Quiet s0 s) : Quiet s0 (servedRing s p
    ring) := by
  unfold servedRing
  repeat' first | with_reducible assumption | (with_reducible refine quiet_mk ?_)

theorem quiet_fetchFailed {s0 : State} (s : State) (f : Nat) (ring : Nat) (d : HostData) (h0 : Quiet s0 s) : Quiet s0
    (fetchFailed s f ring d) := by
  unfold fetchFailed
  try dsimp only
  repeat' first
      | with_reducible assumption | (with_reducible refine quiet_stopRing _ _ _ ?_)
      | (with_reducible refine quiet_notePoison _ _ _ ?_) | (with_reducible refine quiet_ite ?_ ?_)
      | (with_reducible refine quiet_ite_fst ?_ ?_) | intro _ | split | (with_reducible refine quiet_foldl ?_ _ ?_)
      | (with_reducible refine quiet_forN ?_ _ ?_) | (with_reducible refine quiet_foldl_fst ?_ _ ?_)
      | (with_reducible refine quiet_mk ?_)

theorem quiet_serveRing {s0 : State} (s : State) (p : Nat) (ring : Nat) (host : HostIn) (h0 : Quiet s0 s) : Quiet s0
    (serveRing s p ring host) := by
  unfold serveRing
  try dsimp only
  repeat' first
      | with_reducible assumption | (with_reducible refine quiet_stopRing _ _ _ ?_)
      | (with_reducible refine quiet_takeDescriptor _ _ _ _ ?_) | (with_reducible refine quiet_fetchFailed _ _ _ _ ?_)
      | split

theorem quiet_execDescriptorFetch {s0 : State} (ring : Nat) (host : HostIn) (s0_2 : State) (h2 : Quiet s0 s0_2) :
    QuietOut s0 (execDescriptorFetch ring host s0_2) := by
  unfold execDescriptorFetch
  repeat' first
      | with_reducible assumption | with_reducible refine quietOut_next ?_
      | (with_reducible refine quiet_hostStores _ _ ?_) | (with_reducible refine quiet_serveRing _ _ _ _ ?_)
      | (with_reducible refine quiet_servedRing _ _ _ ?_) | split

theorem quiet_noteLatches {s0 : State} (s : State) (o : Op) (ls : List Latch) (h0 : Quiet s0 s) : Quiet s0 (noteLatches
    s o ls) := by
  unfold noteLatches
  repeat' first | with_reducible assumption | (with_reducible refine quiet_updRing _ _ _ ?_)

theorem quiet_tryStart {s0 : State} (s : State) (o : Op) {s1 : State} {o1 : Op} (h0 : Quiet s0 s) (e : tryStart s o =
    .go s1 o1) : Quiet s0 s1 := by
  unfold tryStart at e
  split at e
  · cases e; exact h0
  · split at e
    · cases e
    · cases e
    · split at e
      · cases e
      · cases e
        exact quiet_updOp _ _ _ (quiet_noteLatches _ _ _ (quiet_holdLatches _ _ h0))

theorem quiet_windowAdd {s0 : State} (s : State) (o : Op) (h0 : Quiet s0 s) : Quiet s0 (windowAdd s o) := by
  unfold windowAdd
  repeat' first
      | with_reducible assumption | (with_reducible refine quiet_updWindow _ _ _ ?_)
      | (with_reducible refine quiet_ite ?_ ?_)

theorem quiet_windowLatch {s0 : State} (s : State) (core : Nat) (id : Nat) (ls : List Latch) (h0 : Quiet s0 s) : Quiet
    s0 (windowLatch s core id ls) := by
  unfold windowLatch
  repeat' first
      | with_reducible assumption | (with_reducible refine quiet_updWindow _ _ _ ?_)
      | (with_reducible refine quiet_ite ?_ ?_)

theorem quiet_startNow {s0 : State} (s : State) (o : Op) (h0 : Quiet s0 s) : Quiet s0 (startNow s o) := by
  unfold startNow
  repeat' first
      | with_reducible assumption | (with_reducible refine quiet_windowLatch _ _ _ _ ?_) | split
      | (refine quiet_tryStart _ _ ?_ (by with_reducible assumption))

theorem quiet_dispatchOp {s0 : State} (s : State) (p : Nat) (ring : Nat) (core : Nat) (f : Fetched) (h0 : Quiet s0 s)
    : Quiet s0 (dispatchOp s p ring core f) := by
  unfold dispatchOp
  repeat' first
      | with_reducible assumption | (with_reducible refine quiet_startNow _ _ ?_)
      | (with_reducible refine quiet_windowAdd _ _ ?_) | (with_reducible refine quiet_mk ?_)

theorem quiet_popWaiting {s0 : State} (s : State) (ring : Nat) (h0 : Quiet s0 s) : Quiet s0 (popWaiting s ring) := by
  unfold popWaiting
  repeat' first | with_reducible assumption | (with_reducible refine quiet_updRing _ _ _ ?_)

theorem quiet_execDispatch {s0 : State} (ring : Nat) (s : State) (h1 : Quiet s0 s) : QuietOut s0 (execDispatch ring s)
    := by
  unfold execDispatch
  try dsimp only
  repeat' first
      | with_reducible assumption | with_reducible refine quietOut_next ?_
      | (with_reducible refine quiet_completeUndispatched _ _ _ _ _ _ _ _ ?_)
      | (with_reducible refine quiet_popWaiting _ _ ?_) | (with_reducible refine quiet_dispatchOp _ _ _ _ _ ?_)
      | split

theorem quiet_finishOk {s0 : State} (s : State) (o : Op) (env : Env) (more : Nat) (info : Nat) (h0 : Quiet s0 s) :
    Quiet s0 (finishOk s o env more info) := by
  unfold finishOk
  repeat' first
      | with_reducible assumption | (with_reducible refine quiet_complete _ _ _ _ _ ?_)
      | (with_reducible refine quiet_ite ?_ ?_)

theorem quiet_freeHostRows {s0 : State} (s : State) (port : Nat) (rs : List (Nat × Nat)) (h0 : Quiet s0 s) : Quiet s0
    (freeHostRows s port rs) := by
  unfold freeHostRows
  repeat' first
      | with_reducible assumption | (with_reducible refine quiet_hostWrite _ _ _ _ ?_)
      | (with_reducible refine quiet_drawFree _ _ ?_) | intro _ | (with_reducible refine quiet_foldl ?_ _ ?_)

theorem quiet_freeOuts {s0 : State} (s : State) (o : Op) (env : Env) (h0 : Quiet s0 s) : Quiet s0 (freeOuts s o env)
    := by
  unfold freeOuts
  repeat' first
      | with_reducible assumption | (with_reducible refine quiet_freeHostRows _ _ _ ?_)
      | (with_reducible refine quiet_freeExts _ _ _ ?_)

theorem quiet_freePins {s0 : State} (s : State) (o : Op) (h0 : Quiet s0 s) : Quiet s0 (freePins s o) := by
  unfold freePins
  repeat' first
      | with_reducible assumption | (with_reducible refine quiet_setStash _ _ _ _ ?_)
      | (with_reducible refine quiet_releasePins _ _ ?_) | split

theorem quiet_failRun {s0 : State} (s : State) (o : Op) (env : Env) (st : Nat) (xs : Nat) (h0 : Quiet s0 s) : Quiet s0
    (failRun s o env st xs) := by
  unfold failRun
  repeat' first
      | with_reducible assumption | (with_reducible refine quiet_complete _ _ _ _ _ ?_)
      | (with_reducible refine quiet_freePins _ _ ?_) | (with_reducible refine quiet_freeOuts _ _ _ ?_)

theorem quiet_countSbe {s0 : State} (s : State) (core : Nat) (n : Nat) (h0 : Quiet s0 s) : Quiet s0 (countSbe s core n)
    := by
  unfold countSbe
  exact quiet_ite h0 (quiet_sbe h0)

theorem quiet_envIn {s0 : State} (s : State) (env : Env) (h0 : Quiet s0 s) : Quiet s0 (envIn s env) := by
  unfold envIn
  repeat' first
      | with_reducible assumption | (with_reducible refine quiet_dramUpsets _ _ ?_)
      | (with_reducible refine quiet_hostStores _ _ ?_)

theorem quiet_runOp {s0 : State} (s0_0 : State) (id : Nat) (op : Nat) (env : Env) (body : State → Op → State) (h0 :
    Quiet s0 s0_0) (h4 : ∀ t o, Quiet s0 t → Quiet s0 (body t o)) : QuietOut s0 (runOp s0_0 id op env body) := by
  unfold runOp
  try dsimp only
  repeat' first
      | with_reducible assumption | with_reducible refine quietOut_next ?_
      | (with_reducible refine quiet_envIn _ _ ?_) | (with_reducible refine quiet_failRun _ _ _ _ _ ?_)
      | (with_reducible refine quiet_complete _ _ _ _ _ ?_) | (with_reducible refine quiet_countSbe _ _ _ ?_)
      | (with_reducible refine quiet_windowLatch _ _ _ _ ?_) | split
      | (refine quiet_tryStart _ _ ?_ (by with_reducible assumption)) | (with_reducible refine h4 _ _ ?_)

theorem quiet_withInputs {s0 : State} (s : State) (o : Op) (env : Env) (body : State → State) (h0 : Quiet s0 s) (h3 :
    ∀ t, Quiet s0 t → Quiet s0 (body t)) : Quiet s0 (withInputs s o env body) := by
  unfold withInputs
  repeat' first
      | with_reducible assumption | (with_reducible refine quiet_checkExts _ _ _ ?_)
      | (with_reducible refine quiet_failRun _ _ _ _ _ ?_) | split
      | (with_reducible refine quiet_fst (by with_reducible assumption) ?_) | (with_reducible refine h3 _ ?_)

theorem quiet_execHeldRecordRelease {s0 : State} (oring : Nat) (s : State) (h1 : Quiet s0 s) : QuietOut s0
    (execHeldRecordRelease oring s) := by
  unfold execHeldRecordRelease
  try dsimp only
  repeat' first
      | with_reducible assumption | with_reducible refine quietOut_next ?_
      | (with_reducible refine quiet_putRecord _ _ _ _ ?_) | (with_reducible refine quiet_setORing _ _ _ ?_)
      | (with_reducible refine quiet_removeOp _ _ ?_) | (with_reducible refine quiet_setOwnerLeaf _ _ _ _ ?_) | split

theorem quiet_takeIndex {s0 : State} (s : State) (ring : Nat) (v : Nat) (h0 : Quiet s0 s) : Quiet s0 (takeIndex s ring
    v) := by
  unfold takeIndex
  try dsimp only
  repeat' first
      | with_reducible assumption | (with_reducible refine quiet_updRing _ _ _ ?_)
      | (with_reducible refine quiet_stopRing _ _ _ ?_) | (with_reducible refine quiet_ite ?_ ?_)
      | (with_reducible refine quiet_ite_fst ?_ ?_) | intro _ | split | (with_reducible refine quiet_foldl ?_ _ ?_)
      | (with_reducible refine quiet_forN ?_ _ ?_) | (with_reducible refine quiet_foldl_fst ?_ _ ?_)
      | (with_reducible refine quiet_mk ?_)

theorem quiet_sweepPage {s0 : State} (s : State) (h_1 : HostIn) (f : Nat) (p : Nat) (page : Nat) (h0 : Quiet s0 s) :
    Quiet s0 (sweepPage s h_1 f p page) := by
  unfold sweepPage
  try dsimp only
  repeat' first
      | with_reducible assumption | (with_reducible refine quiet_noteAer _ _ _ ?_)
      | (with_reducible refine quiet_takeIndex _ _ _ ?_) | (with_reducible refine quiet_updORing _ _ _ ?_)
      | (with_reducible refine quiet_updFn _ _ _ ?_) | (with_reducible refine quiet_stopRing _ _ _ ?_)
      | (with_reducible refine quiet_ite ?_ ?_) | (with_reducible refine quiet_ite_fst ?_ ?_) | intro _ | split
      | (with_reducible refine quiet_foldl ?_ _ ?_) | (with_reducible refine quiet_forN ?_ _ ?_)
      | (with_reducible refine quiet_foldl_fst ?_ _ ?_) | (with_reducible refine quiet_mk ?_)

theorem quiet_sweep {s0 : State} (s : State) (h_1 : HostIn) (f : Nat) (mask : Nat) (h0 : Quiet s0 s) : Quiet s0 (sweep
    s h_1 f mask) := by
  unfold sweep
  repeat' first
      | with_reducible assumption | (with_reducible refine quiet_sweepPage _ _ _ _ _ ?_) | intro _ | split
      | (with_reducible refine quiet_forN ?_ _ ?_)

theorem quiet_execDoorbellSweep {s0 : State} (fn : Nat) (host : HostIn) (s : State) (h2 : Quiet s0 s) : QuietOut s0
    (execDoorbellSweep fn host s) := by
  unfold execDoorbellSweep
  repeat' first
      | with_reducible assumption | with_reducible refine quietOut_next ?_
      | (with_reducible refine quiet_sweep _ _ _ _ ?_) | (with_reducible refine quiet_configWrites _ _ ?_)
      | (with_reducible refine quiet_hostStores _ _ ?_)

theorem quiet_measure {s0 : State} (s : State) (p : Nat) (d : Bytes) (rows : List (List F32)) (h0 : Quiet s0 s) : Quiet
    s0 (measure s p d rows).1 := by
  unfold measure
  try dsimp only
  repeat' first | with_reducible assumption | (with_reducible refine quiet_setGov _ _ _ ?_) | split

theorem quiet_emit {s0 : State} (s : State) (c : ExecCtx) (d : Bytes) (u : Use) (mode : Nat) (stream : Nat) (elem :
    Nat → Nat → Nat) (rows : List (List F32)) (h0 : Quiet s0 s) : Quiet s0 (emit s c d u mode stream elem rows) := by
  unfold emit
  repeat' first | with_reducible assumption | (with_reducible refine quiet_writeTensor _ _ _ _ ?_)

theorem quiet_ranFail {s0 : State} (s : State) (st : Nat) (xs : Nat) (info : Option Nat) (h0 : Quiet s0 s) : Quiet s0
    (ranFail s st xs info).s := by
  unfold ranFail
  repeat' first | with_reducible assumption

theorem quiet_onInputs {s0 : State} (s : State) (c : ExecCtx) (us : List Use) (body : State → Ran) (h0 : Quiet s0 s)
    (h3 : ∀ t, Quiet s0 t → Quiet s0 (body t).s) : Quiet s0 (onInputs s c us body).s := by
  unfold onInputs
  repeat' first
      | with_reducible assumption | (with_reducible refine quiet_checkExts _ _ _ ?_)
      | (with_reducible refine quiet_ranFail _ _ _ _ ?_) | split
      | (with_reducible refine quiet_fst (by with_reducible assumption) ?_) | (with_reducible refine h3 _ ?_)

theorem quiet_finishRun {s0 : State} (o : Op) (env : Env) (x : Ran) (h2 : Quiet s0 x.s) : Quiet s0 (finishRun o env x)
    := by
  unfold finishRun
  repeat' first
      | with_reducible assumption | (with_reducible refine quiet_complete _ _ _ _ _ ?_)
      | (with_reducible refine quiet_freeOuts _ _ _ ?_) | (with_reducible refine quiet_measure _ _ _ _ ?_)
      | (with_reducible refine quiet_finishOk _ _ _ _ _ ?_) | split

theorem quiet_runGemm {s0 : State} (s0_0 : State) (c : ExecCtx) (d : Bytes) (h0 : Quiet s0 s0_0) : Quiet s0 (runGemm
    s0_0 c d).s := by
  unfold runGemm
  repeat' first
      | with_reducible assumption | (with_reducible refine quiet_onInputs _ _ _ _ ?_ ?_)
      | (with_reducible refine quiet_emit _ _ _ _ _ _ _ _ ?_) | intro _ | split

theorem quiet_execGemm {s0 : State} (op : Nat) (env : Env) (s : State) (h2 : Quiet s0 s) : QuietOut s0 (execGemm op env
    s) := by
  unfold execGemm
  repeat' first
      | with_reducible assumption | with_reducible refine quietOut_next ?_
      | (with_reducible refine quiet_runOp _ _ _ _ _ ?_ ?_) | (with_reducible refine quiet_finishRun _ _ _ ?_)
      | (with_reducible refine quiet_runGemm _ _ _ ?_) | intro _

theorem quiet_moveCodes {s0 : State} (s : State) (c : ExecCtx) (eqv : Bool) (src : Use) (dst : Use) (from_ : Nat →
    Nat → Nat × Nat) (h0 : Quiet s0 s) : Quiet s0 (moveCodes s c eqv src dst from_) := by
  unfold moveCodes
  repeat' first | with_reducible assumption | (with_reducible refine quiet_writeTensor _ _ _ _ ?_)

theorem quiet_runCopy {s0 : State} (s0_0 : State) (c : ExecCtx) (d : Bytes) (h0 : Quiet s0 s0_0) : Quiet s0 (runCopy
    s0_0 c d).s := by
  unfold runCopy
  try dsimp only
  repeat' first
      | with_reducible assumption | (with_reducible refine quiet_onInputs _ _ _ _ ?_ ?_)
      | (with_reducible refine quiet_emit _ _ _ _ _ _ _ _ ?_) | (with_reducible refine quiet_moveCodes _ _ _ _ _ _ ?_)
      | intro _ | split

theorem quiet_runIndexed {s0 : State} (s0_0 : State) (c : ExecCtx) (d : Bytes) (h0 : Quiet s0 s0_0) : Quiet s0
    (runIndexed s0_0 c d).s := by
  unfold runIndexed
  try dsimp only
  repeat' first
      | with_reducible assumption | (with_reducible refine quiet_onInputs _ _ _ _ ?_ ?_)
      | (with_reducible refine quiet_ranFail _ _ _ _ ?_) | (with_reducible refine quiet_checkExts _ _ _ ?_)
      | (with_reducible refine quiet_moveCodes _ _ _ _ _ _ ?_) | (with_reducible refine quiet_emit _ _ _ _ _ _ _ _ ?_)
      | intro _ | split | (with_reducible refine quiet_fst (by with_reducible assumption) ?_)

theorem quiet_runHostRead {s0 : State} (s0_0 : State) (c : ExecCtx) (h_2 : HostIn) (d : Bytes) (h0 : Quiet s0 s0_0) :
    Quiet s0 (runHostRead s0_0 c h_2 d).s := by
  unfold runHostRead
  try dsimp only
  repeat' first
      | with_reducible assumption | (with_reducible refine quiet_ranFail _ _ _ _ ?_)
      | (with_reducible refine quiet_noteAer _ _ _ ?_) | (with_reducible refine quiet_devWrite _ _ _ _ _ ?_)
      | (with_reducible refine quiet_ite ?_ ?_) | (with_reducible refine quiet_ite_ran ?_ ?_)
      | (with_reducible refine quiet_ite_fst ?_ ?_) | intro _ | split | (with_reducible refine quiet_foldl ?_ _ ?_)
      | (with_reducible refine quiet_forN ?_ _ ?_) | (with_reducible refine quiet_foldl_fst ?_ _ ?_)
      | (with_reducible refine quiet_mk ?_)

theorem quiet_runHostWrite {s0 : State} (s0_0 : State) (c : ExecCtx) (h_2 : HostIn) (d : Bytes) (h0 : Quiet s0 s0_0) :
    Quiet s0 (runHostWrite s0_0 c h_2 d).s := by
  unfold runHostWrite
  try dsimp only
  repeat' first
      | with_reducible assumption | (with_reducible refine quiet_checkExts _ _ _ ?_)
      | (with_reducible refine quiet_ranFail _ _ _ _ ?_) | (with_reducible refine quiet_hostWrite _ _ _ _ ?_)
      | intro _ | split | (with_reducible refine quiet_foldl_fst ?_ _ ?_)
      | (with_reducible refine quiet_fst (by with_reducible assumption) ?_)

theorem quiet_copyOp {s0 : State} (opcode : Nat) (op : Nat) (env : Env) (s : State) (h3 : Quiet s0 s) : QuietOut s0
    (copyOp opcode op env s) := by
  unfold copyOp
  repeat' first
      | with_reducible assumption | with_reducible refine quietOut_next ?_
      | (with_reducible refine quiet_runOp _ _ _ _ _ ?_ ?_) | (with_reducible refine quiet_finishRun _ _ _ ?_)
      | (with_reducible refine quiet_runCopy _ _ _ ?_) | intro _

theorem quiet_execCopy {s0 : State} (op : Nat) (env : Env) (s : State) (h2 : Quiet s0 s) : QuietOut s0 (execCopy op env
    s) := by
  unfold execCopy
  repeat' first
      | with_reducible assumption | with_reducible refine quietOut_next ?_
      | (with_reducible refine quiet_copyOp _ _ _ _ ?_)

theorem quiet_execTranspose {s0 : State} (op : Nat) (env : Env) (s : State) (h2 : Quiet s0 s) : QuietOut s0
    (execTranspose op env s) := by
  unfold execTranspose
  repeat' first
      | with_reducible assumption | with_reducible refine quietOut_next ?_
      | (with_reducible refine quiet_copyOp _ _ _ _ ?_)

theorem quiet_execPack {s0 : State} (op : Nat) (env : Env) (s : State) (h2 : Quiet s0 s) : QuietOut s0 (execPack op env
    s) := by
  unfold execPack
  repeat' first
      | with_reducible assumption | with_reducible refine quietOut_next ?_
      | (with_reducible refine quiet_copyOp _ _ _ _ ?_)

theorem quiet_execUnpack {s0 : State} (op : Nat) (env : Env) (s : State) (h2 : Quiet s0 s) : QuietOut s0 (execUnpack op
    env s) := by
  unfold execUnpack
  repeat' first
      | with_reducible assumption | with_reducible refine quietOut_next ?_
      | (with_reducible refine quiet_copyOp _ _ _ _ ?_)

theorem quiet_execGather {s0 : State} (op : Nat) (env : Env) (s : State) (h2 : Quiet s0 s) : QuietOut s0 (execGather op
    env s) := by
  unfold execGather
  repeat' first
      | with_reducible assumption | with_reducible refine quietOut_next ?_
      | (with_reducible refine quiet_runOp _ _ _ _ _ ?_ ?_) | (with_reducible refine quiet_finishRun _ _ _ ?_)
      | (with_reducible refine quiet_runIndexed _ _ _ ?_) | intro _

theorem quiet_execScatterAdd {s0 : State} (op : Nat) (env : Env) (s : State) (h2 : Quiet s0 s) : QuietOut s0
    (execScatterAdd op env s) := by
  unfold execScatterAdd
  repeat' first
      | with_reducible assumption | with_reducible refine quietOut_next ?_
      | (with_reducible refine quiet_runOp _ _ _ _ _ ?_ ?_) | (with_reducible refine quiet_finishRun _ _ _ ?_)
      | (with_reducible refine quiet_runIndexed _ _ _ ?_) | intro _

theorem quiet_execHostRead {s0 : State} (op : Nat) (env : Env) (s : State) (h2 : Quiet s0 s) : QuietOut s0
    (execHostRead op env s) := by
  unfold execHostRead
  repeat' first
      | with_reducible assumption | with_reducible refine quietOut_next ?_
      | (with_reducible refine quiet_runOp _ _ _ _ _ ?_ ?_) | (with_reducible refine quiet_finishRun _ _ _ ?_)
      | (with_reducible refine quiet_runHostRead _ _ _ _ ?_) | intro _
      | (with_reducible refine quiet_foldl_fst ?_ _ ?_)

theorem quiet_execHostWrite {s0 : State} (op : Nat) (env : Env) (s : State) (h2 : Quiet s0 s) : QuietOut s0
    (execHostWrite op env s) := by
  unfold execHostWrite
  repeat' first
      | with_reducible assumption | with_reducible refine quietOut_next ?_
      | (with_reducible refine quiet_runOp _ _ _ _ _ ?_ ?_) | (with_reducible refine quiet_finishRun _ _ _ ?_)
      | (with_reducible refine quiet_runHostWrite _ _ _ _ ?_) | intro _
      | (with_reducible refine quiet_foldl_fst ?_ _ ?_)

theorem quiet_runReduce {s0 : State} (s0_0 : State) (c : ExecCtx) (d : Bytes) (h0 : Quiet s0 s0_0) : Quiet s0
    (runReduce s0_0 c d).s := by
  unfold runReduce
  repeat' first
      | with_reducible assumption | (with_reducible refine quiet_onInputs _ _ _ _ ?_ ?_)
      | (with_reducible refine quiet_emit _ _ _ _ _ _ _ _ ?_) | intro _ | split

theorem quiet_reduceOp {s0 : State} (opcode : Nat) (op : Nat) (env : Env) (s : State) (h3 : Quiet s0 s) : QuietOut s0
    (reduceOp opcode op env s) := by
  unfold reduceOp
  repeat' first
      | with_reducible assumption | with_reducible refine quietOut_next ?_
      | (with_reducible refine quiet_runOp _ _ _ _ _ ?_ ?_) | (with_reducible refine quiet_finishRun _ _ _ ?_)
      | (with_reducible refine quiet_runReduce _ _ _ ?_) | intro _

theorem quiet_execRowReduce {s0 : State} (op : Nat) (env : Env) (s : State) (h2 : Quiet s0 s) : QuietOut s0
    (execRowReduce op env s) := by
  unfold execRowReduce
  repeat' first
      | with_reducible assumption | with_reducible refine quietOut_next ?_
      | (with_reducible refine quiet_reduceOp _ _ _ _ ?_)

theorem quiet_execColReduce {s0 : State} (op : Nat) (env : Env) (s : State) (h2 : Quiet s0 s) : QuietOut s0
    (execColReduce op env s) := by
  unfold execColReduce
  repeat' first
      | with_reducible assumption | with_reducible refine quietOut_next ?_
      | (with_reducible refine quiet_reduceOp _ _ _ _ ?_)

theorem quiet_execSoftmaxFwd {s0 : State} (op : Nat) (env : Env) (s : State) (h2 : Quiet s0 s) : QuietOut s0
    (execSoftmaxFwd op env s) := by
  unfold execSoftmaxFwd
  repeat' first
      | with_reducible assumption | with_reducible refine quietOut_next ?_
      | (with_reducible refine quiet_reduceOp _ _ _ _ ?_)

theorem quiet_execSoftmaxBwd {s0 : State} (op : Nat) (env : Env) (s : State) (h2 : Quiet s0 s) : QuietOut s0
    (execSoftmaxBwd op env s) := by
  unfold execSoftmaxBwd
  repeat' first
      | with_reducible assumption | with_reducible refine quietOut_next ?_
      | (with_reducible refine quiet_reduceOp _ _ _ _ ?_)

theorem quiet_execNormFwd {s0 : State} (op : Nat) (env : Env) (s : State) (h2 : Quiet s0 s) : QuietOut s0 (execNormFwd
    op env s) := by
  unfold execNormFwd
  repeat' first
      | with_reducible assumption | with_reducible refine quietOut_next ?_
      | (with_reducible refine quiet_reduceOp _ _ _ _ ?_)

theorem quiet_execNormBwd {s0 : State} (op : Nat) (env : Env) (s : State) (h2 : Quiet s0 s) : QuietOut s0 (execNormBwd
    op env s) := by
  unfold execNormBwd
  repeat' first
      | with_reducible assumption | with_reducible refine quietOut_next ?_
      | (with_reducible refine quiet_reduceOp _ _ _ _ ?_)

theorem quiet_runExpr {s0 : State} (s0_0 : State) (c : ExecCtx) (d : Bytes) (h0 : Quiet s0 s0_0) : Quiet s0 (runExpr
    s0_0 c d).s := by
  unfold runExpr
  repeat' first
      | with_reducible assumption | (with_reducible refine quiet_onInputs _ _ _ _ ?_ ?_)
      | (with_reducible refine quiet_emit _ _ _ _ _ _ _ _ ?_) | intro _ | split

theorem quiet_execExpr {s0 : State} (op : Nat) (env : Env) (s : State) (h2 : Quiet s0 s) : QuietOut s0 (execExpr op env
    s) := by
  unfold execExpr
  repeat' first
      | with_reducible assumption | with_reducible refine quietOut_next ?_
      | (with_reducible refine quiet_runOp _ _ _ _ _ ?_ ?_) | (with_reducible refine quiet_complete _ _ _ _ _ ?_)
      | (with_reducible refine quiet_finishRun _ _ _ ?_) | (with_reducible refine quiet_runExpr _ _ _ ?_) | intro _
      | split

theorem quiet_runRng {s0 : State} (s : State) (c : ExecCtx) (d : Bytes) (h0 : Quiet s0 s) : Quiet s0 (runRng s c d).s
    := by
  unfold runRng
  try dsimp only
  repeat' first | with_reducible assumption | (with_reducible refine quiet_emit _ _ _ _ _ _ _ _ ?_) | split

theorem quiet_rngOp {s0 : State} (opcode : Nat) (op : Nat) (env : Env) (s : State) (h3 : Quiet s0 s) : QuietOut s0
    (rngOp opcode op env s) := by
  unfold rngOp
  repeat' first
      | with_reducible assumption | with_reducible refine quietOut_next ?_
      | (with_reducible refine quiet_runOp _ _ _ _ _ ?_ ?_) | (with_reducible refine quiet_finishRun _ _ _ ?_)
      | (with_reducible refine quiet_runRng _ _ _ ?_) | intro _

theorem quiet_execRngUniform {s0 : State} (op : Nat) (env : Env) (s : State) (h2 : Quiet s0 s) : QuietOut s0
    (execRngUniform op env s) := by
  unfold execRngUniform
  repeat' first
      | with_reducible assumption | with_reducible refine quietOut_next ?_
      | (with_reducible refine quiet_rngOp _ _ _ _ ?_)

theorem quiet_execRngNormal {s0 : State} (op : Nat) (env : Env) (s : State) (h2 : Quiet s0 s) : QuietOut s0
    (execRngNormal op env s) := by
  unfold execRngNormal
  repeat' first
      | with_reducible assumption | with_reducible refine quietOut_next ?_
      | (with_reducible refine quiet_rngOp _ _ _ _ ?_)

theorem quiet_execRngBernoulli {s0 : State} (op : Nat) (env : Env) (s : State) (h2 : Quiet s0 s) : QuietOut s0
    (execRngBernoulli op env s) := by
  unfold execRngBernoulli
  repeat' first
      | with_reducible assumption | with_reducible refine quietOut_next ?_
      | (with_reducible refine quiet_rngOp _ _ _ _ ?_)

theorem quiet_writeRuns {s0 : State} (s : State) (c : ExecCtx) (base : Nat) (rs : Runs) (h0 : Quiet s0 s) : Quiet s0
    (writeRuns s c base rs) := by
  unfold writeRuns
  repeat' first
      | with_reducible assumption | (with_reducible refine quiet_devWrite _ _ _ _ _ ?_)
      | (with_reducible refine quiet_drawFree _ _ ?_) | intro _ | (with_reducible refine quiet_foldl ?_ _ ?_)

theorem quiet_writeRecord {s0 : State} (s : State) (c : ExecCtx) (entry : Nat) (e : Stash) (h0 : Quiet s0 s) : Quiet s0
    (writeRecord s c entry e) := by
  unfold writeRecord
  repeat' first | with_reducible assumption | (with_reducible refine quiet_devWrite _ _ _ _ _ ?_)

theorem quiet_execStashPut {s0 : State} (op : Nat) (env : Env) (s0_2 : State) (h2 : Quiet s0 s0_2) : QuietOut s0
    (execStashPut op env s0_2) := by
  unfold execStashPut
  repeat' first
      | with_reducible assumption | with_reducible refine quietOut_next ?_
      | (with_reducible refine quiet_runOp _ _ _ _ _ ?_ ?_) | (with_reducible refine quiet_failRun _ _ _ _ _ ?_)
      | (with_reducible refine quiet_complete _ _ _ _ _ ?_) | (with_reducible refine quiet_withInputs _ _ _ _ ?_ ?_)
      | (with_reducible refine quiet_writeRuns _ _ _ _ ?_) | (with_reducible refine quiet_fenceAdd _ _ _ ?_)
      | (with_reducible refine quiet_finishOk _ _ _ _ _ ?_) | (with_reducible refine quiet_setStash _ _ _ _ ?_)
      | (with_reducible refine quiet_writeRecord _ _ _ _ ?_) | (with_reducible refine quiet_ite ?_ ?_) | intro _
      | (with_reducible refine quiet_foldl ?_ _ ?_)

theorem quiet_stashRead {s0 : State} (s : State) (c : ExecCtx) (a : Nat) (n : Nat) (h0 : Quiet s0 s) : Quiet s0
    (stashRead s c a n).1 := by
  unfold stashRead
  repeat' first | with_reducible assumption | (with_reducible refine quiet_checkRange _ _ _ _ _ ?_)

theorem quiet_sparseStep {s0 : State} (c : ExecCtx) (fmt : Nat) (t : SparseAt) (h : Quiet s0 t.s) : Quiet s0
    (sparseStep c fmt t).s := by
  unfold sparseStep
  exact quiet_stashRead _ _ _ _ (quiet_stashRead _ _ _ _ h)

theorem quiet_sparseFold {s0 : State} (c : ExecCtx) (fmt : Nat) : ∀ (l : List Nat) (t : SparseAt), Quiet s0 t.s →
    Quiet s0 (l.foldl (fun t _ => if t.err.isSome then t else sparseStep c fmt t) t).s
  | [], _, h => h
  | _ :: l, t, h => by
    refine quiet_sparseFold c fmt l _ ?_
    dsimp only
    split
    · exact h
    · exact quiet_sparseStep _ _ _ h

theorem quiet_sparseRead {s0 : State} (s : State) (c : ExecCtx) (fmt : Nat) (groups : Nat) (a : Nat) (n : Nat) (h0 :
    Quiet s0 s) : Quiet s0 (sparseRead s c fmt groups a n).1 := by
  unfold sparseRead
  exact quiet_sparseFold _ _ _ _ h0

theorem quiet_stashDecode {s0 : State} (s : State) (c : ExecCtx) (e : Stash) (h0 : Quiet s0 s) : Quiet s0 (stashDecode
    s c e).1 := by
  unfold stashDecode
  repeat' first
      | with_reducible assumption | (with_reducible refine quiet_stashRead _ _ _ _ ?_)
      | (with_reducible refine quiet_sparseRead _ _ _ _ _ _ ?_) | split

theorem quiet_getWrite {s0 : State} (s : State) (c : ExecCtx) (d : Bytes) (e : Stash) (xs : List (Nat × Nat)) (h0 :
    Quiet s0 s) : Quiet s0 (getWrite s c d e xs) := by
  unfold getWrite
  repeat' first
      | with_reducible assumption | (with_reducible refine quiet_writeTensor _ _ _ _ ?_)
      | (with_reducible refine quiet_ite ?_ ?_)

theorem quiet_getDone {s0 : State} (s : State) (o : Op) (env : Env) (e : Stash) (xs : List (Nat × Nat)) (reex : Bool)
    (h0 : Quiet s0 s) : Quiet s0 (getDone s o env e xs reex) := by
  unfold getDone
  repeat' first
      | with_reducible assumption | (with_reducible refine quiet_getWrite _ _ _ _ _ ?_)
      | (with_reducible refine quiet_measure _ _ _ _ ?_) | (with_reducible refine quiet_finishOk _ _ _ _ _ ?_)

theorem quiet_stashLost {s0 : State} (s : State) (o : Op) (env : Env) (entry : Nat) (e : Stash) (xs : Nat) (info :
    Nat) (h0 : Quiet s0 s) : Quiet s0 (stashLost s o env entry e xs info) := by
  unfold stashLost
  repeat' first
      | with_reducible assumption | (with_reducible refine quiet_freeExts _ _ _ ?_)
      | (with_reducible refine quiet_raise _ _ _ _ ?_) | (with_reducible refine quiet_complete _ _ _ _ _ ?_)

theorem quiet_execStashGet {s0 : State} (op : Nat) (env : Env) (s0_2 : State) (h2 : Quiet s0 s0_2) : QuietOut s0
    (execStashGet op env s0_2) := by
  unfold execStashGet
  try dsimp only
  repeat' first
      | with_reducible assumption | with_reducible refine quietOut_next ?_
      | (with_reducible refine quiet_runOp _ _ _ _ _ ?_ ?_) | (with_reducible refine quiet_complete _ _ _ _ _ ?_)
      | (with_reducible refine quiet_stashDecode _ _ _ ?_) | (with_reducible refine quiet_getDone _ _ _ _ _ _ ?_)
      | (with_reducible refine quiet_stashLost _ _ _ _ _ _ _ ?_) | (with_reducible refine quiet_updOp _ _ _ ?_)
      | intro _ | split | (with_reducible refine quiet_fst (by with_reducible assumption) ?_)

theorem quiet_dropStash {s0 : State} (s : State) (p : Nat) (entry : Nat) (h0 : Quiet s0 s) : Quiet s0 (dropStash s p
    entry) := by
  unfold dropStash
  repeat' first
      | with_reducible assumption | (with_reducible refine quiet_setStash _ _ _ _ ?_)
      | (with_reducible refine quiet_releasePins _ _ ?_) | split

theorem quiet_execStashFree {s0 : State} (op : Nat) (env : Env) (s0_2 : State) (h2 : Quiet s0 s0_2) : QuietOut s0
    (execStashFree op env s0_2) := by
  unfold execStashFree
  repeat' first
      | with_reducible assumption | with_reducible refine quietOut_next ?_
      | (with_reducible refine quiet_runOp _ _ _ _ _ ?_ ?_) | (with_reducible refine quiet_complete _ _ _ _ _ ?_)
      | (with_reducible refine quiet_updOp _ _ _ ?_) | (with_reducible refine quiet_finishOk _ _ _ _ _ ?_)
      | (with_reducible refine quiet_dropStash _ _ _ ?_) | (with_reducible refine quiet_ite ?_ ?_) | intro _

theorem quiet_execPatrolScrub {s0 : State} (rid : Nat) (granule : Nat) (block : Nat) (mem : MemIn) (s0_4 : State) (h4
    : Quiet s0 s0_4) : QuietOut s0 (execPatrolScrub rid granule block mem s0_4) := by
  unfold execPatrolScrub
  repeat' first
      | with_reducible assumption | with_reducible refine quietOut_next ?_
      | (with_reducible refine quiet_dramUpsets _ _ ?_) | (with_reducible refine quiet_readBlock _ _ _ _ ?_)
      | (with_reducible refine quiet_ite ?_ ?_)

theorem quiet_execWcEntryFlush {s0 : State} (channel : Nat) (index : Nat) (mem : MemIn) (s : State) (h3 : Quiet s0 s)
    : QuietOut s0 (execWcEntryFlush channel index mem s) := by
  unfold execWcEntryFlush
  repeat' first
      | with_reducible assumption | with_reducible refine quietOut_next ?_
      | (with_reducible refine quiet_wcFlushAt _ _ _ _ ?_) | (with_reducible refine quiet_dramUpsets _ _ ?_)

theorem quiet_execQeWake {s0 : State} (fn : Nat) (value : Word32) (host : HostIn) (s0_3 : State) (h3 : Quiet s0 s0_3)
    : QuietOut s0 (execQeWake fn value host s0_3) := by
  unfold execQeWake
  repeat' first
      | with_reducible assumption | with_reducible refine quietOut_next ?_
      | (with_reducible refine quiet_hostStores _ _ ?_) | (with_reducible refine quiet_sweep _ _ _ _ ?_)
      | (with_reducible refine quiet_ite ?_ ?_)

theorem quiet_execNop {s0 : State} (op : Nat) (env : Env) (s : State) (h2 : Quiet s0 s) : QuietOut s0 (execNop op env
    s) := by
  unfold execNop
  repeat' first
      | with_reducible assumption | with_reducible refine quietOut_next ?_
      | (with_reducible refine quiet_runOp _ _ _ _ _ ?_ ?_) | (with_reducible refine quiet_finishOk _ _ _ _ _ ?_)
      | intro _

theorem quiet_execEvtSet {s0 : State} (op : Nat) (env : Env) (s : State) (h2 : Quiet s0 s) : QuietOut s0 (execEvtSet op
    env s) := by
  unfold execEvtSet
  repeat' first
      | with_reducible assumption | with_reducible refine quietOut_next ?_
      | (with_reducible refine quiet_runOp _ _ _ _ _ ?_ ?_) | (with_reducible refine quiet_setEvt _ _ _ ?_)
      | (with_reducible refine quiet_finishOk _ _ _ _ _ ?_) | (with_reducible refine quiet_ite ?_ ?_) | intro _

theorem quiet_execEvtAdd {s0 : State} (op : Nat) (env : Env) (s : State) (h2 : Quiet s0 s) : QuietOut s0 (execEvtAdd op
    env s) := by
  unfold execEvtAdd
  repeat' first
      | with_reducible assumption | with_reducible refine quietOut_next ?_
      | (with_reducible refine quiet_runOp _ _ _ _ _ ?_ ?_) | (with_reducible refine quiet_setEvt _ _ _ ?_)
      | (with_reducible refine quiet_finishOk _ _ _ _ _ ?_) | (with_reducible refine quiet_ite ?_ ?_) | intro _

theorem quiet_windowTick {s0 : State} (s : State) (core : Nat) (id : Nat) (h0 : Quiet s0 s) : Quiet s0 (windowTick s
    core id) := by
  unfold windowTick
  repeat' first
      | with_reducible assumption | (with_reducible refine quiet_updWindow _ _ _ ?_)
      | (with_reducible refine quiet_ite ?_ ?_)

theorem quiet_execTimestamp {s0 : State} (op : Nat) (env : Env) (s : State) (h2 : Quiet s0 s) : QuietOut s0
    (execTimestamp op env s) := by
  unfold execTimestamp
  repeat' first
      | with_reducible assumption | with_reducible refine quietOut_next ?_
      | (with_reducible refine quiet_runOp _ _ _ _ _ ?_ ?_) | (with_reducible refine quiet_failRun _ _ _ _ _ ?_)
      | (with_reducible refine quiet_finishOk _ _ _ _ _ ?_) | (with_reducible refine quiet_hostWrite _ _ _ _ ?_)
      | (with_reducible refine quiet_windowTick _ _ _ ?_) | (with_reducible refine quiet_devWrite _ _ _ _ _ ?_)
      | (with_reducible refine quiet_ite ?_ ?_) | intro _

end Sys2Proof.Machine
end

