-- ==== Sys2Proof/WellFormed.lean ====
section
/-! DEFINITION. Which commands can arise: the operands lie in the ranges of the numbers the spec gives
(rings, functions, partitions, regions, ports, lanes, endpoints). -/

namespace Sys2Proof

/-- Host bytes lie on one of the two host ports (R108), configuration writes name one of 16 functions (R109). -/
def HostIn.wf (h : HostIn) : Bool :=
  h.stores.all (fun e => decide (e.1 < 2 ^ 65)) && h.rejects.all (fun e => decide (e.1 < 2 ^ 65))
    && h.poisons.all (fun e => decide (e.1 < 2 ^ 65)) && h.config.all (fun e => decide (e.1 < 16))

def SegId.wf (g : SegId) : Bool := decide (g.port < 12) && decide (g.xid < 4096)

def TimerOf.wf : TimerOf → Bool
  | .waiting ring _ => decide (ring < 4096)
  | .dispatched _ => true

/-- The size of a function's BAR0: 32 MiB of a PF, 64 KiB of a VF (R377, R385). -/
def barSize (fn : Nat) : Nat := if fn % 8 = 0 then 0x2000000 else 0x10000

def CollRef.wf (c : CollRef) : Bool := decide (c.group < 4096)

/-- Cores are physical numbers below 544, channels below 544, lasers below 24 and behind them tag emitters of 12 ports (R51, R138, R309). -/
def BringUp.wf (b : BringUp) : Bool :=
  b.noAck.all (fun c => decide (c < 544)) && b.bistFail.all (fun c => decide (c < 544))
    && b.untrained.all (fun c => decide (c < 544)) && b.lasersDark.all (fun c => decide (c < 36))

/-- The operands of a command lie in their ranges. -/
def Instr.wf : Instr → Bool
  | .descriptorFetch ring host => decide (ring < 4096) && host.wf
  | .dispatch ring => decide (ring < 4096)
  | .descriptorTimeout at_ => at_.wf
  | .heldRecordRelease oring => decide (oring < 1024)
  | .doorbellSweep fn host => decide (fn < 16) && host.wf
  | .qeWake fn _ host => decide (fn < 16) && host.wf
  | .irqLeafClear fn offset _ => decide (fn < 16) && decide (offset < barSize fn)
  | .irqMaskWrite fn _ => decide (fn < 16)
  | .ringEnable fn ring _ => decide (fn < 16) && decide (ring < 4096)
  | .ringDisable fn ring _ => decide (fn < 16) && decide (ring < 4096)
  | .oringEnable fn oring _ => decide (fn < 16) && decide (oring < 1024)
  | .driverNegotiate fn _ => decide (fn < 16)
  | .partitionEnable fn p _ => decide (fn < 16) && decide (p < 8)
  | .partitionDisable fn p _ => decide (fn < 16) && decide (p < 8)
  | .regionEnable fn rid _ => decide (fn < 16) && decide (rid < 512)
  | .regionInitDone rid => decide (rid < 512)
  | .regionDisable fn rid _ => decide (fn < 16) && decide (rid < 512)
  | .layerTableLoad fn p _ _ => decide (fn < 16) && decide (p < 8)
  | .caddyEnable fn p _ => decide (fn < 16) && decide (p < 8)
  | .caddyDisable fn p _ => decide (fn < 16) && decide (p < 8)
  | .detModeWrite fn _ => decide (fn < 16)
  | .mbAsyncRemove fn _ => decide (fn < 16)
  | .registerWrite fn offset _ _ => decide (fn < 16) && decide (offset < barSize fn)
  | .bar2Read fn addr _ _ => decide (fn < 16) && decide (addr < 2 ^ 40)
  | .bar2Write fn addr _ => decide (fn < 16) && decide (addr < 2 ^ 40)
  | .nop _ env => env.host.wf
  | .evtSet _ env => env.host.wf
  | .evtAdd _ env => env.host.wf
  | .timestamp _ env => env.host.wf
  | .gemm _ env => env.host.wf
  | .expr _ env => env.host.wf
  | .rowReduce _ env => env.host.wf
  | .colReduce _ env => env.host.wf
  | .softmaxFwd _ env => env.host.wf
  | .softmaxBwd _ env => env.host.wf
  | .normFwd _ env => env.host.wf
  | .normBwd _ env => env.host.wf
  | .copy _ env => env.host.wf
  | .transpose _ env => env.host.wf
  | .pack _ env => env.host.wf
  | .unpack _ env => env.host.wf
  | .gather _ env => env.host.wf
  | .scatterAdd _ env => env.host.wf
  | .hostRead _ env => env.host.wf
  | .hostWrite _ env => env.host.wf
  | .rngUniform _ env => env.host.wf
  | .rngNormal _ env => env.host.wf
  | .rngBernoulli _ env => env.host.wf
  | .stashPut _ env => env.host.wf
  | .stashGet _ env => env.host.wf
  | .stashFree _ env => env.host.wf
  | .stArm _ env => env.host.wf
  | .stShardSet _ env => env.host.wf
  | .stSchedSet _ env => env.host.wf
  | .allReduce _ env => env.host.wf
  | .reduceScatter _ env => env.host.wf
  | .allGather _ env => env.host.wf
  | .broadcast _ env => env.host.wf
  | .reduce _ env => env.host.wf
  | .allToAll _ env => env.host.wf
  | .barrier _ env => env.host.wf
  | .stepVote _ env => env.host.wf
  | .send _ env => env.host.wf
  | .recv _ env => env.host.wf
  | .mcastPut _ env => env.host.wf
  | .groupSet _ env => env.host.wf
  | .planStage _ env => env.host.wf
  | .planCommit _ env => env.host.wf
  | .fence _ env => env.host.wf
  | .mcastSet _ env => env.host.wf
  | .getInfo ep _ => decide (ep < 19)
  | .sensorRead ep _ _ _ => decide (ep < 19)
  | .logRead ep _ _ _ _ host => decide (ep < 19) && host.wf
  | .setMgmtCap ep _ _ => decide (ep < 19)
  | .reset ep _ _ => decide (ep < 19)
  | .partReset ep _ _ => decide (ep < 19)
  | .partHandover ep _ _ _ _ _ _ host => decide (ep < 19) && host.wf
  | .coreReconfig ep _ => decide (ep < 19)
  | .bootPlanSet ep _ _ _ _ host => decide (ep < 19) && host.wf
  | .alertMask ep _ _ => decide (ep < 19)
  | .mviewRead ep _ => decide (ep < 19)
  | .mviewClear ep _ _ _ => decide (ep < 19)
  | .fwUpdate ep _ _ _ _ _ host => decide (ep < 19) && host.wf
  | .fwUpdateStepDone ending => ending.host.wf
  | .fwStatus ep _ => decide (ep < 19)
  | .fwActivate ep _ _ => decide (ep < 19)
  | .svnCommit ep _ => decide (ep < 19)
  | .inputPowerApplied bu => bu.wf
  | .bootWaitExpiry => true
  | .brownOutTrip _ => true
  | .overvoltageTrip _ => true
  | .bladeWithdrawal _ => true
  | .rootPllLoss bu => bu.wf
  | .coldReset bu => bu.wf
  | .warmReset bu => bu.wf
  | .fabricReset bu => bu.wf
  | .computeReset => true
  | .functionLevelReset fn => decide (fn < 16)
  | .perstAssert port => decide (port < 2)
  | .d3hotReturn fn => decide (fn < 16)
  | .portDlDown port => decide (port < 2)
  | .portHoldExpiry port => decide (port < 2)
  | .coreAckTimeout core => decide (core < 512)
  | .coreFailure core => decide (core < 512)
  | .coreRebind core env => decide (core < 512) && env.host.wf
  | .sramDoubleBitError core _ env => decide (core < 512) && env.host.wf
  | .channelRepairMark channel _ => decide (channel < 512)
  | .liveMigrationStart channel => decide (channel < 512)
  | .migrationSwitch channel _ => decide (channel < 512)
  | .offlineRetrainDone stack phys _ => decide (stack < 16) && decide (phys < 34)
  | .inPlaceRetrain channel _ => decide (channel < 512)
  | .patrolScrub rid _ _ _ => decide (rid < 512)
  | .wcEntryFlush channel _ _ => decide (channel < 512)
  | .repairRecordWrite => true
  | .stashReexecution _ env => env.host.wf
  | .stashFreeDeferred _ => true
  | .slotClaim _ layer => decide (layer < 4096)
  | .reducedChunkApply coll _ env => coll.wf && env.host.wf
  | .shardFinish _ entry env => decide (entry < 8192) && env.host.wf
  | .ruleVResume _ entry env => decide (entry < 8192) && env.host.wf
  | .computeValuesReceive mcast src msg => decide (mcast < 1024) && decide (src < 65536) && decide (msg.layer < 4096)
  | .computeValuesAck _ _ msg _ => decide (msg.layer < 4096)
  | .computeValuesResend _ => true
  | .statisticsExchange _ host _ => host.wf
  | .voteContribute _ => true
  | .voteDecision _ _ => true
  | .collectiveOpen _ env => env.host.wf
  | .chunkReceive via _ => via.wf
  | .grantReceive coll _ _ => coll.wf
  | .ackReceive coll _ ack => coll.wf && decide (ack.grants < 2 ^ 32)
  | .nakReceive coll _ _ => coll.wf
  | .chunkResendTimeout coll _ _ => coll.wf
  | .abortNoticeReceive coll _ _ => coll.wf
  | .voteRecordReceive via _ => via.wf
  | .packetReceive via _ => via.wf
  | .packetTransmit seg turn => seg.wf && decide (turn.vc < 4)
  | .creditReturn port _ => decide (port < 12)
  | .expressAnnounce port _ => decide (port < 12)
  | .expressBusy port _ => decide (port < 12)
  | .expressRetry seg vc => seg.wf && decide (vc < 4)
  | .expressEnd port _ => decide (port < 12)
  | .expressIdleKeepalive seg => seg.wf
  | .epochSwitch => true
  | .previousBankRetire => true
  | .identityRecordSend port => decide (port < 12)
  | .identityRecordReceive port _ => decide (port < 12)
  | .neighbourRecordTimeout port => decide (port < 12)
  | .fabLinkDown port => decide (port < 12)
  | .routeFaultNotice _ => true
  | .flitReceive seg lane index light => seg.wf && decide (lane < 8) && decide (index < 5) && (light.mode = 1 || light.mode = 2)
  | .relayAck port _ => decide (port < 12)
  | .relayNak port _ => decide (port < 12)
  | .replayTimeout seg _ => seg.wf
  | .lanesFrame port _ => decide (port < 12)
  | .laneRetrainDone seg lane => seg.wf && decide (lane < 8)
  | .enobWindowEnd seg lane _ _ => seg.wf && decide (lane < 8)
  | .keepSend port => decide (port < 12)
  | .keepFrame port _ => decide (port < 12)
  | .loopOpenTimeout port => decide (port < 12)
  | .portTrainingTimeout port => decide (port < 12)
  | .ringLockCheck port lane tone _ _ => decide (port < 12) && decide (lane < 8) && decide (tone < 24)
  | .ringSweepDone port lane => decide (port < 12) && decide (lane < 8)
  | .laserPowerSample laser _ => decide (laser < 24)
  | .laserStop laser => decide (laser < 24)
  | .spareWarmDone laser => decide (laser < 24)
  | .spareLockTimeout laser => decide (laser < 24)
  | .laserChangeoverDone wavelength => decide (wavelength < 8)
  | .tagEmitterFailure port => decide (port < 12)
  | .capLoopPeriod _ _ _ report => decide (report.rails.length ≤ 42)
  | .limiterSample _ => true
  | .coreCodeSwitch core => decide (core < 512)
  | .vcoreDroop rail => decide (rail.domain < 32)
  | .thermalSensorScan _ _ _ => true
  | .converterFail _ => true
  | .phaseFail _ _ => true
  | .drabexWatchdogExpiry => true
  | .dbxRestart => true
  | .logEntryWrite => true
  | .getCerts port _ => decide (port < 2)
  | .measure port _ => decide (port < 2)
  | .doeAbort port => decide (port < 2)
  | .doeDiscovery port _ => decide (port < 2)
  | .mctpControlMessage ep _ => decide (ep < 19)
  | .pldmDiscovery ep _ => decide (ep < 19)
  | .pldmGetSensorReading ep _ => decide (ep < 19)
  | .pldmRequestUpdate ep _ _ _ => decide (ep < 19)
  | .pldmActivateFirmware ep => decide (ep < 19)
  | .jtagInstruction _ => true
  | .d3hotEntry fn => decide (fn < 16)
  | .perstDeassert port => decide (port < 2)
  | .portLinkUp port => decide (port < 2)
  | .oringDisable fn oring _ => decide (fn < 16) && decide (oring < 1024)
  | .reverseRelayFrame port _ => decide (port < 12)
  | .droopStretchEnd rail => decide (rail.domain < 32)
  | .lowWordRead fn at_ => decide (fn < 16) && decide (0 < at_.len) && decide (at_.offset + at_.len ≤ barSize fn)
  | .bladeInsertion bu => bu.wf
  | .unlistedMailboxOp ep _ => decide (ep < 19)

end Sys2Proof
end

