-- ==== Sys2Proof/Tests/Slice0.lean ====
section
/-! SUPPORT. Tests: the well-formedness checks, the spec's own examples, and for the statements a state and operands that meet
their hypotheses, with one step on them. -/

namespace Sys2Proof.Tests

open Sys2Proof Sys2Proof.Machine

set_option Elab.async false

/-! ### A small module: one partition of PF 0, two rings, one output ring, a region of each class -/

def base : State :=
  { power := { phase := .ready, ready := true, step := 13, drabexUp := true, perst0 := false, perst1 := false, cause := 1 }
    ports := [(0, { up := true, vfs := 7 })]
    fns := [(0, { drvWritten := true, drvMajor := 2, accepted := true, pages := [(0, { valid := true, addr := 0x8000 })] })]
    parts := [(0, { state := .enabled, cores := 3#512, ringCount := 1, orCount := 1, evCount := 1, quota := 64, layCount := 1,
                    shCount := 1, grpCount := 1, contexts := 64, mcCount := 1, cdState := 1, cdEnable := true, cdEntries := 8 })]
    q := { rings := [(0, { enable := true, state := 1, base := 0x10000 }), (1, { enable := true, state := 1, base := 0x20000, target := 0x3FF })]
           orings := [(0, { enable := true, base := 0x30000 })] }
    cores := { map := [(0, some 0), (1, some 1)] }
    dram := { regions := [(0, { enable := true, state := 2, size := 1 }), (1, { enable := true, state := 2, cls := 1, size := 1, base := 1, slot := 36 }),
                          (2, { enable := true, state := 2, cls := 2, size := 1, base := 2, slot := 69 })] } }

/-- A descriptor of version 2: opcode, flags, body. It waits for nothing and signals counter 1. -/
def desc (op flags : Nat) (body : Bytes) : Bytes :=
  leBytes 2 op ++ [2#8] ++ leBytes 1 flags ++ leBytes 2 7 ++ leBytes 2 0xFFFF ++ zeros 4 ++ leBytes 2 1 ++ zeros 2 ++ padTo (if bit op 11 then 112 else 48) body

/-- The module with one operation dispatched to a core, or to the network with 0x3FF. -/
def withOp (core : Nat) (d : Bytes) (s : State := base) : State :=
  { s with q := { s.q with ops := [{ id := 0, seq := 0, part := 0, ring := if core = 0x3FF then 1 else 0, core, pos := 0, desc := d }], opSeq := 1 } }

/-- The next state of a command satisfies a check. -/
def nextIs (o : Out) (p : State → Bool) : Bool :=
  match o with
  | .next t => p t
  | _ => false

/-- The next state of a command is this one. -/
def isNext (o : Out) (s : State) : Bool := nextIs o (fun t => t = s)

/-- A dense operand reference. -/
def ref (sram : Bool) (fmt addr : Nat) : Nat := 2 ^ 50 + fmt * 2 ^ 42 + (if sram then 2 ^ 40 else 0) + addr

/-! ### The queue engine -/

def fetchReady : State := { base with q := { base.q with rings := [(0, { enable := true, state := 1, base := 0x10000, producer := 1 })] }
                                      host := mwrite [] 0x10000 (desc 0 4 []) }

theorem test_fetch_takes :
    nextIs (exec (.descriptorFetch 0 {}) fetchReady) (fun t => (getRing t 0).consumed = 1 && (getRing t 0).waiting.map (·.bytes) = [desc 0 4 []]
      && mread t.host (hostKey 0 (0x10000 + 64 * 64)) 4 = leBytes 4 1) = true := by decide +kernel

theorem test_dispatch_head :
    nextIs (exec (.dispatch 0) { base with q := { base.q with rings := [(0, { enable := true, state := 1, waiting := [⟨0, desc 0 4 []⟩] })] } })
      (fun t => t.q.ops.length = 1 && (getRing t 0).waiting = []) = true := by decide +kernel


theorem test_fetch_meets : (ringPart fetchReady 0 = some 0 ∧ (getRing fetchReady 0).enable = true ∧ (getRing fetchReady 0).state = 1
    ∧ partReachable fetchReady 0 = true ∧ fnRuns fetchReady 0 = true ∧ hostRead fetchReady {} 0 0x10000 64 = .data (desc 0 4 [])
    ∧ dExt (desc 0 4 []) = false) := by decide +kernel

def extReady : State := { base with q := { base.q with rings := [(0, { enable := true, state := 1, base := 0x10000, producer := 2 ^ 32 - 1 + 2, consumed := 2 ^ 32 - 1 })] }
                                    host := mwrite (mwrite [] (0x10000 + 64 * 63) (desc 0x1840 4 [])) 0x10000 (desc 0 4 []) }

/-- An extended descriptor in the ring's last slot takes that slot alone (R73), and indices wrap. -/
theorem test_fetch_wraps :
    nextIs (exec (.descriptorFetch 0 {}) { extReady with q := { extReady.q with rings := [(0, { enable := true, state := 1, base := 0x10000, producer := 1, consumed := 2 ^ 32 - 1 })] } })
      (fun t => (getRing t 0).consumed = 0 && (getRing t 0).waiting.length = 1) = true := by decide +kernel

def splitExt (producer : Nat) : State :=
  { base with q := { base.q with rings := [(0, { enable := true, state := 1, base := 0x10000, producer })] }, host := mwrite [] 0x10000 (desc 0x1840 4 []) }

theorem test_fetch_two_slots :
    (dExt (desc 0x1840 4 []) && nextIs (exec (.descriptorFetch 0 {}) (splitExt 2)) (fun t => (getRing t 0).consumed = 2)) = true := by decide +kernel

theorem test_fetch_split :
    (fetchTurn (splitExt 1) = some (0, 0) && isNext (exec (.descriptorFetch 0 {}) (splitExt 1))
      { splitExt 1 with q := { (splitExt 1).q with nextPart := 1, nextRing := [(0, 1)] } }) = true := by decide +kernel

/-- The turn is ring 0's, also after it where no other ring has slots (R119); ring 1 fetches nothing in it. -/
theorem test_fetch_turn :
    (fetchTurn fetchReady = some (0, 0) && isNext (exec (.descriptorFetch 1 {}) fetchReady) fetchReady
      && fetchTurn { fetchReady with q := { fetchReady.q with nextPart := 1, nextRing := [(0, 1)] } } = some (0, 0)
      && fetchTurn { fetchReady with q := { fetchReady.q with nextRing := [(0, 1)]
                                                              rings := fetchReady.q.rings ++ [(1, { enable := true, state := 1, producer := 1 })] }
                                     parts := [(0, { getPart base 0 with ringCount := 2 })] } = some (0, 1)) = true := by decide +kernel

/-- 65 slots ahead in a ring of 64 (R117). -/
theorem test_fetch_overrun :
    nextIs (exec (.descriptorFetch 0 {}) (splitExt 65)) (fun t => (getRing t 0).error = 1 && (getRing t 0).state = 2
      && (tget 0#32 (getFn t 0).leaves 0x41200).getLsbD 0) = true := by decide +kernel

/-! ### Dispatch, timers, held records, sweeps -/

def waitingFor (d : Bytes) (evts : Tbl EvtCounter) : State :=
  { base with q := { base.q with rings := [(0, { enable := true, state := 1, waiting := [⟨0, d⟩] })], evts } }

/-- A NOP that waits for counter 2 to reach 5 and signals counter 1. -/
def waits : Bytes := leBytes 2 0 ++ [2#8, 4#8] ++ leBytes 2 7 ++ leBytes 2 2 ++ leBytes 4 5 ++ leBytes 2 1 ++ zeros 50

theorem test_dispatch_meets : (ringPart (waitingFor waits [(2, { value := 5#32 })]) 0 = some 0
    ∧ headRefusal (waitingFor waits [(2, { value := 5#32 })]) 0 0 waits false = none
    ∧ waitDone (waitingFor waits [(2, { value := 5#32 })]) 2 5 = true ∧ lateRefusal (waitingFor waits [(2, { value := 5#32 })]) 0 0 waits = none
    ∧ partOps (waitingFor waits [(2, { value := 5#32 })]) 0 < 64 ∧ r53Free (waitingFor waits [(2, { value := 5#32 })]) 0 0 waits = true) := by decide +kernel

theorem test_dispatch_waits : isNext (exec (.dispatch 0) (waitingFor waits [(2, { value := 4#32 })])) (waitingFor waits [(2, { value := 4#32 })]) = true := by decide +kernel

/-- A poisoned wait (R83): POISONED_INPUT, XSTATUS 1; the chain's next counter is poisoned. -/
theorem test_dispatch_poison :
    nextIs (exec (.dispatch 0) (waitingFor waits [(2, { value := 5#32, poison := true })])) (fun t => t.q.ops = [] && (getRing t 0).waiting = []
      && getEvt t 1 = { value := 1#32, poison := true } && (getORing t 0).produced = 1
      && mread t.host (hostKey 0 0x30000) 16 = completionRecord waits 0 stPoison 1 0) = true := by decide +kernel

theorem test_dispatch_poison_held :
    nextIs (exec (.dispatch 0) { waitingFor waits [(2, { value := 5#32, poison := true })] with
        q := { (waitingFor waits [(2, { value := 5#32, poison := true })]).q with orings := [] } })
      (fun t => (getORing t 0).held.map (·.bytes) = [completionRecord waits 0 stPoison 1 0]) = true := by decide +kernel

/-- A FENCE of an epoch not newer, behind a poisoned wait: its BAD_DESCRIPTOR ranks before POISONED_INPUT (R11). -/
def staleFence : Bytes := leBytes 2 0x9242 ++ [2#8, 4#8] ++ leBytes 2 7 ++ leBytes 2 2 ++ leBytes 4 5 ++ leBytes 2 1 ++ zeros 2 ++ padTo 48 (leBytes 2 5 ++ leBytes 2 1 ++ zeros 4 ++ leBytes 8 0x8000)

def staleWaiting : State :=
  { base with q := { base.q with rings := [(1, { enable := true, state := 1, target := 0x3FF, waiting := [⟨0, staleFence⟩] })]
                                 evts := [(2, { value := 5#32, poison := true })] }
              fabOwner := some 0, fabOwnerPart := 0, fab := { epoch := 5 }
              parts := [(0, { getPart base 0 with ringCount := 1 })] }

theorem test_dispatch_late :
    (ringPart staleWaiting 1 = some 0 && headRefusal staleWaiting 0 netTarget staleFence false = none && waitDone staleWaiting 2 5
      && lateRefusal staleWaiting 0 netTarget staleFence = some (stBad, 0x10)
      && nextIs (exec (.dispatch 1) staleWaiting) (fun t => (getRing t 1).waiting = []
        && mread t.host (hostKey 0 0x30000) 16 = completionRecord staleFence 1 stBad 0x10 0)) = true := by decide +kernel

theorem test_timeout_waiting :
    (evtsOk (waitingFor waits []) 0 waits && nextIs (exec (.descriptorTimeout (.waiting 0 0)) (waitingFor waits [])) (fun t => (getRing t 0).waiting = []
      && (getEvt t 1).poison && byteAt (mread t.host (hostKey 0 0x30000) 16) 2 = stTimeout)) = true := by decide +kernel

theorem test_timeout_dispatched :
    nextIs (exec (.descriptorTimeout (.dispatched 0)) (withOp 0 (desc 0 0 []))) (fun t => t.q.ops = [] && (getEvt t 1).poison
      && mread t.host (hostKey 0 0x30000) 16 = completionRecord (desc 0 0 []) 0 stTimeout 2 0) = true := by decide +kernel

/-- The timer of an operation whose record is held does nothing; one whose counter was satisfied ended with XSTATUS 6. -/
theorem test_timeout_forms :
    (isNext (exec (.descriptorTimeout (.dispatched 0)) { withOp 0 (desc 0 0 []) with
        q := { (withOp 0 (desc 0 0 [])).q with ops := (withOp 0 (desc 0 0 [])).q.ops.map (fun o => { o with phase := .recordHeld }) } })
      { withOp 0 (desc 0 0 []) with q := { (withOp 0 (desc 0 0 [])).q with ops := (withOp 0 (desc 0 0 [])).q.ops.map (fun o => { o with phase := .recordHeld }) } }
      && nextIs (exec (.descriptorTimeout (.waiting 0 0)) (waitingFor waits [(2, { value := 5#32 })]))
        (fun t => mread t.host (hostKey 0 0x30000) 16 = completionRecord waits 0 stTimeout 6 0)) = true := by decide +kernel

def heldOne : State := { base with q := { base.q with orings := [(0, { enable := true, base := 0x30000, held := [⟨.completion 0 false none, zeros 16⟩] })] } }

theorem test_held_release :
    (oringPart heldOne 0 = some 0 && !oringFull (getORing heldOne 0) && partReachable heldOne 0 && nextIs (exec (.heldRecordRelease 0) heldOne) (fun t =>
      (getORing t 0).held = [] && (getORing t 0).produced = 1 && mread t.host (hostKey 0 (0x30000 + 64 * 16)) 4 = leBytes 4 1)) = true := by decide +kernel

def doorbell : HostIn := { stores := [(0x8000, 9#8)] }

theorem test_sweep :
    (ownedPart base 0 = some 0 && fnRuns base 0 && nextIs (exec (.doorbellSweep 0 doorbell) base) (fun t => (getRing t 0).producer = 9)) = true := by
  decide +kernel

theorem test_wake :
    (fnAnswers base 0 && nextIs (exec (.qeWake 0 1#32 doorbell) base) (fun t => (getRing t 0).producer = 9)
      && nextIs (exec (.qeWake 0 2#32 doorbell) base) (fun t => (getRing t 0).producer = 0)) = true := by decide +kernel

/-- An index 65 ahead in a ring of 64 stops it, in a sweep and in QE_WAKE's (R117); 64 ahead does not. -/
theorem test_sweep_overrun :
    (nextIs (exec (.doorbellSweep 0 { stores := [(0x8000, 65#8)] }) base) (fun t => (getRing t 0).state = 2 && (getRing t 0).error = 1
        && (tget 0#32 (getFn t 0).leaves 0x41200).getLsbD 0 && mread t.host (hostKey 0 (0x10000 + 64 * 64)) 6 = leBytes 4 0 ++ [2#8, 1#8])
      && nextIs (exec (.qeWake 0 0#32 { stores := [(0x8000, 65#8)] }) base) (fun t => (getRing t 0).error = 1)
      && nextIs (exec (.doorbellSweep 0 { stores := [(0x8000, 64#8)] }) base) (fun t => (getRing t 0).state = 1)) = true := by decide +kernel

def free0 : State := { base with parts := [], q := {} }

/-- A host's configuration write (log 162): MSI-X goes on unmasked, and the message that waited is sent. -/
theorem test_sweep_config :
    (ownedPart free0 0 = none && fnExists free0 0 && nextIs (exec (.doorbellSweep 0 { config := [(0, .msix true false)] })
        { free0 with fns := [(0, { msixPend := true })] })
      (fun t => (getFn t 0).msixOn && !(getFn t 0).msixMasked && (getFn t 0).msix = 1 && !(getFn t 0).msixPend)) = true := by decide +kernel

/-! ### Registers -/

def leafSet : State := { base with fns := [(0, { leaves := [(0x40020, 3#32)], irqMask := 0x7F#32, accepted := true })] }

theorem test_leaf_clear :
    ((match placeAt leafSet 0 0x40020 with
      | .reg (.irqLeaf o) => decide (o = 0x40020)
      | _ => false) && nextIs (exec (.irqLeafClear 0 0x40020 1#32) leafSet)
      (fun t => tget 0#32 (getFn t 0).leaves 0x40020 = 2#32)) = true := by decide +kernel

theorem test_mask_write :
    nextIs (exec (.irqMaskWrite 0 0xFFFFFFFF#32) leafSet) (fun t => (getFn t 0).irqMask = 0x7F#32) = true := by decide +kernel

/-- A write that leaves IRQ_SUM non-zero sends a message, or marks it pending behind the vector's mask (R128). -/
theorem test_irq_message :
    (nextIs (exec (.irqMaskWrite 0 0x77#32) { leafSet with fns := [(0, { getFn leafSet 0 with msixOn := true, msixMasked := false })] })
        (fun t => (getFn t 0).msix = 1 && !(getFn t 0).msixPend)
      && nextIs (exec (.irqMaskWrite 0 0x77#32) { leafSet with fns := [(0, { getFn leafSet 0 with msixOn := true, msixMasked := true })] })
        (fun t => (getFn t 0).msix = 0 && (getFn t 0).msixPend)) = true := by decide +kernel

/-- A message that waits behind the mask is dropped when its cause goes. -/
theorem test_irq_dropped :
    nextIs (exec (.irqLeafClear 0 0x40020 3#32) { leafSet with fns := [(0, { getFn leafSet 0 with msixOn := true, msixMasked := true, msixPend := true })] })
      (fun t => irqMasked (getFn t 0) true = 0#32 && !(getFn t 0).msixPend) = true := by decide +kernel

theorem test_negotiate :
    (fnAuth free0 1 = .ok && nextIs (exec (.driverNegotiate 1 0x0205#32) free0) (fun t => (getFn t 1).accepted && (getFn t 1).drvMajor = 2 && (getFn t 1).drvMinor = 0)
      && nextIs (exec (.driverNegotiate 1 0x0300#32) free0) (fun t => (getFn t 1).refused)
      && isNext (exec (.driverNegotiate 0 0x0100#32) free0) free0) = true := by decide +kernel

theorem test_async_remove :
    nextIs (exec (.mbAsyncRemove 0 0xC0000000#32) { base with fns := [(0, { mbAsync := [⟨3, 1⟩, ⟨3, 2⟩], mbOverflow := true })] })
      (fun t => (getFn t 0).mbAsync = [⟨3, 2⟩] && !(getFn t 0).mbOverflow && tget 0#32 (getFn t 0).leaves 0x40024 = 2#32) = true := by decide +kernel

theorem test_det_write :
    (!anyPartEnabled free0 && nextIs (exec (.detModeWrite 0 1#32) free0) (fun t => t.kt.det && t.kt.f = 64)
      && nextIs (exec (.detModeWrite 0 1#32) { free0 with kt := { depth := 1 } }) (fun t => (tget 0#32 t.dbx.mview 7).getLsbD 2)) = true := by decide +kernel

theorem test_register_write_cap :
    ((match placeAt free0 0 0x200000 with
      | .reg .ktCap => true
      | _ => false) && nextIs (exec (.registerWrite 0 0x200000 0xF#4 100#32) free0) (fun t => t.kt.hostCap = 100)
      && nextIs (exec (.registerWrite 0 0x200000 0xF#4 100#32) base) (fun t => t.kt.hostCap = 300 && (getFn t 0).lateWrite)
      && nextIs (exec (.registerWrite 0 0x200000 0x3#4 100#32) free0) (fun t => (getFn t 0).badAccess)) = true := by decide +kernel

theorem test_register_write_vf :
    (isPf 1 = false ∧ nextIs (exec (.registerWrite 1 0x200000 0xF#4 100#32) base) (fun t => t.kt = base.kt) = true) := by decide +kernel

/-- GO of an idle mailbox sets BUSY; FN_STATUS clears its marks; the mark for a foreign register; an empty offset. -/
theorem test_register_write_marks :
    ((match placeAt free0 0 0x280000 with
      | .reg .mbCtrl => true
      | _ => false) && nextIs (exec (.registerWrite 0 0x280000 0xF#4 0x80000000#32) free0) (fun t => (getFn t 0).mbGo && (getFn t 0).mbBusy)
      && nextIs (exec (.registerWrite 0 2 0xF#4 0#32) free0) (fun t => (getFn t 0).badAccess)) = true := by decide +kernel

def offRing : State := { base with q := { base.q with rings := [(0, { base := 0x10000, dbSlot := 1 })] } }

/-- QE_RING_CFG: ENABLE, SIZE 7, TARGET 1, output ring 0. -/
theorem test_ring_enable :
    nextIs (exec (.ringEnable 0 0 0x9C010000#32) offRing) (fun t => (getRing t 0).enable && (getRing t 0).state = 1 && (getRing t 0).size = 7
      && (getRing t 0).target = 1) = true := by decide +kernel

/-- Ignored without an accepted driver and with READY = 0 (R131). -/
theorem test_ring_enable_ignored :
    (isNext (exec (.ringEnable 0 0 0x9C010000#32) { offRing with fns := [] }) { offRing with fns := [] }
      && isNext (exec (.ringEnable 0 0 0x9C010000#32) { offRing with power := { base.power with ready := false } })
        { offRing with power := { base.power with ready := false } }
      && isNext (exec (.ringDisable 0 0 0#32) { base with fns := [(0, { refused := true })] }) { base with fns := [(0, { refused := true })] }) = true := by
  decide +kernel

/-- SIZE 5 is refused: ERROR 3. -/
theorem test_ring_enable_refused :
    nextIs (exec (.ringEnable 0 0 0x94010000#32) offRing) (fun t => !(getRing t 0).enable && (getRing t 0).error = 3) = true := by decide +kernel

theorem test_ring_disable :
    (oringOpen (waitingFor waits []) 0 0 && nextIs (exec (.ringDisable 0 0 0#32) (waitingFor waits [])) (fun t => !(getRing t 0).enable
      && (getRing t 0).waiting = [] && (getEvt t 1).poison && (getORing t 0).produced = 1
      && mread t.host (hostKey 0 0x30000) 16 = completionRecord waits 0 stAborted 1 0)) = true := by decide +kernel

theorem test_oring_enable :
    (oringPart base 1 = some 0 && nextIs (exec (.oringEnable 0 1 0x98000000#32) { base with q := { base.q with orings := [(1, { dbSlot := 3 })] } })
      (fun t => (getORing t 1).enable && (getORing t 1).size = 6) && nextIs (exec (.oringDisable 0 0 0x18000000#32) base) (fun t => !(getORing t 0).enable)) = true := by
  decide +kernel

def part1 : State := { base with parts := base.parts ++ [(1, { cores := 4#512, ringFirst := 1, ringCount := 1, orFirst := 1, orCount := 1, evFirst := 1, evCount := 1, quota := 8 })] }

theorem test_partition_enable :
    (!partEnabled part1 1 && nextIs (exec (.partitionEnable 0 1 0x80000001#32) part1) (fun t => (getPart t 1).state = .enabled && (getPart t 1).owner = 1
        && (getPart t 1).cause = 0)
      && nextIs (exec (.partitionEnable 0 1 0x80000000#32) part1) (fun t => (getPart t 1).state = .disabled && (getPart t 1).cause = 1 && (getPart t 1).conflict)) = true := by
  decide +kernel

theorem test_partition_disable :
    nextIs (exec (.partitionDisable 0 0 0#32) { withOp 0 (desc 0 0 []) with dram := { base.dram with cells := [(cellKey 0 5, 9#8)] } })
      (fun t => (getPart t 0).state = .disabled && t.q.ops = [] && t.dram.cells = []) = true := by decide +kernel

/-- Region 3: class A, 2 units at base 16; its slots follow those of regions 0 to 2: 36 + 33 + 32. -/
def region3 : State := { base with dram := { base.dram with regions := base.dram.regions ++ [(3, { regBase := 16 })] } }

theorem test_region_enable :
    (partSetAuth region3 0 0 = .ok && nextIs (exec (.regionEnable 0 3 0x88000002#32) region3) (fun t =>
      getRegion t 3 = { regCls := 1, regSize := 2, regBase := 16, enable := true, state := 1, cls := 1, size := 2, base := 16, slot := 101 })
      && nextIs (exec (.regionEnable 0 3 0x88007FAE#32) region3) (fun t => (getRegion t 3).state = 3 && !(getRegion t 3).enable)) = true := by decide +kernel

theorem test_region_init_and_disable :
    (nextIs (exec (.regionInitDone 3) { base with dram := { base.dram with regions := base.dram.regions ++ [(3, { enable := true, state := 1, size := 2, base := 16, slot := 101 })] } })
        (fun t => (getRegion t 3).state = 2)
      && nextIs (exec (.regionDisable 0 2 0#32) base) (fun t => !(getRegion t 2).enable)) = true := by decide +kernel

def layered : State :=
  { base with
    parts := [(0, { state := .enabled, cores := 3#512, ringCount := 1, orCount := 1, evCount := 1, quota := 64, layCount := 1 })]
    dram := { base.dram with cells := (List.range 64).map (fun i => (cellKey 0 (64 * i), 1#8)) } }



theorem findFrom_none {p : Nat → Bool} : ∀ n i, (∀ j, j < i + n → p j = false) → findFrom p i n = none
  | 0, _, _ => rfl
  | n + 1, i, h => by
    simp only [findFrom, h i (by omega), Bool.false_eq_true, if_false]
    exact findFrom_none n (i + 1) fun j hj => h j (by omega)

theorem allN_true {p : Nat → Bool} : ∀ n, (∀ j, j < n → p j = true) → allN n p = true
  | 0, _ => rfl
  | n + 1, h => by simp only [allN, h n (by omega), Bool.true_and]; exact allN_true n fun j hj => h j (by omega)

theorem firstBadEntry_invalid {s : State} {q : Nat} {es : List Bytes} {b : Bytes} (he : ∀ x ∈ es, x = b) (hok : entryOk s q b = true)
    (hv : (parseLayer b).valid = false) : firstBadEntry s q es = none := by
  have hg : ∀ j, j < es.length → es.getD j [] = b := fun j hj => by
    rw [List.getD_eq_getElem?_getD, List.getElem?_eq_getElem hj]; exact he _ (List.getElem_mem hj)
  refine findFrom_none _ _ fun j hj => ?_
  rw [Nat.zero_add] at hj
  simp only [hg j hj, hok, Bool.not_true, Bool.false_or]
  unfold anyN
  rw [allN_true _ fun k _ => by simp [slotsClash, hv]]; rfl

theorem tget_map_const {α : Type} (d v : α) (f : Nat → Nat) (k : Nat) :
    ∀ l : List Nat, tget d (l.map (fun i => (f i, v))) k = if ∃ i ∈ l, f i = k then v else d
  | [] => by simp [tget]
  | a :: l => by
    simp only [List.map_cons, tget, tget_map_const d v f k l]
    by_cases h : f a = k <;> simp [h]

theorem layered_byte (k : Nat) : dramByte layered 0 k = if k % 64 = 0 ∧ k < 4096 then 1#8 else 0#8 := by
  have h : mget layered.dram.cells (cellKey 0 k) = if k % 64 = 0 ∧ k < 4096 then 1#8 else 0#8 := by
    have e : (∃ i ∈ List.range 64, cellKey 0 (64 * i) = cellKey 0 k) ↔ k % 64 = 0 ∧ k < 4096 := by
      simp only [List.mem_range, cellKey, Nat.zero_mul, Nat.zero_add]
      exact ⟨fun ⟨i, hi, e⟩ => by omega, fun h => ⟨k / 64, by omega, by omega⟩⟩
    exact (tget_map_const 0#8 1#8 (fun i => cellKey 0 (64 * i)) _ (List.range 64)).trans (by simp only [e])
  have hf : ∀ x, mget layered.dram.flips x = 0#8 := fun _ => rfl
  simp only [dramByte, hf, BitVec.xor_zero, ite_self, h]

/-- An entry that is not valid. -/
def emptyEntry : Bytes := 1#8 :: zeros 63

theorem layered_entry (i : Nat) (hi : i < 64) : dramBytes layered 0 (64 * i) 64 = emptyEntry := by
  refine List.ext_getElem (by simp [dramBytes, emptyEntry, zeros]) fun j hj _ => ?_
  have hj' : j < 64 := by simpa [dramBytes] using hj
  simp only [dramBytes, List.getElem_map, List.getElem_range, layered_byte, emptyEntry, zeros, List.getElem_cons, List.getElem_replicate]
  by_cases h : j = 0
  · simp [h, show 64 * i < 4096 by omega]
  · rw [if_neg (by omega), dif_neg h]

theorem test_layer_meets :
    (inClass layered 0 0 4096 0 && !blocksClash layered 0 && decide (tableRead { part := 0 } 0 32 (dramUpsets layered {}) = (layered, none))
      && (List.range 64).all (fun i => placesOf layered { part := 0 } false (64 * i) 64 = [(.dram 0 (64 * i), 64)])) = true := by decide +kernel

theorem test_layer_load : firstBadEntry layered 0 ((List.range 64).map (fun i => devBytes layered { part := 0 } false (64 * i) 64)) = none := by
  have h := test_layer_meets
  simp only [Bool.and_eq_true, List.all_eq_true, decide_eq_true_eq] at h
  refine firstBadEntry_invalid (b := emptyEntry) (fun x hx => ?_) (by decide +kernel) (by decide +kernel)
  obtain ⟨i, hi, rfl⟩ := List.mem_map.mp hx
  rw [devBytes, h.2 i hi]
  simpa [placeBytes] using layered_entry i (List.mem_range.mp hi)

theorem test_layer_load_refused :
    (nextIs (exec (.layerTableLoad 0 0 0x80000080#32 {}) { layered with dram := {} }) (fun t => (getPart t 0).layState = 3 && (getPart t 0).layErrKind = 2)
      && nextIs (exec (.layerTableLoad 0 0 0x800000BF#32 {}) { layered with parts := [(0, { state := .enabled, layFirst := 63, layCount := 2 })] })
        (fun t => (getPart t 0).layErrKind = 1 || (getPart t 0).layState = 0)) = true := by decide +kernel

/-- A table of zeros: entry 0 is bad, KIND 0. A table in a channel that has failed: KIND 3 at entry 0. -/
theorem test_layer_load_bad :
    (nextIs (exec (.layerTableLoad 0 0 0x80000080#32 {}) { layered with dram := { base.dram with cells := [] } })
        (fun t => (getPart t 0).layState = 3 && (getPart t 0).layErrKind = 0 && (getPart t 0).layErrEntry = 0)
      && nextIs (exec (.layerTableLoad 0 0 0x80000080#32 {}) { layered with dram := { layered.dram with
            channels := [((slotOf layered 0 0).1, { getChannel layered (slotOf layered 0 0).1 with state := 3 })] } })
        (fun t => (getPart t 0).layState = 3 && (getPart t 0).layErrKind = 3 && (getPart t 0).layErrEntry = 0)) = true := by decide +kernel

theorem test_caddy_enable :
    nextIs (exec (.caddyEnable 0 0 0x80000008#32) { base with parts := [(0, { state := .enabled, cdEntries := 8 })] }) (fun t =>
      (getPart t 0).cdEnable && (getPart t 0).cdState = 1) = true := by decide +kernel

theorem test_caddy_disable :
    nextIs (exec (.caddyDisable 0 0 8#32) { base with tr := { stash := [(2, some {})] } }) (fun t => (getPart t 0).cdState = 0 && getStash t 0 2 = none) = true := by
  decide +kernel

/-- The pair at WV or seed low word: FN_PART_SEED_LO latches its high word (R5). -/
theorem test_low_word :
    ((List.range 0x2000).any (fun k => match placeAt base 0 (0x10000 + 4 * k) with
      | .reg g => isLowWord g && nextIs (exec (.lowWordRead 0 { offset := 0x10000 + 4 * k }) base)
          (fun t => tget none (getFn t 0).latch (0x10000 + 4 * k + 4) = some (barRead base 0 (0x10000 + 4 * k + 4)))
      | _ => false)) = true := by decide +kernel

/-- The latched word of one pair stays while another pair is read, and answers once. -/
theorem test_high_word :
    nextIs (exec (.lowWordRead 0 { offset := 0x10004 }) { base with fns := [(0, { latch := [(0x10004, some 77#32), (0x1000C, some 78#32)] })] }) (fun t =>
      t.lastRead = .word 77#32 && tget none (getFn t 0).latch 0x10004 = none && tget none (getFn t 0).latch 0x1000C = some 78#32) = true := by
  decide +kernel

theorem test_bar2 :
    (bar2Part base 0 16 4 = some 0 && !viewEmpty base 0 16 4 && bar2Part base 0 (3 * 2 ^ 24) 4 = none && slotSpans base 0 = []
      && nextIs (exec (.bar2Write 0 16 { bytes := [1#8, 2#8, 3#8, 4#8] }) base) (fun t => nextIs (exec (.bar2Read 0 16 4 {}) t) (fun u => u.lastRead = .bytes [1#8, 2#8, 3#8, 4#8] false))
      && nextIs (exec (.bar2Read 0 (3 * 2 ^ 24) 4 {}) base) (fun t => t.lastRead = .unsupported && (getFn t 0).aer = aerUnsupported)
      && isNext (exec (.bar2Write 0 (3 * 2 ^ 24) { bytes := [1#8] }) base) (noteAer base 0 aerUnsupported)) = true := by decide +kernel

/-- A read of 2 bytes within a word, and one across two words (R378). -/
theorem test_bar_span :
    (nextIs (exec (.lowWordRead 0 { offset := 0x200002, len := 2 }) base) (fun t => t.lastRead = .bytes ((leBytes 4 (barRead base 0 0x200000).toNat).drop 2) false)
      && nextIs (exec (.lowWordRead 0 { offset := 0x200002, len := 4 }) base) (fun t => t.lastRead =
        .bytes ((leBytes 4 (barRead base 0 0x200000).toNat).drop 2 ++ (leBytes 4 (barRead base 0 0x200004).toNat).take 2) false)) = true := by decide +kernel

/-! ### The whole module -/

theorem test_step_front :
    nextIs (step { base with pending := [.mbAsyncRemove 0 0#32, .dispatch 0] }) (fun t => t.pending = [.dispatch 0]) = true := by decide +kernel

/-- An empty queue is one period of TICK, which wraps; with no root clock it stands still. -/
theorem test_step_empty :
    (nextIs (step { base with power := { base.power with tick := 0xFFFFFFFFFFFFFFFF#64 } }) (fun t => t.power.tick = 0#64)
      && isNext (step State.reset) State.reset) = true := by decide +kernel

theorem test_invariants_meet : memoriesOk State.reset = true ∧ levelsOk State.reset = true ∧ readyOk State.reset = true ∧ readyOk base = true := by
  decide +kernel

theorem test_log_order : logOk State.reset := by decide +kernel

/-! ### Operations of a core -/

/-- The operation that begins satisfies a check. -/
def begun (s : State) (id opcode : Nat) (p : State → Op → Bool) : Bool :=
  match Claims.begins s id opcode {} with
  | some (u, o) => p u o
  | none => false

/-- A square operand reference. -/
def sq (sram : Bool) (fmt addr : Nat) : Nat := ref sram fmt addr + 2 ^ 47

/-- The module with an operation on core 0 and bytes in its SRAM. -/
def onCore (d : Bytes) (sram : Mem) : State := withOp 0 d { base with cores := { base.cores with sram } }

/-- The core's SRAM after a command holds bytes at an offset, and the operation completed, signalling counter 1 unpoisoned. -/
def leaves (o : Out) (off : Nat) (b : Bytes) : Bool :=
  nextIs o (fun t => mread t.cores.sram off b.length = b && t.q.ops = [] && getEvt t 1 = { value := 1#32, poison := false })

/-- The operation fails with a status: it signals counter 1 poisoned and writes a record. -/
def failsWith (o : Out) (st : Nat) : Bool :=
  nextIs o (fun t => t.q.ops = [] && getEvt t 1 = { value := 1#32, poison := true } && byteAt (mread t.host (hostKey 0 0x30000) 16) 2 = st)

def le (n v : Nat) : Bytes := leBytes n v

theorem test_nop :
    (begun (withOp 0 (desc 0 0 [])) 0 0 (fun _ _ => true)
      && nextIs (exec (.nop 0 {}) (withOp 0 (desc 0 0 []))) (fun t => t.q.ops = [] && (getEvt t 1).value = 1#32 && (getORing t 0).produced = 0)) = true := by
  decide +kernel

/-- EVT_SET on a poisoned counter 2: the value 9, poison cleared (R107). -/
def evtOp (op e : Nat) : State :=
  let s := withOp 0 (desc op 0 (le 2 e ++ zeros 2 ++ le 4 9))
  { s with q := { s.q with evts := [(2, { value := 0xFFFFFFFF#32, poison := true })] } }

theorem test_evt_set :
    (begun (evtOp 1 2) 0 1 (fun _ _ => true) && nextIs (exec (.evtSet 0 {}) (evtOp 1 2)) (fun t => getEvt t 2 = { value := 9#32, poison := false })) = true := by
  decide +kernel

theorem test_evt_set_null :
    nextIs (exec (.evtSet 0 {}) (evtOp 1 0xFFFF)) (fun t => t.q.evts.length = 2 && (getEvt t 1).value = 1#32) = true := by decide +kernel

/-- EVT_ADD is modulo 2^32 and keeps the poison. -/
theorem test_evt_add :
    (begun (evtOp 2 2) 0 2 (fun _ _ => true) && nextIs (exec (.evtAdd 0 {}) (evtOp 2 2)) (fun t => getEvt t 2 = { value := 8#32, poison := true })) = true := by
  decide +kernel

def tsOp (d : Nat) : State :=
  let s := onCore (desc 3 0 (le 8 d)) []
  { s with power := { s.power with tick := 0x0102030405060708#64 } }

theorem test_timestamp :
    (begun (tsOp (ref true 0 8)) 0 3 (fun _ o => !tsHost o.desc) && leaves (exec (.timestamp 0 {}) (tsOp (ref true 0 8))) 8 [8#8, 7#8, 6#8, 5#8, 4#8, 3#8, 2#8, 1#8]) = true := by
  decide +kernel

theorem test_timestamp_host :
    (begun (tsOp (2 ^ 50 + 2 ^ 41 + 0x40000)) 0 3 (fun u o => tsHost o.desc && (getPort u (fnPort (getPart u o.part).owner)).up)
      && nextIs (exec (.timestamp 0 {}) (tsOp (2 ^ 50 + 2 ^ 41 + 0x40000))) (fun t => mread t.host (hostKey 0 0x40000) 8 = [8#8, 7#8, 6#8, 5#8, 4#8, 3#8, 2#8, 1#8])) = true := by
  decide +kernel

/-- After a command the cores' SRAM, the DRAM and host memory are those of a state. -/
def same (c : Instr) (s r : State) : Bool :=
  nextIs (exec c s) (fun t => t.cores.sram = r.cores.sram && t.dram.cells = r.dram.cells && t.dram.wc = r.dram.wc)

/-- The operation begins on readable operands with an output at an offset, and satisfies a check. -/
def onOperands (s : State) (opcode out : Nat) (uses : Op → List Use) (p : State → State → ExecCtx → Bytes → Use → Bool) : Bool :=
  begun s 0 opcode (fun u o => match checkExts u (ctxOf o {}) (inExts (uses o)), useAt (uses o) out with
    | (w, none), some x => p u w (ctxOf o {}) o.desc x
    | _, _ => false)

/-- 2.0 × 3.0 + 1.0 in E2M1 squares, with C and D in E4M3: 7.0. -/
def gemmOp (acc : Bool) : State :=
  onCore (desc 0x1040 0 (le 8 (sq true 6 0) ++ le 8 (sq true 6 0x800) ++ le 8 (if acc then sq true 3 0x1000 else 0) ++ le 8 (sq true 3 0x2000)
    ++ le 2 1 ++ le 2 1 ++ le 4 1 ++ le 2 (if acc then 16 else 0)))
    (mwrite (mwrite (mwrite [] 0 [4#8]) 0x800 [5#8]) 0x1000 [0x38#8])

theorem test_gemm_meets :
    (begun (gemmOp true) 0 0x1040 (fun u o => (checkExts u (ctxOf o {}) (inExts (planGemm o.desc).uses)).2 = none
      && (useAt (planGemm o.desc).uses 0x10).isSome && (useAt (planGemm o.desc).uses 0x18).isSome && (useAt (planGemm o.desc).uses 0x28).isSome)) = true := by
  decide +kernel

theorem test_gemm : leaves (exec (.gemm 0 {}) (gemmOp false)) 0x2000 [0x4C#8] = true := by decide +kernel
theorem test_gemm_acc : leaves (exec (.gemm 0 {}) (gemmOp true)) 0x2000 [0x4E#8] = true := by decide +kernel

/-- Node IN0 read, doubled by ADD, over two FP32 elements, 1.5 and -0.25. -/
def exprOp : State :=
  onCore (desc 0x2080 0 (le 8 (ref true 0 0x100) ++ le 8 (ref true 0 0) ++ zeros 16 ++ le 8 (ref true 0 0x200) ++ le 4 2 ++ le 2 2 ++ le 1 0 ++ le 1 2))
    (mwrite (mwrite [] 0 (le 4 0x3FC00000 ++ le 4 0xBE800000)) 0x100 (le 8 1 ++ le 8 0x10))

theorem test_expr_meets : begun exprOp 0 0x2080 (fun u o => lateRefusal u o.part o.core o.desc = none && (runExpr u (ctxOf o {}) o.desc).fail = none) = true := by
  decide +kernel

/-- The program's nodes: the leaf, and its double. -/
def exprNodes : List Node := [{ op := 1, a := 0, b := 0, c := 0, res := 0, imm := 0 }, { op := 0x10, a := 0, b := 0, c := 0, res := 0, imm := 0 }]

theorem test_expr_program :
    (begun exprOp 0 0x2080 (fun u o => readProgram u { ctxOf o {} with places := [] } o.desc = some exprNodes)
      && onOperands exprOp 0x2080 0x30 (fun o => (planExpr o.desc (some exprNodes)).uses) (fun _ w x d out =>
        same (.expr 0 {}) exprOp (emit w x d out 0 (streamOf d) (elemIndex d)
          (tabulate 1 2 (fun r c => fAdd false (Claims.leafValue w x d 0 0 r c) (Claims.leafValue w x d 0 0 r c)))))) = true := by decide +kernel

/-- The values of these nodes are the leaf's and its double. -/
theorem test_expr_values (w : State) (x : ExecCtx) (d : Bytes) (h : dEqv d = false) :
    Claims.nodeValues w x d exprNodes (fun r c i =>
      if i = 0 then Claims.leafValue w x d 0 0 r c else fAdd false (Claims.leafValue w x d 0 0 r c) (Claims.leafValue w x d 0 0 r c)) := by
  intro r c i n hn
  match i with
  | 0 => cases hn; rfl
  | 1 => cases hn; simp [Claims.nodeResult, h]
  | i + 2 => simp [exprNodes] at hn

theorem test_expr : leaves (exec (.expr 0 {}) exprOp) 0x200 (le 4 0x40400000 ++ le 4 0xBF000000) = true := by decide +kernel

/-- The body of class 0x3. -/
def redBody (in0 in1 in2 out0 out1 rows cols fn : Nat) (eps : Nat := 0) : Bytes :=
  le 8 in0 ++ le 8 in1 ++ le 8 in2 ++ le 8 out0 ++ le 8 out1 ++ le 3 rows ++ le 1 eps ++ le 3 cols ++ le 1 (4 * fn)

/-- Rows (1, 2) and (3, 4) in FP32. -/
def square2 : Mem := mwrite [] 0 (le 4 0x3F800000 ++ le 4 0x40000000 ++ le 4 0x40400000 ++ le 4 0x40800000)

theorem test_row_reduce :
    (begun (onCore (desc 0x30C0 0 (redBody (ref true 0 0) 0 0 (ref true 0 0x100) 0 2 2 0)) square2) 0 0x30C0 (fun u o => (runReduce u (ctxOf o {}) o.desc).fail = none)
      && leaves (exec (.rowReduce 0 {}) (onCore (desc 0x30C0 0 (redBody (ref true 0 0) 0 0 (ref true 0 0x100) 0 2 2 0)) square2)) 0x100
        (le 4 0x40400000 ++ le 4 0x40E00000)) = true := by decide +kernel

theorem test_col_reduce_max :
    leaves (exec (.colReduce 0 {}) (onCore (desc 0x30C1 0 (redBody (ref true 0 0) 0 0 (ref true 0 0x100) 0 2 2 1)) square2)) 0x100
        (le 4 0x40400000 ++ le 4 0x40800000) = true := by decide +kernel

/-- SOFTMAX_BWD of y = (1, 2), dy = (1, 1), SCALE 1: d = 3, dx = y × (dy − d) = (−2, −4). -/
theorem test_softmax_bwd :
    leaves (exec (.softmaxBwd 0 {}) (onCore (desc 0x30C3 0 (redBody (ref true 0 0) (ref true 0 0x40) 0x3F800000 (ref true 0 0x100) 0 1 2 0))
      (mwrite square2 0x40 (le 4 0x3F800000 ++ le 4 0x3F800000)))) 0x100 (le 4 0xC0000000 ++ le 4 0xC0800000) = true := by decide +kernel

/-- ROW_REDUCE's sums, COL_REDUCE's maxima and SOFTMAX_BWD write what R97 and R98 compute. -/
theorem test_reduce_writes :
    ([(0x30C0, onCore (desc 0x30C0 0 (redBody (ref true 0 0) 0 0 (ref true 0 0x100) 0 2 2 0)) square2, Instr.rowReduce 0 {}),
      (0x30C1, onCore (desc 0x30C1 0 (redBody (ref true 0 0) 0 0 (ref true 0 0x100) 0 2 2 1)) square2, Instr.colReduce 0 {}),
      (0x30C3, onCore (desc 0x30C3 0 (redBody (ref true 0 0) (ref true 0 0x40) 0x3F800000 (ref true 0 0x100) 0 1 2 0))
        (mwrite square2 0x40 (le 4 0x3F800000 ++ le 4 0x3F800000)), Instr.softmaxBwd 0 {})] : List (Nat × State × Instr)).all
      (fun k => onOperands k.2.1 k.1 0x28 (fun o => (planReduce o.desc).uses) (fun _ w x d out => same k.2.2 k.2.1 (Claims.reduceWrites w x d k.1 out))) = true := by
  decide +kernel

theorem test_reduce_meets :
    ([(0x30C2, redBody (ref true 0 0) 0x3F800000 0 (ref true 0 0x100) (ref true 0 0x200) 1 2 0),
      (0x30C4, redBody (ref true 0 0) 0 0 (ref true 0 0x100) (ref true 0 0x200) 1 2 0 10),
      (0x30C5, redBody (ref true 0 0) (ref true 0 0x40) 0 (ref true 0 0x100) (ref true 0 0x200) 1 2 0 10)] : List (Nat × Bytes)).all
      (fun k => onOperands (onCore (desc k.1 0 k.2) square2) k.1 0x28 (fun o => (planReduce o.desc).uses) (fun _ _ _ _ _ => true)) = true := by
  decide +kernel

theorem test_softmax_begins :
    (begun (onCore (desc 0x30C2 0 (redBody (ref true 0 0) 0x3F800000 0 (ref true 0 0x100) 0 1 2 0)) square2) 0 0x30C2 (fun _ _ => true)
      && nextIs (exec (.softmaxFwd 0 {}) (onCore (desc 0x30C2 0 (redBody (ref true 0 0) 0x3F800000 0 (ref true 0 0x100) 0 1 2 0)) square2)) (fun t =>
        t.q.ops = [])) = true := by decide +kernel

theorem test_norm_begins :
    (begun (onCore (desc 0x30C4 0 (redBody (ref true 0 0) 0 0 (ref true 0 0x100) (ref true 0 0x200) 1 2 0 10)) square2) 0 0x30C4 (fun _ _ => true)
      && begun (onCore (desc 0x30C5 0 (redBody (ref true 0 0) (ref true 0 0x40) 0 (ref true 0 0x100) (ref true 0 0x200) 1 2 0 10)) square2) 0 0x30C5 (fun _ _ => true)) = true := by
  decide +kernel

/-- The RNG opcodes, one operand block after another: P1 = 1, P2 = 2, 8 elements. -/
def rngOp (op : Nat) : State :=
  onCore (desc op 0 (le 8 (ref true 0 0x100) ++ le 4 8 ++ zeros 4 ++ le 4 0x3F800000 ++ le 4 0x40000000)) []

theorem test_rng_writes :
    ([(0x5140, Instr.rngUniform 0 {}), (0x5142, Instr.rngBernoulli 0 {})] : List (Nat × Instr)).all (fun k =>
      begun (rngOp (k.1 + 0x800)) 0 k.1 (fun u o => match useAt (planRng o.desc).uses 0x10 with
        | some out => same k.2 (rngOp (k.1 + 0x800)) (Claims.rngWrites u (ctxOf o {}) o.desc k.1 out)
        | none => false)) = true := by decide +kernel

theorem test_rng_normal_meets :
    begun (rngOp 0x5941) 0 0x5141 (fun _ o => (useAt (planRng o.desc).uses 0x10).isSome) = true := by decide +kernel

/-- The body of class 0x4. -/
def moveBody (src dst aux rows cols : Nat) (ss ds tr : Nat := 0) : Bytes :=
  le 8 src ++ le 8 dst ++ le 8 aux ++ le 4 rows ++ le 4 cols ++ le 4 ss ++ le 4 ds ++ le 4 tr

theorem test_copy :
    (begun (onCore (desc 0x4100 0 (moveBody (ref true 0 0) (ref true 0 0x100) 0 2 2)) square2) 0 0x4100 (fun u o =>
        (checkExts u (ctxOf o {}) (inExts (planMove o.desc).uses)).2 = none && (useAt (planMove o.desc).uses 0x10).isSome && (useAt (planMove o.desc).uses 0x18).isSome)
      && leaves (exec (.copy 0 {}) (onCore (desc 0x4100 0 (moveBody (ref true 0 0) (ref true 0 0x100) 0 2 2)) square2)) 0x100
        (mread square2 0 16)) = true := by decide +kernel

/-- TRANSPOSE moves (0, 1) to (1, 0). -/
theorem test_transpose :
    (begun (onCore (desc 0x4101 0 (moveBody (ref true 0 0) (ref true 0 0x100) 0 2 2)) square2) 0 0x4101 (fun _ _ => true)
      && leaves (exec (.transpose 0 {}) (onCore (desc 0x4101 0 (moveBody (ref true 0 0) (ref true 0 0x100) 0 2 2)) square2)) 0x100
        (le 4 0x3F800000 ++ le 4 0x40400000 ++ le 4 0x40000000 ++ le 4 0x40800000)) = true := by decide +kernel

/-- PACK to FP16, UNPACK of BF16. -/
theorem test_pack :
    leaves (exec (.pack 0 {}) (onCore (desc 0x4102 0 (moveBody (ref true 0 0) (ref true 2 0x100) 0 2 2)) square2)) 0x100
      (le 2 0x3C00 ++ le 2 0x4000 ++ le 2 0x4200 ++ le 2 0x4400) = true := by decide +kernel

theorem test_unpack :
    leaves (exec (.unpack 0 {}) (onCore (desc 0x4103 0 (moveBody (ref true 1 0) (ref true 0 0x100) 0 1 2)) (mwrite [] 0 (le 2 0x4040 ++ le 2 0xBF80)))) 0x100
      (le 4 0x40400000 ++ le 4 0xBF800000) = true := by decide +kernel

/-- GATHER rows 1, 0; an index at TROWS is INDEX_RANGE (R101). -/
theorem test_gather :
    leaves (exec (.gather 0 {}) (onCore (desc 0x4104 0 (moveBody (ref true 0 0) (ref true 0 0x100) (ref true 0 0x80) 2 2 0 0 2)) (mwrite square2 0x80 (le 4 1 ++ le 4 0)))) 0x100
      (mread square2 8 8 ++ mread square2 0 8) = true := by decide +kernel

theorem test_gather_range :
    failsWith (exec (.gather 0 {}) (onCore (desc 0x4104 0 (moveBody (ref true 0 0) (ref true 0 0x100) (ref true 0 0x80) 2 2 0 0 2)) (mwrite square2 0x80 (le 4 1 ++ le 4 2)))) 0x80 = true := by
  decide +kernel

/-- SCATTER_ADD both rows to row 1 of 2: (0, 0), (4, 6). -/
theorem test_scatter_add :
    leaves (exec (.scatterAdd 0 {}) (onCore (desc 0x4105 0 (moveBody (ref true 0 0) (ref true 0 0x100) (ref true 0 0x80) 2 2 0 0 2)) (mwrite square2 0x80 (le 4 1 ++ le 4 1)))) 0x100
      (zeros 8 ++ le 4 0x40800000 ++ le 4 0x40C00000) = true := by decide +kernel

/-- PACK, GATHER and SCATTER_ADD write what R100 and the formats say; an index at TROWS stops with its position in INFO. -/
theorem test_move_writes :
    (onOperands (onCore (desc 0x4102 0 (moveBody (ref true 0 0) (ref true 2 0x100) 0 2 2)) square2) 0x4102 0x18 (fun o => (planMove o.desc).uses)
        (fun _ w x d out => match useAt (planMove d).uses 0x10 with
          | some src => same (.pack 0 {}) (onCore (desc 0x4102 0 (moveBody (ref true 0 0) (ref true 2 0x100) 0 2 2)) square2)
              (emit w x d out 0 (streamOf d) (elemIndex d) (tabulate 2 2 (fun r c => opndF32 w x false src.trans src.view r c)))
          | none => false)
      && [(0x4104, Instr.gather 0 {}, [1, 0]), (0x4105, Instr.scatterAdd 0 {}, [1, 1])].all (fun k =>
        onOperands (onCore (desc k.1 0 (moveBody (ref true 0 0) (ref true 0 0x100) (ref true 0 0x80) 2 2 0 0 2)) (mwrite square2 0x80 (k.2.2.flatMap (le 4))))
          k.1 0x18 (fun o => (planMove o.desc).uses.filter (fun y => y.off ≠ 0x10)) (fun _ w x d out => match useAt (planMove d).uses 0x10 with
          | some src => same k.2.1 (onCore (desc k.1 0 (moveBody (ref true 0 0) (ref true 0 0x100) (ref true 0 0x80) 2 2 0 0 2)) (mwrite square2 0x80 (k.2.2.flatMap (le 4))))
              (if k.1 = 0x4104 then moveCodes w x false src out (fun r c => (k.2.2.getD r 0, c))
               else emit w x d out 0 (streamOf d) (elemIndex d) (tabulate 2 2 (fun j c =>
                ((List.range 2).filter (fun i => k.2.2.getD i 0 = j)).foldl (fun a i => fAdd false a (opndF32 w x false src.trans src.view i c)) zero32)))
          | none => false))
      && nextIs (exec (.gather 0 {}) (onCore (desc 0x4104 0 (moveBody (ref true 0 0) (ref true 0 0x100) (ref true 0 0x80) 2 2 0 0 2)) (mwrite square2 0x80 (le 4 1 ++ le 4 2))))
        (fun t => mread t.host (hostKey 0 0x30000) 16 = completionRecord (desc 0x4104 0 (moveBody (ref true 0 0) (ref true 0 0x100) (ref true 0 0x80) 2 2 0 0 2)) 0 0x80 0 1)) = true := by
  decide +kernel

/-- Two rows of 4 bytes, 8 apart in host memory. -/
theorem test_host_read_rows :
    leaves (exec (.hostRead 0 {}) { onCore (desc 0x4106 0 (moveBody 0x40000 (ref true 0 0x100) 0 2 4 8)) [] with
      host := mwrite (mwrite [] 0x40000 [1#8, 2#8, 3#8, 4#8]) 0x40008 [5#8, 6#8, 7#8, 8#8] }) 0x100 [1#8, 2#8, 3#8, 4#8, 5#8, 6#8, 7#8, 8#8] = true := by
  decide +kernel

def hostRd : State := { onCore (desc 0x4106 0 (moveBody 0x40000 (ref true 0 0x100) 0 1 4)) [] with host := mwrite [] 0x40000 [1#8, 2#8, 3#8, 4#8] }

theorem test_host_read :
    (begun hostRd 0 0x4106 (fun u o => !hostPoisoned {} (ownerPort u o.part) (hostRows o.desc 0x10 0x30)
        && !hostRejected u {} (ownerPort u o.part) (hostRows o.desc 0x10 0x30) && (useAt (planMove o.desc).uses 0x18).isSome)
      && leaves (exec (.hostRead 0 {}) hostRd) 0x100 [1#8, 2#8, 3#8, 4#8]
      && failsWith (exec (.hostRead 0 { host := { poisons := [(0x40000, 1)] } }) hostRd) stPoison
      && failsWith (exec (.hostRead 0 { host := { rejects := [(0x40000, 1)] } }) hostRd) stCheck) = true := by decide +kernel

def hostWr : State := onCore (desc 0x4107 0 (moveBody (ref true 0 0) 0x40000 0 2 3 0 8)) (mwrite [] 0 [1#8, 2#8, 3#8, 4#8, 5#8, 6#8])

theorem test_host_write :
    (begun hostWr 0 0x4107 (fun u o => (checkExts u (ctxOf o {}) (inExts (planMove o.desc).uses)).2 = none && (useAt (planMove o.desc).uses 0x10).isSome
        && !hostRejected u {} (ownerPort u o.part) (hostRows o.desc 0x18 0x34))
      && nextIs (exec (.hostWrite 0 {}) hostWr) (fun t => mread t.host (hostKey 0 0x40000) 3 = [1#8, 2#8, 3#8] && mread t.host (hostKey 0 0x40008) 3 = [4#8, 5#8, 6#8])) = true := by
  decide +kernel

/-! ### The Caddy -/

/-- STASH_PUT of FP32 elements at SRAM 0 as entry 5, RAW, to region 1. -/
def putOp (codec entry count : Nat) : State :=
  onCore (desc 0x6180 0 (le 8 (ref true 0 0) ++ le 8 (ref false 0 0x1000000) ++ le 4 count ++ le 4 entry ++ le 2 0 ++ le 1 codec)) square2

theorem test_stash_put :
    (begun (putOp 0 5 32) 0 0x6180 (fun u o => !putBefore u o 5 && getStash u 0 5 = none && decide (stashCount u 0 < (getPart u 0).cdEntries)
        && (pinsOf u (prodsOf u o.desc)).all (fun q => decide (fenceOf u q.layer q.slot < 65535)) && (checkExts u (ctxOf o {}) (inExts (usesOf u 0 o.desc))).2 = none)
      && nextIs (exec (.stashPut 0 {}) (putOp 0 5 32)) (fun t => (getStash t 0 5).isSome && mread t.dram.cells (cellKey 1 0) 16 = mread square2 0 16 && t.q.ops = [])) = true := by
  decide +kernel

/-- Codec BF16: 1.0 and 2.0 in two bytes each. -/
theorem test_stash_put_bf16 :
    nextIs (exec (.stashPut 0 {}) (putOp 1 5 64)) (fun t => mread t.dram.cells (cellKey 1 0) 4 = le 2 0x3F80 ++ le 2 0x4000) = true := by decide +kernel

/-- Entry 5 in use: 4 FP32 elements RAW at the start of region 2. -/
def stashed (s : State) : State :=
  { s with tr := { s.tr with stash := [(5, some { codec := 0, count := 4, fmt := 0, dst := 0x2000000, size := 128 })] }
           dram := { s.dram with cells := mwrite s.dram.cells (cellKey 2 0) (mread square2 0 16) } }

theorem test_stash_put_exists :
    (begun (stashed (putOp 0 5 32)) 0 0x6180 (fun u o => !putBefore u o 5 && (getStash u 0 5).isSome) && failsWith (exec (.stashPut 0 {}) (stashed (putOp 0 5 32))) 0x81) = true := by
  decide +kernel

def getOp (entry : Nat) : State := stashed (onCore (desc 0x6181 0 (le 8 (ref true 0 0x400) ++ le 4 entry)) [])

theorem test_stash_get :
    (begun (getOp 5) 0 0x6181 (fun u o => match getStash u 0 5 with
        | some e => (getRefusal u 0 o.desc e = none) && ((stashDecode u { part := 0 } e).2.1 = none)
        | none => false)
      && leaves (exec (.stashGet 0 {}) (getOp 5)) 0x400 (mread square2 0 16)
      && failsWith (exec (.stashGet 0 {}) (getOp 6)) 0x80) = true := by decide +kernel

def freeOp (entry : Nat) : State := stashed (onCore (desc 0x6182 0 (le 4 entry)) [])

theorem test_stash_free :
    (begun (freeOp 5) 0 0x6182 (fun u _ => (getStash u 0 5).isSome && !getRuns u 0 5) && nextIs (exec (.stashFree 0 {}) (freeOp 5)) (fun t =>
        getStash t 0 5 = none && t.q.ops = [])
      && failsWith (exec (.stashFree 0 {}) (freeOp 6)) 0x80) = true := by decide +kernel

def phased (s : State) (ph : OpPhase) : State := { s with q := { s.q with ops := s.q.ops.map (fun o => { o with phase := ph }) } }

/-- The entry reads clean again: restored, DEGRADED_OK with bit 0. -/
theorem test_stash_reexecution :
    nextIs (exec (.stashReexecution 0 {}) (phased (getOp 5) .reexecute)) (fun t => mread t.cores.sram 0x400 16 = mread square2 0 16 && t.q.ops = []
      && byteAt (mread t.host (hostKey 0 0x30000) 16) 2 = stDegraded && byteAt (mread t.host (hostKey 0 0x30000) 16) 3 = 1) = true := by decide +kernel

/-- An entry with no re-execution buffer whose channel has failed. -/
def lost (s : State) : State := { s with dram := { s.dram with channels := [((slotOf s 2 0).1, { getChannel s (slotOf s 2 0).1 with state := 3 })] } }

theorem test_stash_lost :
    ((getPart (getOp 5) 0).rexSize = 0 && (match getStash (getOp 5) 0 5 with
        | some e => (stashDecode (envIn (phased (lost (getOp 5)) .reexecute) {}) { part := 0 } e).2.1.isSome
        | none => false)
      && failsWith (exec (.stashReexecution 0 {}) (phased (lost (getOp 5)) .reexecute)) stStashLost) = true := by decide +kernel

theorem test_stash_free_deferred :
    (!getRuns (freeOp 5) 0 5 && nextIs (exec (.stashFreeDeferred 0) (phased (freeOp 5) .freeing)) (fun t => getStash t 0 5 = none && t.q.ops = [])) = true := by
  decide +kernel

/-- A STASH_FREE that its timer ended frees its entry later; a window that is not trusted fails the re-execution (R71). -/
theorem test_stash_late :
    (let s : State := { base with tr := { stash := [(5, some { freeing := some 9 })] } }
     lateFree s 9 = some 5 && !getRuns s 0 5 && nextIs (exec (.stashFreeDeferred 9) s) (fun t => getStash t 0 5 = none)) = true := by decide +kernel

theorem test_stash_distrusted :
    failsWith (exec (.stashReexecution 0 {}) { phased (getOp 5) .reexecute with
      q := { (phased (getOp 5) .reexecute).q with windows := [(0, { untrusted := true })] } }) stCheck = true := by decide +kernel

/-! ### The Steeper -/

/-- A shard image (R204) of a logical tensor of 1 × 1 elements in BF16: layer 0, halves at 1 KiB and 8 KiB, STAGE at 64 KiB. -/
def shard (rule n : Nat) : Bytes :=
  [1#8] ++ le 1 rule ++ [0#8, 1#8] ++ zeros 8 ++ le 4 1 ++ le 4 1 ++ le 4 n ++ zeros 16 ++ le 8 1024 ++ le 8 8192
    ++ le 8 (if rule = 1 || rule = 4 then 65536 else 0)

/-- Layer 0 is versioned, its slots at 128 KiB and 192 KiB. Half 0 of the shard holds step 0. -/
def trained (s : State) : State :=
  { s with
    parts := [(0, { getPart s 0 with layInForce := true, layState := 2, forceCount := 1 })]
    tr := { s.tr with layers := [(0, { valid := true, versioned := true, slot0 := 0x20000, slot1 := 0x30000, len := 256 })]
                      vers := [(0, { ver0 := some 7 })] }
    dram := { s.dram with cells := mwrite s.dram.cells (cellKey 0 1024) [1#8, 3#8] } }

def onNet (d : Bytes) : State := trained (withOp 0x3FF d)

/-- ST_SHARD_SET of entry 3 from one image at device address 0x8000. -/
def shardSetOp (img : Bytes) : State :=
  let s := onNet (desc 0x71C1 0 (le 8 (ref false 0 0x8000) ++ le 2 3 ++ le 2 1))
  { s with dram := { s.dram with cells := mwrite s.dram.cells (cellKey 0 0x8000) img }
           parts := [(0, { getPart s 0 with shCount := 1 })] }

theorem test_shard_set :
    (begun (shardSetOp (shard 3 1)) 0 0x71C1 (fun u o => match imagesOf u o {} 64 1 with
        | (w, none, bs) => (bs = [some (shard 3 1)]) && ((shardFail 0 {} bs 3 (w, false)).2 = (false, none))
        | _ => false)
      && nextIs (exec (.stShardSet 0 {}) (shardSetOp (shard 3 1))) (fun t => getShard t 3 = shard 3 1 && getShard t 4 = getShard base 4 && t.q.ops = [])) = true := by
  decide +kernel

/-- EVER 2 is refused with VERSION (R205); an arming that holds the entry makes it busy. -/
theorem test_shard_set_refused :
    (failsWith (exec (.stShardSet 0 {}) (shardSetOp ([2#8] ++ zeros 63))) stVersion
      && failsWith (exec (.stShardSet 0 {}) { shardSetOp (shard 3 1) with
        st := { armings := [{ op := 9, part := 0, step := 1, group := 0, seq := 0, first := 3, count := 1, mcast := 0 }] } }) 0x81) = true := by
  decide +kernel

/-- A schedule with nothing but EPS = GSCALE = 1.0. -/
def sched : Bytes := [1#8] ++ zeros 39 ++ le 4 0x3F800000 ++ zeros 4 ++ le 4 0x3F800000 ++ zeros 12

def schedSetOp : State :=
  let s := onNet (desc 0x71C2 0 (le 8 (ref false 0 0x8000) ++ le 1 15 ++ le 1 1))
  { s with dram := { s.dram with cells := mwrite s.dram.cells (cellKey 0 0x8000) sched } }

theorem test_sched_set :
    (begun schedSetOp 0 0x71C2 (fun u o => match imagesOf u o {} 64 1 with
        | (w, none, bs) => (bs = [some sched]) && (schedFail w 0 bs 15 = none)
        | _ => false)
      && nextIs (exec (.stSchedSet 0 {}) schedSetOp) (fun t => getSched t 0 15 = sched && t.q.ops = [])) = true := by decide +kernel

theorem test_sched_refused :
    failsWith (exec (.stSchedSet 0 {}) { schedSetOp with dram := { schedSetOp.dram with cells := mwrite schedSetOp.dram.cells (cellKey 0 0x8000) [2#8] } }) stVersion = true := by
  decide +kernel

/-- ST_ARM of step 1 with entry 0. -/
def armOp (img : Bytes) : State :=
  let s := onNet (desc 0x71C0 0 (le 6 1 ++ le 2 0 ++ le 4 5 ++ le 2 0 ++ le 2 1 ++ le 2 0))
  { s with st := { shards := [(0, img)], scheds := [(0, sched)] }, parts := [(0, { getPart s 0 with shCount := 1, grpCount := 1, mcCount := 1 })] }

theorem test_arm :
    (begun (armOp (shard 3 1)) 0 0x71C0 (fun u o => shRule (getShard u 0) ≠ 0 && !shardHeld u 0 && !armLate u 0 (fld o.desc 0x10 6))
      && nextIs (exec (.stArm 0 {}) (armOp (shard 3 1))) (fun t => t.st.armings.map (·.step) = [1] && t.st.armings.map (·.seq) = [5]
        && t.q.ops.map (·.phase) = [.registered])) = true := by decide +kernel

/-- An entry not loaded, one that another arming holds, and a step the partition has voted (R227). -/
theorem test_arm_refused :
    (failsWith (exec (.stArm 0 {}) { armOp (shard 3 1) with st := {} }) 0x82
      && failsWith (exec (.stArm 0 {}) { armOp (shard 3 1) with st := { (armOp (shard 3 1)).st with
          armings := [{ op := 9, part := 0, step := 1, group := 0, seq := 9, first := 0, count := 1, mcast := 0 }] } }) 0x83
      && (armLate { armOp (shard 3 1) with st := { (armOp (shard 3 1)).st with votes := [(0, { contributed := [(1, voteRecord 0 0 1 0 0)] })] } } 0 1)
      && failsWith (exec (.stArm 0 {}) { armOp (shard 3 1) with st := { (armOp (shard 3 1)).st with votes := [(0, { contributed := [(1, voteRecord 0 0 1 0 0)] })] } }) stStale) = true := by
  decide +kernel

/-- An arming in progress of one shard entry, for step 1 and the collective of group 0 with SEQ 5. -/
def arming (claimed : List Nat) : Arming := { op := 0, part := 0, step := 1, group := 0, seq := 5, first := 0, count := 1, mcast := 0, claimed, bound := true }

def armed (img : Bytes) (a : Arming) : State :=
  let s := phased (armOp img) .registered
  { s with st := { s.st with armings := [a] } }

theorem test_slot_claim :
    ((0 ∈ armLayers (armed (shard 3 1) (arming [])) (arming []))
      && fenceOf (armed (shard 3 1) (arming [])) 0 1 = 0
      && nextIs (exec (.slotClaim 0 0) (armed (shard 3 1) (arming []))) (fun t => (getVer t 0).claim = some 1 && (getVer t 0).cur = 0)) = true := by decide +kernel

/-- A REDUCE_SCATTER of one member that feeds the Steeper: one FP32 gradient, 1.0. -/
def scatterOp : Op :=
  { id := 1, seq := 1, part := 0, ring := 1, core := 0x3FF, pos := 1, phase := .registered
    desc := desc 0x8201 0 (le 8 (ref true 0 0) ++ zeros 8 ++ le 4 1 ++ le 2 0 ++ le 2 0 ++ le 4 5 ++ zeros 4 ++ le 6 1) }

def scatterCtx : Ctx :=
  { op := 1, part := 0, coll := { group := 0, seq := 5 }, slot := 1, code := 1, rank := 0, size := 1, coords := [0], ghash := 0#32, src := le 4 0x3F800000 }

def fed (img : Bytes) : State :=
  let s := armed img (arming [0])
  { s with q := { s.q with ops := s.q.ops ++ [scatterOp] }, pl := { s.pl with ctxs := [scatterCtx] } }

/-- Rule F stages the gradient (R212). -/
theorem test_chunk_apply :
    ((findCtx (fed (shard 1 1)) { group := 0, seq := 5 } = some scatterCtx ∧ findOp (fed (shard 1 1)) 1 = some scatterOp
      ∧ steeperFed scatterOp.desc = true ∧ 0 < segChunks scatterCtx scatterOp.desc true 0 ∧ armOf (fed (shard 1 1)) scatterCtx = some (arming [0])
      ∧ rootVals scatterCtx scatterOp.desc 0 0 = some [0x3F800000#32] ∧ touched (fed (shard 1 1)) (arming [0]) 0 1 = [0]
      ∧ lastApplied (fed (shard 1 1)) 0 (shard 1 1) = 0
      ∧ nextIs (exec (.reducedChunkApply { group := 0, seq := 5 } 0 {}) (fed (shard 1 1))) (fun t => t.st.armings.map (·.done) = [[0]]
        && t.st.armings.map (fun a => tget 0 a.applied 0) = [1] && mread t.dram.cells (cellKey 0 65536) 4 = le 4 0x3F800000) = true)) := by decide +kernel

/-- Rule M, its one element applied: the header of half 1 says step 1, and the compute copy goes to slot 1. -/
theorem test_shard_finish :
    nextIs (exec (.shardFinish 0 0 {}) (armed (shard 3 1) { arming [0] with applied := [(0, 1)] })) (fun t =>
      t.st.armings.map (fun a => tget .filling a.entries 0) = [.finished] && mread t.dram.cells (cellKey 0 8192) 10 = [1#8, 3#8] ++ zeros 6 ++ [1#8, 0#8]
        && (getVer t 0).filled = [(0, 2)]) = true := by decide +kernel

/-- The pending half's masters lie in a channel that has failed: the arming ends (R227). -/
theorem test_finish_lost :
    nextIs (exec (.shardFinish 0 0 {}) (let s := armed (shard 3 1) { arming [0] with applied := [(0, 1)] }
      { s with dram := { s.dram with channels := [((slotOf s 0 9216).1, { getChannel s (slotOf s 0 9216).1 with state := 3 })] } }))
      (fun t => t.st.armings = [] && (getEvt t 1).poison) = true := by decide +kernel

def stagedF : State :=
  let s := armed (shard 1 1) { arming [0] with applied := [(0, 1)] }
  { s with dram := { s.dram with cells := mwrite (mwrite s.dram.cells (cellKey 0 65536) (le 4 0x3F800000)) (cellKey 0 1024) [1#8, 1#8] } }

/-- Rule F, its gradient staged: its header and its stage can be read. -/
theorem test_rule_f_meets :
    (0 ∈ armEntries (arming [0]) ∧ shRule (getShard stagedF 0) = 1 ∧ shN (getShard stagedF 0) = 1
      ∧ (steepCheck stagedF 0 {} (curAddr stagedF (shard 1 1)) (halfSize (shard 1 1) 0)).2 = false
      ∧ (steepCheck stagedF 0 {} (shStage (shard 1 1)) 4).2 = false) := by decide +kernel

/-- Rule V stages its current half and signals its counter, its own one back at 0. -/
theorem test_rule_v_start :
    nextIs (exec (.shardFinish 0 0 {}) (let s := armed (shard 4 1) { arming [0] with applied := [(0, 1)] }
      { s with dram := { s.dram with cells := mwrite s.dram.cells (cellKey 0 1024) [1#8, 4#8] } }))
      (fun t => t.st.armings.map (fun a => tget .filling a.entries 0) = [.waitingV] && getEvt t 0 = { value := 1#32, poison := false }
        && getEvt t 1 = {}) = true := by decide +kernel

def waitV (poison : Bool) : State :=
  let s := armed (shard 4 1) { arming [0] with applied := [(0, 1)], entries := [(0, .waitingV)] }
  { s with q := { s.q with evts := [(1, { value := 1#32, poison })] } }

theorem test_rule_v_resume :
    nextIs (exec (.ruleVResume 0 0 {}) (waitV false)) (fun t => t.st.armings.map (fun a => tget .filling a.entries 0) = [.finished]) = true := by decide +kernel

theorem test_rule_v_poison :
    nextIs (exec (.ruleVResume 0 0 {}) (waitV true)) (fun t => t.st.armings = [] && (getEvt t 1).poison) = true := by decide +kernel

/-! ### Compute values, statistics, the vote -/

def values : ComputeValues := { layer := 0, step := 1, off := 0, data := [0x80#8, 0x3F#8] }

def receiving (claim : Option Nat) : State :=
  let s := trained base
  { s with tr := { s.tr with vers := [(0, { claim })] }, fab := { mcast := [(0, { loc := true })] } }

theorem test_compute_values :
    (valuesPart (receiving (some 1)) 0 = some 0 && nextIs (exec (.computeValuesReceive 0 77 values) (receiving (some 1))) (fun t =>
        mread t.dram.cells (cellKey 0 0x30000) 2 = [0x80#8, 0x3F#8] && (getVer t 0).filled = [(0, 2)] && t.fab.outbox.map (·.dst) = [77])
      && isNext (exec (.computeValuesReceive 0 77 values) (receiving (some 2))) (answerValues (receiving (some 2)) 77 values 1)) = true := by decide +kernel

def sentOne (refused : Bool) : State := armed (shard 3 1) { arming [0] with sent := [{ member := 2, values, refused }] }

theorem test_compute_answers :
    (nextIs (exec (.computeValuesAck 0 2 values .acknowledged) (sentOne true)) (fun t => t.st.armings.map (·.sent) = [[]])
      && isNext (exec (.computeValuesAck 0 2 values .refused) (sentOne false)) (sentOne true)
      && nextIs (exec (.computeValuesResend 0) (sentOne true)) (fun t => t.st.armings.map (fun a => a.sent.map (·.refused)) = [[false]])) = true := by decide +kernel

/-- All entries finished, the exchange closes with no other member. -/
theorem test_statistics_exchange :
    nextIs (exec (.statisticsExchange 0 {} {}) { fed (shard 3 0) with st := { (fed (shard 3 0)).st with
        armings := [{ arming [0] with entries := [(0, .finished)] }] } }) (fun t => (getGov t 0).exchanged.map (·.1) = some 1) = true := by decide +kernel

/-- STEP_VOTE of step 1, COUNT 0, in a group of `size` members, of rank 0. -/
def voteOp : Op :=
  { id := 1, seq := 1, part := 0, ring := 1, core := 0x3FF, pos := 1, phase := .registered
    desc := desc 0x8207 0 (zeros 20 ++ le 2 0 ++ le 2 0 ++ le 4 6 ++ zeros 4 ++ le 6 1) }

def voteCtx (size : Nat) (result : Option Bytes) : Ctx :=
  { op := 1, part := 0, coll := { group := 0, seq := 6 }, slot := 2, code := 7, rank := 0, size, coords := [0, 1], ghash := 0#32, result }

def voting (size : Nat) (result : Option Bytes) : State :=
  let s := trained base
  { s with q := { s.q with ops := [voteOp] }, pl := { s.pl with ctxs := [voteCtx size result] }
           tr := { s.tr with vers := [(0, { ver0 := some 7, claim := some 1 })] } }

theorem test_vote_contribute :
    (contribution (voting 2 none) voteOp 0 = some (voteRecord 0 0 1 0 0, [])
      && nextIs (exec (.voteContribute 1) (voting 2 none)) (fun t => (getVote t 0).contributed = [(1, voteRecord 0 0 1 0 0)])) = true := by decide +kernel

/-- A record with equal steps, no flag: the step commits; slot 1 becomes current with version 8 (R225). -/
theorem test_vote_commits :
    (skipCause (voteRecord 0 0 1 0 0) false = none && claimedFor (voting 1 none) 0 1 = [0]
      && nextIs (exec (.voteDecision 1 (voteRecord 0 0 1 0 0)) (voting 1 (some (voteRecord 0 0 1 0 0)))) (fun t => (getVer t 0).cur = 1
        && (getVer t 0).ver1 = some 8 && (getVer t 0).claim = none && (getVote t 0).lastStep = some 1 && (getVote t 0).lastCommit)) = true := by decide +kernel

/-- FLAGS bit 0, a non-finite element: the step is skipped, SKIPPED cause 1. -/
theorem test_vote_skips :
    (skipCause (voteRecord 1 0 1 0 0) false = some 1
      && nextIs (exec (.voteDecision 1 (voteRecord 1 0 1 0 0)) (voting 1 (some (voteRecord 1 0 1 0 0)))) (fun t => (getVer t 0).cur = 0
        && (getVer t 0).claim = none && (getVote t 0).lastStep = some 1 && !(getVote t 0).lastCommit)) = true := by decide +kernel

/-! ### Fabric tables -/

/-- A plan image (R258) of a block of 4 × 1 × 1 modules, this module at x = 1: port 0 in direction x+, port 6 in x−. -/
def planImage (launch express : List Nat) : Bytes :=
  let n := launch.length
  let m := express.length
  let head := [1#8] ++ zeros 3 ++ le 4 (64 + 8 * (n + m)) ++ zeros 4 ++ le 4 1 ++ [4#8, 1#8, 1#8, 0#8]
    ++ [0#8, 7#8, 7#8, 7#8, 7#8, 7#8, 1#8, 7#8, 7#8, 7#8, 7#8, 7#8] ++ [1#8, 1#8, 1#8, 0#8] ++ le 2 1 ++ zeros 2 ++ le 8 99
    ++ le 2 n ++ le 2 m ++ zeros 4
  let body := launch.flatMap (le 8) ++ express.flatMap (le 8)
  head ++ le 4 (crc32c (head ++ zeros 8 ++ body)).toNat ++ zeros 4 ++ body

def plain : Bytes := planImage [] []

/-- A GROUP_SET image of one member, this module, its list at device address 0x9000. -/
def groupImage : Bytes := [1#8, 1#8, 0#8, 0#8] ++ le 2 1 ++ le 2 0 ++ le 4 6 ++ zeros 4 ++ le 8 0x9000 ++ zeros 40

def groupSetOp : State :=
  let s := onNet (desc 0x820B 0 (le 8 (ref false 0 0x8000) ++ le 2 7 ++ le 2 1))
  { s with parts := [(0, { getPart s 0 with grpCount := 1, contexts := 64 })]
           fab := { s.fab with active := some plain }
           dram := { s.dram with cells := mwrite (mwrite s.dram.cells (cellKey 0 0x8000) groupImage) (cellKey 0 0x9000) [1#8] } }

theorem test_group_set_meets :
    begun groupSetOp 0 0x820B (fun u o => match imagesOf u o {} 64 1 with
        | (w, none, bs) => (match loadGroups 0 {} bs 7 [] none w with
          | (w2, .inl gs, none) => decide (gs.map (·.1) = [7]) && (gs.map (fun g => g.2.quota) = [4])
              && decide (quotaWith w2 0 7 (bs.map (fun b => b.getD [])) = 4)
          | _ => false)
        | _ => false) = true := by decide +kernel

theorem test_group_set :
    nextIs (exec (.groupSet 0 {}) groupSetOp) (fun t => (getGroup t 7).valid && (getGroup t 7).size = 1 && (getGroup t 7).next = 6 && t.q.ops = []) = true := by
  decide +kernel

/-- Quotas beyond the partition's contexts: NO_RESOURCE (R231). -/
theorem test_group_set_quota :
    failsWith (exec (.groupSet 0 {}) { groupSetOp with parts := [(0, { getPart groupSetOp 0 with contexts := 3 })] }) stNoRes = true := by decide +kernel

/-- VERSION 2 ends it VERSION; a busy entry whose list cannot be read is still 0x81 (R11, R251). -/
theorem test_group_set_refused :
    failsWith (exec (.groupSet 0 {}) { groupSetOp with dram := { groupSetOp.dram with cells := mwrite groupSetOp.dram.cells (cellKey 0 0x8000) [2#8] } }) stVersion
      = true := by decide +kernel

def mcastSetOp : State :=
  let s := onNet (desc 0x9243 0 (le 2 1023 ++ le 2 0xFFF ++ le 1 1))
  { s with parts := [(0, { getPart s 0 with mcCount := 32 })], fabOwner := some 0, fabOwnerPart := 0 }

theorem test_mcast_set :
    (begun mcastSetOp 0 0x9243 (fun _ _ => true) && nextIs (exec (.mcastSet 0 {}) mcastSetOp) (fun t =>
      tget {} t.fab.mcast 1023 = { ports := 0xFFF#12, loc := true } && tget {} t.fab.mcast 0 = {} && t.q.ops = [])) = true := by decide +kernel

def planStageOp (img : Bytes) : State :=
  let s := onNet (desc 0x9240 0 (le 8 (ref false 0 0x8000) ++ le 4 img.length))
  { s with fabOwner := some 0, fabOwnerPart := 0, dram := { s.dram with cells := mwrite s.dram.cells (cellKey 0 0x8000) img } }

theorem test_plan_stage :
    (planFault plain 64 = none && begun (planStageOp plain) 0 0x9240 (fun u o =>
        (u.fab.change = none) && (devBytes u (ctxOf o {}) false 0x8000 64 = plain) && ((checkRange u (ctxOf o {}) false 0x8000 64).2 = none))
      && nextIs (exec (.planStage 0 {}) (planStageOp plain)) (fun t => t.fab.staged = some plain && t.fab.active = none && t.q.ops = [])) = true := by decide +kernel

theorem test_plan_stage_refused : failsWith (exec (.planStage 0 {}) (planStageOp ([2#8] ++ plain.drop 1))) stVersion = true := by decide +kernel

def planCommitOp (epoch : Nat) : State :=
  let s := onNet (desc 0x9241 0 (le 2 epoch))
  { s with fabOwner := some 0, fabOwnerPart := 0, fab := { staged := some plain, epoch := 5 } }

/-- An epoch is newer by serial arithmetic: 5 + 32767 is, 5 + 32768 is not. -/
theorem test_plan_commit :
    (begun (planCommitOp 32772) 0 0x9241 (fun u o => epochNewer u.fab.epoch (fld o.desc 0x10 2)) && !epochNewer 5 32773 && !epochNewer 5 5
      && nextIs (exec (.planCommit 0 {}) (planCommitOp 32772)) (fun t => (match t.fab.change with
        | some c => decide (c.epoch = 32772) && !c.isFence
        | none => false) && t.q.ops.map (·.phase) = [.registered])) = true := by decide +kernel

def fenceOp : State :=
  let s := onNet (desc 0x9242 0 (le 2 6 ++ le 2 1 ++ zeros 4 ++ le 8 0x8000))
  { s with fabOwner := some 0, fabOwnerPart := 0, fab := { active := some plain, epoch := 5 }
           dram := { s.dram with cells := mwrite s.dram.cells (cellKey 0 0x8000) [3#8] } }

theorem test_fence :
    (begun fenceOp 0 0x9242 (fun u o => (words 1 (devBytes u (ctxOf o {}) false 0x8000 4) = [3]) && (badFenceWord u [some 3] = none))
      && nextIs (exec (.fence 0 {}) fenceOp) (fun t => (match t.fab.change with
        | some c => decide (c.epoch = 6) && c.isFence && (c.fence = [3])
        | none => false))) = true := by decide +kernel

/-! ### Collectives -/

/-- The body of a collective: group 0, SEQ 6. -/
def collBody (src dst count : Nat) (seq : Nat := 6) (peer : Nat := 0) (root : Nat := 0) (step : Nat := 0) (mc : Nat := 0) : Bytes :=
  le 8 src ++ le 8 dst ++ le 4 count ++ le 2 0 ++ le 2 root ++ le 4 seq ++ zeros 2 ++ le 2 peer ++ le 6 step ++ le 2 mc

/-- Group 0 of `size` members, this module's rank 0, next number 6. -/
def grouped (s : State) (size : Nat) : State :=
  { s with pl := { s.pl with groups := [(0, { valid := true, quota := 4, size, myRank := 0, seq0 := 6, list := 0x9000, next := 6 })] }
           parts := [(0, { getPart s 0 with grpCount := 1, contexts := 64, mcCount := 1 })]
           fab := { s.fab with active := some plain }
           dram := { s.dram with cells := mwrite s.dram.cells (cellKey 0 0x9000) ([1#8] ++ zeros 3 ++ [2#8]) } }

def collOp (op size : Nat) (body : Bytes) : State := grouped (withOp 0x3FF (desc op 0 body)) size

def registers (c : Instr) (op : Nat) (s : State) : Bool :=
  begun s 0 op (fun u o => (getGroup u 0).valid && !(seqSpaces (getGroup u 0) o.desc).any (fun sp => decide (seqDiff (cSeq o.desc) (nextSeq (getGroup u 0) sp) < 0))
      && !seqTaken u o)
    && nextIs (exec c s) (fun t => t.q.ops.map (·.phase) = [.registered] && t.pl.ctxs = [])

def r0 : Nat := ref true 0 0
def r1 : Nat := ref true 0 0x1000

theorem test_collectives_register :
    (registers (.allReduce 0 {}) 0x8200 (collOp 0x8200 2 (collBody r0 r1 4)) && registers (.reduceScatter 0 {}) 0x8201 (collOp 0x8201 2 (collBody r0 r1 4))
      && registers (.allGather 0 {}) 0x8202 (collOp 0x8202 2 (collBody r0 r1 4)) && registers (.broadcast 0 {}) 0x8203 (collOp 0x8203 2 (collBody r0 r1 4))
      && registers (.reduce 0 {}) 0x8204 (collOp 0x8204 2 (collBody r0 r1 4)) && registers (.allToAll 0 {}) 0x8205 (collOp 0x8205 2 (collBody r0 r1 4))) = true := by
  decide +kernel

theorem test_collectives_register_more :
    (registers (.barrier 0 {}) 0x8206 (collOp 0x8206 2 (collBody 0 0 0)) && registers (.stepVote 0 {}) 0x8207 (collOp 0x8207 2 (collBody 0 0 0 6 0 0 1))
      && registers (.send 0 {}) 0x8208 (collOp 0x8208 2 (collBody r0 0 4 6 1)) && registers (.recv 0 {}) 0x8209 (collOp 0x8209 2 (collBody 0 r1 4 6 1))
      && registers (.mcastPut 0 {}) 0x820A (collOp 0x820A 2 (collBody r0 0 4))) = true := by decide +kernel

/-- SEQ 5 is old; in group 0 not set, ENTRY_UNSET. -/
theorem test_collective_stale :
    (failsWith (exec (.allReduce 0 {}) (collOp 0x8200 2 (collBody r0 r1 4 5))) 0x81
      && failsWith (exec (.barrier 0 {}) { collOp 0x8206 2 (collBody 0 0 0) with pl := {} }) 0x80) = true := by decide +kernel

def opening : State := phased (collOp 0x8200 2 (collBody r0 r1 4)) .registered

theorem test_collective_open :
    (isColl (desc 0x8200 0 (collBody r0 r1 4)) && seqSpaces (getGroup opening 0) (desc 0x8200 0 (collBody r0 r1 4)) = [none] && slotFree opening 0 2
      && (match checkRange (consumeSeq opening 0 (desc 0x8200 0 (collBody r0 r1 4))) { part := 0 } false 0x9000 8 with
        | (w, none) => (checkExts w { part := 0 } (inExts (usesOf w 0 (desc 0x8200 0 (collBody r0 r1 4))))).2 = none
        | _ => false)
      && nextIs (exec (.collectiveOpen 0 {}) opening) (fun t => (getGroup t 0).next = 7 && t.pl.ctxs.map (·.rank) = [0])) = true := by decide +kernel

/-- An abort notice that came before ends the collective as it opens. -/
theorem test_collective_open_aborted :
    nextIs (exec (.collectiveOpen 0 {}) { opening with pl := { opening.pl with early := [{ coll := { group := 0, seq := 6 }, rank := 1, abort := some (.mismatch, 1) }] } })
      (fun t => (getGroup t 0).next = 7 && t.pl.ctxs = [] && t.q.ops = []) = true := by decide +kernel

/-! ### Chunks -/

/-- A BROADCAST from rank 1 of two, open at this module, rank 0, whose first digest has come. -/
def bcDesc : Bytes := desc 0x8203 0 (collBody (ref true 6 0) (ref true 6 0x1000) 4 6 0 1)

def bcCtx : Ctx :=
  { op := 0, part := 0, coll := { group := 0, seq := 6 }, slot := 2, code := 3, rank := 0, size := 2, coords := [1, 2], ghash := 0#32
    digests := [(1, 0x1122#64)] }

def withCtx (d : Bytes) (x : Ctx) : State :=
  let s := phased (grouped (withOp 0x3FF d) 2) .registered
  { s with pl := { s.pl with ctxs := [x] } }

/-- The chunk that BROADCAST waits for: four E2M1 elements padded to a block of 32. -/
def bcHdr (wfmt : Nat) : ChunkHdr := { kind := 1, group := 0, seq := 6, src := 1, dst := 0, wfmt, op := 3, segment := 1, digest := 0x1122#64 }

def bcChunk (wfmt : Nat) : Bytes := mkChunk (bcHdr wfmt) (0x21#8 :: 0x43#8 :: zeros 14)

theorem test_chunk_hdr : parseChunk (bcChunk 6) = bcHdr 6 := by decide +kernel

theorem test_chunk_ok : chunkOk (mkChunk (bcHdr 6) []) = true := by decide +kernel

theorem test_chunk_due :
    (awaited bcCtx bcDesc).map (·.key) = [{ srcRank := 1, level := 0, segment := 1, chunk := 0 }]
      ∧ findCtx (withCtx bcDesc bcCtx) (chunkRef (withCtx bcDesc bcCtx) (bcHdr 6)) = some bcCtx
      ∧ chunkLen (moveFmt bcDesc) (segLen 3 2 4 1) 0 = 4 := by decide +kernel

/-- What came on VC1 from no packet kept. -/
def onVc1 : Came := { vc := 1, src := none }

/-- A chunk whose version is not 1 fails its checks: NAK. -/
theorem test_chunk_nak :
    isNext (exec (.chunkReceive ⟨0, 0⟩ (2#8 :: (bcChunk 6).drop 1)) (withCtx bcDesc bcCtx)) (answerChunk (withCtx bcDesc bcCtx) onVc1 4 0 (bcHdr 6)) = true := by
  decide +kernel

/-- A chunk of no open collective is acknowledged. -/
theorem test_chunk_discarded :
    isNext (exec (.chunkReceive ⟨0, 0⟩ (mkChunk (bcHdr 6) [])) (grouped base 2)) (answerChunk (grouped base 2) onVc1 3 1 (bcHdr 6)) = true := by decide +kernel

set_option maxRecDepth 20000 in
/-- The due chunk is taken once and acknowledged; a second copy is acknowledged alone; a wrong WFMT is a NAK. -/
theorem test_chunk_taken :
    (chunkOk (bcChunk 6) && nextIs (exec (.chunkReceive ⟨0, 0⟩ (bcChunk 6)) (withCtx bcDesc bcCtx)) (fun t =>
        t.pl.ctxs.all (fun y => decide (y.received = 1)) && mread t.cores.sram 0x1000 2 = [0x21#8, 0x43#8])) = true := by decide +kernel

def bcGot : Ctx := { bcCtx with got := [{ key := { srcRank := 1, level := 0, segment := 1, chunk := 0 }, wfmt := 6, payload := zeros 16, returned := 1 }] }

set_option maxRecDepth 20000 in
theorem test_chunk_again :
    isNext (exec (.chunkReceive ⟨0, 0⟩ (bcChunk 6)) (withCtx bcDesc bcGot)) (answerChunk (withCtx bcDesc bcGot) onVc1 3 1 (bcHdr 6)) = true := by decide +kernel

set_option maxRecDepth 20000 in
theorem test_chunk_wfmt :
    isNext (exec (.chunkReceive ⟨0, 0⟩ (bcChunk 3)) (withCtx bcDesc bcCtx)) (answerChunk (withCtx bcDesc bcCtx) onVc1 4 0 (bcHdr 3)) = true := by decide +kernel

set_option maxRecDepth 20000 in
/-- A member's first digest that is not the operation's ends the collective; a later chunk with another digest is a NAK (R244). -/
theorem test_chunk_digest :
    (nextIs (exec (.chunkReceive ⟨0, 0⟩ (bcChunk 6)) (withCtx bcDesc { bcCtx with digests := [] })) (fun t => t.pl.ctxs = [] && t.q.ops = [])
      && isNext (exec (.chunkReceive ⟨0, 0⟩ (bcChunk 6)) (withCtx bcDesc { bcCtx with digests := [(1, 0x1123#64)] }))
        (answerChunk (withCtx bcDesc { bcCtx with digests := [(1, 0x1123#64)] }) onVc1 4 0 (bcHdr 6))) = true := by decide +kernel

/-- The vote's record from the parent, rank 0 of two, reaches rank 1. -/
def vtDesc : Bytes := desc 0x8207 0 (collBody 0 0 0 6 0 0 1)

def vtCtx : Ctx := { bcCtx with code := 7, rank := 1, digests := [] }

def vtHdr : ChunkHdr := { kind := 6, group := 0, seq := 6, src := 0, dst := 1, level := 0, op := 7, digest := collDigest vtCtx vtDesc 7 }

def vtBody : Bytes := 1#8 :: zeros 63

set_option maxRecDepth 20000 in
theorem test_vote_record :
    (chunkOk (mkChunk vtHdr (vtBody)) && topLevel vtCtx 0 1 = 0 && home vtCtx 0 1 (blockOf 1 1) = 0
      && nextIs (exec (.voteRecordReceive ⟨0, 0⟩ (mkChunk vtHdr (vtBody))) (withCtx vtDesc vtCtx)) (fun t => t.pl.ctxs.map (·.result) = [some (vtBody)])) = true := by
  decide +kernel

set_option maxRecDepth 20000 in
/-- A vote record of VVER 2 ends the vote (R8). -/
theorem test_vote_record_foreign :
    nextIs (exec (.voteRecordReceive ⟨0, 0⟩ (mkChunk vtHdr (2#8 :: zeros 63))) (withCtx vtDesc vtCtx)) (fun t => t.pl.ctxs = [] && t.q.ops = []) = true := by
  decide +kernel

set_option maxRecDepth 20000 in
theorem test_vote_record_nak :
    nextIs (exec (.voteRecordReceive ⟨0, 0⟩ (2#8 :: (mkChunk vtHdr (zeros 64)).drop 1)) (withCtx vtDesc vtCtx)) (fun t => t.pl.ctxs.map (·.result) = [none]) = true := by
  decide +kernel

/-- A grant and an abort notice of a collective still to open are kept. -/
theorem test_early_notes :
    (findCtx (grouped base 2) { group := 0, seq := 6 } = none && collAhead (grouped base 2) { group := 0, seq := 6 } && !collAhead (grouped base 2) { group := 0, seq := 5 }
      && nextIs (exec (.grantReceive { group := 0, seq := 6 } 1 2) (grouped base 2)) (fun t => t.pl.early.map (·.grants) = [2])
      && nextIs (exec (.abortNoticeReceive { group := 0, seq := 6 } .mismatch 1) (grouped base 2)) (fun t => t.pl.early.map (·.rank) = [1])) = true := by decide +kernel

/-- The sender's side: rank 0 is the root, a chunk sent to rank 1. -/
def sdDesc : Bytes := desc 0x8203 0 (collBody (ref true 6 0) (ref true 6 0x1000) 4 6 0 0)

def sdKey : ChunkKey := { srcRank := 0, level := 0, segment := 0, chunk := 0 }

def sdChunk : Bytes := mkChunk { kind := 1, group := 0, seq := 6, src := 0, dst := 1, wfmt := 6, op := 3 } (zeros 16)

def sending (sends : Nat) : State :=
  withCtx sdDesc { bcCtx with digests := [], src := zeros 16, sent := [{ dst := 1, key := sdKey, bytes := sdChunk, sends }] }

def sdColl : CollRef := { group := 0, seq := 6 }

theorem test_ack :
    nextIs (exec (.ackReceive sdColl 1 ⟨sdKey, 2⟩) (sending 1)) (fun t => t.pl.ctxs.all (fun y => y.sent.all (·.acked) && decide (tget 0 y.grants 1 = 2))) = true := by
  decide +kernel

theorem test_grant :
    nextIs (exec (.grantReceive sdColl 1 3) (sending 1)) (fun t => t.pl.ctxs.map (fun y => tget 0 y.grants 1) = [3]) = true := by decide +kernel

set_option maxRecDepth 20000 in
/-- The third repeat is the fourth send; the fourth failure ends the collective. -/
theorem test_resend :
    (nextIs (exec (.chunkResendTimeout sdColl 1 sdKey) (sending 3)) (fun t => t.pl.ctxs.map (·.resends) = [1] && t.pl.ctxs.map (fun y => y.sent.map (·.sends)) = [[4]]
        && t.pl.ctxs.map (fun y => y.sent.map (·.bytes)) = [[markResent sdChunk]])
      && nextIs (exec (.nakReceive sdColl 1 sdKey) (sending 4)) (fun t => t.pl.ctxs = [])) = true := by decide +kernel

theorem test_abort :
    nextIs (exec (.abortNoticeReceive sdColl .mismatch 1) (sending 1)) (fun t => t.pl.ctxs = [] && t.q.ops = []) = true := by decide +kernel

/-- A record kept after its collective closed is sent again. -/
theorem test_kept_record :
    nextIs (exec (.nakReceive sdColl 1 sdKey) { grouped base 2 with pl := { (grouped base 2).pl with
        kept := [{ coll := sdColl, me := 0, peers := [1], chunk := { dst := 1, key := sdKey, bytes := sdChunk, sends := 1 } }] } })
      (fun t => t.pl.kept.map (fun k => k.chunk.sends) = [2]) = true := by decide +kernel

/-! ### The mailbox -/

/-- The response of a mailbox command of function 0 begins with STATUS and XSTATUS. -/
def statusIs (o : Out) (st xs : Nat) (p : State → Bool := fun _ => true) : Bool :=
  nextIs o (fun t => (tget 0#32 (getFn t 0).mbData 1).toNat / 2 ^ 16 = st + 256 * xs && !(getFn t 0).mbBusy && (tget 0#32 (getFn t 0).leaves 0x40024).getLsbD 0 && p t)

/-- Function 0 waits for an answer. -/
def asking (s : State) : State := { s with fns := [(0, { getFn s 0 with mbBusy := true }), (1, { accepted := true, drvWritten := true, drvMajor := 2 })] }

def mb : State := asking base

theorem test_served : mb.power.phase ≠ .off ∧ mb.power.drabexUp = true ∧ epLive mb 0 = true ∧ mb.power.phase ≠ .recovery ∧ fromPf 0 = true ∧ fromPf 1 = false
    ∧ epLive mb 16 = true := by decide +kernel

theorem test_get_info : statusIs (exec (.getInfo 0 5#16) mb) 0 0 (fun t => tget 0#32 (getFn t 0).mbData 0 = 0x00050101#32) = true := by decide +kernel

theorem test_get_info_vf : nextIs (exec (.getInfo 1 5#16) { mb with fns := [(1, { mbBusy := true })] }) (fun t => !(getFn t 1).mbBusy) = true := by decide +kernel

def sensed : State := { mb with dbx := { mb.dbx with sensors := [(0, .valid 25)] } }

theorem test_sensor_read :
    (statusIs (exec (.sensorRead 0 5#16 0#16 1#8) sensed) 0 0 && statusIs (exec (.sensorRead 0 5#16 0#16 0#8) sensed) stBad 0x12
      && statusIs (exec (.sensorRead 0 5#16 0#16 30#8) sensed) stBad 0x12) = true := by decide +kernel

theorem test_log_read : statusIs (exec (.logRead 0 5#16 0#32 7#16 0#64 {}) mb) 0 0 = true := by decide +kernel

theorem test_set_mgmt_cap :
    (statusIs (exec (.setMgmtCap 0 5#16 100#16) mb) 0 0 (fun t => t.kt.mgmtCap = some 100) && statusIs (exec (.setMgmtCap 0 5#16 0#16) mb) 0 0 (fun t => t.kt.mgmtCap = none)
      && statusIs (exec (.setMgmtCap 0 5#16 99#16) mb) stBad 0x10 (fun t => t.kt = mb.kt)) = true := by decide +kernel

theorem test_alert_mask : statusIs (exec (.alertMask 0 5#16 3#16) mb) 0 0 (fun t => t.dbx.alertMask = 3#16
    && t.dbx.flashRecs.any (fun x => x.rcd = .alertMask 3#16)) = true := by decide +kernel

theorem test_mview :
    (statusIs (exec (.mviewRead 0 5#16) mb) 0 0
      && statusIs (exec (.mviewClear 0 5#16 8#8 1#32) { mb with dbx := { mb.dbx with mview := [(8, 3#32)] } }) 0 0 (fun t => tget 0#32 t.dbx.mview 8 = 2#32)
      && nextIs (exec (.mviewRead 1 5#16) mb) (fun t => (tget 0#32 (getFn t 1).mbData 1).toNat / 2 ^ 16 = stPerm + 256)) = true := by decide +kernel

theorem test_boot_plan_clear :
    statusIs (exec (.bootPlanSet 0 5#16 0#64 0#32 0#16 {}) { mb with fab := { bootPlan := some plain } }) 0 0 (fun t => t.fab.bootPlan = none) = true := by decide +kernel

theorem test_fw_status : statusIs (exec (.fwStatus 0 5#16) mb) 0 0 = true := by decide +kernel

/-- OP 17 is not in the list; MVER 2 is refused first (R362). -/
theorem test_unlisted :
    (statusIs (exec (.unlistedMailboxOp 0 ([1#8, 17#8] ++ zeros 14)) mb) stBad 1 && statusIs (exec (.unlistedMailboxOp 0 ([2#8, 17#8] ++ zeros 14)) mb) stVersion 0) = true := by
  decide +kernel

theorem test_reset_due :
    (statusIs (exec (.reset 0 5#16 3#8) mb) 0 0 (fun t => t.dbx.resetDue = some 3) && statusIs (exec (.reset 0 5#16 4#8) mb) stBad 0x10 (fun t => t.dbx.resetDue = none)) = true := by
  decide +kernel

theorem test_part_reset :
    (partEnabled mb 0 && fnPort (getPart mb 0).owner = 0 && statusIs (exec (.partReset 0 5#16 0#8) (asking (withOp 0 (desc 0 0 [])))) 0 0 (fun t => t.q.ops = [])) = true := by
  decide +kernel

/-- Before Ready PART_RESET answers NO_RESOURCE (log 178). -/
theorem test_part_reset_early :
    statusIs (exec (.partReset 0 5#16 0#8) { mb with power := { mb.power with ready := false, phase := .bootWait } }) stNoRes 6 = true := by decide +kernel

/-- A handover to function 1, of a partition with one block of output rings and no submission ring. -/
def handImage : Bytes := [1#8] ++ zeros 7 ++ (List.range 16).flatMap (fun i => le 2 i ++ zeros 14)

def handing : State :=
  { mb with parts := [(0, { state := .enabled, orCount := 1, evCount := 1, quota := 64 })], q := {}, host := mwrite [] 0x50000 handImage }

theorem test_part_handover :
    ((getFn handing 1).accepted && ownedPart handing 1 = none && !handedTo handing 1 && !inProgress handing 0 && fnExists handing 1 && handImageOk (getPart handing 0) handImage
      && mailHostRead handing {} 0 0x50000 264 = (handImage, none) && !hostRejects handing {} 0 0x60000 136
      && nextIs (exec (.partHandover 0 5#16 0#8 1#8 1#8 0x50000#64 0x60000#64 {}) handing) (fun t => (getFn t 0).mbBusy && (getPart t 0).owner = 0
        && (getPart t 0).hand = some { ep := 0, tag := 5#16, newFn := 1, record := 0x60000, image := handImage })) = true := by decide +kernel

/-- In the next idle step the partition has its new owner, and the request its answer. -/
theorem test_part_handover_done :
    statusIs (step { handing with parts := [(0, { getPart handing 0 with hand := some { ep := 0, tag := 5#16, newFn := 1, record := 0x60000, image := handImage } })] })
      0 0 (fun t => (getPart t 0).owner = 1 && (getPart t 0).hand = none && (tget 0#32 (getFn t 1).leaves 0x40028).getLsbD 1) = true := by decide +kernel

def idle : State := { mb with parts := [], q := {}, cores := { good := [5, 6] } }

theorem test_core_reconfig :
    (!anyPartEnabled idle && statusIs (exec (.coreReconfig 0 5#16) { idle with cores := {} }) 0 0 (fun t => t.cores.map = [])) = true := by decide +kernel

/-- A manifest (R367): six components of 16 bytes behind it and its signature, one tested stepping, one interface. -/
def manifestOf (hash : Bytes) : Bytes :=
  [1#8, 6#8, 1#8, 1#8] ++ le 4 432 ++ le 8 0x77 ++ le 4 2 ++ le 4 0x1000 ++ le 2 64 ++ zeros 6
    ++ (List.range 6).flatMap (fun i => le 2 (i + 1) ++ zeros 6 ++ le 4 (528 + 16 * i) ++ le 4 16 ++ hash) ++ zeros 8 ++ [0#8, 1#8, 2#8, 0#8] ++ zeros 4

def manifest : Bytes := manifestOf (zeros 48)

/-- A bundle of components of zeros. -/
def bundle : Bytes := manifestOf (sha384 (zeros 16)) ++ zeros 192

def updating : State := { mb with host := mwrite [] 0x70000 manifest }

theorem test_manifest :
    (bundleCheck updating manifest true = none && mfSvn manifest = 2 && bundleCheck { updating with part := { svnMin := 3 } } manifest true = some (0x82, 0)
      && bundleCheck updating manifest false = some (0x80, 0)) = true := by decide +kernel

theorem test_fw_update_meets : (match mailHostRead updating {} 0 0x70000 432 with
    | (m, none) => decide (m = manifest)
    | _ => false) = true := by decide +kernel

theorem test_fw_update :
    statusIs (exec (.fwUpdate 0 5#16 0x70000#64 432#32 1#8 true {}) updating) 0 0 (fun t => t.dbx.update =
      some { step := 2, target := 1, activate := true, source := .host 0 0x70000, len := 432, bver := 0x77#64 }) = true := by
  decide +kernel

/-- In a step of an update of slot 1 from host memory. -/
def inUpdate (step : Nat) (slot : Slot := {}) : State :=
  { mb with host := mwrite [] 0x70000 (manifest.take 64)
            dbx := { mb.dbx with slots := [(1, slot)], nextBoot := 1
                                 update := some { step, target := 1, activate := true, source := .host 0 0x70000, len := 64, bver := 0x77#64 } } }

/-- Step 2 marks the slot and leaves it as next-boot slot no more; step 3 erases it, step 4 writes it. -/
theorem test_fw_writes :
    (nextIs (exec (.fwUpdateStepDone {}) (inUpdate 2)) (fun t => t.dbx.update.map (·.step) = some 3 && (tget {} t.dbx.slots 1).state = 2 && t.dbx.nextBoot = 0)
      && nextIs (exec (.fwUpdateStepDone {}) (inUpdate 3 { state := 2 })) (fun t => tget {} t.dbx.slots 1 = { state := 2, image := some [] })
      && nextIs (exec (.fwUpdateStepDone {}) (inUpdate 4 { state := 2 })) (fun t => (tget {} t.dbx.slots 1).image = some (manifest.take 64)
        && (tget {} t.dbx.slots 1).svn = 2 && t.dbx.update.map (·.step) = some 5)) = true := by decide +kernel

/-- Step 5 checks what the slot holds, step 6 makes it valid; a step that fails leaves it invalid. -/
theorem test_fw_steps :
    (bundleCheck mb bundle true = none && nextIs (exec (.fwUpdateStepDone {}) (inUpdate 5 { state := 2, image := some bundle })) (fun t => t.dbx.update.map (·.step) = some 6)
      && nextIs (exec (.fwUpdateStepDone { signed := false }) (inUpdate 5 { state := 2, image := some bundle })) (fun t => t.dbx.update = none && t.dbx.lastXstatus = 5)
      && nextIs (exec (.fwUpdateStepDone {}) (inUpdate 6 { state := 2 })) (fun t => t.dbx.update = none && (tget {} t.dbx.slots 1).state = 1 && t.dbx.nextBoot = 1)
      && nextIs (exec (.fwUpdateStepDone { failed := true }) (inUpdate 3)) (fun t => t.dbx.update = none && (tget {} t.dbx.slots 1).state = 0 && t.dbx.lastXstatus = 3)) = true := by
  decide +kernel

def twoSlots : State := { mb with dbx := { mb.dbx with slots := [(0, { state := 1, svn := 4 }), (1, { state := 1, svn := 5 })] }, part := { svnMin := 3 } }

theorem test_fw_activate : statusIs (exec (.fwActivate 0 5#16 1#8) twoSlots) 0 0 (fun t => t.dbx.nextBoot = 1) = true := by decide +kernel
theorem test_svn_commit : statusIs (exec (.svnCommit 0 5#16) twoSlots) 0 0 (fun t => t.part.svnMin = 4) = true := by decide +kernel

/-! ### Power and resets -/

/-- The module before its first power-on, and the same in another phase. -/
def off (ph : Phase) (c : Nat) : State := { State.reset with power := { State.reset.power with phase := ph, cause := c } }

/-- With as many free candidates as numbers, every number is bound (R342). -/
theorem bindNumbers_binds (l : Nat) : ∀ (ls : List Nat) (m : Tbl (Option Nat)) (free : List Nat), free.Nodup → ls.length ≤ free.length →
    l ∈ ls ∨ (tget none m l).isSome → (tget none (bindNumbers (fun _ => none) ls (m, free)).1 l).isSome
  | [], _, _, _, _, h => by simpa [bindNumbers] using h
  | a :: ls, m, [], _, hl, _ => by simp at hl
  | a :: ls, m, x :: free, hn, hl, h => by
    have hx : (x :: free).filter (fun y => y ≠ x) = free := by
      rw [List.filter_cons_of_neg (by simp), List.filter_eq_self]
      exact fun y hy => decide_eq_true fun e : y = x => (List.nodup_cons.mp hn).1 (e ▸ hy)
    simp only [bindNumbers, List.head?_cons, hx]
    refine bindNumbers_binds l ls _ free (List.nodup_cons.mp hn).2 (by simpa using hl) ?_
    rw [tget_tset]
    by_cases e : l = a
    · exact .inr (by simp [e])
    · exact h.imp (fun h => (List.mem_cons.mp h).resolve_left e) (fun h => by simpa [e] using h)

theorem all_candidates : (List.range 544).filter (candidate State.reset {}) = List.range 544 := List.filter_eq_self.mpr fun _ _ => rfl

theorem holesOf_full {good : List Nat} (hn : good.Nodup) (hl : 512 ≤ good.length) : holesOf (buildMap none good) = 0 := by
  unfold holesOf
  rw [List.filter_eq_nil_iff.mpr, List.length_nil]
  intro l hm
  have := bindNumbers_binds l (List.range 512) [] good hn (by simpa using hl) (.inl hm)
  unfold buildMap
  simp [Option.isSome_iff_ne_none.mp this]

theorem test_holes : holesOf (buildMap none ((List.range 544).filter (candidate State.reset {}))) = 0 := by
  rw [all_candidates]
  exact holesOf_full List.nodup_range (by rw [List.length_range]; decide)

theorem test_channels : (List.range 16).all (fun k => decide (32 ≤ (trainedChannels {} k).length)) = true := by decide +kernel

theorem test_fault_free (ph : Phase) (c mv : Nat) (h : 46000 ≤ mv ∧ mv ≤ 59500) : Claims.faultFree (off ph c) { inputMv := mv } :=
  ⟨h.1, h.2, rfl, rfl, rfl, rfl, rfl, rfl, rfl, rfl, by rw [show buildMap (off ph c).cores.recorded (Claims.coldGood (off ph c) { inputMv := mv })
    = buildMap none ((List.range 544).filter (candidate State.reset {})) from rfl, test_holes]; decide,
    fun k h => show 32 ≤ (trainedChannels {} k).length from of_decide_eq_true (List.all_eq_true.mp test_channels k (List.mem_range.mpr h)), rfl⟩

/-- Both ends of the voltage range (R337), and the states each command starts the sequence from. -/
theorem test_power_starts : Claims.faultFree (off .off 0) { inputMv := 46000 } ∧ Claims.faultFree (off .tripped 0) { inputMv := 59500 }
    ∧ (off .off 0).power.pwrEn = true ∧ (off .tripped 0).power.phase = .tripped ∧ (off .ready 0).power.phase = .ready
    ∧ Claims.faultFree { off .tripped 0 with dbx := { (off .tripped 0).dbx with resetDue := some 0 } } { inputMv := 59500 } :=
  ⟨test_fault_free _ _ _ (by decide), test_fault_free _ _ _ (by decide), rfl, rfl, rfl, test_fault_free .tripped 0 59500 (by decide)⟩

/-- A warm reset of the small module binds every number. -/
theorem test_warm_meets : holesOf (buildMap base.cores.recorded ((List.range 544).filter (candidate base {}))) ≤ 63 := by
  rw [show buildMap base.cores.recorded ((List.range 544).filter (candidate base {})) = buildMap none ((List.range 544).filter (candidate State.reset {})) from rfl,
    test_holes]; decide

theorem test_trips :
    (nextIs (exec (.brownOutTrip 41000) base) (fun t => t.power.phase = .off && t.power.cause = 2 && t.q.ops = [] && t.dbx.logHeld.map (·.code) = [2])
      && nextIs (exec (.overvoltageTrip 60100) base) (fun t => t.power.cause = 3 && t.dbx.logHeld.map (·.code) = [3])
      && nextIs (exec (.bladeWithdrawal 0) base) (fun t => t.power.cause = 1 && !t.power.pwrEn)) = true := by decide +kernel

/-- In the tripped state the cycle of the input power is the trip's (R334). -/
theorem test_trip_tripped :
    nextIs (exec (.brownOutTrip 41000) { base with power := { base.power with phase := .tripped } }) (fun t => t.power.phase = .off && t.power.cause = 4) = true := by
  decide +kernel

def bootWaiting : State :=
  { base with power := { base.power with phase := .bootWait, ready := false }, fab := { change := some { op := none, epoch := 1, fence := [], isFence := false, draining := false } } }

theorem test_boot_wait : nextIs (exec .bootWaitExpiry bootWaiting) (fun t => t.power.ready && t.power.step = 13 && t.fab.change = none) = true := by decide +kernel

theorem test_fabric_reset : nextIs (exec (.fabricReset {}) { base with fab := { active := some plain, epoch := 7 } }) (fun t => t.fab.epoch = 0 && t.fab.active = none) = true := by
  decide +kernel

/-- Absorbed while step 12 of one waits; in deterministic mode f starts at the floor. -/
theorem test_fabric_reset_det :
    (nextIs (exec (.fabricReset {}) { base with fab := { epoch := 7, change := some { op := none, epoch := 1, fence := [], isFence := false, draining := false } } })
        (fun t => t.fab.epoch = 7)
      && nextIs (exec (.fabricReset {}) { base with kt := { det := true, f := 200 } }) (fun t => t.kt.f = floorLevel base)) = true := by decide +kernel

theorem test_compute_reset :
    nextIs (exec .computeReset (onCore (desc 0 0 []) square2)) (fun t => t.cores.sram = [] && t.q.windows = [] && t.power = base.power) = true := by decide +kernel

/-! ### Function and port resets -/

def vf : State :=
  let s := withOp 0 (desc 0 0 [])
  { s with fns := [(1, { drvWritten := true, accepted := true, d3hot := true })], parts := [(0, { getPart s 0 with owner := 1 })]
           dram := { s.dram with cells := [(cellKey 1 0, 7#8)] } }

theorem test_flr :
    (fnExists vf 1 && !isPf 1 && ownedPart vf 1 = some 0 && (getFn vf 1).d3hot
      && nextIs (exec (.functionLevelReset 1) vf) (fun t => (getFn t 1).flrValid && (getFn t 1).flrPart = 0 && (getFn t 1).flrOps = 1 && t.q.ops = [] && t.dram.cells = []
        && (getFn t 1).irqMask = 0x7F#32)
      && nextIs (exec (.d3hotReturn 1) vf) (fun t => !(getFn t 1).d3hot && !(getFn t 1).accepted && t.q.ops = [])) = true := by decide +kernel

theorem test_flr_no_part : nextIs (exec (.functionLevelReset 2) vf) (fun t => (getFn t 2).flrNoPart && t.q.ops = vf.q.ops) = true := by decide +kernel

/-- The reset of a PF resets the VFs of its port, which are then off; they are reset by PERST_N too when the port is down. -/
theorem test_flr_pf :
    (nextIs (exec (.functionLevelReset 0) vf) (fun t => (getPort t 0).vfs = 0 && (getFn t 1).flrValid && !(getFn t 1).accepted && t.q.ops = [])
      && nextIs (exec (.perstAssert 0) { vf with ports := [(0, { up := false, vfsLost := 7 })] }) (fun t => (getFn t 1).flrValid && !(getFn t 1).accepted
        && t.q.ops = [])) = true := by decide +kernel

theorem test_d3hot_entry : nextIs (exec (.d3hotEntry 1) base) (fun t => (getFn t 1).d3hot && t.parts = base.parts) = true := by decide +kernel

theorem test_port_down : (decide (0 < portCount base) && nextIs (exec (.portDlDown 0) base) (fun t => !(getPort t 0).up && (getPart t 0).held)) = true := by decide +kernel

def held0 : State := { vf with parts := [(0, { getPart vf 0 with held := true })] }

theorem test_hold_expiry :
    (partEnabled held0 0 && fnPort (getPart held0 0).owner = 0 && nextIs (exec (.portHoldExpiry 0) held0) (fun t => !(getPart t 0).held && t.q.ops = [] && t.dram.cells = [])) = true := by
  decide +kernel

theorem test_hold_expiry_early :
    isNext (exec (.portHoldExpiry 0) { held0 with power := { held0.power with ready := false } }) { held0 with power := { held0.power with ready := false } } = true := by
  decide +kernel

theorem test_perst :
    (nextIs (exec (.perstAssert 0) base) (fun t => t.power.perst0 && !(getPort t 0).up)
      && nextIs (exec (.perstDeassert 0) { base with ports := [], power := { base.power with perst0 := true } }) (fun t => !t.power.perst0 && (getPort t 0).up)
      && nextIs (exec (.portLinkUp 0) { base with ports := [] }) (fun t => (getPort t 0).up)) = true := by decide +kernel

/-- A handover to function 8 of the other port. -/
def handed : State := { held0 with power := { base.power with x8x8 := true }, parts := [(0, { getPart held0 0 with hand := some { ep := 0, tag := 0#16, newFn := 8, record := 0, image := [] } })] }

/-- The handover ends with its new owner's port; a hold's expiry leaves a partition that a handover moves (R137). -/
theorem test_port_hand :
    (decide (1 < portCount handed) && nextIs (exec (.portDlDown 1) { handed with ports := [(0, { up := true }), (1, { up := true })] }) (fun t => (getPart t 0).hand = none)
      && nextIs (exec (.portHoldExpiry 0) handed) (fun t => getPart t 0 = getPart handed 0)) = true := by decide +kernel

/-- A held partition's status block reports STATE 3 as the link is back (R116). -/
theorem test_link_up_status :
    nextIs (exec (.portLinkUp 0) { held0 with ports := [] }) (fun t => mread t.host (hostKey 0 (0x10000 + 64 * 64)) 5 = zeros 4 ++ [3#8]) = true := by
  decide +kernel

/-! ### Core faults -/

theorem test_core_failure :
    (coreServes base 0 && nextIs (exec (.coreFailure 0) (withOp 0 (desc 0 0 []))) (fun t => (getCore t 0).stopped && t.q.ops.map (·.phase) = [.stopped])
      && nextIs (exec (.coreAckTimeout 1) base) (fun t => (getCore t 1).stopped && !(getCore t 0).stopped)) = true := by decide +kernel

/-- Core 0 is stopped; the spares 20, of domain 1, and 3, of its own domain 0. -/
def broken (good : List Nat) : State :=
  { base with cores := { base.cores with regs := [(0, { stopped := true })], good }, q := { base.q with windows := [(0, { replayable := false })] } }

theorem test_rebind :
    (nearestFree (freeSpares (broken [0, 1, 20, 3])) (domainOf 0) = some 3 && nextIs (exec (.coreRebind 0 {}) (broken [0, 1, 20, 3])) (fun t => corePhys t 0 = some 3
        && !(getCore t 0).stopped && (getWindow t 0).untrusted && corePhys t 1 = some 1)
      && nearestFree (freeSpares (broken [0, 1])) 0 = none && nextIs (exec (.coreRebind 0 {}) (broken [0, 1])) (fun t => corePhys t 0 = none)) = true := by decide +kernel

/-- A hole's operations complete NO_RESOURCE; a replayable window's operations run again on the spare: TIMESTAMP writes its TICK. -/
theorem test_rebind_hole :
    (let s : State := { withOp 0 (desc 0 0 []) with cores := (broken [0, 1]).cores, q := (withOp 0 (desc 0 0 [])).q }
     nextIs (exec (.coreRebind 0 {}) s) (fun t => t.q.ops = [] && (getEvt t 1).poison
      && mread t.host (hostKey 0 0x30000) 16 = completionRecord (desc 0 0 []) 0 stNoRes 2 0)) = true := by decide +kernel

theorem test_rebind_replays :
    (let w : Window := { entries := [{ op := 3, ring := 0, pos := 0, desc := desc 3 0 (le 8 (ref true 0 8)), part := 0, latches := [], status := some stOk, tick := 0x0102030405060708#64 }] }
     let s : State := { broken [0, 1, 20, 3] with q := { base.q with windows := [(0, w)] } }
     (Claims.rebuilt 0 {} w.entries s).isSome && nextIs (exec (.coreRebind 0 {}) s) (fun t => !(getWindow t 0).untrusted
      && mread t.cores.sram 8 8 = [8#8, 7#8, 6#8, 5#8, 4#8, 3#8, 2#8, 1#8])) = true := by decide +kernel

theorem test_double_bit :
    (nextIs (exec (.sramDoubleBitError 0 9 {}) base) (fun t => (getWindow t 0).dbeWords = [9] && !(getCore t 0).stopped)
      && nextIs (exec (.sramDoubleBitError 0 9 {}) { base with q := { base.q with windows := [(0, { dbeWords := [9] })] } }) (fun t => (getCore t 0).stopped)) = true := by
  decide +kernel

/-! ### Memory repair -/

/-- Channel 511 of stack 15, marked, with a spare physical channel 33. -/
def marked (spares : List Nat) : State := { base with dram := { base.dram with repairs := [511], spares := [(15, spares)] } }

theorem test_repair_mark : isNext (exec (.channelRepairMark 511 .laneFault) base) { base with dram := { base.dram with repairs := [511] } } = true := by decide +kernel

theorem test_migration_start :
    (firstMarked (marked [33]) 15 = some 511 && stackMigration (marked [33]) 15 = none && nextIs (exec (.liveMigrationStart 511) (marked [33])) (fun t =>
      (getChannel t 511).state = 1 && (stackMigration t 15).map (·.newPhys) = some 33 && tget [] t.dram.spares 15 = [] && t.dram.repairs = [])) = true := by decide +kernel

def migrating : State := { base with dram := { base.dram with migrations := [(15, { channel := 511, oldPhys := 31, newPhys := 33 })] } }

theorem test_migration_switch :
    (nextIs (exec (.migrationSwitch 511 ⟨false, {}⟩) migrating) (fun t => (getChannel t 511).phys = 33 && t.dram.offline = [541] && stackMigration t 15 = none)
      && nextIs (exec (.migrationSwitch 511 ⟨true, {}⟩) migrating) (fun t => t.dram.failed = [543] && t.dram.repairs = [511])
      && nextIs (exec (.migrationSwitch 511 ⟨true, {}⟩) { migrating with dram := { migrating.dram with spares := [(15, [32])] } })
        (fun t => (getChannel t 511).state = 1 && (stackMigration t 15).map (·.newPhys) = some 32)) = true := by decide +kernel

/-- While the Drabex restarts no migration starts (R349). -/
theorem test_migration_waits :
    nextIs (exec (.migrationSwitch 511 ⟨true, {}⟩) { migrating with dram := { migrating.dram with spares := [(15, [32])] }, power := { base.power with drabexUp := false } })
      (fun t => (getChannel t 511).state = 0 && t.dram.repairs = [511] && t.dram.migrations.all (fun m => m.1 ≠ 15)) = true := by decide +kernel

def retraining : State := { base with dram := { base.dram with offline := [541] } }

theorem test_offline :
    (nextIs (exec (.offlineRetrainDone 15 31 true) retraining) (fun t => tget [] t.dram.spares 15 = [31] && t.dram.offline = [])
      && nextIs (exec (.offlineRetrainDone 15 31 false) retraining) (fun t => t.dram.failed = [541] && t.dram.pendingRecs = [.physFailed 541])) = true := by decide +kernel

theorem test_in_place :
    (nextIs (exec (.inPlaceRetrain 511 true) (marked [])) (fun t => (getChannel t 511).state = 0 && t.dram.repairs = [])
      && nextIs (exec (.inPlaceRetrain 511 false) (marked [])) (fun t => (getChannel t 511).state = 3 && t.dram.capacity && t.dram.pendingRecs = [.channelFailed 511])) = true := by
  decide +kernel

theorem test_scrub :
    ((getRegion base 0).enable && decide (16383 * 1024 < (getRegion base 0).size * unit16) && isNext (exec (.patrolScrub 0 16383 7 {}) base) (readBlock base {} 0 131071).1) = true := by
  decide +kernel

def combining : State := { base with dram := { base.dram with wc := [(3, [{ rid := 0, blk := 5, mask := 1#128 }])] } }

/-- The entry goes, and the check bytes of its data enter the buffer; in a failed channel it stays and the channel is marked. -/
theorem test_flush :
    (!writeLost combining {} 3 { rid := 0, blk := 5, mask := 1#128 }
      && nextIs (exec (.wcEntryFlush 3 0 {}) combining) (fun t => (tget [] t.dram.wc 3).filter (fun x => !x.check) = [])
      && nextIs (exec (.wcEntryFlush 3 0 {}) { combining with dram := { combining.dram with wc := [(3, [{ rid := 0, blk := 5, mask := 1#128, check := true }])] } })
        (fun t => tget [] t.dram.wc 3 = [])) = true := by decide +kernel

/-- An entry of a channel that has failed is not sent. -/
theorem test_flush_lost :
    nextIs (exec (.wcEntryFlush 3 0 {}) { combining with dram := { combining.dram with channels := [(3, { getChannel combining 3 with state := 3 })] } })
      (fun t => (tget [] t.dram.wc 3).length = 1) = true := by decide +kernel

theorem test_record_write :
    nextIs (exec .repairRecordWrite { base with dram := { base.dram with pendingRecs := [.lateFailure 9 2, .physFailed 1] } }) (fun t =>
      t.dbx.flashRecs.map (fun x => (x.rcd, x.crc, x.prev)) = [(.lateFailure 9 2, recCrc (.lateFailure 9 2), none)] && t.dram.pendingRecs = [.physFailed 1] && tget 0 t.cores.late 9 = 2) = true := by decide +kernel

/-- The flash keeps the copy that a record replaces (R358). -/
theorem test_record_previous :
    nextIs (exec .repairRecordWrite { base with dram := { base.dram with pendingRecs := [.lateFailure 9 2] }
                                                dbx := { base.dbx with flashRecs := [{ rcd := .lateFailure 9 1, crc := recCrc (.lateFailure 9 1) }] } })
      (fun t => t.dbx.flashRecs.map (·.prev) = [some (.lateFailure 9 1, recCrc (.lateFailure 9 1))]) = true := by decide +kernel

/-! ### Packets and express paths -/

/-- A one-packet message for this module, x = 1, from x = 3, on VC1, without payload. -/
def packet (kind : Nat) : Bytes :=
  let b := [1#8, 0x31#8] ++ le 2 0 ++ le 4 1 ++ le 4 3 ++ le 2 0 ++ le 1 kind ++ [0#8] ++ le 4 5 ++ zeros 8
  b ++ le 4 (crc32c b).toNat

def planned (launch express : List Nat) : State := { base with fab := { active := some (planImage launch express) } }

theorem test_packet_form : malformed (planned [] []) (packet 2) = false := by decide +kernel

theorem test_packet :
    (bankFor (planned [] []) 0 = some plain && pktDst (packet 2) = planMyCoord plain && pktFirst (packet 2) && pktLast (packet 2) && !pktMcast (packet 2)
      && nextIs (exec (.packetReceive ⟨0, 0⟩ (packet 2)) (planned [] [])) (fun t => t.fab.delivered = [{ vc := 1, kind := 2, src := 3, bytes := [] }])) = true := by decide +kernel

theorem test_packet_malformed :
    nextIs (exec (.packetReceive ⟨0, 0⟩ (2#8 :: (packet 2).drop 1)) (planned [] [])) (fun t => t.fab.discHdr = 1 && t.fab.delivered = []) = true := by decide +kernel

/-- A packet for x = 0 goes on at port 6; one whose source is fenced is discarded. -/
def passing : Bytes :=
  let b := [1#8, 0x31#8] ++ le 2 0 ++ le 4 0 ++ le 4 3 ++ le 2 0 ++ [2#8, 0#8] ++ le 4 5 ++ zeros 8
  b ++ le 4 (crc32c b).toNat

theorem test_packet_onward :
    (!malformed (planned [] []) passing && nextIs (exec (.packetReceive ⟨0, 0⟩ passing) (planned [] [])) (fun t =>
        (tget [] t.fab.txq (vcKey 6 0 1)).map (·.via) = [some ⟨0, 0⟩])
      && nextIs (exec (.packetReceive ⟨0, 0⟩ (packet 2)) { planned [] [] with fab := { active := some plain, fence := [3] } }) (fun t =>
        t.fab.discRoute = 1 && t.fab.delivered = [])) = true := by decide +kernel

/-- Port 0 is up with its eight lanes, a VC1 packet of 32 bytes waits at its neighbour link. -/
def linked (launch express : List Nat) : State :=
  { planned launch express with
    links := { ports := [(0, { state := .up, loop := true, heard := true }), (6, { state := .up, loop := true, heard := true })]
               segs := [(segKey ⟨0, 0⟩, { mask16 := 0xFF#8, ready := true }), (segKey ⟨0, 5⟩, { mask16 := 0xFF#8, ready := true })] } }

def queued : State :=
  let s := linked [] []
  { s with fab := { s.fab with txq := [(vcKey 0 0 1, [{ bytes := packet 2, need := 1 }])] } }

theorem test_transmit :
    ((headReady queued ⟨0, 0⟩ 1).isSome && !vc0Ready queued 0 && (takeTurn queued 0 5 (tget {} queued.fab.rounds 0)).any (fun r => r.turn = 1 && decide (1 ≤ tget 0 r.left 1)) && nextIs (exec (.packetTransmit ⟨0, 0⟩ ⟨1, 2⟩) queued) (fun t =>
      tget [] t.fab.txq (vcKey 0 0 1) = [] && tget 0 t.fab.spent (vcKey 0 0 1) = 1)) = true := by decide +kernel

/-- A VC0 packet goes before it; flits that it left behind go first once VC0 has nothing to send (R268). -/
def behind : State := { queued with fab := { queued.fab with txq := [(vcKey 0 0 0, [{ bytes := packet 2, need := 1 }]), (vcKey 0 0 1, [{ bytes := packet 2, need := 1 }])] } }

theorem test_transmit_order :
    (vc0Ready behind 0 && isNext (exec (.packetTransmit ⟨0, 0⟩ ⟨1, 2⟩) behind) behind
      && nextIs (exec (.packetTransmit ⟨0, 0⟩ ⟨0, 2⟩) behind) (fun t => tget [] t.fab.txq (vcKey 0 0 0) = [])
      && nextIs (exec (.packetTransmit ⟨0, 0⟩ ⟨1, 1⟩) { queued with fab := { queued.fab with cut := [(vcKey 0 0 1, { flits := [(zeros 256, 256, []), (zeros 256, 256, [])] })] } })
        (fun t => (tget {} t.fab.cut (vcKey 0 0 1)).flits.length = 1 && t.fab.txq = queued.fab.txq)) = true := by decide +kernel

def spent : State :=
  let s := linked [] []
  { s with fab := { s.fab with spent := [(vcKey 0 0 1, 3)] } }

theorem test_credit :
    (tagOk (relayTag 0 0 2 (1 * 2 ^ 9 + 3)) && nextIs (exec (.creditReturn 0 (relayTag 0 0 2 (1 * 2 ^ 9 + 3))) spent) (fun t => tget 0 t.fab.spent (vcKey 0 0 1) = 0)) = true := by
  decide +kernel

/-- Express path 5: in at port 6, out at port 0; and its launch at port 0, two hops in x+. -/
def through : List Nat := [5 * 2 ^ 52 + 6 * 2 ^ 48 + 0 * 2 ^ 44]
def launching : List Nat := [5 * 2 ^ 52 + 0 * 2 ^ 48 + 2 * 2 ^ 45 + 0x7FC0 * 2 ^ 30]

def expTag : BitVec 64 := mkTag 1 5 1 2 4 0 0

theorem test_announce :
    (tagOk expTag && (expressEntry (linked [] through) 0 5 6).map (·.out) = some 0 && !vc0Pending (linked [] through) 0
      && nextIs (exec (.expressAnnounce 6 expTag) (linked [] through)) (fun t => getSwitch t 0 = .reserved 5 1 6 0 && t.links.wire = [.tag 0 (mkTag 1 5 1 1 4 0 0)])) = true := by
  decide +kernel

/-- Path 5 ends here in place of passing. -/
def ending : List Nat := [5 * 2 ^ 52 + 6 * 2 ^ 48 + 15 * 2 ^ 44]

theorem test_announce_ends :
    ((expressEntry (linked [] ending) 0 5 6).map (·.out) = some 15
      && nextIs (exec (.expressAnnounce 6 expTag) (linked [] ending)) (fun t => tget 0 t.fab.incoming (6 * 4096 + 5) = 4)
      && nextIs (exec (.expressEnd 6 (relayTag 5 0 3 0)) { linked [] ending with fab := { (linked [] ending).fab with incoming := [(6 * 4096 + 5, 4)] } })
        (fun t => tget 0 t.fab.incoming (6 * 4096 + 5) = 0)) = true := by decide +kernel

def switched (w : Switch) : State := { linked [] through with fab := { (linked [] through).fab with switches := [(0, w)] } }

/-- No hops left, a bad CRC8, and a busy output: absorbed and counted. VC0 takes a reservation of another VC (R272). -/
theorem test_announce_absorbed :
    (nextIs (exec (.expressAnnounce 6 (mkTag 1 5 1 0 4 0 0)) (linked [] through)) (fun t => t.fab.discExp = 1 && t.fab.switches = [])
      && !tagOk (expTag ^^^ 1#64) && nextIs (exec (.expressAnnounce 6 (expTag ^^^ 1#64)) (linked [] through)) (fun t => t.fab.discExp = 1)
      && nextIs (exec (.expressAnnounce 6 expTag) (switched (.reserved 7 0 3 0))) (fun t => t.fab.discExp = 1 && getSwitch t 0 = .reserved 7 0 3 0 && t.links.wire.length = 1)
      && nextIs (exec (.expressAnnounce 6 (mkTag 1 5 0 2 4 0 0)) (switched (.reserved 7 1 3 0))) (fun t => getSwitch t 0 = .reserved 5 0 6 0)) = true := by decide +kernel

/-- With no plan a tag passes straight across, unread (R257). -/
theorem test_straight :
    (straight base 5 && nextIs (exec (.expressAnnounce 3 (relayTag 5 0 0 0)) base) (fun t => t.links.wire = [.tag 9 (relayTag 5 0 0 0)])) = true := by decide +kernel

theorem test_busy :
    ((launchOf (linked launching []) 0 ⟨0, 5⟩).isSome && nextIs (exec (.expressBusy 0 (mkTag 2 5 1 0 4 0 0)) (linked launching [])) (fun t =>
      t.fab.busy = [vcKey 0 5 1])) = true := by decide +kernel

def refused : State :=
  let s := linked launching []
  { s with fab := { s.fab with busy := [vcKey 0 5 1] } }

theorem test_retry : (!(laneSet refused ⟨0, 5⟩).isEmpty && nextIs (exec (.expressRetry ⟨0, 5⟩ 1) refused) (fun t => t.fab.busy = [])) = true := by decide +kernel

/-- A retry of VC1 waits behind a VC0 packet: its flits are due, none goes out. -/
theorem test_retry_waits :
    (let g := ⟨0, 5⟩
     let s : State := { refused with
      fab := { refused.fab with txq := [(vcKey 0 0 0, [{ bytes := packet 2, need := 1 }])] }
      links := { refused.links with segs := [(segKey ⟨0, 0⟩, { mask16 := 0xFF#8, ready := true }), (segKey g, { mask16 := 0xFF#8, ready := true, kept := [{ seq := 3, vc := 1, lane := 0, body := zeros 256, poff := 256 }] })] } }
     vc0Ready s 0 && portSends s g && nextIs (exec (.expressRetry g 1) s) (fun t => t.links.wire = [] && (getSeg t g).due = [3])) = true := by decide +kernel

def carrying : State :=
  let s := linked [] through
  { s with fab := { s.fab with switches := [(0, .carrying 5 1 6 0)] } }

theorem test_express_end : nextIs (exec (.expressEnd 6 (relayTag 5 0 3 0)) carrying) (fun t => getSwitch t 0 = .free) = true := by decide +kernel

theorem test_keepalive_meets :
    ((launchOf (linked launching []) 0 ⟨0, 5⟩).isSome && (getLink (linked launching []) 0).state = .up && getSwitch (linked launching []) 0 = .free) = true := by decide +kernel

theorem test_relay_back :
    nextIs (exec (.reverseRelayFrame 0 (relayTag 5 0 0 77)) (linked [] through)) (fun t => t.links.wire = [.tag 6 (relayTag 5 0 0 77)]) = true := by decide +kernel

def changing : State := { planned [] [] with fab := { active := some plain, staged := some plain, epoch := 1
                                                      change := some { op := none, epoch := 2, fence := [], isFence := false, draining := true } } }

theorem test_epoch_switch :
    (nextIs (exec .epochSwitch changing) (fun t => t.fab.epoch = 2 && t.fab.prevEpoch = 1 && t.fab.prevKept && t.fab.staged = none)
      && nextIs (exec .previousBankRetire { base with fab := { prevKept := true, previous := some plain } }) (fun t => !t.fab.prevKept && t.fab.previous = none)) = true := by
  decide +kernel

/-- The record of the neighbour in x+, x = 2, which it sends on its port 6. -/
def neighbour : Bytes :=
  let b := [1#8, 6#8, 1#8, 1#8] ++ le 4 2 ++ zeros 8 ++ le 8 99 ++ zeros 8 ++ zeros 28
  b ++ le 4 (crc32c b).toNat

theorem test_neighbour :
    (recordOk neighbour && nextIs (exec (.identityRecordReceive 0 neighbour) (linked [] [])) (fun t => (tget {} t.fab.nbrs 0).agreed && (tget {} t.fab.nbrs 0).coord = 2)
      && nextIs (exec (.neighbourRecordTimeout 0) { base with fab := { nbrs := [(0, { seen := true, coord := 2 })] } }) (fun t => !(tget {} t.fab.nbrs 0).seen)) = true := by
  decide +kernel

theorem test_link_down :
    nextIs (exec (.fabLinkDown 0) queued) (fun t => (getSeg t ⟨0, 0⟩).down && (getLink t 0).state = .probe && tget [] t.fab.txq (vcKey 0 0 1) = []) = true := by decide +kernel

theorem test_route_fault :
    (nextIs (exec (.routeFaultNotice 0x40003#32) (planned [] [])) (fun t => t.fab.pendRev = [3 * 4 + 1] && t.fab.reversed = [3 * 4 + 1])
      && nextIs (exec (.routeFaultNotice 0x40003#32) { base with fab := { reversed := [13] } }) (fun t => t.fab.pendRev = [])) = true := by decide +kernel

/-- A notice with a reserved bit set is discarded and counted. -/
theorem test_route_fault_reserved :
    nextIs (exec (.routeFaultNotice 0x240003#32) (planned [] [])) (fun t => t.fab.discHdr = 1 && t.fab.reversed = []) = true := by decide +kernel

/-! ### Links and light -/

/-- A slot without light. -/
def dark : Light := { mode := 1, symbols := [] }

/-- A flit on its switch goes on; onto a port that is not UP it is lost, and one that no announce brought is absorbed (R293, R260). -/
theorem test_flit_through :
    (switchOf carrying 5 6 = some 0 && nextIs (exec (.flitReceive ⟨6, 5⟩ 2 1 dark) carrying) (fun t => t.links.wire = [.flit 0 5 2 1 dark])
      && nextIs (exec (.flitReceive ⟨6, 5⟩ 2 1 dark) { carrying with links := { carrying.links with ports := [(6, { state := .up, loop := true, heard := true })] } })
        (fun t => t.links.wire = [])
      && nextIs (exec (.flitReceive ⟨6, 5⟩ 2 1 dark) (linked [] through)) (fun t => t.links.wire = [] && t.links.segs.length = 2)
      && nextIs (exec (.flitReceive ⟨3, 5⟩ 2 1 dark) base) (fun t => t.links.wire = [.flit 9 5 2 1 dark])) = true := by decide +kernel

/-- A flit of the segment that ends here is counted off its announce, also where it is damaged. -/
theorem test_flit_counted :
    nextIs (exec (.flitReceive ⟨6, 5⟩ 2 1 dark) { linked [] ending with fab := { (linked [] ending).fab with incoming := [(segKey ⟨6, 5⟩, 4)] } })
      (fun t => tget 0 t.fab.incoming (segKey ⟨6, 5⟩) = 3) = true := by decide +kernel

theorem test_flit_damaged : (decodeSlot (lightSlot 1 dark) = none ∧ isNext (exec (.flitReceive ⟨0, 0⟩ 0 1 dark) (linked [] [])) (linked [] []) = true) := by decide +kernel

/-- Three data flits are kept; an ACK of SEQ 8 frees those up to it. -/
def kept (replays : Nat) : State :=
  let s := linked [] []
  let flits : List KeptFlit := [⟨7, 0, 1, zeros 256, 256, replays, 0, []⟩, ⟨8, 1, 1, zeros 256, 256, replays, 0, []⟩, ⟨9, 2, 1, zeros 256, 256, replays, 0, []⟩]
  { s with links := { s.links with segs := [(segKey ⟨0, 0⟩, { mask16 := 0xFF#8, ready := true, nextSeq := 10, kept := flits })] } }

theorem test_ack_flits :
    (relayFor (kept 0) 0 (relayTag 0 0 0 8) 0 = some ⟨0, 0⟩ && nextIs (exec (.relayAck 0 (relayTag 0 0 0 8)) (kept 0)) (fun t =>
      (getSeg t ⟨0, 0⟩).kept.map (·.seq) = [9])) = true := by decide +kernel

theorem test_replay_meets :
    (relayFor (kept 2) 0 (relayTag 0 0 1 7) 1 = some ⟨0, 0⟩ && ((getSeg (kept 2) ⟨0, 0⟩).kept.find? (fun x => x.seq = 7)).map (·.replays) = some 2
      && (laneSet (kept 2) ⟨0, 0⟩).contains 0) = true := by decide +kernel

theorem test_lanes_frame :
    (relayFor (linked [] []) 0 (relayTag 0 0 5 0xFF) 5 = some ⟨0, 0⟩ && nextIs (exec (.lanesFrame 0 (relayTag 0 0 5 (2 ^ 10 + 0x0F))) (linked [] [])) (fun t =>
      (getSeg t ⟨0, 0⟩).maskQ = 0x0F#8 && (getSeg t ⟨0, 0⟩).mask16 = 0xFF#8)) = true := by decide +kernel

def dropped : State :=
  let s := linked [] []
  { s with links := { s.links with segs := [(segKey ⟨0, 0⟩, { mask16 := 0xFF#8, ready := true, out := 0x81#8 })] } }

theorem test_lane_back : nextIs (exec (.laneRetrainDone ⟨0, 0⟩ 7) dropped) (fun t => (getSeg t ⟨0, 0⟩).out = 0x01#8) = true := by decide +kernel

/-- A lane of an express segment that ends at port 6. -/
def windows (x : Lane) : State :=
  let s := linked [] []
  { s with links := { s.links with lanes := [(laneKey (rxLane ⟨6, 5⟩) 7, x)] } }

def lane (t : State) : Lane := getLane t (rxLane ⟨6, 5⟩) 7

theorem test_windows_raise :
    (laneUsable (windows { mode := 1, up16 := 63 }) 6 7
      && nextIs (exec (.enobWindowEnd ⟨6, 5⟩ 7 0x58 0x48) (windows { mode := 1, up16 := 63 })) (fun t => (lane t).mode = 2)
      && nextIs (exec (.enobWindowEnd ⟨6, 5⟩ 7 0x30 0x30) (windows { mode := 0, upQ := 63 })) (fun t => (lane t).mode = 1)) = true := by decide +kernel

theorem test_windows_lower :
    (nextIs (exec (.enobWindowEnd ⟨6, 5⟩ 7 0x4F 0x48) (windows { mode := 2, down := 1 })) (fun t => (lane t).mode = 1)
      && nextIs (exec (.enobWindowEnd ⟨6, 5⟩ 7 0x50 0x48) (windows { mode := 2, down := 1 })) (fun t => (lane t).mode = 2)
      && nextIs (exec (.enobWindowEnd ⟨6, 5⟩ 7 0x27 0x30) (windows { mode := 1, down := 1 })) (fun t => (lane t).mode = 0)) = true := by decide +kernel

/-- Of five lanes in a mode one goes; the port stays UP with MIN_WL = 4. -/
def fiveLanes : State :=
  let s := linked [] []
  { s with links := { s.links with lanes := (List.range 5).map (fun w => (laneKey 0 w, { mode := 1, down := 1 })) } }

theorem test_min_lanes :
    nextIs (exec (.enobWindowEnd ⟨0, 0⟩ 0 0 0) fiveLanes) (fun t => (getLane t 0 0).mode = 0 && (getLink t 0).state = .up && modedLanes t 0 = 4) = true := by
  decide +kernel

set_option maxRecDepth 20000 in
/-- In PROBE the training flit with the versions goes with the KEEP frame (R299). -/
theorem test_keep_probe :
    (nextIs (exec (.keepSend 0) { linked [] [] with links := { ports := [(0, { state := .probe })] } })
        (fun t => match t.links.wire with
          | [.tag 0 k, .flit 0 0 0 0 x] => k = relayTag 0 0 4 0 && x.mode = 1
          | _ => false)
      && isNext (exec (.keepSend 1) (linked [] [])) (linked [] [])) = true := by decide +kernel

theorem test_keep :
    ((getLink (linked [] []) 0).emitterFailed = false ∧ nextIs (exec (.keepSend 0) (linked [] [])) (fun t => t.links.wire = [.tag 0 (relayTag 0 0 4 (2 ^ 6))]) = true
      ∧ nextIs (exec (.keepFrame 0 (relayTag 0 0 4 (2 ^ 6))) { linked [] [] with links := { ports := [(0, { state := .probe })] } }) (fun t => (getLink t 0).loop && (getLink t 0).heard) = true) := by
  decide +kernel

theorem test_loop_opens :
    (nextIs (exec (.keepFrame 0 (relayTag 0 0 4 0)) (linked [] [])) (fun t => !(getLink t 0).loop && (getLink t 0).state = .probe && (getLink t 0).heard)
      && nextIs (exec (.loopOpenTimeout 0) (linked [] [])) (fun t => !(getLink t 0).loop && (getLink t 0).state = .probe && !(getLink t 0).heard)
      && nextIs (exec (.loopOpenTimeout 1) (linked [] [])) (fun t => (getLink t 1).state = .off)) = true := by decide +kernel

def ramping : State := { base with links := { ports := [(0, { state := .ramp })] } }

theorem test_training :
    (nextIs (exec (.portTrainingTimeout 0) ramping) (fun t => (getLink t 0).state = .probe)
      && nextIs (exec (.tagEmitterFailure 0) (linked [] [])) (fun t => (getLink t 0).emitterFailed && (getLink t 0).state = .probe)
      && nextIs (exec (.ringLockCheck 0 7 21 80 0xB7#8) ramping) (fun t => (getLink t 0).locked = 0x80#8)
      && nextIs (exec (.ringLockCheck 0 7 21 79 0xB7#8) ramping) (fun t => (getLane t 0 7).resweep && !(getLane t 0 7).keptOff && (getLink t 0).state ≠ .ramp)
      && isNext (exec (.ringLockCheck 1 7 21 80 0xB7#8) base) (updLink base 1 id)
      && nextIs (exec (.ringLockCheck 0 7 18 80 0xB7#8) { base with links := { lanes := [(laneKey 0 7, { wrongTick := 1 })] } }) (fun t => (getLane t 0 7).keptOff)
      && nextIs (exec (.ringSweepDone 0 7) { base with links := { lanes := [(laneKey 0 7, { resweep := true })] } }) (fun t => !(getLane t 0 7).resweep)) = true := by decide +kernel

/-- Laser 21 is of group A and shines, 22 of group B, 23 the spare of wavelength 7. -/
def lit (l21 l23 : Laser) : State := { base with links := { lasers := [(21, l21), (22, { role := 1, lit := true, locked := true }), (23, l23)] } }

def active : Laser := { role := 0, lit := true, locked := true }

theorem test_fade :
    (freeSpare (lit active {}) 7 = some 23 && nextIs (exec (.laserPowerSample 21 (-80)) (lit active {})) (fun t => (getLaser t 21).fadeRaised
        && (getLaser t 21).change = .warming 23 false && (getLaser t 23).warm && (getLaser t 23).lit)
      && isNext (exec (.laserPowerSample 21 (-79)) (lit active {})) (lit { active with delta := -79 } {})) = true := by decide +kernel

theorem test_laser_stop : nextIs (exec (.laserStop 21) (lit active {})) (fun t => !(getLaser t 21).lit && !(getLaser t 21).locked) = true := by decide +kernel

def warming : State := lit { active with change := .warming 23 false } { warm := true, lit := true }

theorem test_changeover :
    (changingTo warming 23 = some 21 && nextIs (exec (.spareWarmDone 23) warming) (fun t => (getLaser t 23).locked && (getLaser t 21).change = .switched 23)
      && nextIs (exec (.spareLockTimeout 23) warming) (fun t => (getLaser t 23).role = 3 && (getLaser t 21).change = .none)
      && nextIs (exec (.laserChangeoverDone 7) (lit { active with change := .switched 23 } { lit := true, locked := true })) (fun t => (getLaser t 21).role = 3
        && (getLaser t 23).role = 0 && t.dram.pendingRecs = [.laserRole 21 3, .laserRole 23 0])) = true := by decide +kernel

/-! ### The Kettle -/

def kettle (k : Kettle) : State := { base with kt := k }

/-- Variant A, cap 3,000 W: above the cap f rises by 1; at 98 % it stays; below 96 % it falls in the tenth quiet period (R323). -/
theorem test_cap_loop :
    (nextIs (exec (.capLoopPeriod 3001 5400 false ⟨none, []⟩) (kettle { f := 100 })) (fun t => t.kt.f = 104)
      && nextIs (exec (.capLoopPeriod 2941 5400 false ⟨none, []⟩) (kettle { f := 100 })) (fun t => t.kt.f = 101)
      && nextIs (exec (.capLoopPeriod 2940 5400 false ⟨none, []⟩) (kettle { f := 100 })) (fun t => t.kt.f = 100)
      && nextIs (exec (.capLoopPeriod 2879 5400 false ⟨none, []⟩) (kettle { f := 100, quiet := 9 })) (fun t => t.kt.f = 99 && t.kt.quiet = 10)
      && nextIs (exec (.capLoopPeriod 2879 5400 false ⟨none, []⟩) (kettle { f := 100, quiet := 8 })) (fun t => t.kt.f = 100)
      && nextIs (exec (.capLoopPeriod 3001 5400 false ⟨none, []⟩) (kettle { f := 224, depth := 1 })) (fun t => t.kt.f = 224 && t.kt.depth = 2)
      && nextIs (exec (.capLoopPeriod 3000 5400 true ⟨none, []⟩) (kettle { f := 100, depth := 1, depthF := 100 })) (fun t => t.kt.f = 104 && t.kt.depth = 0)
      && nextIs (exec (.capLoopPeriod 1350 5400 true ⟨none, []⟩) (kettle { f := 224, depth := 2 })) (fun t => t.kt.depth = 1)
      && nextIs (exec (.capLoopPeriod 9 5400 false ⟨none, []⟩) (kettle { f := 64, det := true })) (fun t => t.kt.f = 64)) = true := by decide +kernel

/-- A rail's report is its sensors' reading. -/
theorem test_rails :
    nextIs (exec (.capLoopPeriod 2940 5400 false ⟨none, [⟨800, 5, 61⟩]⟩) base) (fun t => tget .unavailable t.dbx.sensors 0x100 = .valid 800
      && tget .unavailable t.dbx.sensors 0x140 = .valid 5 && tget .unavailable t.dbx.sensors 0x180 = .valid 61) = true := by decide +kernel

theorem test_telemetry :
    (nextIs (exec (.capLoopPeriod 0 0 false ⟨some 1, []⟩) (kettle { f := 40, missing := 2 })) (fun t => t.kt.missing = 3 && t.kt.f = 64 && t.kt.heldF = some 64)
      && nextIs (exec (.capLoopPeriod 0 0 false ⟨some 1, []⟩) (kettle { f := 70, missing := 3, heldF := some 70 })) (fun t => t.kt.f = 70)) = true := by decide +kernel

/-- At 54 V the limit is 1.1 × 3,000 W ÷ 54 V = 61.11 A. -/
theorem test_limiter :
    (¬ Claims.overLimit (kettle { volts := 5400 }) 61111 ∧ Claims.overLimit (kettle { volts := 5400 }) 61112
      ∧ nextIs (exec (.limiterSample 61111) (kettle { volts := 5400, overs := 3 })) (fun t => t.kt.overs = 0) = true
      ∧ nextIs (exec (.limiterSample 61112) (kettle { volts := 5400, overs := 2 })) (fun t => t.kt.overs = 3 && t.kt.depth = 0) = true
      ∧ nextIs (exec (.limiterSample 61112) (kettle { volts := 5400, overs := 3, f := 90 })) (fun t => t.kt.depth = 1 && t.kt.depthF = 90) = true) :=
  ⟨by unfold Claims.overLimit; decide +kernel, by unfold Claims.overLimit; decide +kernel, by decide +kernel, by decide +kernel, by decide +kernel⟩

/-- A core that executes an operation keeps its code until the boundary; another takes its domain's. -/
theorem test_code_switch :
    (nextIs (exec (.coreCodeSwitch 1) (kettle { f := 96 })) (fun t => (getCore t 1).code = 3)
      && (let s : State := { withOp 0 (desc 0 0 []) with kt := { f := 96 }
                                                         q := { (withOp 0 (desc 0 0 [])).q with ops := (withOp 0 (desc 0 0 [])).q.ops.map (fun o => { o with started := true }) } }
          isNext (exec (.coreCodeSwitch 0) s) s)) = true := by decide +kernel

/-- The management cap applies from the next period; skipping that begins or ends in deterministic mode is a breach. -/
theorem test_cap_and_breach :
    (nextIs (exec (.capLoopPeriod 1000 5400 false ⟨none, []⟩) (kettle { f := 100, mgmtCap := some 99 })) (fun t => t.kt.f = 104 && t.kt.mgmtNow = some 99
        && t.power.inputMv = 54000)
      && nextIs (exec (.limiterSample 61112) (kettle { volts := 5400, overs := 3, f := 64, det := true })) (fun t => (tget 0#32 t.dbx.mview 7).getLsbD 2)
      && nextIs (exec (.capLoopPeriod 9 5400 true ⟨none, []⟩) (kettle { f := 64, det := true, depth := 1, depthF := 60 })) (fun t => t.kt.depth = 0
        && (tget 0#32 t.dbx.mview 7).getLsbD 2)) = true := by decide +kernel

/-- Domain 0 runs at 800 mV: at 4 % below it is stretched, from 2 % below no more (R326). -/
def droopy (l : List Nat) : State := { base with part := { fusedMv := [800] }, cores := { base.cores with droop := l } }

theorem test_droop :
    (domainMv (droopy []) 0 = 800 && nextIs (exec (.vcoreDroop ⟨0, 768⟩) (droopy [])) (fun t => t.cores.droop = [0])
      && nextIs (exec (.vcoreDroop ⟨0, 769⟩) (droopy [])) (fun t => t.cores.droop = [])
      && nextIs (exec (.droopStretchEnd ⟨0, 784⟩) (droopy [30, 0])) (fun t => t.cores.droop = [30])
      && nextIs (exec (.droopStretchEnd ⟨0, 783⟩) (droopy [0])) (fun t => t.cores.droop = [0])) = true := by decide +kernel

/-- Sensors in millidegrees: a stack at 95 °C trips, at 90 °C asks, all below release. -/
theorem test_thermal :
    (nextIs (exec (.thermalSensorScan [] [.valid 95000] .unavailable) base) (fun t => t.power.phase = .tripped && t.dram.cells = []
        && t.power.drabexUp && t.ports = [(0, { up := true })])
      && nextIs (exec (.thermalSensorScan [] [.valid 94999] .unavailable) base) (fun t => t.power = base.power && t.kt.thermal)
      && nextIs (exec (.thermalSensorScan [.valid 97999] [.valid 87999] .unavailable) (kettle { thermal := true })) (fun t => !t.kt.thermal)
      && nextIs (exec (.thermalSensorScan [.valid 103000] [] .unavailable) base) (fun t => t.kt.dieHot && t.kt.depth = 1)) = true := by decide +kernel

theorem test_converters :
    (nextIs (exec (.converterFail 3) (kettle { converters := 2 })) (fun t => t.kt.converters = 1 && t.kt.failedConv = [3])
      && nextIs (exec (.converterFail 3) (kettle { converters := 1 })) (fun t => t.power.phase = .off && t.dbx.sev3 && t.power.cause = 2)
      && nextIs (exec (.phaseFail 2 5) base) (fun t => t.kt.shedPhases = [(2, 5)])) = true := by decide +kernel

/-! ### The Drabex and the out-of-band standards -/

theorem test_watchdog :
    (nextIs (exec .drabexWatchdogExpiry (inUpdate 3)) (fun t => !t.power.drabexUp && t.dbx.update = none && (getSlot t 1).state = 0)
      && nextIs (exec .dbxRestart { base with power := { base.power with drabexUp := false } }) (fun t => t.power.drabexUp && t.power.restarts = 1)) = true := by decide +kernel

def entry : LogEntry := { kind := 1, code := 1, seq := 0, tick := 0, boot := 0, args := [], part := 0xFF, sev := 1 }

theorem test_log_write : nextIs (exec .logEntryWrite { base with dbx := { logHeld := [entry] } }) (fun t => t.dbx.log = [entry] && t.dbx.logHeld = []) = true := by decide +kernel

/-- A DOE request object of three or eleven dwords. -/
def doeReq (msg n : Nat) : Bytes := [0#8, 0#8, 1#8, 0#8] ++ le 4 (n + 2) ++ [1#8] ++ le 1 msg ++ zeros 8 ++ le 2 1024 ++ zeros (4 * n - 12)

theorem test_doe_meets :
    (doeLive base 0 && !base.dbx.doeBusy.contains 0 && doeForm (doeReq 1 3) 12 && byteAt (doePayload (doeReq 1 3)) 1 = 1 && fld (doePayload (doeReq 1 3)) 0xA 2 = 1024
      && doeForm (doeReq 2 11) 44 && fld (doePayload (doeReq 2 11)) 0x28 4 < 128 && doeLengthOk (doeReq 1 3)) = true := by decide +kernel

theorem test_doe_discovery : nextIs (exec (.doeDiscovery 0 0#8) base) (fun t => t.dbx.responses.map (·.ep) = [20]) = true := by decide +kernel

theorem test_doe_abort :
    nextIs (exec (.doeAbort 0) { base with dbx := { doeBusy := [0], heldReqs := [{ req := .getCerts 0 [] }, { req := .getInfo 16 0#16 }] } }) (fun t => t.dbx.doeBusy = []
      && t.dbx.heldReqs = [{ req := .getInfo 16 0#16 }]) = true := by decide +kernel

def restarting : State := { base with power := { base.power with drabexUp := false } }

theorem test_doe_held :
    (nextIs (exec (.getCerts 0 (doeReq 1 3)) restarting) (fun t => t.dbx.heldReqs = [{ req := .getCerts 0 (doeReq 1 3) }] && t.dbx.doeBusy = [0])
      && nextIs (exec (.measure 0 (doeReq 2 11)) restarting) (fun t => t.dbx.heldReqs = [{ req := .measure 0 (doeReq 2 11) }])
      && isNext (exec (.getCerts 0 [1#8]) restarting) restarting) = true := by decide +kernel

theorem test_mctp :
    (nextIs (exec (.mctpControlMessage 16 (.setEndpointId 9)) base) (fun t => tget 0 t.dbx.eids 16 = 9)
      && nextIs (exec (.mctpControlMessage 16 .getEndpointId) { base with dbx := { eids := [(16, 9)] } }) (fun t => t.dbx.responses.map (·.bytes) = [[0#8, 9#8, 0#8, 0#8]])) = true := by
  decide +kernel

theorem test_pldm :
    (nextIs (exec (.pldmDiscovery 16 .getTypes) base) (fun t => t.dbx.responses.map (fun r => r.bytes.take 2) = [[0#8, 0x25#8]])
      && nextIs (exec (.pldmRequestUpdate 16 manifest 1024 true) base) (fun t => t.dbx.update.map (·.step) = some 2)
      && nextIs (exec (.pldmRequestUpdate 16 manifest 1024 true) (inUpdate 3)) (fun t => t.dbx.responses.map (·.bytes) = [[0x81#8]])
      && slotBootable twoSlots 1 && nextIs (exec (.pldmActivateFirmware 16) twoSlots) (fun t => t.dbx.nextBoot = 1)) = true := by decide +kernel

/-- A rail's report as PLDM answers it, without one unavailable, and a sensor that is none. -/
theorem test_pldm_sensor :
    (sensorOf { base with dbx := { sensors := [(0, .valid 25)] } } 0 = some (.valid 25) && sensorKnown 0 && sensorOf base 0 = some .unavailable
      && nextIs (exec (.pldmGetSensorReading 16 (.reading 1)) { base with dbx := { sensors := [(0, .valid 25)] } })
        (fun t => t.dbx.responses.map (fun r => r.bytes.drop 7) = [[25#8, 0#8, 0#8, 0#8]])
      && !sensorKnown 0x51 && nextIs (exec (.pldmGetSensorReading 16 (.reading 0x52)) base) (fun t => t.dbx.responses.map (·.bytes) = [[0x80#8]])) = true := by
  decide +kernel

def pinsIn : Sideband := { perst0 := true }

theorem test_jtag :
    (nextIs (exec (.jtagInstruction .idcode) base) (fun t => t.lastRead = .word 0x25120A17#32)
      && nextIs (exec (.jtagInstruction .bypass) base) (fun t => t.power.jtag = .bypass)
      && nextIs (exec (.jtagInstruction (.samplePreload pinsIn {})) base) (fun t => t.lastRead = .scan { pinsIn with pwrgd := true })
      && isNext (exec (.jtagInstruction (.extest pinsIn {})) base) base) = true := by decide +kernel

/-- EXTEST needs every PERST_N and READY 0; then its chain alone is reached. -/
theorem test_extest :
    (let s : State := { base with power := { base.power with perst0 := true, perst1 := true, ready := false } }
     nextIs (exec (.jtagInstruction (.extest pinsIn { smbDat := false })) s) (fun t => t.power.extest && !t.power.scan.smbDat
      && isNext (exec (.jtagInstruction .idcode) t) t)) = true := by decide +kernel

/-! ### The spec's own examples -/

/-- The example of R143: region 3, offset 0x8_0C40; j = 0, 1, 2 of the same stripe. -/
theorem test_weave_example : weaveChannel 3 0x80C40 = 127 ∧ [0, 1, 2].map (fun j => weaveChannel 3 (0x80000 + 1024 * j)) = [31, 63, 95] := by decide +kernel

/-- The example of R323: TV512-B, 2.43 kW at a cap of 2.4 kW, f = 64 rises to 68, then by 1. -/
theorem test_kettle_example :
    (nextIs (exec (.capLoopPeriod 2430 5400 false ⟨none, []⟩) { base with part := { variant := .b }, kt := { f := 64 } }) (fun t => t.kt.f = 68)
      && nextIs (exec (.capLoopPeriod 2389 5400 false ⟨none, []⟩) { base with part := { variant := .b }, kt := { f := 68 } }) (fun t => t.kt.f = 69)) = true := by decide +kernel

/-- The worked descriptor of R79: the reference words of the GEMM on logical core 17. -/
theorem test_reference_example :
    parseRef 0x00048D0002200000 = { present := true, trans := false, layout := 1, fmt := 3, space := 1, addr := 17 * 2 ^ 21 }
      ∧ parseRef 0x0004850002280000 = { present := true, trans := false, layout := 1, fmt := 1, space := 1, addr := 17 * 2 ^ 21 + 0x80000 } := by decide +kernel

/-! ### Flits as coded slots -/

/-- A data flit of VC1 with SEQ 0, and a version flit. -/
def dataFlit : Bytes := flitInfo 0 1 1 256 0 (zeros 256)
def versionFlit : Bytes := flitInfo 0 2 0 0 0 (zeros 256)

/-- The product of GF(2^8) on numbers, and a polynomial's value: what the kernel computes below. -/
def natMulFrom (a b : Nat) : Nat → Nat → Nat
  | 0, r => r
  | n + 1, r => natMulFrom a b n (((r * 2) ^^^ (r / 128) * 285) ^^^ (b / 2 ^ n % 2) * a)

def natEval (x : Nat) : Nat → List Nat → Nat
  | r, [] => r
  | r, c :: cs => natEval x (natMulFrom r x 8 0 ^^^ c) cs

theorem gfX_nat : ∀ r : Byte, (gfX r).toNat = (r.toNat * 2) ^^^ (r.toNat / 128) * 285 := by decide +kernel

theorem gfMulFrom_nat (a b : Byte) : ∀ n r, (gfMulFrom a b n r).toNat = natMulFrom a.toNat b.toNat n r.toNat
  | 0, _ => rfl
  | n + 1, r => by
    have hb : (if b.getLsbD n then a else 0#8).toNat = (b.toNat / 2 ^ n % 2) * a.toNat := by
      have h : b.getLsbD n = decide (b.toNat / 2 ^ n % 2 = 1) := Nat.testBit_eq_decide_div_mod_eq
      rcases Nat.mod_two_eq_zero_or_one (b.toNat / 2 ^ n) with e | e <;> simp [h, e]
    rw [gfMulFrom, gfMulFrom_nat a b n, BitVec.toNat_xor, gfX_nat, hb, natMulFrom]

theorem polyEval_nat (x : Byte) : ∀ (w : Bytes) (r : Byte), (polyEval x r w).toNat = natEval x.toNat r.toNat (w.map (·.toNat))
  | [], _ => rfl
  | c :: cs, r => by
    rw [polyEval, polyEval_nat x cs, BitVec.toNat_xor, gfMul, gfMulFrom_nat, List.map_cons, natEval]; rfl

/-- Every syndrome of a word is zero. -/
def clean (n : Nat) (w : List Nat) : Bool := (List.range n).all (fun i => natEval (alpha i).toNat 0 w = 0)

theorem rsDecode_clean {n : Nat} {w : Bytes} (h : clean n (w.map (·.toNat)) = true) : rsDecode n w = some (zeros w.length) := by
  have hs : (rsSyndromes n w).all (· = 0#8) = true := by
    simp only [rsSyndromes, List.all_map, List.all_eq_true, clean, decide_eq_true_eq, Function.comp] at h ⊢
    exact fun i hi => BitVec.eq_of_toNat_eq ((polyEval_nat (alpha i) w 0#8).trans (h i hi))
  simp only [rsDecode, hs, if_true]

theorem xor_zeros : ∀ w : Bytes, List.zipWith (· ^^^ ·) w (zeros w.length) = w
  | [] => rfl
  | a :: w => by
    simp only [zeros, List.length_cons, List.replicate_succ, List.zipWith_cons_cons, BitVec.xor_zero]
    exact congrArg _ (xor_zeros w)

theorem decodeSlot_clean {slot : Bytes} (hl : slot.length = 307) (h0 : clean 22 ((evens slot).map (·.toNat)) = true)
    (h1 : clean 21 ((odds slot).map (·.toNat)) = true) : decodeSlot slot = some (weave2 ((evens slot).take 132) ((odds slot).take 132)) := by
  simp only [decodeSlot, hl, rsDecode_clean h0, rsDecode_clean h1, xor_zeros, ne_eq, not_true_eq_false, if_false]

/-- The slots of the two flits: the words of their bytes, with the check bytes of each. -/
def slotOf (info : Bytes) (c0 c1 : List Nat) : Bytes :=
  weave2 (evens info ++ c0.map (BitVec.ofNat 8)) (odds info ++ c1.map (BitVec.ofNat 8))

def dataSlot : Bytes := slotOf dataFlit
  [56, 87, 197, 167, 90, 112, 118, 115, 9, 132, 113, 96, 67, 128, 155, 211, 32, 91, 80, 36, 130, 82]
  [50, 99, 130, 166, 89, 32, 161, 220, 139, 159, 111, 135, 43, 143, 138, 144, 207, 33, 172, 138, 220]

def versionSlot : Bytes := slotOf versionFlit
  [225, 73, 67, 63, 180, 143, 227, 113, 131, 158, 141, 149, 22, 164, 188, 238, 90, 134, 66, 23, 111, 230]
  [93, 117, 171, 13, 157, 183, 244, 176, 8, 131, 201, 196, 202, 234, 222, 73, 207, 172, 248, 149, 200]

set_option maxRecDepth 200000 in
theorem test_data_slot : decodeSlot dataSlot = some dataFlit :=
  (decodeSlot_clean (by decide +kernel) (by decide +kernel) (by decide +kernel)).trans (by decide +kernel)

set_option maxRecDepth 200000 in
theorem test_version_slot : decodeSlot versionSlot = some versionFlit :=
  (decodeSlot_clean (by decide +kernel) (by decide +kernel) (by decide +kernel)).trans (by decide +kernel)

set_option maxRecDepth 200000 in
theorem test_flit_words : (fld dataFlit 0 4 = flitCrc 0 0 (fld dataFlit 4 4) (dataFlit.drop 8) ∧ field (fld dataFlit 4 4) 0 7 = 0
    ∧ field (fld dataFlit 4 4) 29 3 = 1 ∧ field (fld dataFlit 4 4) 7 11 = 0)
    ∧ (fld versionFlit 0 4 = flitCrc 0 0 (fld versionFlit 4 4) (versionFlit.drop 8) ∧ field (fld versionFlit 4 4) 0 7 = 0
    ∧ field (fld versionFlit 4 4) 29 3 = 2 ∧ field (fld versionFlit 4 4) 7 11 = 0) := by decide +kernel

set_option maxRecDepth 20000 in
/-- The light of a slot carries it (R289, R290). -/
theorem test_slot_light : lightSlot 0 (slotLight 1 0 0 dataSlot) = dataSlot := by decide +kernel

theorem test_data_flit : Claims.flitIs 0 dataFlit 1 0 := test_flit_words.1
theorem test_version_flit : Claims.flitIs 0 versionFlit 2 0 := test_flit_words.2

/-- The state is at the SEQ of both flits; the second in PROBE. -/
theorem test_flit_meets :
    (seqGap 0 2047 = 1 ∧ seqGap 0 1 = 2047 ∧ straight (linked [] []) 0 = false ∧ Claims.emits (linked [] []) 0 ∧ (getSeg (linked [] []) ⟨0, 0⟩).rxNext = 0 ∧ (getSeg (linked [] []) ⟨0, 0⟩).rxHold = []
      ∧ (getLink { base with links := { ports := [(0, { state := .probe })] } } 0).state = .probe) := by
  unfold Claims.emits; decide +kernel
/-! ### Well-formedness: a term that each check refuses -/

def illFormed0 : List Instr :=
  [.descriptorFetch 4096 {},
   .descriptorFetch 0 { stores := [(2 ^ 65, 0#8)] },
   .dispatch 4096,
   .descriptorTimeout (.waiting 4096 0),
   .heldRecordRelease 1024,
   .doorbellSweep 16 {},
   .doorbellSweep 0 { stores := [(2 ^ 65, 0#8)] },
   .qeWake 16 0#32 {},
   .qeWake 0 0#32 { stores := [(2 ^ 65, 0#8)] },
   .irqLeafClear 16 0 0#32,
   .irqLeafClear 0 (barSize 0) 0#32,
   .irqMaskWrite 16 0#32,
   .ringEnable 16 0 0#32,
   .ringEnable 0 4096 0#32,
   .ringDisable 16 0 0#32,
   .ringDisable 0 4096 0#32,
   .oringEnable 16 0 0#32,
   .oringEnable 0 1024 0#32,
   .driverNegotiate 16 0#32,
   .partitionEnable 16 0 0#32,
   .partitionEnable 0 8 0#32,
   .partitionDisable 16 0 0#32,
   .partitionDisable 0 8 0#32,
   .regionEnable 16 0 0#32,
   .regionEnable 0 512 0#32,
   .regionInitDone 512,
   .regionDisable 16 0 0#32,
   .regionDisable 0 512 0#32,
   .layerTableLoad 16 0 0#32 {},
   .layerTableLoad 0 8 0#32 {},
   .caddyEnable 16 0 0#32,
   .caddyEnable 0 8 0#32,
   .caddyDisable 16 0 0#32,
   .caddyDisable 0 8 0#32,
   .detModeWrite 16 0#32,
   .mbAsyncRemove 16 0#32,
   .registerWrite 16 0 0#4 0#32,
   .registerWrite 0 (barSize 0) 0#4 0#32,
   .bar2Read 16 0 0 {},
   .bar2Read 0 (2 ^ 40) 0 {},
   .bar2Write 16 0 ⟨[], {}⟩,
   .bar2Write 0 (2 ^ 40) ⟨[], {}⟩,
   .nop 0 { host := { stores := [(2 ^ 65, 0#8)] } },
   .evtSet 0 { host := { stores := [(2 ^ 65, 0#8)] } },
   .evtAdd 0 { host := { stores := [(2 ^ 65, 0#8)] } },
   .timestamp 0 { host := { stores := [(2 ^ 65, 0#8)] } },
   .gemm 0 { host := { stores := [(2 ^ 65, 0#8)] } },
   .expr 0 { host := { stores := [(2 ^ 65, 0#8)] } },
   .rowReduce 0 { host := { stores := [(2 ^ 65, 0#8)] } },
   .colReduce 0 { host := { stores := [(2 ^ 65, 0#8)] } },
   .softmaxFwd 0 { host := { stores := [(2 ^ 65, 0#8)] } },
   .softmaxBwd 0 { host := { stores := [(2 ^ 65, 0#8)] } },
   .normFwd 0 { host := { stores := [(2 ^ 65, 0#8)] } },
   .normBwd 0 { host := { stores := [(2 ^ 65, 0#8)] } },
   .copy 0 { host := { stores := [(2 ^ 65, 0#8)] } },
   .transpose 0 { host := { stores := [(2 ^ 65, 0#8)] } },
   .pack 0 { host := { stores := [(2 ^ 65, 0#8)] } },
   .unpack 0 { host := { stores := [(2 ^ 65, 0#8)] } },
   .gather 0 { host := { stores := [(2 ^ 65, 0#8)] } },
   .scatterAdd 0 { host := { stores := [(2 ^ 65, 0#8)] } }]

def illFormed1 : List Instr :=
  [.hostRead 0 { host := { stores := [(2 ^ 65, 0#8)] } },
   .hostWrite 0 { host := { stores := [(2 ^ 65, 0#8)] } },
   .rngUniform 0 { host := { stores := [(2 ^ 65, 0#8)] } },
   .rngNormal 0 { host := { stores := [(2 ^ 65, 0#8)] } },
   .rngBernoulli 0 { host := { stores := [(2 ^ 65, 0#8)] } },
   .stashPut 0 { host := { stores := [(2 ^ 65, 0#8)] } },
   .stashGet 0 { host := { stores := [(2 ^ 65, 0#8)] } },
   .stashFree 0 { host := { stores := [(2 ^ 65, 0#8)] } },
   .stArm 0 { host := { stores := [(2 ^ 65, 0#8)] } },
   .stShardSet 0 { host := { stores := [(2 ^ 65, 0#8)] } },
   .stSchedSet 0 { host := { stores := [(2 ^ 65, 0#8)] } },
   .allReduce 0 { host := { stores := [(2 ^ 65, 0#8)] } },
   .reduceScatter 0 { host := { stores := [(2 ^ 65, 0#8)] } },
   .allGather 0 { host := { stores := [(2 ^ 65, 0#8)] } },
   .broadcast 0 { host := { stores := [(2 ^ 65, 0#8)] } },
   .reduce 0 { host := { stores := [(2 ^ 65, 0#8)] } },
   .allToAll 0 { host := { stores := [(2 ^ 65, 0#8)] } },
   .barrier 0 { host := { stores := [(2 ^ 65, 0#8)] } },
   .stepVote 0 { host := { stores := [(2 ^ 65, 0#8)] } },
   .send 0 { host := { stores := [(2 ^ 65, 0#8)] } },
   .recv 0 { host := { stores := [(2 ^ 65, 0#8)] } },
   .mcastPut 0 { host := { stores := [(2 ^ 65, 0#8)] } },
   .groupSet 0 { host := { stores := [(2 ^ 65, 0#8)] } },
   .planStage 0 { host := { stores := [(2 ^ 65, 0#8)] } },
   .planCommit 0 { host := { stores := [(2 ^ 65, 0#8)] } },
   .fence 0 { host := { stores := [(2 ^ 65, 0#8)] } },
   .mcastSet 0 { host := { stores := [(2 ^ 65, 0#8)] } },
   .getInfo 19 0#16,
   .sensorRead 19 0#16 0#16 0#8,
   .logRead 19 0#16 0#32 0#16 0#64 {},
   .logRead 0 0#16 0#32 0#16 0#64 { stores := [(2 ^ 65, 0#8)] },
   .setMgmtCap 19 0#16 0#16,
   .reset 19 0#16 0#8,
   .partReset 19 0#16 0#8,
   .partHandover 19 0#16 0#8 0#8 0#8 0#64 0#64 {},
   .partHandover 0 0#16 0#8 0#8 0#8 0#64 0#64 { stores := [(2 ^ 65, 0#8)] },
   .coreReconfig 19 0#16,
   .bootPlanSet 19 0#16 0#64 0#32 0#16 {},
   .bootPlanSet 0 0#16 0#64 0#32 0#16 { stores := [(2 ^ 65, 0#8)] },
   .alertMask 19 0#16 0#16,
   .mviewRead 19 0#16,
   .mviewClear 19 0#16 0#8 0#32,
   .fwUpdate 19 0#16 0#64 0#32 0#8 true {},
   .fwUpdate 0 0#16 0#64 0#32 0#8 true { stores := [(2 ^ 65, 0#8)] },
   .fwUpdateStepDone { host := { stores := [(2 ^ 65, 0#8)] } },
   .fwStatus 19 0#16,
   .fwActivate 19 0#16 0#8,
   .svnCommit 19 0#16,
   .inputPowerApplied { noAck := [544] },
   .inputPowerApplied { bistFail := [544] },
   .inputPowerApplied { untrained := [544] },
   .inputPowerApplied { lasersDark := [36] },
   .rootPllLoss { noAck := [544] },
   .rootPllLoss { bistFail := [544] },
   .rootPllLoss { untrained := [544] },
   .rootPllLoss { lasersDark := [36] },
   .coldReset { noAck := [544] },
   .coldReset { bistFail := [544] },
   .coldReset { untrained := [544] },
   .coldReset { lasersDark := [36] }]

def illFormed2 : List Instr :=
  [.warmReset { noAck := [544] },
   .warmReset { bistFail := [544] },
   .warmReset { untrained := [544] },
   .warmReset { lasersDark := [36] },
   .fabricReset { noAck := [544] },
   .fabricReset { bistFail := [544] },
   .fabricReset { untrained := [544] },
   .fabricReset { lasersDark := [36] },
   .functionLevelReset 16,
   .perstAssert 2,
   .d3hotReturn 16,
   .portDlDown 2,
   .portHoldExpiry 2,
   .coreAckTimeout 512,
   .coreFailure 512,
   .coreRebind 512 {},
   .coreRebind 0 { host := { stores := [(2 ^ 65, 0#8)] } },
   .sramDoubleBitError 512 0 {},
   .sramDoubleBitError 0 0 { host := { stores := [(2 ^ 65, 0#8)] } },
   .channelRepairMark 512 .laneFault,
   .liveMigrationStart 512,
   .migrationSwitch 512 ⟨true, {}⟩,
   .offlineRetrainDone 16 0 true,
   .offlineRetrainDone 0 34 true,
   .inPlaceRetrain 512 true,
   .patrolScrub 512 0 0 {},
   .wcEntryFlush 512 0 {},
   .stashReexecution 0 { host := { stores := [(2 ^ 65, 0#8)] } },
   .slotClaim 0 4096,
   .reducedChunkApply ⟨4096, 0, none⟩ 0 {},
   .reducedChunkApply ⟨0, 0, none⟩ 0 { host := { stores := [(2 ^ 65, 0#8)] } },
   .shardFinish 0 8192 {},
   .shardFinish 0 0 { host := { stores := [(2 ^ 65, 0#8)] } },
   .ruleVResume 0 8192 {},
   .ruleVResume 0 0 { host := { stores := [(2 ^ 65, 0#8)] } },
   .computeValuesReceive 1024 0 ⟨0, 0, 0, []⟩,
   .computeValuesReceive 0 65536 ⟨0, 0, 0, []⟩,
   .computeValuesReceive 0 0 ⟨4096, 0, 0, []⟩,
   .computeValuesAck 0 0 ⟨4096, 0, 0, []⟩ .refused,
   .statisticsExchange 0 { stores := [(2 ^ 65, 0#8)] } {},
   .collectiveOpen 0 { host := { stores := [(2 ^ 65, 0#8)] } },
   .chunkReceive ⟨12, 0⟩ [],
   .chunkReceive ⟨0, 4096⟩ [],
   .grantReceive ⟨4096, 0, none⟩ 0 0,
   .ackReceive ⟨0, 0, none⟩ 0 ⟨⟨0, 0, 0, 0, false⟩, 2 ^ 32⟩,
   .ackReceive ⟨4096, 0, none⟩ 0 ⟨⟨0, 0, 0, 0, false⟩, 0⟩,
   .nakReceive ⟨4096, 0, none⟩ 0 ⟨0, 0, 0, 0, false⟩,
   .chunkResendTimeout ⟨4096, 0, none⟩ 0 ⟨0, 0, 0, 0, false⟩,
   .abortNoticeReceive ⟨4096, 0, none⟩ .mismatch 0,
   .voteRecordReceive ⟨12, 0⟩ [],
   .voteRecordReceive ⟨0, 4096⟩ [],
   .packetReceive ⟨12, 0⟩ [],
   .packetReceive ⟨0, 4096⟩ [],
   .packetTransmit ⟨0, 0⟩ ⟨4, 0⟩,
   .packetTransmit ⟨12, 0⟩ ⟨0, 0⟩,
   .packetTransmit ⟨0, 4096⟩ ⟨0, 0⟩,
   .creditReturn 12 0#64,
   .expressAnnounce 12 0#64,
   .expressBusy 12 0#64,
   .expressRetry ⟨0, 0⟩ 4]

def illFormed3 : List Instr :=
  [.expressRetry ⟨12, 0⟩ 0,
   .expressRetry ⟨0, 4096⟩ 0,
   .expressEnd 12 0#64,
   .expressIdleKeepalive ⟨12, 0⟩,
   .expressIdleKeepalive ⟨0, 4096⟩,
   .identityRecordSend 12,
   .identityRecordReceive 12 [],
   .neighbourRecordTimeout 12,
   .fabLinkDown 12,
   .flitReceive ⟨0, 0⟩ 8 0 ⟨1, []⟩,
   .flitReceive ⟨0, 0⟩ 0 5 ⟨1, []⟩,
   .flitReceive ⟨12, 0⟩ 0 0 ⟨1, []⟩,
   .flitReceive ⟨0, 4096⟩ 0 0 ⟨1, []⟩,
   .relayAck 12 0#64,
   .relayNak 12 0#64,
   .replayTimeout ⟨12, 0⟩ 0,
   .replayTimeout ⟨0, 4096⟩ 0,
   .lanesFrame 12 0#64,
   .laneRetrainDone ⟨0, 0⟩ 8,
   .laneRetrainDone ⟨12, 0⟩ 0,
   .laneRetrainDone ⟨0, 4096⟩ 0,
   .enobWindowEnd ⟨0, 0⟩ 8 0 0,
   .enobWindowEnd ⟨12, 0⟩ 0 0 0,
   .enobWindowEnd ⟨0, 4096⟩ 0 0 0,
   .keepSend 12,
   .keepFrame 12 0#64,
   .loopOpenTimeout 12,
   .portTrainingTimeout 12,
   .ringLockCheck 12 0 0 0 0#8,
   .ringLockCheck 0 8 0 0 0#8,
   .ringLockCheck 0 0 24 0 0#8,
   .ringSweepDone 12 0,
   .ringSweepDone 0 8,
   .laserPowerSample 24 0,
   .laserStop 24,
   .spareWarmDone 24,
   .spareLockTimeout 24,
   .laserChangeoverDone 8,
   .tagEmitterFailure 12,
   .capLoopPeriod 0 0 true { rails := List.replicate 43 ⟨0, 0, 0⟩ },
   .coreCodeSwitch 512,
   .vcoreDroop ⟨32, 0⟩,
   .getCerts 2 [],
   .measure 2 [],
   .doeAbort 2,
   .doeDiscovery 2 0#8,
   .mctpControlMessage 19 .getEndpointId,
   .pldmDiscovery 19 .getTid,
   .pldmGetSensorReading 19 .repositoryInfo,
   .pldmRequestUpdate 19 [] 0 true,
   .pldmActivateFirmware 19,
   .d3hotEntry 16,
   .perstDeassert 2,
   .portLinkUp 2,
   .oringDisable 16 0 0#32,
   .oringDisable 0 1024 0#32,
   .reverseRelayFrame 12 0#64,
   .droopStretchEnd ⟨32, 0⟩,
   .lowWordRead 16 { offset := 0 },
   .bladeInsertion { noAck := [544] }]

def illFormed4 : List Instr :=
  [.bladeInsertion { bistFail := [544] },
   .bladeInsertion { untrained := [544] },
   .bladeInsertion { lasersDark := [36] },
   .unlistedMailboxOp 19 [],
   .flitReceive ⟨0, 0⟩ 0 0 ⟨3, []⟩,
   .lowWordRead 0 { offset := 0, len := 0 },
   .lowWordRead 0 { offset := 0x2000000 },
   .doorbellSweep 0 { rejects := [(2 ^ 65, 1)] },
   .doorbellSweep 0 { config := [(16, .vfs 0)] },
   .doorbellSweep 0 { poisons := [(2 ^ 65, 1)] }]

theorem test_wf_illFormed0 : illFormed0.all (fun i => !i.wf) = true := by decide +kernel

theorem test_wf_illFormed1 : illFormed1.all (fun i => !i.wf) = true := by decide +kernel

theorem test_wf_illFormed2 : illFormed2.all (fun i => !i.wf) = true := by decide +kernel

theorem test_wf_illFormed3 : illFormed3.all (fun i => !i.wf) = true := by decide +kernel

theorem test_wf_illFormed4 : illFormed4.all (fun i => !i.wf) = true := by decide +kernel

/-- The same commands at the ends of their ranges are well-formed. -/
theorem test_wf_accepts : ([.dispatch 4095, .heldRecordRelease 1023, .irqLeafClear 8 0x1FFFFFF 0#32, .irqLeafClear 15 0xFFFF 0#32, .lowWordRead 0 { offset := 0x1FFFFFC }, .regionInitDone 511, .coreAckTimeout 511,
  .offlineRetrainDone 15 33 true, .packetTransmit ⟨11, 4095⟩ ⟨3, 0⟩, .laserStop 23, .laserChangeoverDone 7, .svnCommit 18 0#16, .slotClaim 0 4095] : List Instr).all
    (fun i => i.wf) = true := by decide +kernel

/-- The table gives its rows no bits: no word spells a command, and none is put in the queue. -/
theorem test_no_word_decodes : decodeTableWord 32 0x1234 = none ∧ (base.withFetchWord 32 0x1234).pending = [] := by decide +kernel

end Sys2Proof.Tests
end

section
/-! ### Register reads (R5, R378) -/

namespace Sys2Proof.Machine

open Sys2Proof

/-- From `s` to `t` nothing changes but the latched high words of function `fn`. -/
def LatchesOnly (fn : Nat) (s t : State) : Prop :=
  getFn t fn = { getFn s fn with latch := (getFn t fn).latch } ∧ (∀ f, f ≠ fn → getFn t f = getFn s f) ∧ t = { s with fns := t.fns }

theorem latchesOnly_refl (fn : Nat) (s : State) : LatchesOnly fn s s := ⟨rfl, fun _ _ => rfl, rfl⟩

theorem latchesOnly_trans {fn : Nat} {s t u : State} (a : LatchesOnly fn s t) (b : LatchesOnly fn t u) : LatchesOnly fn s u := by
  obtain ⟨a1, a2, a3⟩ := a
  obtain ⟨b1, b2, b3⟩ := b
  exact ⟨by rw [b1, a1], fun f hf => (b2 f hf).trans (a2 f hf), b3.trans (by rw [a3])⟩

theorem latchesOnly_updFn (s : State) (fn : Nat) (g : FnRegs → Tbl (Option Word32)) :
    LatchesOnly fn s (updFn s fn (fun r => { r with latch := g r })) :=
  ⟨by simp, fun f hf => by simp [hf], rfl⟩

/-- A function's registers but for its latches stay. -/
theorem LatchesOnly.getFn_eq {fn : Nat} {s t : State} (h : LatchesOnly fn s t) (f : Nat) :
    ∃ l, getFn t f = { getFn s f with latch := l } := by
  obtain ⟨h1, h2, _⟩ := h
  by_cases hf : f = fn
  · subst hf; exact ⟨_, h1⟩
  · exact ⟨(getFn s f).latch, h2 f hf⟩

/-- No register shows a latch. -/
theorem LatchesOnly.regValue_eq {fn : Nat} {s t : State} (h : LatchesOnly fn s t) (f : Nat) (g : Reg) :
    regValue t f g = regValue s f g := by
  obtain ⟨l, hl⟩ := h.getFn_eq f
  rw [h.2.2] at hl ⊢
  cases g <;> simp only [regValue, level2, hl] <;> rfl

theorem LatchesOnly.placeAt_eq {fn : Nat} {s t : State} (h : LatchesOnly fn s t) (f o : Nat) : placeAt t f o = placeAt s f o := by
  rw [h.2.2]; rfl

theorem LatchesOnly.barRead_eq {fn : Nat} {s t : State} (h : LatchesOnly fn s t) (f o : Nat) : barRead t f o = barRead s f o := by
  unfold barRead
  rw [h.placeAt_eq]
  cases placeAt s f o with
  | reg g => simp only [h.regValue_eq]
  | noPart => rfl
  | none => rfl

/-- A word for which nothing is latched reads as its register. -/
theorem readWord_unlatched {s : State} {fn o : Nat} (h : tget none (getFn s fn).latch o = none) : (readWord s fn o).2 = barRead s fn o := by
  simp [readWord, h]

/-- A latched word is returned in place of the register. -/
theorem readWord_latched {s : State} {fn o : Nat} {w : Word32} (h : tget none (getFn s fn).latch o = some w) : (readWord s fn o).2 = w := by
  simp [readWord, h]

theorem readWord_latchesOnly (s : State) (fn o : Nat) : LatchesOnly fn s (readWord s fn o).1 := latchesOnly_updFn s fn _

/-- Reading the low word of a pair latches the high word. -/
theorem readWord_latch_low {s : State} {fn o : Nat} {g : Reg} (hp : placeAt s fn o = .reg g) (hl : isLowWord g = true) (k : Nat) :
    tget none (getFn (readWord s fn o).1 fn).latch k = if k = o + 4 then some (barRead s fn (o + 4)) else tget none (getFn s fn).latch k := by
  simp [readWord, hp, hl, tget_tset]

/-- Reading any other word uses up what is latched for it. -/
theorem readWord_latch_other {s : State} {fn o : Nat} (hl : ∀ g, placeAt s fn o = .reg g → isLowWord g = false) (k : Nat) :
    tget none (getFn (readWord s fn o).1 fn).latch k = if k = o then none else tget none (getFn s fn).latch k := by
  unfold readWord
  cases hp : placeAt s fn o with
  | reg g => simp [hl g hp, tget_tset]
  | noPart => simp [tget_tset]
  | none => simp [tget_tset]

/-- A read of one aligned word. -/
theorem execLowWordRead_word {s : State} {fn o : Nat} (ha : fnAnswers s fn = true) (ho : o % 4 = 0) :
    execLowWordRead fn { offset := o } s = .next { (readWord s fn o).1 with lastRead := .word (readWord s fn o).2 } := by
  simp [execLowWordRead, ha, ho]

/-- A read of one aligned word that returns `w` and leaves the latch of offset `k` at `x`. -/
theorem lowWordRead_effect {s : State} {fn o k : Nat} {w : Word32} {x : Option Word32} (ha : fnAnswers s fn = true) (ho : o % 4 = 0)
    (hw : (readWord s fn o).2 = w)
    (hk : ∀ j, tget none (getFn (readWord s fn o).1 fn).latch j = if j = k then x else tget none (getFn s fn).latch j) :
    ∃ t, exec (.lowWordRead fn { offset := o }) s = .next t ∧ t.lastRead = .word w ∧ tget none (getFn t fn).latch k = x
      ∧ (∀ j, j ≠ k → tget none (getFn t fn).latch j = tget none (getFn s fn).latch j)
      ∧ getFn t fn = { getFn s fn with latch := (getFn t fn).latch } ∧ (∀ f, f ≠ fn → getFn t f = getFn s f)
      ∧ t = { s with lastRead := t.lastRead, fns := t.fns } := by
  obtain ⟨hfn, hother, hframe⟩ := readWord_latchesOnly s fn o
  refine ⟨_, execLowWordRead_word ha ho, by rw [hw], (hk k).trans (if_pos rfl), fun j hj => (hk j).trans (if_neg hj), hfn, hother, ?_⟩
  rw [hframe]

/-- Settles O29: the low word of a pair, a latched high word, and any other register. -/
theorem lowWordReadLatches : Obligations.LowWordReadLatches := by
  unfold Obligations.LowWordReadLatches
  intro fn offset g s ha ho hp
  have hother (hl : isLowWord g = false) := readWord_latch_other (s := s) (fn := fn) (o := offset)
    (fun g' hp' => by rw [hp] at hp'; cases hp'; exact hl)
  refine ⟨fun hl hnone => ?_, fun w hl hsome => ?_, fun hl hnone => ?_⟩
  · exact lowWordRead_effect ha ho (readWord_unlatched hnone) (readWord_latch_low hp hl)
  · exact lowWordRead_effect ha ho (readWord_latched hsome) (hother hl)
  · exact lowWordRead_effect ha ho (readWord_unlatched hnone) (hother hl)

/-- Reading words none of which is latched or the low word of a pair returns the registers' bytes and leaves every latch. -/
theorem readWords_plain (fn : Nat) : ∀ (n o : Nat) (s : State),
    (∀ i, i < n → tget none (getFn s fn).latch (o + 4 * i) = none ∧ ∀ g, placeAt s fn (o + 4 * i) = .reg g → isLowWord g = false) →
    LatchesOnly fn s (readWords fn n o s).1
      ∧ (∀ k, tget none (getFn (readWords fn n o s).1 fn).latch k = tget none (getFn s fn).latch k)
      ∧ (readWords fn n o s).2 = (List.range n).flatMap (fun i => leBytes 4 (barRead s fn (o + 4 * i)).toNat)
  | 0, _, s, _ => ⟨latchesOnly_refl fn s, fun _ => rfl, rfl⟩
  | n + 1, o, s, h => by
    obtain ⟨hnone, hlow⟩ := h 0 (Nat.succ_pos n)
    rw [Nat.mul_zero, Nat.add_zero] at hnone hlow
    have hsame := readWord_latchesOnly s fn o
    have hkeep : ∀ k, tget none (getFn (readWord s fn o).1 fn).latch k = tget none (getFn s fn).latch k := fun k => by
      rw [readWord_latch_other hlow]
      split
      · next hk => rw [hk, hnone]
      · rfl
    have hstep : ∀ i, o + 4 + 4 * i = o + 4 * (i + 1) := fun i => by omega
    obtain ⟨ih1, ih2, ih3⟩ := readWords_plain fn n (o + 4) (readWord s fn o).1 (fun i hi => by
      rw [hkeep, hsame.placeAt_eq, hstep]; exact h (i + 1) (Nat.succ_lt_succ hi))
    refine ⟨latchesOnly_trans hsame ih1, fun k => (ih2 k).trans (hkeep k), ?_⟩
    show leBytes 4 (readWord s fn o).2.toNat ++ (readWords fn n (o + 4) (readWord s fn o).1).2 = _
    rw [ih3, readWord_unlatched hnone, List.range_succ_eq_map]
    simp only [hsame.barRead_eq, hstep, List.flatMap_cons, List.flatMap_map, Nat.mul_zero, Nat.add_zero]

/-- A read of another width than one aligned word. -/
theorem execLowWordRead_bytes {s : State} {fn : Nat} {at_ : BarSpan} (ha : fnAnswers s fn = true) (hw : ¬ (at_.offset % 4 = 0 ∧ at_.len = 4)) :
    execLowWordRead fn at_ s
      = (let r := readWords fn (cdiv (at_.offset + at_.len) 4 - at_.offset / 4) (4 * (at_.offset / 4)) s
         .next { r.1 with lastRead := .bytes ((r.2.drop (at_.offset % 4)).take at_.len) false }) := by
  simp [execLowWordRead, ha, hw]

end Sys2Proof.Machine
end

section
/-! ### Register writes (R6, R379) -/

namespace Sys2Proof.Machine

open Sys2Proof

theorem field_eq (v lo w : Nat) : field v lo w = v / 2 ^ lo % 2 ^ w := by rw [field, Nat.shiftRight_eq_div_pow]

theorem testBit_field (v lo w i : Nat) : (field v lo w).testBit i = (decide (i < w) && v.testBit (lo + i)) := by
  rw [field, Nat.testBit_mod_two_pow, Nat.testBit_shiftRight]

/-- A field below bit `n` survives a cut to `n` bits. -/
theorem field_ofNat {lo w n : Nat} (v : Nat) (h : lo + w ≤ n) : field (BitVec.ofNat n v).toNat lo w = field v lo w := by
  refine Nat.eq_of_testBit_eq fun i => ?_
  rw [BitVec.toNat_ofNat, testBit_field, testBit_field, Nat.testBit_mod_two_pow]
  by_cases hi : i < w
  · simp [hi, show lo + i < n by omega]
  · simp [hi]

/-- The field that was put reads back. -/
theorem field_putField (v lo w x : Nat) : field (putField v lo w x) lo w = x % 2 ^ w := by
  have hsplit : v = (v / 2 ^ lo / 2 ^ w * 2 ^ w + v / 2 ^ lo % 2 ^ w) * 2 ^ lo + v % 2 ^ lo := by
    rw [Nat.div_add_mod', Nat.div_add_mod']
  have hput : putField v lo w x = (v / 2 ^ lo / 2 ^ w * 2 ^ w + x % 2 ^ w) * 2 ^ lo + v % 2 ^ lo := by
    unfold putField
    rw [field_eq]
    rw [Nat.add_mul] at hsplit ⊢
    omega
  rw [hput, field_eq, Nat.add_comm _ (v % 2 ^ lo), Nat.add_mul_div_right _ _ (Nat.two_pow_pos lo),
    Nat.div_eq_of_lt (Nat.mod_lt _ (Nat.two_pow_pos lo)), Nat.zero_add, Nat.add_comm, Nat.add_mul_mod_self_right, Nat.mod_mod]

/-- A word put into a core mask reads back. -/
theorem field_putCores (c : BitVec 512) {i v : Nat} (hi : i < 16) (hv : v < 2 ^ 32) :
    field (putCores c i v).toNat (32 * i) 32 = v := by
  rw [putCores, field_ofNat _ (by omega), field_putField, Nat.mod_eq_of_lt hv]

/-- A core-mask register names one of the mask's 16 words. -/
def MaskWordOk : Option Reg → Prop
  | some (.partCores _ i) => i < 16
  | _ => True

theorem maskWordOk_ite {c : Prop} [Decidable c] {a b : Option Reg} (ha : MaskWordOk a) (hb : MaskWordOk b) : MaskWordOk (if c then a else b) := by
  split
  · exact ha
  · exact hb

theorem maskWordOk_partWindow (p o : Nat) : MaskWordOk (partWindow p o) := by
  unfold partWindow
  split <;> trivial

theorem maskWordOk_regLow (o : Nat) : MaskWordOk (regLow o) := by
  unfold regLow
  split <;> trivial

/-- The word of a core mask is four bits of the offset; no other place of a PF's BAR0 holds a mask word. -/
theorem maskWordOk_regAt (o : Nat) : MaskWordOk (regAt o) := by
  have hcores : MaskWordOk (some (.partCores ((o - 0x12000) / 0x40) (o % 0x40 / 4))) := by
    show o % 0x40 / 4 < 16
    omega
  have hlow := maskWordOk_regLow o
  have hwindow := maskWordOk_partWindow ((o - 0x11000) / 0x40) (o % 0x40)
  unfold regAt
  repeat' with_reducible refine maskWordOk_ite ?_ ?_
  any_goals assumption
  any_goals split
  all_goals trivial

theorem bit_eq (v i : Nat) : bit v i = decide (v / 2 ^ i % 2 = 1) := by
  rw [bit, Nat.shiftRight_eq_div_pow]
  rfl

theorem partResAuth_pf {s : State} {f p : Nat} (h : partResAuth s f p = .ok) : isPf f = true := by
  unfold partResAuth at h
  cases hf : isPf f with
  | true => rfl
  | false => simp [hf] at h

/-- What a plain write of `v` to register `g` leaves: its writable fields hold the value's, and only registers changed. -/
def PlainWrite (s u : State) (fn : Nat) (g : Reg) (v : Nat) : Prop :=
  (∀ b ∈ Claims.plainFields g, field (regValue u fn g) b.1 b.2 = field v b.1 b.2)
    ∧ u = { s with
        fns := u.fns, ports := u.ports, parts := u.parts, fabOwner := u.fabOwner, fabOwnerPart := u.fabOwnerPart
        q := { s.q with rings := u.q.rings, orings := u.q.orings }, dram := { s.dram with regions := u.dram.regions }
        links := { s.links with minWl := u.links.minWl, q16Up := u.links.q16Up, q16Down := u.links.q16Down, qpskUp := u.links.qpskUp,
                                qpskDown := u.links.qpskDown, xt16 := u.links.xt16, xtOff := u.links.xtOff }
        kt := { s.kt with hostCap := u.kt.hostCap } }

/-- A write to a plain register is guarded by its authority, and with it takes the value. The registers that do not take every
value, the core mask and those that a VF reads otherwise need a word of their own; in the others each field reads back as put. -/
theorem writeReg_plain {s : State} {fn : Nat} {g : Reg} {a : Auth} (w : Word32) (hg : Claims.authority s fn g = some a)
    (hr : refusedFn s fn = false) :
    ∃ u, writeReg s fn g w {} = guarded s fn a u
      ∧ (a = .ok → (isPf fn = true → MaskWordOk (some g)) → Claims.takes s fn g w.toNat → PlainWrite s u fn g w.toNat) := by
  have hw := w.isLt
  cases g <;> cases hg <;>
    refine ⟨_, by simp only [writeReg, ringSetup, hr, Bool.and_false, Bool.false_eq_true, if_false]; rfl, fun ha hm ht => ?_⟩
  case partTimeout p =>
    obtain ⟨h1, h2⟩ := ht
    rw [if_neg (by simp [timeoutBad, field_eq] at *; omega)]
    exact ⟨by simp [Claims.plainFields, regValue, field_eq], rfl⟩
  case qeSweep =>
    obtain ⟨h1, h2⟩ := ht
    rw [if_neg (by simp; omega)]
    exact ⟨by simp [Claims.plainFields, regValue, field_eq], rfl⟩
  case hxCfg =>
    obtain ⟨h1, h2⟩ := ht
    rw [if_neg (by simp; omega)]
    exact ⟨by simp [Claims.plainFields, regValue, field_eq]; omega, rfl⟩
  case modeThr =>
    obtain ⟨h1, h2, h3⟩ := ht
    rw [if_pos (by simp; omega)]
    exact ⟨by simp [Claims.plainFields, regValue, field_eq]; omega, rfl⟩
  case xtThr =>
    have h : field w.toNat 0 8 < field w.toNat 8 8 := ht
    rw [if_pos h]
    exact ⟨by simp [Claims.plainFields, regValue, field_eq]; omega, rfl⟩
  case ktCap =>
    rw [if_neg (Nat.not_lt.2 ht)]
    exact ⟨by simp [Claims.plainFields, regValue, field_eq], rfl⟩
  case partCores p i =>
    have hi : i < 16 := hm (partResAuth_pf ha)
    exact ⟨by simp [Claims.plainFields, regValue, field_putCores _ hi hw], rfl⟩
  case partRings p => exact ⟨by simp [Claims.plainFields, regValue, unitField, partResAuth_pf ha, field_eq]; omega, rfl⟩
  case partORings p => exact ⟨by simp [Claims.plainFields, regValue, unitField, partResAuth_pf ha, field_eq]; omega, rfl⟩
  case mbData i =>
    have hb : (getFn s fn).mbBusy = false := ht
    exact ⟨by simp [Claims.plainFields, regValue, hb, tget_tset], rfl⟩
  case fnFabOwner =>
    refine ⟨?_, rfl⟩
    simp [Claims.plainFields, regValue, b2n, bit_eq, field_eq]
    split <;> omega
  case dbLo n =>
    refine ⟨?_, rfl⟩
    simp [Claims.plainFields, regValue, b2n, bit_eq, field_eq, putLow, tget_tset]
    split <;> omega
  all_goals
    refine ⟨?_, rfl⟩
    simp [Claims.plainFields, regValue, unitField, field_eq, putLow, putHigh, tget_tset] <;> omega

theorem writeReg_readOnly {g : Reg} (h : Claims.readOnly g = true) (s : State) (fn : Nat) (w : Word32) (mem : MemIn) :
    writeReg s fn g w mem = s := by
  cases g <;> cases h <;> rfl

section
variable {s : State} {fn offset : Nat} {enables : BitVec 4} {value : Word32}

/-- A write that does not cover one aligned word. -/
theorem registerWrite_partial (ha : fnAnswers s fn = true) (h : enables ≠ 0xF#4 ∨ offset % 4 ≠ 0) :
    exec (.registerWrite fn offset enables value) s = .next (updFn s fn (fun r => { r with badAccess := true })) := by
  show execRegisterWrite fn offset enables value s = _
  simp [execRegisterWrite, ha, h]

/-- A write of one aligned word goes by the place of its offset. -/
theorem registerWrite_word (ha : fnAnswers s fn = true) (he : enables = 0xF#4) (ho : offset % 4 = 0) :
    exec (.registerWrite fn offset enables value) s = .next (match placeAt s fn offset with
      | .reg g => writeReg s fn g value {}
      | .noPart => updFn s fn (fun r => { r with foreign := true })
      | .none => s) := by
  show execRegisterWrite fn offset enables value s = _
  simp only [execRegisterWrite, ha, he, ho]
  cases placeAt s fn offset <;> rfl

/-- What an update of the function's own registers leaves alone. -/
theorem updFn_marks (g : FnRegs → FnRegs) (c : Instr) (h : exec c s = .next (updFn s fn g)) :
    ∃ t, exec c s = .next t ∧ getFn t fn = g (getFn s fn) ∧ (∀ f, f ≠ fn → getFn t f = getFn s f) ∧ t = { s with fns := t.fns } :=
  ⟨_, h, by simp, fun f hf => by simp [hf], rfl⟩

end

theorem guarded_foreign (s : State) (f : Nat) (u : State) : guarded s f .foreign u = updFn s f (fun r => { r with foreign := true }) := rfl

theorem guarded_late (s : State) (f : Nat) (u : State) : guarded s f .late u = updFn s f (fun r => { r with lateWrite := true }) := rfl

/-- FN_STATUS clears the bits written 1. -/
theorem writeReg_fnStatus (s : State) (fn : Nat) (w : Word32) :
    writeReg s fn .fnStatus w {} = updFn s fn (fun r => { r with
      badAccess := r.badAccess && !bit w.toNat 2, foreign := r.foreign && !bit w.toNat 1, lateWrite := r.lateWrite && !bit w.toNat 0 }) := rfl

/-- The mailbox's GO and BUSY after a write of its control register. -/
theorem writeReg_mbCtrl (s : State) (fn : Nat) (w : Word32) :
    writeReg s fn .mbCtrl w {} = updFn s fn (fun r => { r with mbGo := r.mbGo || (bit w.toNat 31 && !r.mbBusy), mbBusy := r.mbBusy || bit w.toNat 31 }) := by
  show updFn s fn (fun r => if bit w.toNat 31 && !r.mbBusy then { r with mbGo := true, mbBusy := true } else r) = _
  congr 1
  funext r
  cases hset : bit w.toNat 31 && !r.mbBusy with
  | true =>
    obtain ⟨hbit, hbusy⟩ : bit w.toNat 31 = true ∧ r.mbBusy = false := by simpa using hset
    simp [hbit, hbusy]
  | false =>
    have hbusy : (r.mbBusy || bit w.toNat 31) = r.mbBusy := by
      cases hb : r.mbBusy <;> simp_all
    rw [hbusy, Bool.or_false]
    rfl

theorem maskWordOk_placeAt {s : State} {fn o : Nat} {g : Reg} (hf : isPf fn = true) (hp : placeAt s fn o = .reg g) : MaskWordOk (some g) := by
  have h := maskWordOk_regAt o
  cases hr : regAt o with
  | none => simp [placeAt, hf, hr, ofReg] at hp
  | some x =>
    simp only [placeAt, hf, hr, ofReg, if_true, VfPlace.reg.injEq] at hp
    rwa [hr, hp] at h

/-- Settles O20: partial writes, writes by authority, the registers with marks of their own, and reads of other widths. -/
theorem registerWriteAuthority : Obligations.RegisterWriteAuthority := by
  unfold Obligations.RegisterWriteAuthority
  intro fn offset enables value s ha
  refine ⟨fun h => updFn_marks _ _ (registerWrite_partial ha h), fun he ho => ?_, fun at_ hw => ?_⟩
  · have hexec : exec (.registerWrite fn offset enables value) s = _ := registerWrite_word ha he ho
    have hreg {g : Reg} (hp : placeAt s fn offset = .reg g) : exec (.registerWrite fn offset enables value) s = .next (writeReg s fn g value {}) := by
      rw [hexec, hp]
    refine ⟨fun g hp hacc => ?_, fun hp hpf hoff hcap => ?_, fun hp => ?_, fun hp => ?_, fun hp => ?_, fun hp => ?_⟩
    · have hr : refusedFn s fn = false := by
        unfold refusedFn
        rcases hacc with h | h <;> simp [h]
      have hwrite {a : Auth} (hg : Claims.authority s fn g = some a) := writeReg_plain value hg hr
      refine ⟨fun hg => ?_, fun hg => ?_, fun hg ht => ?_⟩
      · obtain ⟨u, hu, _⟩ := hwrite hg
        exact updFn_marks _ _ ((hreg hp).trans (congrArg _ (hu.trans (guarded_foreign s fn u))))
      · obtain ⟨u, hu, _⟩ := hwrite hg
        exact updFn_marks _ _ ((hreg hp).trans (congrArg _ (hu.trans (guarded_late s fn u))))
      · obtain ⟨u, hu, hplain⟩ := hwrite hg
        exact ⟨u, (hreg hp).trans (congrArg _ hu), hplain rfl (fun hf => maskWordOk_placeAt hf hp) ht⟩
    · have hauth : modAuth s fn = .ok := by simp [modAuth, hpf, hoff]
      rw [hreg hp]
      show Host.Outcome.next (guarded s fn (modAuth s fn) _) = _
      rw [hauth]
      show Host.Outcome.next (if field value.toNat 0 16 < 100 then s else _) = _
      rw [if_neg (Nat.not_lt.2 hcap)]
    · exact updFn_marks _ _ ((hreg hp).trans (congrArg _ (writeReg_fnStatus s fn value)))
    · exact updFn_marks _ _ ((hreg hp).trans (congrArg _ (writeReg_mbCtrl s fn value)))
    · exact updFn_marks _ _ (by rw [hexec, hp])
    · rcases hp with hp | ⟨g, hp, hro⟩
      · rw [hexec, hp]
      · rw [hreg hp, writeReg_readOnly hro]
  · intro first n latched hplain
    obtain ⟨hlatch, hkeep, hbytes⟩ := readWords_plain fn n (4 * first) s (fun i hi => by
      rw [← Nat.mul_add]; exact hplain i hi)
    obtain ⟨hfn, hother, hframe⟩ := hlatch
    have hread : exec (.lowWordRead fn at_) s = _ := execLowWordRead_bytes ha hw
    refine ⟨_, hread, ?_, hkeep, hfn, hother, ?_⟩
    · rw [hbytes]
      simp only [← Nat.mul_add]
    · show ({ (readWords fn n (4 * first) s).1 with lastRead := _ } : State) = _
      rw [hframe]

end Sys2Proof.Machine
end

section
/-! ### Completion before dispatch (R84, R89, R125) -/

namespace Sys2Proof.Machine

open Sys2Proof

/-- The record of a descriptor that has no in-flight slot is written to its output ring, or held there. -/
theorem recordOut_undispatched (s : State) (p ring : Nat) (irq : Bool) (b : Bytes) :
    let o := (getRing s ring).outRing
    let x := getORing s o
    (oringOpen s p o = true →
      ∃ fns m, recordOut s p ring irq none b
          = { s with fns := fns, host := m, q := { s.q with orings := tset {} o { x with produced := (x.produced + 1) % 2 ^ 32 } s.q.orings } }
        ∧ (b.length ≤ recSize x.recsz → x.base + 2 ^ x.size * recSize x.recsz + 64 ≤ 2 ^ 64 →
           mread m (hostKey (fnPort (getPart s p).owner) (x.base + x.produced % 2 ^ x.size * recSize x.recsz)) b.length = b))
    ∧ (oringOpen s p o = false →
      ∃ fns h, recordOut s p ring irq none b
          = { s with fns := fns, q := { s.q with orings := tset {} o { x with held := x.held ++ [h] } s.q.orings } } ∧ h.bytes = b) := by
  intro o x
  unfold recordOut
  refine ⟨fun h => ?_, fun h => ?_⟩
  · rw [if_pos h]
    obtain ⟨m, hput, hm⟩ := putRecord_spec s p o b
    rw [hput]
    split
    · obtain ⟨fns, hleaf⟩ := setOwnerLeaf_frame { s with host := m, q := { s.q with orings := tset {} o { x with produced := (x.produced + 1) % 2 ^ 32 } s.q.orings } }
        p (ringLeafOff 0x41000 ring) (2 ^ (ring % 32))
      exact ⟨fns, m, hleaf, hm⟩
    · exact ⟨s.fns, m, rfl, hm⟩
  · rw [if_neg (by simp [o, h])]
    obtain ⟨fns, hheld⟩ := holdRecord_frame s p o { kind := .completion ring irq none, bytes := b }
    exact ⟨fns, _, hheld, rfl⟩

/-- Signalling a counter changes that counter only. -/
theorem signalEvt_frame (s : State) (e : Nat) (fail : Bool) :
    ∃ es, signalEvt s e fail = { s with q := { s.q with evts := es } }
      ∧ ∀ k, tget {} es k = if k = e ∧ k ≠ 0xFFFF then { value := (getEvt s k).value + 1#32, poison := (getEvt s k).poison || fail } else getEvt s k := by
  by_cases he : e = 0xFFFF
  · refine ⟨s.q.evts, by unfold signalEvt; rw [if_pos he], fun k => ?_⟩
    rw [if_neg (fun h => h.2 (h.1.trans he))]
    rfl
  · refine ⟨_, signalEvt_eq s e fail he, fun k => ?_⟩
    rw [tget_tset]
    by_cases hk : k = e
    · subst hk; simp [he]
    · simp [hk, getEvt]

/-- Noting a completion among a ring's fetched descriptors leaves its other fields. -/
theorem recentDone_frame (s : State) (ring pos st : Nat) (ls : List Latch) :
    ∃ rs, recentDone s ring pos st ls = { s with q := { s.q with rings := rs } }
      ∧ (∃ l, tget {} rs ring = { getRing s ring with recent := l }) ∧ ∀ k, k ≠ ring → tget {} rs k = getRing s k := by
  refine ⟨_, rfl, ⟨_, tget_tset_same ring _ _⟩, fun k hk => tget_tset_other _ hk _⟩

/-- The state in which the completion record of an undispatched descriptor leaves: its counter signalled, its sequence
number consumed, its completion noted. -/
theorem completeUndispatched_eq {s : State} {p ring pos st xs : Nat} {d : Bytes} (g : Ring → Ring) :
    ∃ es gs rs, completeUndispatched (updRing s ring g) p ring pos d (evtsOk s p d) st xs
        = recordOut { s with q := { s.q with evts := es, rings := rs }, pl := { s.pl with groups := gs } } p ring (dIrq d) none
            (completionRecord d ring st xs 0)
      ∧ (∀ e, tget {} es e = if evtsOk s p d = true ∧ e = dSigEvt d ∧ e ≠ 0xFFFF then
          { value := (getEvt s e).value + 1#32, poison := true } else getEvt s e)
      ∧ (∃ l, tget {} rs ring = { g (getRing s ring) with recent := l }) ∧ ∀ k, k ≠ ring → tget {} rs k = getRing s k := by
  obtain ⟨es, hsig, hes⟩ : ∃ es, (if evtsOk s p d then signalEvt (updRing s ring g) (dSigEvt d) true else updRing s ring g)
        = { updRing s ring g with q := { (updRing s ring g).q with evts := es } }
      ∧ ∀ e, tget {} es e = if evtsOk s p d = true ∧ e = dSigEvt d ∧ e ≠ 0xFFFF then
          { value := (getEvt s e).value + 1#32, poison := true } else getEvt s e := by
    cases hok : evtsOk s p d with
    | true =>
      obtain ⟨es, h1, h2⟩ := signalEvt_frame (updRing s ring g) (dSigEvt d) true
      exact ⟨es, h1, fun e => by rw [h2]; simp⟩
    | false => exact ⟨s.q.evts, rfl, fun e => by simp [getEvt]⟩
  obtain ⟨gs, hseq⟩ := consumeSeq_frame { updRing s ring g with q := { (updRing s ring g).q with evts := es } } p d
  obtain ⟨rs, hdone, ⟨l, hring⟩, hrings⟩ := recentDone_frame
    { updRing s ring g with q := { (updRing s ring g).q with evts := es }, pl := { s.pl with groups := gs } } ring pos st []
  refine ⟨es, gs, rs, ?_, hes, ⟨l, hring.trans ?_⟩, fun k hk => (hrings k hk).trans ?_⟩
  · unfold completeUndispatched
    rw [hsig, hseq]
    exact congrArg (fun u => recordOut u p ring (dIrq d) none (completionRecord d ring st xs 0)) hdone
  · show ({ getRing (updRing s ring g) ring with recent := l } : Ring) = _
    simp
  · show getRing (updRing s ring g) k = _
    simp [hk]

/-- A descriptor that leaves its ring undispatched, as `g` changes the ring, completes before its dispatch. -/
theorem completeUndispatched_ends {s : State} {p ring : Nat} (pos st xs : Nat) (d : Bytes) {g : Ring → Ring} (hg : ∀ r, (g r).outRing = r.outRing) :
    let t := completeUndispatched (updRing s ring g) p ring pos d (evtsOk s p d) st xs
    (∃ l, getRing t ring = { g (getRing s ring) with recent := l }) ∧ Claims.endsUndispatched s t p ring d st xs := by
  obtain ⟨es, gs, rs, heq, hes, ⟨l, hring⟩, hrings⟩ := completeUndispatched_eq (s := s) (p := p) (ring := ring) (pos := pos) (st := st) (xs := xs) (d := d) g
  rw [heq]
  have hout : (tget {} rs ring).outRing = (getRing s ring).outRing := by rw [hring]; exact hg _
  obtain ⟨hopen, hheld⟩ := recordOut_undispatched { s with q := { s.q with evts := es, rings := rs }, pl := { s.pl with groups := gs } } p ring
    (dIrq d) (completionRecord d ring st xs 0)
  unfold getRing at hopen hheld
  simp only [hout] at hopen hheld
  cases ho : oringOpen s p (getRing s ring).outRing with
  | true =>
    obtain ⟨fns, m, e, hm⟩ := hopen ho
    rw [e]
    refine ⟨⟨l, hring⟩, hes, fun _ => ⟨?_, fun hb => ?_⟩, fun h => ?_, fun o hne => ?_, hrings, rfl⟩
    · show (tget {} (tset {} _ _ _) _ : ORing).produced = _
      rw [tget_tset_same]
      rfl
    · exact hm (by rw [completionRecord_length]; exact recSize_ge _) hb
    · rw [ho] at h; cases h
    · exact tget_tset_other _ hne _
  | false =>
    obtain ⟨fns, h, e, hb⟩ := hheld ho
    rw [e]
    refine ⟨⟨l, hring⟩, hes, fun h => ?_, fun _ => ⟨h, ?_, hb⟩, fun o hne => ?_, hrings, rfl⟩
    · rw [ho] at h; cases h
    · show (tget {} (tset {} _ _ _) _ : ORing).held = _
      rw [tget_tset_same]
      rfl
    · exact tget_tset_other _ hne _

/-- A refused head descriptor leaves its ring and completes before its dispatch. -/
theorem popWaiting_completes {s : State} {p ring : Nat} {f : Fetched} {rest : List Fetched} (st xs : Nat) (hw : (getRing s ring).waiting = f :: rest) :
    let t := completeUndispatched (popWaiting s ring) p ring f.pos f.bytes (evtsOk s p f.bytes) st xs
    (getRing t ring).waiting = rest ∧ (getRing t ring).consumed = (getRing s ring).consumed ∧ Claims.endsUndispatched s t p ring f.bytes st xs := by
  obtain ⟨⟨l, hring⟩, hends⟩ := completeUndispatched_ends (s := s) (p := p) (ring := ring) f.pos st xs f.bytes
    (g := fun r => { r with waiting := r.waiting.drop 1 }) (fun _ => rfl)
  refine ⟨?_, ?_, hends⟩
  · exact (congrArg Ring.waiting hring).trans (by simp [hw])
  · exact (congrArg Ring.consumed hring).trans rfl

/-- Settles O13: either way the head descriptor is refused as `execDispatch` refuses it, by a later check or by the poison. -/
theorem dispatchPropagatesPoison : Obligations.DispatchPropagatesPoison := by
  unfold Obligations.DispatchPropagatesPoison
  intro ring st xs s p f rest r d hp hw hhead hwait hcause
  refine ⟨_, ?_, popWaiting_completes st xs hw⟩
  show execDispatch ring s = _
  have hw' : (getRing s ring).waiting = f :: rest := hw
  rcases hcause with hlate | ⟨hlate, hevt, hpoison, hpass, rfl, rfl⟩
  · simp [execDispatch, hp, hw', hhead, hwait, hlate, d, r]
  · simp [execDispatch, hp, hw', hhead, hwait, hlate, hevt, hpoison, hpass, d, r]

end Sys2Proof.Machine
end

section
/-! ### What sending a message changes (R262, R266, R285) -/

namespace Sys2Proof.Machine

open Sys2Proof

/-- From `s` to `t` nothing changes but the fabric, tag frames on the wire, and what raising an event touches: function
registers, output rings, host memory and the log. -/
def Sends (s t : State) : Prop :=
  t = { s with fns := t.fns, host := t.host, fab := t.fab, dbx := t.dbx, q := { s.q with orings := t.q.orings }, links := { s.links with wire := t.links.wire } }

theorem sends_refl (s : State) : Sends s s := rfl

theorem sends_trans {s t u : State} (a : Sends s t) (b : Sends t u) : Sends s u := by
  unfold Sends at a b ⊢
  rw [a] at b
  exact b

theorem sends_ite {s0 a b : State} {c : Prop} [Decidable c] (ha : Sends s0 a) (hb : Sends s0 b) : Sends s0 (if c then a else b) := by
  split
  · exact ha
  · exact hb

theorem sends_foldl {s0 : State} {β : Type} {g : State → β → State} (hg : ∀ t x, Sends s0 t → Sends s0 (g t x)) :
    ∀ (l : List β) {s : State}, Sends s0 s → Sends s0 (l.foldl g s)
  | [], _, h => h
  | x :: l, _, h => sends_foldl hg l (hg _ x h)

theorem sends_forN {s0 : State} {g : Nat → State → State} (hg : ∀ i t, Sends s0 t → Sends s0 (g i t)) :
    ∀ (n : Nat) {s : State}, Sends s0 s → Sends s0 (forN n g s)
  | 0, _, h => h
  | n + 1, _, h => hg n _ (sends_forN hg n h)

theorem sends_setLeaf {s0 s : State} (f off bits : Nat) (h : Sends s0 s) : Sends s0 (setLeaf s f off bits) := sends_trans h rfl

theorem sends_setOwnerLeaf {s0 s : State} (p off bits : Nat) (h : Sends s0 s) : Sends s0 (setOwnerLeaf s p off bits) :=
  sends_ite (sends_setLeaf _ _ _ h) h

theorem sends_setPfLeaf {s0 s : State} (port off bits : Nat) (h : Sends s0 s) : Sends s0 (setPfLeaf s port off bits) :=
  sends_ite (sends_setLeaf _ _ _ h) h

theorem sends_updORing {s0 s : State} (o : Nat) (g : ORing → ORing) (h : Sends s0 s) : Sends s0 (updORing s o g) := sends_trans h rfl

theorem sends_putRecord {s0 s : State} (p o : Nat) (b : Bytes) (h : Sends s0 s) : Sends s0 (putRecord s p o b) := by
  obtain ⟨m, e⟩ := putRecord_frame s p o b
  rw [e]
  exact sends_trans h rfl

theorem sends_holdRecord {s0 s : State} (p o : Nat) (r : HeldRec) (h : Sends s0 s) : Sends s0 (holdRecord s p o r) :=
  sends_setOwnerLeaf _ _ _ (sends_updORing _ _ h)

theorem sends_addLog {s0 s : State} (kind code part sev : Nat) (args : Bytes) (h : Sends s0 s) : Sends s0 (addLog s kind code part sev args) := by
  rw [addLog_eq]
  exact sends_trans h rfl

theorem sends_eventToPart {s0 s : State} (p : Nat) (b : Bytes) (h : Sends s0 s) : Sends s0 (eventToPart s p b) :=
  sends_ite h (sends_ite (sends_setOwnerLeaf _ _ _ (sends_putRecord _ _ _ h)) (sends_ite (sends_updORing _ _ h) (sends_holdRecord _ _ _ h)))

theorem sends_raise {s0 s : State} (code part : Nat) (args : Bytes) (h : Sends s0 s) : Sends s0 (raise s code part args) := by
  unfold raise
  split
  next modScope sev _ =>
  extract_lets s1 k off bits src s2 record s3 s4
  have hlog : Sends s0 s2 := sends_trans (sends_addLog 1 code part sev args h) rfl
  refine sends_ite ?_ (sends_eventToPart _ _ (sends_ite (sends_setPfLeaf _ _ _ hlog) hlog))
  exact sends_forN (fun p t ht => sends_ite (sends_eventToPart _ _ ht) ht) 8 (sends_setPfLeaf _ _ _ (sends_setPfLeaf _ _ _ hlog))

theorem sends_raiseMod {s0 s : State} (code : Nat) (args : Bytes) (h : Sends s0 s) : Sends s0 (raiseMod s code args) := sends_raise _ _ _ h

theorem sends_discard {s0 s : State} (kind : Nat) (h : Sends s0 s) : Sends s0 (discard s kind) :=
  sends_ite (sends_raiseMod _ _ (sends_trans h rfl)) (sends_trans h rfl)

theorem sends_sendTag {s0 s : State} (port : Nat) (t : BitVec 64) (h : Sends s0 s) : Sends s0 (sendTag s port t) :=
  sends_ite h (sends_trans h rfl)

theorem sends_cancelReserved {s0 s : State} (port : Nat) (h : Sends s0 s) : Sends s0 (cancelReserved s port) := by
  unfold cancelReserved
  split
  · exact sends_ite h (sends_sendTag _ _ (sends_discard _ (sends_trans h rfl)))
  · exact h

theorem sends_enqueue {s0 s : State} (port xid vc : Nat) (q : QPacket) (h : Sends s0 s) : Sends s0 (enqueue s port xid vc q) :=
  sends_ite (sends_cancelReserved _ (sends_trans h rfl)) (sends_trans h rfl)

theorem sends_routeFault {s0 s : State} (dst vc : Nat) (zyx : Bool) (h : Sends s0 s) : Sends s0 (routeFault s dst vc zyx) := by
  unfold routeFault
  extract_lets k s1
  have hraised : Sends s0 s1 := sends_raiseMod _ _ h
  clear_value s1
  exact sends_ite hraised (sends_trans hraised rfl)

theorem sends_lostNotice {s0 s : State} (src dst vc : Nat) (zyx : Bool) (h : Sends s0 s) : Sends s0 (lostNotice s src dst vc zyx) :=
  sends_ite h (sends_ite (sends_routeFault _ _ _ (sends_trans h rfl)) (sends_trans h rfl))

theorem sends_assemble {s0 s : State} (p : Bytes) (h : Sends s0 s) : Sends s0 (assemble s p) := by
  unfold assemble
  extract_lets dst msg same r put idle bury take sa ra src broken s1 r1
  have hput : ∀ {t} x, Sends s0 t → Sends s0 (put t x) := fun x ht => sends_trans ht rfl
  have hbury : ∀ {t} x, Sends s0 t → Sends s0 (bury t x) := fun x ht => hput _ (sends_discard _ ht)
  have htake : ∀ {t} x b, Sends s0 t → Sends s0 (take t x b) := fun x b ht => sends_ite (sends_trans (hput (idle x) ht) rfl) (hput _ ht)
  have hdiscarded : Sends s0 s1 := sends_ite (sends_discard _ h) h
  refine sends_ite (hput _ (sends_ite h (sends_discard _ h))) (sends_ite (sends_ite (htake _ _ h) (hbury _ h)) ?_)
  exact sends_ite (htake _ _ hdiscarded) (hbury _ hdiscarded)

theorem sends_mcastOut {s0 s : State} (img p : Bytes) (fromAx : Option Nat) (via : Option SegId) (op : Option Nat) (h : Sends s0 s) :
    Sends s0 (mcastOut s img p fromAx via op) :=
  sends_foldl (fun _ _ ht => sends_enqueue _ _ _ _ ht) _ (sends_ite (sends_discard _ h) (sends_foldl (fun _ _ ht => sends_discard _ ht) _ h))

/-- The state in which a packet goes on, is dropped or is lost. -/
theorem sends_onward {s0 s t : State} {img p : Bytes} {fromAx : Option Nat} {via : Option SegId} {op : Option Nat} (h : Sends s0 s)
    (e : onward s img p fromAx via op = .sent t ∨ onward s img p fromAx via op = .dropped t ∨ onward s img p fromAx via op = .lost t) :
    Sends s0 t := by
  have hdiscard : Sends s0 (discard s 3) := sends_discard _ h
  unfold onward at e
  extract_lets here dst at e
  split at e
  · split at e
    · simp at e
    · obtain rfl : discard s 3 = t := by simpa using e
      exact hdiscard
  · split at e
    · obtain rfl : discard s 3 = t := by simpa using e
      exact hdiscard
    · split at e
      · obtain rfl : discard s 3 = t := by simpa using e
        exact hdiscard
      · simp only [Onward.sent.injEq, reduceCtorEq, or_false] at e
        exact e ▸ sends_enqueue _ _ _ _ h

theorem sends_injectOne {s0 s : State} (img : Bytes) (m : OutMsg) (h : Sends s0 s) : Sends s0 (injectOne s img m) := by
  refine sends_foldl (fun t p ht => sends_ite (sends_mcastOut _ _ _ _ _ ht) ?_) _ (sends_trans h rfl)
  split
  · exact sends_assemble _ ht
  · next e => exact sends_onward ht (.inl e)
  · next e => exact sends_onward ht (.inr (.inl e))
  · next e => exact sends_lostNotice _ _ _ _ (sends_onward ht (.inr (.inr e)))

theorem sends_inject {s0 s : State} (h : Sends s0 s) : Sends s0 (inject s) := by
  unfold inject
  split
  · exact h
  · exact sends_ite h (sends_foldl (fun _ _ ht => sends_injectOne _ _ ht) _ (sends_trans h rfl))

theorem sends_sendMsg {s0 s : State} (m : OutMsg) (h : Sends s0 s) : Sends s0 (sendMsg s m) := sends_inject (sends_trans h rfl)

end Sys2Proof.Machine
end

section
/-! ### Contexts of collectives (R234, R245): who puts them, ends them, and leaves them alone -/

namespace Sys2Proof.Machine

open Sys2Proof

/-! #### Messages -/

theorem Sends.pl_eq {s t : State} (h : Sends s t) : t.pl = s.pl := by
  unfold Sends at h
  rw [h]

theorem Sends.ctxs_eq {s t : State} (h : Sends s t) : t.pl.ctxs = s.pl.ctxs := congrArg Plait.ctxs h.pl_eq

theorem Sends.findOp_eq {s t : State} (h : Sends s t) (id : Nat) : findOp t id = findOp s id := by
  unfold Sends at h
  rw [h]
  rfl

theorem sends_sendControlTo {s0 s : State} (vc kind : Nat) (c : CollRef) (op me dst at_ : Nat) (key : ChunkKey) (payload : Bytes) (h : Sends s0 s) :
    Sends s0 (sendControlTo s vc kind c op me dst at_ key payload) := sends_sendMsg _ h

theorem sends_sendControl {s0 s : State} (vc kind : Nat) (c : CollRef) (op me dst : Nat) (key : ChunkKey) (payload : Bytes) (h : Sends s0 s) :
    Sends s0 (sendControl s vc kind c op me dst key payload) := by
  unfold sendControl
  split
  · exact h
  · exact sends_sendControlTo _ _ _ _ _ _ _ _ _ h

theorem sends_answerChunk (s : State) (came : Came) (kind grants : Nat) (h : ChunkHdr) : Sends s (answerChunk s came kind grants h) := by
  unfold answerChunk
  split
  · exact sends_refl s
  · exact sends_sendControlTo _ _ _ _ _ _ _ _ _ (sends_refl s)

theorem sends_emitChunk (s : State) (x : Ctx) (d : Bytes) (key : ChunkKey) (dst : Nat) (b : Bytes) : Sends s (emitChunk s x d key dst b) :=
  sends_sendMsg _ (sends_refl s)

/-! #### Operations that leave every context -/

theorem foldl_ctxs {β : Type} {g : State → β → State} (hg : ∀ t x, (g t x).pl.ctxs = t.pl.ctxs) :
    ∀ (l : List β) (s : State), (l.foldl g s).pl.ctxs = s.pl.ctxs
  | [], _ => rfl
  | x :: l, s => (foldl_ctxs hg l (g s x)).trans (hg s x)

@[simp] theorem raise_ctxs (s : State) (code part : Nat) (args : Bytes) : (raise s code part args).pl.ctxs = s.pl.ctxs :=
  (quiet_raise s code part args (quiet_refl s)).ctxs

@[simp] theorem complete_ctxs (s : State) (o : Op) (st xs info : Nat) : (complete s o st xs info).pl.ctxs = s.pl.ctxs :=
  (quiet_complete s o st xs info (quiet_refl s)).ctxs

@[simp] theorem completeArming_ctxs (s : State) (a : Arming) (st xs info : Nat) : (completeArming s a st xs info).pl.ctxs = s.pl.ctxs := by
  unfold completeArming
  extract_lets s1
  split
  · exact complete_ctxs s1 _ st xs info
  · rfl

@[simp] theorem failArming_ctxs (s : State) (a : Arming) (st xs info : Nat) : (failArming s a st xs info).pl.ctxs = s.pl.ctxs :=
  completeArming_ctxs _ a st xs info

@[simp] theorem armEnds_ctxs (s : State) (x : Ctx) (st xs : Nat) : (armEnds s x st xs).pl.ctxs = s.pl.ctxs := by
  unfold armEnds
  split
  · split
    · exact failArming_ctxs _ _ _ _ _
    · rfl
  · rfl

@[simp] theorem putStat_ctxs (s : State) (p : Nat) (b : Bytes) : (putStat s p b).pl.ctxs = s.pl.ctxs :=
  Sends.ctxs_eq (sends_ite (sends_refl s) (sends_ite (sends_setOwnerLeaf _ _ _ (sends_putRecord _ _ _ (sends_refl s)))
    (sends_holdRecord _ _ _ (sends_refl s))))

@[simp] theorem endLayer_ctxs (s : State) (p step : Nat) (committed : Bool) (l : Nat) : (endLayer s p step committed l).pl.ctxs = s.pl.ctxs := by
  unfold endLayer
  extract_lets e g0 g1 floor
  split
  next x incomplete _ =>
  extract_lets g2 ratio undef live low high args s1 s2 s3 v fl
  have h2 : s2.pl.ctxs = s.pl.ctxs := by
    show (if low then raise s1 0x0605 p args else s1).pl.ctxs = _
    split
    · exact raise_ctxs s1 _ _ _
    · rfl
  have h3 : s3.pl.ctxs = s2.pl.ctxs := by
    show (if high then raise s2 0x0606 p args else s2).pl.ctxs = _
    split
    · exact raise_ctxs s2 _ _ _
    · rfl
  rw [putStat_ctxs, h3, h2]

@[simp] theorem endLayers_ctxs (s : State) (p step : Nat) (committed : Bool) (ls : List Nat) : (endLayers s p step committed ls).pl.ctxs = s.pl.ctxs :=
  foldl_ctxs (fun t l => endLayer_ctxs t p step committed l) _ s

@[simp] theorem discardStep_ctxs (s : State) (p step st xs : Nat) : (discardStep s p step st xs).pl.ctxs = s.pl.ctxs := by
  unfold discardStep
  extract_lets as ls s0 v s1
  have h1 : s1.pl.ctxs = s.pl.ctxs := foldl_ctxs (g := unclaimLayer) (fun _ _ => rfl) _ s
  rw [endLayers_ctxs, foldl_ctxs (fun t a => completeArming_ctxs t a st xs (armInfo a)), h1]

@[simp] theorem stepUndecided_ctxs (s : State) (p : Nat) (d : Bytes) : (stepUndecided s p d).pl.ctxs = s.pl.ctxs := by
  unfold stepUndecided
  extract_lets step
  split
  · rw [raise_ctxs]
    unfold markUndecided
    extract_lets v
    split <;> rfl
  · exact discardStep_ctxs _ _ _ _ _

@[simp] theorem storeStats_ctxs (s : State) (x : Ctx) (es : List StatEntry) (bad : Bool) : (storeStats s x es bad).pl.ctxs = s.pl.ctxs := by
  unfold storeStats
  split
  · rfl
  · exact foldl_ctxs (g := storeStat _ _ bad) (fun _ _ => rfl) _ s

/-! #### Putting and ending a context -/

/-- The operations of the contexts that stand. -/
def ctxOps (s : State) : List Nat := s.pl.ctxs.map (·.op)

/-- Updating the first element that passes a test, in a list of which no other has the same image, replaces that one. -/
theorem mem_listUpdate_replace {α β : Type} [DecidableEq β] {f : α → β} {x y : α} (hy : f y = f x) :
    ∀ {l : List α}, (l.map f).Nodup → y ∈ listUpdate (fun z => f z = f x) (fun _ => x) l → y = x
  | z :: l, hn, hm => by
    obtain ⟨hz, hl⟩ := List.nodup_cons.1 (List.map_cons ▸ hn)
    simp only [listUpdate] at hm
    split at hm
    · next hzx =>
      rcases List.mem_cons.1 hm with e | e
      · exact e
      · have hzx' : f z = f x := by simpa using hzx
        exact absurd (List.mem_map.2 ⟨y, e, hy.trans hzx'.symm⟩) hz
    · next hzx =>
      rcases List.mem_cons.1 hm with e | e
      · subst e; simp [hy] at hzx
      · exact mem_listUpdate_replace hy hl e

theorem map_listUpdate_replace {α β : Type} [DecidableEq β] {f : α → β} {x : α} :
    ∀ l : List α, (listUpdate (fun z => f z = f x) (fun _ => x) l).map f = l.map f
  | [] => rfl
  | z :: l => by
    simp only [listUpdate]
    split
    · next h => simp only [List.map_cons]; rw [of_decide_eq_true h]
    · rw [List.map_cons, List.map_cons, map_listUpdate_replace l]

theorem mem_listUpdate_self {α : Type} {p : α → Bool} {x : α} : ∀ {l : List α}, (∃ z ∈ l, p z = true) → x ∈ listUpdate p (fun _ => x) l
  | z :: l, h => by
    simp only [listUpdate]
    split
    · exact List.mem_cons_self
    · next hz =>
      obtain ⟨w, hw, hp⟩ := h
      rcases List.mem_cons.1 hw with e | e
      · subst e; exact absurd hp hz
      · exact List.mem_cons_of_mem _ (mem_listUpdate_self ⟨w, e, hp⟩)

/-- Where contexts are told apart by their operation, the context put is the one of its operation. -/
theorem eq_of_mem_putCtx {s : State} {x y : Ctx} (hn : (ctxOps s).Nodup) (hm : y ∈ (putCtx s x).pl.ctxs) (hy : y.op = x.op) : y = x :=
  mem_listUpdate_replace (f := Ctx.op) hy hn hm

theorem ctxOps_putCtx (s : State) (x : Ctx) : ctxOps (putCtx s x) = ctxOps s := map_listUpdate_replace (f := Ctx.op) _

theorem mem_putCtx {s : State} {x : Ctx} (h : ∃ z ∈ s.pl.ctxs, z.op = x.op) : x ∈ (putCtx s x).pl.ctxs :=
  mem_listUpdate_self (by simpa using h)

theorem op_ne_of_mem_dropCtx {s : State} {op : Nat} {y : Ctx} (h : y ∈ (dropCtx s op).pl.ctxs) : y.op ≠ op := by
  simpa using (List.mem_filter.1 h).2

/-- The end of a collective leaves no context of it. -/
theorem op_ne_of_mem_endColl {s : State} {x y : Ctx} {st xs info : Nat} (h : y ∈ (endColl s x st xs info).pl.ctxs) : y.op ≠ x.op := by
  unfold endColl at h
  extract_lets s1 at h
  split at h
  · rw [complete_ctxs] at h
    exact op_ne_of_mem_dropCtx h
  · exact op_ne_of_mem_dropCtx h

theorem op_ne_of_mem_closeStats {s : State} {x y : Ctx} {es : List StatEntry} (h : y ∈ (closeStats s x es).pl.ctxs) : y.op ≠ x.op := by
  unfold closeStats at h
  split at h
  rw [armEnds_ctxs] at h
  exact op_ne_of_mem_endColl h

/-- A collective that fails leaves no context of it. -/
theorem op_ne_of_mem_failColl {s : State} {x y : Ctx} {st xs info : Nat} (h : y ∈ (failColl s x st xs info).pl.ctxs) : y.op ≠ x.op := by
  unfold failColl at h
  split at h
  · exact op_ne_of_mem_dropCtx h
  · extract_lets s1 s2 at h
    have hend : ∀ y ∈ s2.pl.ctxs, y.op ≠ x.op := fun y hy => op_ne_of_mem_endColl ((armEnds_ctxs _ x st xs) ▸ hy)
    split at h
    · unfold voteUndecided at h
      rw [stepUndecided_ctxs] at h
      exact hend y h
    · exact hend y h

theorem op_ne_of_mem_abortEnd {s : State} {x y : Ctx} {kind : AbortKind} {rank : Nat} (h : y ∈ (abortEnd s x kind rank).pl.ctxs) : y.op ≠ x.op := by
  unfold abortEnd at h
  extract_lets st x' s1 at h
  have hop : x'.op = x.op := rfl
  clear_value s1 x'
  rw [← hop]
  cases kind with
  | mismatch => exact op_ne_of_mem_failColl h
  | sendFailed => exact op_ne_of_mem_failColl h

/-- A collective that this member stops leaves no context of it. -/
theorem op_ne_of_mem_abortColl {s : State} {x y : Ctx} {kind : AbortKind} {rank : Nat} (h : y ∈ (abortColl s x kind rank).pl.ctxs) : y.op ≠ x.op :=
  op_ne_of_mem_abortEnd h

end Sys2Proof.Machine
end

section
/-! ### What a collective does when it goes on (R235, R246, R252) -/

namespace Sys2Proof.Machine

open Sys2Proof

/-- From `x` to `y` a context goes on with its own work: chunks are sent and granted, results measured, written and passed down;
what it is and what it has received stays, and so does a result that came down. -/
structure Progress (x y : Ctx) : Prop where
  frame : y = { x with sent := y.sent, grants := y.grants, granted := y.granted, written := y.written, measured := y.measured, result := y.result }
  result : ∀ b, x.result = some b → y.result = some b

theorem progress_refl (x : Ctx) : Progress x x := ⟨rfl, fun _ h => h⟩

theorem progress_trans {x y z : Ctx} (a : Progress x y) (b : Progress y z) : Progress x z where
  frame := by
    have hz := b.frame
    rw [a.frame] at hz
    exact hz
  result r h := b.result r (a.result r h)

theorem Progress.op_eq {x y : Ctx} (h : Progress x y) : y.op = x.op := by rw [h.frame]
theorem Progress.got_eq {x y : Ctx} (h : Progress x y) : y.got = x.got := by rw [h.frame]
theorem Progress.received_eq {x y : Ctx} (h : Progress x y) : y.received = x.received := by rw [h.frame]
theorem Progress.digests_eq {x y : Ctx} (h : Progress x y) : y.digests = x.digests := by rw [h.frame]

/-- A step of a context's work: the context makes progress, and the contexts that stand stay as they are. -/
structure Works (t u : State × Ctx) : Prop where
  ctxs : u.1.pl.ctxs = t.1.pl.ctxs
  progress : Progress t.2 u.2

theorem works_refl (t : State × Ctx) : Works t t := ⟨rfl, progress_refl _⟩

theorem works_trans {t u v : State × Ctx} (a : Works t u) (b : Works u v) : Works t v :=
  ⟨b.ctxs.trans a.ctxs, progress_trans a.progress b.progress⟩

theorem works_foldl {β : Type} {g : State × Ctx → β → State × Ctx} (hg : ∀ t x, Works t (g t x)) :
    ∀ (l : List β) (t : State × Ctx), Works t (l.foldl g t)
  | [], t => works_refl t
  | x :: l, t => works_trans (hg t x) (works_foldl hg l (g t x))

theorem works_ite {t a b : State × Ctx} {c : Prop} [Decidable c] (ha : Works t a) (hb : Works t b) : Works t (if c then a else b) := by
  split
  · exact ha
  · exact hb

theorem progress_spendGrant (x : Ctx) (dst : Nat) : Progress x (spendGrant x dst) := by
  unfold spendGrant
  extract_lets take
  split
  · exact ⟨rfl, fun _ h => h⟩
  · exact ⟨rfl, fun _ h => h⟩

theorem works_sendDue (d : Bytes) (t : State × Ctx) (u : Due) : Works t (sendDue d t u) := by
  obtain ⟨s, x⟩ := t
  unfold sendDue
  dsimp only
  refine works_ite (works_refl _) ?_
  split
  · exact works_refl _
  · exact ⟨(sends_emitChunk _ _ _ _ _ _).ctxs_eq, progress_trans (progress_spendGrant x u.dst) ⟨rfl, fun _ h => h⟩⟩

theorem works_sendDues (d : Bytes) : ∀ (us : List Due) (blocked : List Nat) (t : State × Ctx), Works t (sendDues d us blocked t)
  | [], _, t => works_refl t
  | u :: us, blocked, t => by
    simp only [sendDues]
    exact works_ite (works_sendDues d us blocked t) (works_trans (works_sendDue d t u) (works_sendDues d us _ _))

theorem writeCodes_ctxs (s : State) (c : ExecCtx) (sram : Bool) (base bitPos bits : Nat) (codes : List Nat) :
    (writeCodes s c sram base bitPos bits codes).pl.ctxs = s.pl.ctxs := by
  unfold writeCodes
  extract_lets off n len
  split
  · rfl
  · exact (quiet_devWrite _ _ _ _ _ (quiet_refl s)).ctxs

theorem writeBlocks_ctxs (s : State) (c : ExecCtx) (v : TView) (r col n : Nat) (bs : Blocks) : (writeBlocks s c v r col n bs).pl.ctxs = s.pl.ctxs := by
  unfold writeBlocks
  extract_lets codes s1
  have h1 : s1.pl.ctxs = s.pl.ctxs := writeCodes_ctxs ..
  split
  · exact (quiet_devWrite _ _ _ _ _ (quiet_refl s1)).ctxs.trans h1
  · exact h1

theorem works_deliver (d : Bytes) (src sg fmt c : Nat) (bs : Blocks) (t : State × Ctx) : Works t (deliver d src sg fmt c bs t) := by
  obtain ⟨s, x⟩ := t
  unfold deliver
  dsimp only
  refine works_ite (works_refl _) ?_
  split
  · exact works_refl _
  · exact ⟨writeBlocks_ctxs .., ⟨rfl, fun _ h => h⟩⟩

theorem works_measureRoots (d : Bytes) (t : State × Ctx) : Works t (measureRoots d t) := by
  refine works_ite (works_refl t) (works_foldl (fun t sg => works_foldl (fun t c => ?_) _ t) _ t)
  obtain ⟨s, x⟩ := t
  refine works_ite (works_refl _) ?_
  split
  · exact works_refl _
  · exact ⟨(quiet_measure _ _ _ _ (quiet_refl s)).ctxs, ⟨rfl, fun _ h => h⟩⟩

theorem works_deliverRoots (d : Bytes) (t : State × Ctx) : Works t (deliverRoots d t) := by
  refine works_ite (works_refl t) (works_foldl (fun t sg => works_ite (works_refl t) (works_foldl (fun t c => ?_) _ t)) _ t)
  obtain ⟨s, x⟩ := t
  refine works_ite (works_refl _) ?_
  split
  · exact works_refl _
  · exact works_deliver ..

theorem works_deliverMoved (d : Bytes) (t : State × Ctx) : Works t (deliverMoved d t) := by
  refine works_foldl (fun t u => ?_) _ t
  split
  · exact works_deliver ..
  · exact works_refl t

theorem works_deliverOwn (d : Bytes) (t : State × Ctx) : Works t (deliverOwn d t) := by
  unfold deliverOwn
  extract_lets k x len
  exact works_ite (works_refl t) (works_foldl (fun t c => works_deliver ..) _ t)

theorem works_grantTo (s : State) (x : Ctx) (d : Bytes) (q : Nat) : Works (s, x) (grantTo s x d q) :=
  ⟨(sends_sendControl _ _ _ _ _ _ _ _ (sends_refl s)).ctxs_eq, ⟨rfl, fun _ h => h⟩⟩

theorem works_grantFree (d : Bytes) : ∀ (n : Nat) (t : State × Ctx), Works t (grantFree d n t)
  | 0, t => works_refl t
  | n + 1, t => by
    simp only [grantFree]
    split
    · exact works_ite (works_refl t) (works_trans (works_grantTo t.1 t.2 d _) (works_grantFree d n _))
    · exact works_refl t

theorem works_sendRecord (d rec_ : Bytes) (level dst : Nat) (t : State × Ctx) : Works t (sendRecord d rec_ level dst t) := by
  obtain ⟨s, x⟩ := t
  unfold sendRecord
  dsimp only
  exact works_ite (works_refl _) ⟨(sends_emitChunk _ _ _ _ _ _).ctxs_eq, progress_trans (progress_spendGrant x dst) ⟨rfl, fun _ h => h⟩⟩

/-- Records go up, and the result comes down. -/
theorem works_pumpRecords {s s' : State} {x x' : Ctx} {d : Bytes} {c : Option Nat} (hp : pumpRecords s x d = (s', x', c)) : Works (s, x) (s', x') := by
  unfold pumpRecords at hp
  extract_lets m top at hp
  split at hp
  · cases hp; exact works_refl _
  · split at hp
    next s1 x1 hup =>
    have h1 : Works (s, x) (s1, x1) := by
      rw [← hup]
      split
      · refine works_ite ⟨rfl, rfl, fun b h => ?_⟩ (works_sendRecord ..)
        show x.result.or _ = some b
        rw [h]
        rfl
      · exact works_refl _
    split at hp
    · cases hp; exact h1
    · split at hp
      next s2 x2 hdown =>
      cases hp
      refine works_trans h1 ?_
      rw [← hdown]
      exact works_foldl (fun t l => works_ite (works_sendRecord ..) (works_refl t)) _ _

/-- A context that goes on makes progress, or its collective has ended. -/
theorem progress_of_mem_pump {s : State} {x y : Ctx} (hn : (ctxOps s).Nodup) (hm : y ∈ (pump s x).pl.ctxs) (hy : y.op = x.op) : Progress x y := by
  have put {t : State × Ctx} (hw : Works (s, x) t) (h : y ∈ (putCtx t.1 t.2).pl.ctxs) : Progress x y := by
    have hops : (ctxOps t.1).Nodup := by unfold ctxOps; rw [hw.ctxs]; exact hn
    rw [eq_of_mem_putCtx hops h (hy.trans hw.progress.op_eq.symm)]
    exact hw.progress
  have ended {x' : Ctx} (hx : Progress x x') (h : y.op ≠ x'.op) : Progress x y := absurd (hy.trans hx.op_eq.symm) h
  unfold pump at hm
  split at hm
  · exact ended (progress_refl x) (op_ne_of_mem_dropCtx hm)
  next o _ =>
  extract_lets d t1 at hm
  split at hm
  · split at hm
    next s1 x1 r hp => exact ended (works_pumpRecords hp).progress (op_ne_of_mem_abortColl hm)
    next s1 x1 hp =>
      have hw := works_pumpRecords hp
      split at hm
      · exact ended hw.progress (op_ne_of_mem_endColl hm)
      · exact put hw hm
  · have h1 : Works (s, x) t1 := works_trans (works_deliverOwn d _) (works_trans (works_measureRoots d _)
      (works_trans (works_deliverRoots d _) (works_deliverMoved d _)))
    split at hm
    next s2 x2 hsend =>
    have h2 : Works (s, x) (s2, x2) := by
      rw [← hsend]
      exact works_trans h1 (works_sendDues d _ _ t1)
    extract_lets s3 at hm
    split at hm
    · exact put h2 hm
    · split at hm
      · split at hm
        · exact ended h2.progress (op_ne_of_mem_closeStats hm)
        · exact put h2 hm
      · exact ended h2.progress (op_ne_of_mem_endColl hm)

end Sys2Proof.Machine
end

section
/-! ### Chunks and vote records received (R235, R244 to R248, R252) -/

namespace Sys2Proof.Machine

open Sys2Proof

/-- A chunk is due under its own key. -/
theorem dueUnder_key {x : Ctx} {d : Bytes} {key : ChunkKey} {u : Due} (h : dueUnder x d key = some u) : u.key = key := by
  unfold dueUnder at h
  split at h
  · split at h
    · have hu := List.find?_some h
      simp only [Bool.and_eq_true, decide_eq_true_eq] at hu
      exact hu.2
    · cases h
  · simpa using List.find?_some h

/-- An element behind those that fail a test is the first to pass it. -/
theorem listUpdate_append_new {α : Type} {p : α → Bool} {f : α → α} {a : α} (ha : p a = true) :
    ∀ {l : List α}, l.any p = false → listUpdate p f (l ++ [a]) = l ++ [f a]
  | [], _ => by simp [listUpdate, ha]
  | b :: l, h => by
    simp only [List.any_cons, Bool.or_eq_false_iff] at h
    simp [listUpdate, h.1, listUpdate_append_new ha h.2]

/-- A chunk taken is noted once, with its digest and the buffers that its acknowledgement returned, in the context where it stands. -/
theorem of_mem_acceptChunk {s : State} {x y : Ctx} {d payload : Bytes} {via : SegId} {came : Came} {h : ChunkHdr} {u : Due} (hn : (ctxOps s).Nodup)
    (hnew : x.got.any (fun g => g.key = u.key) = false) (hm : y ∈ (acceptChunk s x d via came h u payload).pl.ctxs) (hy : y.op = x.op) :
    let x1 : Ctx := { x with
      got := x.got ++ [{ key := u.key, red := u.red, wfmt := h.wfmt, payload }]
      digests := tset 0#64 (digestKey h) h.digest x.digests
      received := x.received + 1
      degraded := x.degraded || !segFullRx s via }
    y.received = x.received + 1
      ∧ y.got = x.got ++ [{ key := u.key, red := u.red, wfmt := h.wfmt, payload, returned := returned x1 d h.src }]
      ∧ tget 0#64 y.digests (digestKey h) = h.digest := by
  intro x1
  unfold acceptChunk at hm
  extract_lets n x2 at hm
  split at hm
  next s2 x3 hgrant =>
  have hgot : x2.got = x.got ++ [{ key := u.key, red := u.red, wfmt := h.wfmt, payload, returned := returned x1 d h.src }] :=
    listUpdate_append_new (by simp) hnew
  have hw : Works (answerChunk s came 3 n h, x2) (s2, x3) := by
    rw [← hgrant]
    exact works_grantFree d 4 _
  have hops : (ctxOps (putCtx s2 x3)).Nodup := by
    rw [ctxOps_putCtx]
    unfold ctxOps
    rw [hw.ctxs, (sends_answerChunk s came 3 n h).ctxs_eq]
    exact hn
  have hxy : Progress x2 y := progress_trans hw.progress (progress_of_mem_pump hops hm (hy.trans hw.progress.op_eq.symm))
  refine ⟨hxy.received_eq, hxy.got_eq.trans hgot, ?_⟩
  rw [hxy.digests_eq]
  exact tget_tset_same _ _ _

/-- The digest that a member's chunk has to carry (R245). -/
def expectedDigest (x : Ctx) (o : Op) (h : ChunkHdr) : BitVec 64 := collDigest x o.desc (if (keyOf h).stat then 0x0F else digestOp x.code)

/-- The first digest that a chunk's source has sent in its kind. -/
def firstDigest (x : Ctx) (h : ChunkHdr) : Option (Nat × BitVec 64) := x.digests.find? (fun e => e.1 = digestKey h)

/-- The answer to a chunk of collective `x` whose digest agrees: by what is due under its key, and what was received before. -/
def answerDue (s : State) (via : SegId) (came : Came) (x : Ctx) (d bytes : Bytes) : Out :=
  let h := parseChunk bytes
  match dueUnder x d (keyOf h) with
  | none => .next (answerChunk s came 3 1 h)
  | some u => match x.got.find? (fun g => g.key = keyOf h) with
    | some g => .next (answerChunk s came 3 g.returned h)
    | none => if !chunkFits x d u h.wfmt (bytes.length - 64) then .next (answerChunk s came 4 0 h) else .next (acceptChunk s x d via came h u (bytes.drop 64))

/-! #### What CHUNK_RECEIVE comes to, case by case -/

section
variable {via : SegId} {bytes : Bytes} {s : State} {x : Ctx} {o : Op}

theorem chunkReceive_badCrc (hlen : 64 ≤ bytes.length) (hkind : (decide ((parseChunk bytes).kind = 1) || decide ((parseChunk bytes).kind = 7)) = true)
    (hok : chunkOk bytes = false) :
    exec (.chunkReceive via bytes) s = .next (answerChunk (takeDelivered s bytes) (cameOn s bytes) 4 0 (parseChunk bytes)) := by
  show execChunkReceive via bytes s = _
  simp [execChunkReceive, Nat.not_lt.2 hlen, hkind, hok]

theorem chunkReceive_noCtx (hlen : 64 ≤ bytes.length) (hkind : (decide ((parseChunk bytes).kind = 1) || decide ((parseChunk bytes).kind = 7)) = true)
    (hok : chunkOk bytes = true) (hctx : findCtx (takeDelivered s bytes) (chunkRef (takeDelivered s bytes) (parseChunk bytes)) = none) :
    exec (.chunkReceive via bytes) s = .next (answerChunk (takeDelivered s bytes) (cameOn s bytes) 3 1 (parseChunk bytes)) := by
  show execChunkReceive via bytes s = _
  simp [execChunkReceive, Nat.not_lt.2 hlen, hkind, hok, hctx]

variable (hlen : 64 ≤ bytes.length) (hkind : (decide ((parseChunk bytes).kind = 1) || decide ((parseChunk bytes).kind = 7)) = true) (hok : chunkOk bytes = true)
  (hctx : findCtx (takeDelivered s bytes) (chunkRef (takeDelivered s bytes) (parseChunk bytes)) = some x)
  (hop : findOp (takeDelivered s bytes) x.op = some o)
include hlen hkind hok hctx hop

theorem chunkReceive_mismatch (hfirst : firstDigest x (parseChunk bytes) = none)
    (hdig : (parseChunk bytes).digest ≠ expectedDigest x o (parseChunk bytes)) :
    exec (.chunkReceive via bytes) s = .next (abortColl (takeDelivered s bytes) x .mismatch (namedRank x (parseChunk bytes))) := by
  unfold firstDigest at hfirst
  unfold expectedDigest at hdig
  show execChunkReceive via bytes s = _
  simp [execChunkReceive, Nat.not_lt.2 hlen, hkind, hok, hctx, hop, hfirst, hdig]

theorem chunkReceive_laterDigest {e : Nat × BitVec 64} (hfirst : firstDigest x (parseChunk bytes) = some e) (hdig : e.2 ≠ (parseChunk bytes).digest) :
    exec (.chunkReceive via bytes) s = .next (answerChunk (takeDelivered s bytes) (cameOn s bytes) 4 0 (parseChunk bytes)) := by
  unfold firstDigest at hfirst
  show execChunkReceive via bytes s = _
  simp [execChunkReceive, Nat.not_lt.2 hlen, hkind, hok, hctx, hop, hfirst, hdig]

/-- A chunk whose digest agrees, with the operation's or with the source's first. -/
theorem chunkReceive_agreed
    (hdig : firstDigest x (parseChunk bytes) = none ∧ (parseChunk bytes).digest = expectedDigest x o (parseChunk bytes)
      ∨ firstDigest x (parseChunk bytes) = some (digestKey (parseChunk bytes), (parseChunk bytes).digest)) :
    exec (.chunkReceive via bytes) s = answerDue (takeDelivered s bytes) via (cameOn s bytes) x o.desc bytes := by
  unfold firstDigest expectedDigest at hdig
  show execChunkReceive via bytes s = _
  rcases hdig with ⟨h1, h2⟩ | h1
  · simp [execChunkReceive, answerDue, Nat.not_lt.2 hlen, hkind, hok, hctx, hop, h1, h2] <;> rfl
  · simp [execChunkReceive, answerDue, Nat.not_lt.2 hlen, hkind, hok, hctx, hop, h1] <;> rfl

end

/-! #### What is due under a chunk's key -/

section
variable {s : State} {via : SegId} {came : Came} {x : Ctx} {d bytes : Bytes}

theorem answerDue_notDue (hdue : dueUnder x d (keyOf (parseChunk bytes)) = none) :
    answerDue s via came x d bytes = .next (answerChunk s came 3 1 (parseChunk bytes)) := by
  simp [answerDue, hdue]

theorem answerDue_again {u : Due} {g : GotChunk} (hdue : dueUnder x d (keyOf (parseChunk bytes)) = some u)
    (hgot : x.got.find? (fun g => g.key = keyOf (parseChunk bytes)) = some g) :
    answerDue s via came x d bytes = .next (answerChunk s came 3 g.returned (parseChunk bytes)) := by
  simp [answerDue, hdue, hgot]

theorem answerDue_misfit {u : Due} (hdue : dueUnder x d (keyOf (parseChunk bytes)) = some u)
    (hnew : x.got.any (fun g => g.key = keyOf (parseChunk bytes)) = false)
    (hfit : chunkFits x d u (parseChunk bytes).wfmt (bytes.length - 64) = false) :
    answerDue s via came x d bytes = .next (answerChunk s came 4 0 (parseChunk bytes)) := by
  have hfind : x.got.find? (fun g => g.key = keyOf (parseChunk bytes)) = none := by simpa using hnew
  simp [answerDue, hdue, hfind, hfit]

theorem answerDue_taken {u : Due} (hdue : dueUnder x d (keyOf (parseChunk bytes)) = some u)
    (hnew : x.got.any (fun g => g.key = keyOf (parseChunk bytes)) = false)
    (hfit : chunkFits x d u (parseChunk bytes).wfmt (bytes.length - 64) = true) :
    answerDue s via came x d bytes = .next (acceptChunk s x d via came (parseChunk bytes) u (bytes.drop 64)) := by
  have hfind : x.got.find? (fun g => g.key = keyOf (parseChunk bytes)) = none := by simpa using hnew
  simp [answerDue, hdue, hfind, hfit]

end

/-! #### Vote and barrier records -/

/-- A record that comes up from the home of the other half of its node. -/
def upRecord (x : Ctx) (h : ChunkHdr) : Prop := h.level < topLevel x 0 x.rank ∧ home x 0 h.level (otherHalf x.rank h.level) = h.src

/-- A result that comes down from the home of the node above. -/
def downRecord (x : Ctx) (h : ChunkHdr) : Prop :=
  topLevel x 0 x.rank < treeLevels x.size ∧ h.level = topLevel x 0 x.rank
    ∧ home x 0 (topLevel x 0 x.rank + 1) (blockOf x.rank (topLevel x 0 x.rank + 1)) = h.src

/-- A context after a chunk came in over a segment. -/
def cameOver (x : Ctx) (s : State) (via : SegId) : Ctx := { x with degraded := x.degraded || !segFullRx s via }

/-- A context that a child's record has reached. -/
def withRecord (x : Ctx) (s : State) (via : SegId) (bytes : Bytes) : Ctx :=
  { cameOver x s via with records := x.records ++ [((parseChunk bytes).src, bytes.drop 64)] }

/-- A context that a result has come down to. -/
def withResult (x : Ctx) (s : State) (via : SegId) (bytes : Bytes) : Ctx := { cameOver x s via with result := some (bytes.drop 64) }

/-- The state after a record has been taken over and acknowledged. -/
def recordAcked (s : State) (bytes : Bytes) : State :=
  answerChunk (takeDelivered s bytes) { cameOn s bytes with vc := 0 } 3 1 (parseChunk bytes)

theorem sends_recordAcked (s : State) (bytes : Bytes) : Sends (takeDelivered s bytes) (recordAcked s bytes) := sends_answerChunk ..

/-- A vote's result stands in its context while the collective goes on. -/
theorem pump_record_result {s s' : State} {x x' : Ctx} {o : Op} {b : Bytes} (hop : findOp s x.op = some o) (hcode : x.code = 7)
    (hrec : pumpRecords s x o.desc = (s', x', none)) (hstands : ∃ z ∈ s.pl.ctxs, z.op = x.op) (hresult : x.result = some b) :
    ∃ y ∈ (pump s x).pl.ctxs, y.op = x.op ∧ y.result = some b := by
  have hw : Works (s, x) (s', x') := works_pumpRecords hrec
  have hpump : pump s x = putCtx s' x' := by simp [pump, hop, hcode, isRecordOp, hrec]
  refine ⟨x', ?_, hw.progress.op_eq, hw.progress.result b hresult⟩
  rw [hpump]
  refine mem_putCtx ?_
  rw [hw.ctxs, hw.progress.op_eq]
  exact hstands

section
variable {via : SegId} {bytes : Bytes} {s : State} {x : Ctx} {o : Op}

theorem voteReceive_badCrc (hlen : 64 ≤ bytes.length) (hkind : (parseChunk bytes).kind = 6) (hok : chunkOk bytes = false) :
    exec (.voteRecordReceive via bytes) s = .next (answerChunk (takeDelivered s bytes) { cameOn s bytes with vc := 0 } 4 0 (parseChunk bytes)) := by
  show execVoteRecordReceive via bytes s = _
  simp [execVoteRecordReceive, Nat.not_lt.2 hlen, hkind, hok]

theorem voteReceive_noCtx (hlen : 64 ≤ bytes.length) (hkind : (parseChunk bytes).kind = 6) (hok : chunkOk bytes = true)
    (hctx : findCtx (takeDelivered s bytes) (chunkRef (takeDelivered s bytes) (parseChunk bytes)) = none) :
    exec (.voteRecordReceive via bytes) s = .next (answerChunk (takeDelivered s bytes) { cameOn s bytes with vc := 0 } 3 1 (parseChunk bytes)) := by
  show execVoteRecordReceive via bytes s = _
  simp [execVoteRecordReceive, Nat.not_lt.2 hlen, hkind, hok, hctx]

variable (hlen : 64 ≤ bytes.length) (hkind : (parseChunk bytes).kind = 6) (hok : chunkOk bytes = true)
  (hctx : findCtx (takeDelivered s bytes) (chunkRef (takeDelivered s bytes) (parseChunk bytes)) = some x)
  (hop : findOp (takeDelivered s bytes) x.op = some o)
include hlen hkind hok hctx hop

/-- A record of another digest or VVER. -/
theorem voteReceive_mismatch
    (hbad : (parseChunk bytes).digest ≠ collDigest x o.desc x.code
      ∨ ((upRecord x (parseChunk bytes) ∨ downRecord x (parseChunk bytes)) ∧ x.code = 7 ∧ byteAt bytes 64 ≠ 1)) :
    exec (.voteRecordReceive via bytes) s
      = .next (abortColl (takeDelivered s bytes) x .mismatch (upperRank x (parseChunk bytes).level (parseChunk bytes).src)) := by
  show execVoteRecordReceive via bytes s = _
  rcases hbad with h | ⟨⟨h1, h2⟩ | ⟨h1, h2, h3⟩, h4, h5⟩
  · simp [execVoteRecordReceive, Nat.not_lt.2 hlen, hkind, hok, hctx, hop, h]
  · simp [execVoteRecordReceive, Nat.not_lt.2 hlen, hkind, hok, hctx, hop, foreignVote, h1, h2, h4, h5]
  · simp [execVoteRecordReceive, Nat.not_lt.2 hlen, hkind, hok, hctx, hop, foreignVote, h1, h2, h3, h4, h5]

variable (hdig : (parseChunk bytes).digest = collDigest x o.desc x.code) (hread : ¬ (x.code = 7 ∧ byteAt bytes 64 ≠ 1))
include hdig hread

/-- A child's record that has not come before. -/
theorem voteReceive_up (hup : upRecord x (parseChunk bytes)) (hnew : x.records.any (fun r => r.1 = (parseChunk bytes).src) = false) :
    exec (.voteRecordReceive via bytes) s
      = .next (pump (putCtx (recordAcked s bytes) (withRecord x (takeDelivered s bytes) via bytes)) (withRecord x (takeDelivered s bytes) via bytes)) := by
  have hforeign : foreignVote x bytes = false := by simpa [foreignVote] using hread
  obtain ⟨hlevel, hhome⟩ := hup
  show execVoteRecordReceive via bytes s = _
  simp [execVoteRecordReceive, recordAcked, withRecord, cameOver, Nat.not_lt.2 hlen, hkind, hok, hctx, hop, hdig, hforeign, hlevel, hhome, hnew]

/-- The result that comes down, where there is none yet. -/
theorem voteReceive_down (hdown : downRecord x (parseChunk bytes)) (hnone : x.result = none) :
    exec (.voteRecordReceive via bytes) s
      = .next (pump (putCtx (recordAcked s bytes) (withResult x (takeDelivered s bytes) via bytes)) (withResult x (takeDelivered s bytes) via bytes)) := by
  have hforeign : foreignVote x bytes = false := by simpa [foreignVote] using hread
  obtain ⟨htop, hlevel, hhome⟩ := hdown
  show execVoteRecordReceive via bytes s = _
  simp [execVoteRecordReceive, recordAcked, withResult, cameOver, Nat.not_lt.2 hlen, hkind, hok, hctx, hop, hdig, hforeign, htop, hlevel, hhome, hnone]

/-- A result that came down stands in its member's context while the collective goes on. -/
theorem voteReceive_down_result (hdown : downRecord x (parseChunk bytes)) (hnone : x.result = none) (hcode : x.code = 7)
    (hrec : (pumpRecords (putCtx (recordAcked s bytes) (withResult x (takeDelivered s bytes) via bytes)) (withResult x (takeDelivered s bytes) via bytes)
      o.desc).2.2 = none) :
    ∃ t y, exec (.voteRecordReceive via bytes) s = .next t ∧ y ∈ t.pl.ctxs ∧ y.op = x.op ∧ y.result = some (bytes.drop 64) := by
  have hsends := sends_recordAcked s bytes
  have hin : x ∈ (recordAcked s bytes).pl.ctxs := by
    rw [hsends.ctxs_eq]
    exact List.mem_of_find?_eq_some hctx
  obtain ⟨y, hy, hyx, hres⟩ := pump_record_result (s := putCtx (recordAcked s bytes) (withResult x (takeDelivered s bytes) via bytes))
    (x := withResult x (takeDelivered s bytes) via bytes) ((hsends.findOp_eq x.op).trans hop) hcode
    (Prod.ext rfl (Prod.ext rfl hrec)) ⟨withResult x (takeDelivered s bytes) via bytes, mem_putCtx ⟨x, hin, rfl⟩, rfl⟩ rfl
  exact ⟨_, y, voteReceive_down hlen hkind hok hctx hop hdig hread hdown hnone, hy, hyx, hres⟩

end

/-- Settles O44: what CHUNK_RECEIVE and VOTE_RECORD_RECEIVE answer, case by case; a chunk taken is noted once, and a result that
came down stays while its context goes on (`Progress`). -/
theorem chunksReceived : Obligations.ChunksReceived := by
  unfold Obligations.ChunksReceived
  intro via bytes s u came h key
  constructor
  · intro hlen hkind leads
    have hdata : (decide (h.kind = 1) || decide (h.kind = 7)) = true := by simpa using hkind
    refine ⟨chunkReceive_badCrc hlen hdata, chunkReceive_noCtx hlen hdata, ?_⟩
    intro x o hok hctx hop told expected
    refine ⟨?_, ?_, ?_⟩
    · exact fun hfirst hdig => ⟨_, chunkReceive_mismatch hlen hdata hok hctx hop hfirst hdig, fun y hy => op_ne_of_mem_abortColl hy⟩
    · exact fun e hfirst hdig => chunkReceive_laterDigest hlen hdata hok hctx hop hfirst hdig
    · intro hagrees
      have hexec : exec (.chunkReceive via bytes) s = answerDue u via came x o.desc bytes :=
        chunkReceive_agreed hlen hdata hok hctx hop hagrees
      refine ⟨fun hdue => hexec.trans (answerDue_notDue hdue), fun due hdue => ⟨fun g hgot => hexec.trans (answerDue_again hdue hgot), ?_, ?_⟩⟩
      · intro hnew hfit
        exact hexec.trans (answerDue_misfit hdue hnew hfit)
      · intro hnew hfit hops x1
        refine ⟨_, hexec.trans (answerDue_taken hdue hnew hfit), fun y hy hyx => of_mem_acceptChunk hops ?_ hy hyx⟩
        rw [dueUnder_key hdue]
        exact hnew
  · intro hlen hkind leads
    refine ⟨voteReceive_badCrc hlen hkind, voteReceive_noCtx hlen hkind, ?_⟩
    intro x o hok hctx hop top x1 up down foreign
    refine ⟨fun hbad => ⟨_, voteReceive_mismatch hlen hkind hok hctx hop hbad, fun y hy => op_ne_of_mem_abortColl hy⟩, fun hdig hread => ⟨?_, ?_⟩⟩
    · exact voteReceive_up hlen hkind hok hctx hop hdig hread
    · exact fun hnone hcode hdown hrec => voteReceive_down_result hlen hkind hok hctx hop hdig hread hdown hnone hcode hrec

end Sys2Proof.Machine
end

section
/-! ### Commands of cores, queues and memory (R14, R52, R140) -/

namespace Sys2Proof.Machine

open Sys2Proof

/-- Each command of a core, of the queue engine or of the memory is quiet, by the lemma about its own meaning; no other command
is one of these. -/
theorem quietOut_exec_of_coreCommand (c : Instr) (s : State) (hc : Claims.coreCommand c = true) : QuietOut s (exec c s) := by
  have h := quiet_refl s
  cases c with
  | nop op env => exact quiet_execNop op env s h
  | evtSet op env => exact quiet_execEvtSet op env s h
  | evtAdd op env => exact quiet_execEvtAdd op env s h
  | timestamp op env => exact quiet_execTimestamp op env s h
  | gemm op env => exact quiet_execGemm op env s h
  | expr op env => exact quiet_execExpr op env s h
  | rowReduce op env => exact quiet_execRowReduce op env s h
  | colReduce op env => exact quiet_execColReduce op env s h
  | softmaxFwd op env => exact quiet_execSoftmaxFwd op env s h
  | softmaxBwd op env => exact quiet_execSoftmaxBwd op env s h
  | normFwd op env => exact quiet_execNormFwd op env s h
  | normBwd op env => exact quiet_execNormBwd op env s h
  | copy op env => exact quiet_execCopy op env s h
  | transpose op env => exact quiet_execTranspose op env s h
  | pack op env => exact quiet_execPack op env s h
  | unpack op env => exact quiet_execUnpack op env s h
  | gather op env => exact quiet_execGather op env s h
  | scatterAdd op env => exact quiet_execScatterAdd op env s h
  | hostRead op env => exact quiet_execHostRead op env s h
  | hostWrite op env => exact quiet_execHostWrite op env s h
  | rngUniform op env => exact quiet_execRngUniform op env s h
  | rngNormal op env => exact quiet_execRngNormal op env s h
  | rngBernoulli op env => exact quiet_execRngBernoulli op env s h
  | stashPut op env => exact quiet_execStashPut op env s h
  | stashGet op env => exact quiet_execStashGet op env s h
  | stashFree op env => exact quiet_execStashFree op env s h
  | dispatch ring => exact quiet_execDispatch ring s h
  | descriptorFetch ring host => exact quiet_execDescriptorFetch ring host s h
  | heldRecordRelease oring => exact quiet_execHeldRecordRelease oring s h
  | doorbellSweep fn host => exact quiet_execDoorbellSweep fn host s h
  | qeWake fn value host => exact quiet_execQeWake fn value host s h
  | patrolScrub rid granule block mem => exact quiet_execPatrolScrub rid granule block mem s h
  | wcEntryFlush channel index mem => exact quiet_execWcEntryFlush channel index mem s h
  | _ => cases hc

/-- Settles O35: these commands are quiet, and what `Quiet` keeps is the module's other state. -/
theorem coreCommandsKeepModule : Obligations.CoreCommandsKeepModule := by
  unfold Obligations.CoreCommandsKeepModule
  intro c s t hc hnext
  have q : Quiet s t := (quietOut_exec_of_coreCommand c s hc).quiet t hnext
  obtain ⟨hslots, hupdate, hboot⟩ := q.slots
  exact ⟨q.part, q.power, q.ports, q.parts, q.owner.1, q.cores, q.regions, q.layers, q.st, q.ctxs, q.fab, q.links, q.kt,
    hslots, hupdate, hboot⟩

end Sys2Proof.Machine
end

section
/-! ### An operation row from its beginning to its completion (R82, R84, R87, R89) -/

namespace Sys2Proof.Machine

open Sys2Proof

/-- Starting an operation keeps its descriptor. -/
theorem tryStart_desc {s s1 : State} {o o1 : Op} (h : tryStart s o = .go s1 o1) : o1.desc = o.desc := by
  unfold tryStart at h
  split at h
  · cases h; rfl
  · split at h
    · cases h
    · cases h
    · split at h
      · cases h
      · cases h; rfl

theorem opRunning_dBase {s : State} {id opcode : Nat} {o : Op} (h : opRunning s id opcode = some o) : dBase o.desc = opcode := by
  unfold opRunning at h
  split at h
  · split at h
    · rename_i hc
      cases h
      exact of_decide_eq_true (Bool.and_eq_true_iff.1 hc).2
    · cases h
  · cases h

/-- An operation that begins is of the row's opcode, and the row runs its body on it. -/
theorem begins_spec {s u : State} {id opcode : Nat} {env : Env} {o : Op} (hb : Claims.begins s id opcode env = some (u, o)) :
    dBase o.desc = opcode ∧ ∀ body : State → Op → State, runOp s id opcode env body = .next (body u o) := by
  unfold Claims.begins at hb
  dsimp only at hb
  cases hrun : opRunning (envIn s env) id opcode with
  | none => simp [hrun] at hb
  | some o0 =>
    simp only [hrun] at hb
    split at hb
    · cases hb
    · rename_i htrust
      have htrusted : coreDistrusted (envIn s env) o0 = false := by simpa [coreDistrusted] using htrust
      cases hstart : tryStart (envIn s env) o0 with
      | wait => simp [hstart] at hb
      | refuse xs => simp [hstart] at hb
      | go s1 o1 =>
        simp only [hstart, Option.some.injEq, Prod.mk.injEq] at hb
        obtain ⟨rfl, rfl⟩ := hb
        exact ⟨(congrArg dBase (tryStart_desc hstart)).trans (opRunning_dBase hrun), fun body => by simp [runOp, hrun, htrusted, hstart]⟩

section
variable {s u : State} {id opcode : Nat} {env : Env} {o : Op} (hb : Claims.begins s id opcode env = some (u, o))
include hb

theorem dBase_of_begins : dBase o.desc = opcode := (begins_spec hb).1

theorem runOp_of_begins (body : State → Op → State) : runOp s id opcode env body = .next (body u o) := (begins_spec hb).2 body

end

/-- What degrades an operation is of the core map and the part's variant (R330), which a quiet run keeps. -/
theorem Quiet.degradeBits_eq {s t : State} (h : Quiet s t) (o : Op) (env : Env) : degradeBits t o env = degradeBits s o env := by
  have hregs : t.cores.regs = s.cores.regs := (Cores.mk.inj h.cores).1
  unfold degradeBits ranSlow getCore
  rw [h.part, hregs]

/-- Success completes an operation OK, or DEGRADED_OK. -/
theorem finishOk_completed (s : State) (o : Op) (env : Env) (info : Nat) :
    ∃ xs, Completed s (finishOk s o env 0 info) o (Claims.success s o env) xs info := by
  unfold finishOk Claims.success
  dsimp only [Nat.add_zero]
  split
  · exact ⟨_, complete_spec ..⟩
  · exact ⟨_, complete_spec ..⟩

/-- Statistics enter the layers' accumulators alone. -/
theorem measure_frame (s : State) (p : Nat) (d : Bytes) (rows : List (List F32)) :
    ∃ gs, (measure s p d rows).1 = { s with tr := { s.tr with govs := gs } } := by
  unfold measure
  dsimp only
  split
  · exact ⟨s.tr.govs, rfl⟩
  · split
    · exact ⟨_, rfl⟩
    · exact ⟨s.tr.govs, rfl⟩

/-- A run met no failure and left a state. -/
def Ran.Leaves (x : Ran) (r : State) : Prop := x.fail = none ∧ x.s = r

/-- A run without failure completes its operation with success, on the memories that it left. -/
theorem finishRun_completed {u r : State} {x : Ran} (o : Op) (env : Env) (hq : Quiet u x.s) (hx : x.Leaves r) :
    ∃ v xs info, Completed v (finishRun o env x) o (Claims.success u o env) xs info ∧ Claims.sameMemory v r := by
  obtain ⟨hok, rfl⟩ := hx
  obtain ⟨gs, hframe⟩ := measure_frame x.s o.part o.desc x.rows
  have hsuccess : Claims.success (measure x.s o.part o.desc x.rows).1 o env = Claims.success u o env := by
    unfold Claims.success
    rw [(quiet_measure x.s o.part o.desc x.rows hq).degradeBits_eq]
  have hfinish : finishRun o env x = finishOk (measure x.s o.part o.desc x.rows).1 o env 0
      (infoOf (clocks (usesOf x.s o.part o.desc) x.bound env) (measure x.s o.part o.desc x.rows).2) := by simp [finishRun, hok]
  rw [hfinish, ← hsuccess]
  obtain ⟨xs, hdone⟩ := finishOk_completed (measure x.s o.part o.desc x.rows).1 o env
    (infoOf (clocks (usesOf x.s o.part o.desc) x.bound env) (measure x.s o.part o.desc x.rows).2)
  exact ⟨_, xs, _, hdone, by rw [hframe]; exact ⟨rfl, rfl, rfl⟩⟩

section
variable {c : Instr} {opcode id : Nat} {env : Env} {run : State → Op → Ran} {s u : State} {o : Op}
  (hrow : Claims.coreRow c = some (opcode, id, env, run))
include hrow

/-- What a core's row runs is quiet. -/
theorem quiet_of_coreRow (u : State) (o : Op) : Quiet u (run u o).s := by
  have h := quiet_refl u
  cases c with
  | gemm => cases hrow; exact quiet_runGemm _ _ _ h
  | expr => cases hrow; exact quiet_runExpr _ _ _ h
  | rowReduce | colReduce | softmaxFwd | softmaxBwd | normFwd | normBwd => cases hrow; exact quiet_runReduce _ _ _ h
  | copy | transpose | pack | unpack => cases hrow; exact quiet_runCopy _ _ _ h
  | gather | scatterAdd => cases hrow; exact quiet_runIndexed _ _ _ h
  | hostRead => cases hrow; exact quiet_runHostRead _ _ _ _ h
  | hostWrite => cases hrow; exact quiet_runHostWrite _ _ _ _ h
  | rngUniform | rngNormal | rngBernoulli => cases hrow; exact quiet_runRng _ _ _ h
  | _ => cases hrow

variable (hb : Claims.begins s id opcode env = some (u, o))
  (hlate : opcode = 0x2080 → lateRefusal u o.part o.core o.desc = none)
include hb hlate

/-- A core's row finishes what it ran; EXPR's program is checked first. -/
theorem exec_of_coreRow : exec c s = .next (finishRun o env (run u o)) := by
  have hfinish := runOp_of_begins hb (fun t o => finishRun o env (run t o))
  cases c with
  | expr =>
    cases hrow
    show execExpr id env s = _
    unfold execExpr
    rw [runOp_of_begins hb, hlate rfl]
  | gemm | rowReduce | colReduce | softmaxFwd | softmaxBwd | normFwd | normBwd | copy | transpose | pack | unpack | gather | scatterAdd
  | hostRead | hostWrite | rngUniform | rngNormal | rngBernoulli => cases hrow; exact hfinish
  | _ => cases hrow

/-- A core's row whose run meets no failure completes with success on the memories that the run left. -/
theorem coreRow_completes {r : State} (hx : (run u o).Leaves r) :
    ∃ v, Claims.completes c s v o (Claims.success u o env) ∧ Claims.sameMemory v r := by
  obtain ⟨v, xs, info, hdone, hmem⟩ := finishRun_completed o env (quiet_of_coreRow hrow u o) hx
  exact ⟨v, ⟨_, xs, info, exec_of_coreRow hrow hb hlate, hdone⟩, hmem⟩

/-- A core's row whose run fails with an INFO of its own completes so, its outputs left undefined (R89). -/
theorem coreRow_fails {r : State} {st xs info : Nat} (hx : run u o = ranFail r st xs (some info)) :
    ∃ t, exec c s = .next t ∧ Completed (freeOuts r o env) t o st xs info := by
  refine ⟨_, exec_of_coreRow hrow hb hlate, ?_⟩
  rw [hx]
  exact complete_spec ..

end

end Sys2Proof.Machine
end

section
/-! ### Moving codes and values (R99 to R101) -/

namespace Sys2Proof.Machine

open Sys2Proof

theorem badIndex_eq_none {idx : List Nat} {trows : Nat} (h : ∀ j ∈ idx, j < trows) : badIndex idx trows = none := by
  simpa [badIndex] using h

theorem badIndex_eq_some {idx : List Nat} {trows i j : Nat} (hi : idx[i]? = some j) (hj : trows ≤ j)
    (hfirst : ∀ k n, k < i → idx[k]? = some n → n < trows) : badIndex idx trows = some i := by
  obtain ⟨hlt, hget⟩ := List.getElem?_eq_some_iff.1 hi
  refine List.findIdx?_eq_some_iff_getElem.2 ⟨hlt, by simpa [hget] using hj, fun k hk => ?_⟩
  simpa using hfirst k _ hk (List.getElem?_eq_getElem (by omega))

/-- The first index at or beyond TROWS stops GATHER and SCATTER_ADD before the source is read. -/
theorem runIndexed_outOfRange {u u1 : State} {c : ExecCtx} {d : Bytes} {i j : Nat}
    (haux : checkExts u c (inExts ((planMove d).uses.filter (fun y => y.off = 0x20))) = (u1, none))
    (hi : (auxIndices u1 c d)[i]? = some j) (hj : fld d 0x38 4 ≤ j)
    (hfirst : ∀ k n, k < i → (auxIndices u1 c d)[k]? = some n → n < fld d 0x38 4) :
    runIndexed u c d = ranFail u1 0x80 0 (some i) := by
  simp [runIndexed, onInputs, haux, badIndex_eq_some hi hj hfirst]

section
variable {u w : State} {c : ExecCtx} {d : Bytes} {src dst : Use}
  (hsrc : useAt (planMove d).uses 0x10 = some src) (hdst : useAt (planMove d).uses 0x18 = some dst)
include hsrc hdst

section
variable (hin : checkExts u c (inExts (planMove d).uses) = (w, none))
include hin

/-- COPY moves every code to its own place. -/
theorem runCopy_copy (hop : dBase d = 0x4100) :
    (runCopy u c d).Leaves (moveCodes w c (dEqv d) src dst (fun r col => (r, col))) := by
  simp [Ran.Leaves, runCopy, onInputs, hin, hsrc, hdst, hop]

/-- TRANSPOSE moves the code of (c, r) to (r, c). -/
theorem runCopy_transpose (hop : dBase d = 0x4101) :
    (runCopy u c d).Leaves (moveCodes w c (dEqv d) src dst (fun r col => (col, r))) := by
  simp [Ran.Leaves, runCopy, onInputs, hin, hsrc, hdst, hop]

/-- PACK and UNPACK narrow the operand's values into the destination's format. -/
theorem runCopy_narrows (hop : dBase d = 0x4102 ∨ dBase d = 0x4103) :
    (runCopy u c d).Leaves (emit w c d dst (field (fld d 0x3C 2) 0 2) (streamOf d) (elemIndex d)
      (tabulate (fld d 0x28 4) (fld d 0x2C 4) (fun r col => opndF32 w c (dEqv d) src.trans src.view r col))) := by
  rcases hop with hop | hop
  · simp [Ran.Leaves, runCopy, onInputs, hin, hsrc, hdst, hop]
  · simp [Ran.Leaves, runCopy, onInputs, hin, hsrc, hdst, hop]

end

section
variable {u1 : State} (haux : checkExts u c (inExts ((planMove d).uses.filter (fun y => y.off = 0x20))) = (u1, none))
  (hidx : ∀ j ∈ auxIndices u1 c d, j < fld d 0x38 4)
include haux hidx

/-- GATHER moves row AUX[i] to row i. -/
theorem runIndexed_gather (hop : dBase d = 0x4104)
    (hneed : checkExts u1 c ((auxIndices u1 c d).flatMap (fun j => rowExts src j (fld d 0x2C 4))) = (w, none)) :
    (runIndexed u c d).Leaves (moveCodes w c (dEqv d) src dst (fun r col => ((auxIndices u1 c d).getD r 0, col))) := by
  simp [Ran.Leaves, runIndexed, onInputs, haux, badIndex_eq_none hidx, hsrc, hdst, hop, hneed]

/-- SCATTER_ADD sums the rows of each index from +0 in increasing order. -/
theorem runIndexed_scatterAdd (hop : dBase d = 0x4105) (hneed : checkExts u1 c src.view.exts = (w, none)) :
    (runIndexed u c d).Leaves (emit w c d dst (field (fld d 0x3C 2) 0 2) (streamOf d) (elemIndex d)
      (tabulate (fld d 0x38 4) (fld d 0x2C 4) (fun j col =>
        ((List.range (fld d 0x28 4)).filter (fun i => (auxIndices u1 c d).getD i 0 = j)).foldl
          (fun a i => fAdd (dEqv d) a (opndF32 w c (dEqv d) src.trans src.view i col)) zero32))) := by
  simp [Ran.Leaves, runIndexed, onInputs, haux, badIndex_eq_none hidx, hsrc, hdst, hop, hneed]

end

end

end Sys2Proof.Machine
end

section
/-! ### Rows of host memory (R101) -/

namespace Sys2Proof.Machine

open Sys2Proof

theorem mread_length (m : Mem) : ∀ a n : Nat, (mread m a n).length = n
  | _, 0 => rfl
  | a, n + 1 => congrArg (· + 1) (mread_length m (a + 1) n)

theorem placeBytes_length (s : State) (p : Place) (n : Nat) : (placeBytes s p n).length = n := by
  cases p with
  | sram k => exact mread_length ..
  | dram rid off => simp [placeBytes, dramBytes]
  | nowhere => simp [placeBytes, zeros]

/-- The stretches of a range cover it. -/
theorem placesOf_sum (s : State) (c : ExecCtx) (sram : Bool) : ∀ n a : Nat, ((placesOf s c sram a n).map (·.2)).sum = n
  | 0, _ => rfl
  | n + 1, a => by
    have ih := placesOf_sum s c sram n (a + 1)
    unfold placesOf
    dsimp only
    cases hrest : placesOf s c sram (a + 1) n with
    | nil => simpa [hrest, eq_comm] using ih
    | cons x rest =>
      simp only [hrest, List.map_cons, List.sum_cons] at ih
      dsimp only
      split <;> simp only [List.map_cons, List.sum_cons] <;> omega

theorem devBytes_length (s : State) (c : ExecCtx) (sram : Bool) (a n : Nat) : (devBytes s c sram a n).length = n := by
  have hsum := placesOf_sum s c sram n a
  simpa [devBytes, List.length_flatMap, placeBytes_length] using hsum

/-- A fold that counts the elements of a tabulated list is one over their numbers. -/
theorem foldl_counted {σ β : Type} (g : σ → Nat → β → σ) (b : Nat → β) (s : σ) (n : Nat) :
    ((List.range n).map b).foldl (fun t x => (g t.1 t.2 x, t.2 + 1)) (s, 0) = ((List.range n).foldl (fun t r => g t r (b r)) s, n) := by
  induction n with
  | zero => rfl
  | succ n ih => simp [List.range_succ, ih]

/-- Rows written one after the other, each beyond those before it, read back as sent. -/
theorem mread_rows (m : Mem) {key : Nat → Nat} {row : Nat → Bytes} {len : Nat} (hlen : ∀ r, (row r).length = len) (n : Nat)
    (hkey : ∀ i j, i < j → j < n → key i + len ≤ key j) (r : Nat) (hr : r < n) :
    mread ((List.range n).foldl (fun m i => mwrite m (key i) (row i)) m) (key r) len = row r := by
  induction n with
  | zero => omega
  | succ n ih =>
    rw [List.range_succ, List.foldl_append]
    show mread (mwrite _ (key n) (row n)) (key r) len = row r
    rcases Nat.lt_or_eq_of_le (Nat.le_of_lt_succ hr) with hlt | rfl
    · rw [mread_mwrite_other (key n) (row n) _ _ (Or.inl (hkey r n hlt (by omega)))]
      exact ih (fun i j hij hj => hkey i j hij (by omega)) hlt
    · have hback := mread_mwrite ((List.range r).foldl (fun m i => mwrite m (key i) (row i)) m) (key r) (row r)
      rwa [hlen] at hback

/-- Host writes change host memory alone. -/
theorem foldl_hostWrite (port : Nat) (addr : Nat → Nat) (row : Nat → Bytes) (l : List Nat) (s : State) :
    l.foldl (fun t r => hostWrite t port (addr r) (row r)) s
      = { s with host := l.foldl (fun m r => mwrite m (hostKey port (addr r)) (row r)) s.host } := by
  induction l generalizing s with
  | nil => rfl
  | cons r l ih => simpa [hostWrite] using ih (hostWrite s port (addr r) (row r))

/-- Rows of a host operand that do not overlap and end within the port's addresses read back as sent. -/
theorem mread_hostRows (s : State) (port base pitch len n : Nat) {row : Nat → Bytes} (hlen : ∀ r, (row r).length = len)
    (hpitch : len ≤ pitch) (hend : base + n * pitch ≤ 2 ^ 64) (r : Nat) (hr : r < n) :
    mread ((List.range n).foldl (fun t i => hostWrite t port (base + i * pitch) (row i)) s).host (hostKey port (base + r * pitch)) len = row r := by
  rcases Nat.eq_zero_or_pos len with rfl | hpos
  · exact (List.eq_nil_of_length_eq_zero (hlen r)).symm
  · have hrow (i : Nat) (hi : i < n) : base + i * pitch + len ≤ 2 ^ 64 := by
      have hnext : (i + 1) * pitch ≤ n * pitch := Nat.mul_le_mul_right pitch hi
      rw [Nat.succ_mul] at hnext
      omega
    have hkey (i : Nat) (hi : i < n) : hostKey port (base + i * pitch) = port * 2 ^ 64 + (base + i * pitch) := by
      rw [hostKey, Nat.mod_eq_of_lt]
      have := hrow i hi
      omega
    rw [foldl_hostWrite]
    refine mread_rows s.host hlen n (fun i j hij hj => ?_) r hr
    have hnext : (i + 1) * pitch ≤ j * pitch := Nat.mul_le_mul_right pitch hij
    rw [Nat.succ_mul] at hnext
    rw [hkey i (by omega), hkey j hj]
    omega

section
variable {u w : State} {c : ExecCtx} {h : HostIn} {d : Bytes} {src dst : Use}

/-- HOST_READ writes each row of the host's bytes to the destination's rows. -/
theorem runHostRead_rows (hdst : useAt (planMove d).uses 0x18 = some dst)
    (hpoison : hostPoisoned h (ownerPort u c.part) (hostRows d 0x10 0x30) = false)
    (hreject : hostRejected u h (ownerPort u c.part) (hostRows d 0x10 0x30) = false) :
    (runHostRead u c h d).Leaves ((List.range (fld d 0x28 4)).foldl (fun t r =>
      devWrite t c dst.view.sram (dst.view.base + r * (if dst.view.stride = 0 then dst.view.cols else dst.view.stride))
        (mread u.host (hostKey (ownerPort u c.part)
          (fld d 0x10 8 + r * (if fld d 0x30 4 = 0 then fld d 0x2C 4 else fld d 0x30 4))) (fld d 0x2C 4))) u) := by
  simp only [Ran.Leaves, runHostRead, hpoison, hreject, hdst]
  refine ⟨rfl, ?_⟩
  simp only [hostRows, List.map_map, Bool.false_eq_true, if_false]
  exact congrArg Prod.fst (foldl_counted (fun t r b => devWrite t c dst.view.sram
    (dst.view.base + r * (if dst.view.stride = 0 then dst.view.cols else dst.view.stride)) b) _ u _)

/-- HOST_WRITE writes each row of the source to host memory. -/
theorem runHostWrite_rows (hsrc : useAt (planMove d).uses 0x10 = some src) (hin : checkExts u c (inExts (planMove d).uses) = (w, none))
    (hreject : hostRejected w h (ownerPort u c.part) (hostRows d 0x18 0x34) = false) :
    (runHostWrite u c h d).Leaves ((List.range (fld d 0x28 4)).foldl (fun t r =>
      hostWrite t (ownerPort u c.part) (fld d 0x18 8 + r * (if fld d 0x34 4 = 0 then fld d 0x2C 4 else fld d 0x34 4))
        (devBytes w c src.view.sram (src.view.base + r * (if src.view.stride = 0 then src.view.cols else src.view.stride)) (fld d 0x2C 4))) w) := by
  simp only [Ran.Leaves, runHostWrite, hin, hreject, hsrc]
  refine ⟨rfl, ?_⟩
  simp only [hostRows, Bool.false_eq_true, if_false]
  exact congrArg Prod.fst (foldl_counted (fun t r (x : Nat × Nat) => hostWrite t (ownerPort u c.part) x.1 (devBytes w c src.view.sram
    (src.view.base + r * (if src.view.stride = 0 then src.view.cols else src.view.stride)) x.2)) _ w _)

end

end Sys2Proof.Machine
end

section
/-! ### The movement opcodes complete (R99 to R101) -/

namespace Sys2Proof.Machine

open Sys2Proof

/-- Settles O34: each opcode's run leaves the stated bytes (`runCopy_…`, `runIndexed_…`, `runHostRead_rows`, `runHostWrite_rows`), and
an operation completes on what its run left. -/
theorem movementMovesBytes : Obligations.MovementMovesBytes := by
  unfold Obligations.MovementMovesBytes
  intro id env s u w o src dst d us x port rows cols trows rnd value idx writes valueWrites both
  refine ⟨fun ⟨hsrc, hdst⟩ hin => ⟨?_, ?_, ?_, ?_⟩,
    fun u1 ⟨hsrc, hdst⟩ haux => ⟨fun hidx => ⟨?_, ?_⟩, fun i j hi hj hfirst => ⟨?_, ?_⟩⟩, ?_, ?_⟩
  · exact fun hb => coreRow_completes (c := .copy id env) rfl hb nofun (runCopy_copy hsrc hdst hin (dBase_of_begins hb))
  · exact fun hb => coreRow_completes (c := .transpose id env) rfl hb nofun (runCopy_transpose hsrc hdst hin (dBase_of_begins hb))
  · exact fun hb => coreRow_completes (c := .pack id env) rfl hb nofun (runCopy_narrows hsrc hdst hin (Or.inl (dBase_of_begins hb)))
  · exact fun hb => coreRow_completes (c := .unpack id env) rfl hb nofun (runCopy_narrows hsrc hdst hin (Or.inr (dBase_of_begins hb)))
  · exact fun hb hneed => coreRow_completes (c := .gather id env) rfl hb nofun
      (runIndexed_gather hsrc hdst haux hidx (dBase_of_begins hb) hneed)
  · exact fun hb hneed => coreRow_completes (c := .scatterAdd id env) rfl hb nofun
      (runIndexed_scatterAdd hsrc hdst haux hidx (dBase_of_begins hb) hneed)
  · exact fun hb => coreRow_fails (c := .gather id env) rfl hb nofun (runIndexed_outOfRange haux hi hj hfirst)
  · exact fun hb => coreRow_fails (c := .scatterAdd id env) rfl hb nofun (runIndexed_outOfRange haux hi hj hfirst)
  · exact fun hb hdst hpoison hreject => coreRow_completes (c := .hostRead id env) rfl hb nofun (runHostRead_rows hdst hpoison hreject)
  · intro hb hin hsrc hreject pitch hcols hend
    obtain ⟨v, hdone, hdram, hcores, hhost⟩ := coreRow_completes (c := .hostWrite id env) rfl hb nofun (runHostWrite_rows hsrc hin hreject)
    rw [foldl_hostWrite] at hdram hcores
    refine ⟨v, hdone, hdram, hcores, fun r hr => ?_⟩
    rw [hhost]
    exact mread_hostRows w port _ pitch cols rows (fun _ => devBytes_length ..) hcols hend r hr

end Sys2Proof.Machine
end

section
/-! ### Stash operations that wait (R71, R190, R191) -/

namespace Sys2Proof.Machine

open Sys2Proof

theorem coreDistrusted_iff (s : State) (o : Op) : coreDistrusted s o = true ↔ o.core ≠ netTarget ∧ (getWindow s o.core).untrusted = true := by
  simp [coreDistrusted]

/-! #### Entries: releasing pins and removing -/

/-- Releasing pins changes version state only. -/
theorem releasePins_frame (ps : List Pin) : ∀ s : State, ∃ vs, releasePins s ps = { s with tr := { s.tr with vers := vs } } := by
  induction ps with
  | nil => exact fun s => ⟨s.tr.vers, rfl⟩
  | cons x ps ih => exact fun s => ih (fenceSub s x.layer x.slot)

/-- Only a STASH_FREE releases its entry's pins by failing (R181). -/
theorem freePins_other (s : State) {o : Op} (h : dBase o.desc ≠ 0x6182) : freePins s o = s := if_pos h

/-- A failure that the operation began with ends it, its outputs undefined (R89). -/
theorem failRun_completed (s : State) {o : Op} (env : Env) (st xs : Nat) (h : dBase o.desc ≠ 0x6182) :
    Completed (freeOuts s o env) (failRun s o env st xs) o st xs (failInfo o.desc env.cycles) := by
  rw [failRun, freePins_other _ h]
  exact complete_spec ..

/-- A removed entry is gone. -/
theorem getStash_dropStash (s : State) (p entry : Nat) : getStash (dropStash s p entry) p entry = none := by
  unfold dropStash
  split
  · assumption
  · exact tget_tset_same _ _ _

/-- Removing an entry changes the entries and version state only. -/
theorem dropStash_frame (s : State) (p entry : Nat) :
    ∃ vs es, dropStash s p entry = { s with tr := { s.tr with vers := vs, stash := es } } := by
  unfold dropStash
  split
  · exact ⟨s.tr.vers, s.tr.stash, rfl⟩
  · rename_i e _
    obtain ⟨vs, hpins⟩ := releasePins_frame e.pins s
    exact ⟨vs, _, by rw [hpins]; rfl⟩

/-! #### STASH_REEXECUTION -/

section
variable {id : Nat} {env : Env} {s : State} {o : Op} (hop : findOp (envIn s env) id = some o) (hphase : o.phase = .reexecute)
include hop hphase

theorem stashReexecution_distrusted (hdistrust : coreDistrusted (envIn s env) o = true) :
    exec (.stashReexecution id env) s = .next (failRun (envIn s env) o env stCheck 2) := by
  show execStashReexecution id env s = _
  simp [execStashReexecution, hop, hphase, hdistrust]

variable {w : State} {xs : List (Nat × Nat)} {e : Stash} (htrust : coreDistrusted (envIn s env) o = false)
  (hentry : getStash (envIn s env) o.part (fld o.desc 0x18 4) = some e)
include htrust hentry

/-- R190: an entry that now reads clean is restored. -/
theorem stashReexecution_clean (hread : stashDecode (envIn s env) { part := o.part, mem := env.mem } e = (w, none, xs)) :
    exec (.stashReexecution id env) s = .next (getDone w o env e xs true) := by
  show execStashReexecution id env s = _
  simp [execStashReexecution, hop, hphase, htrust, hentry, hread]

/-- R189: without a re-execution buffer an entry that reads badly is lost. -/
theorem stashReexecution_noBuffer {err : Nat} (hread : stashDecode (envIn s env) { part := o.part, mem := env.mem } e = (w, some err, xs))
    (hsize : (getPart (envIn s env) o.part).rexSize = 0) :
    exec (.stashReexecution id env) s = .next (stashLost w o env (fld o.desc 0x18 4) e 4 0) := by
  show execStashReexecution id env s = _
  simp [execStashReexecution, hop, hphase, htrust, hentry, hread, hsize]

end

/-- A restored entry completes its STASH_GET on the memories that its elements were written to; one re-executed degraded (R87). -/
theorem getDone_completed (w : State) (o : Op) (env : Env) (e : Stash) (xs : List (Nat × Nat)) :
    ∃ v st info, Completed v (getDone w o env e xs true) o stDegraded st info ∧ Claims.sameMemory v (getWrite w (ctxOf o env) o.desc e xs) := by
  obtain ⟨gs, hframe⟩ := measure_frame (getWrite w (ctxOf o env) o.desc e xs) o.part o.desc [xs.map (stashValue e)]
  unfold getDone finishOk
  dsimp only
  rw [if_neg (by simp)]
  exact ⟨_, _, _, complete_spec .., by rw [hframe]; exact ⟨rfl, rfl, rfl⟩⟩

/-! #### STASH_FREE_DEFERRED -/

/-- R191: a free that its timer ended removes its entry and no more. -/
theorem stashFreeDeferred_late {id k : Nat} {s : State} (hop : ∀ y, findOp s id = some y → y.phase ≠ .freeing) (hlate : lateFree s id = some k)
    (hidle : getRuns s (k / 2 ^ 32) (k % 2 ^ 32) = false) :
    exec (.stashFreeDeferred id) s = .next (dropStash s (k / 2 ^ 32) (k % 2 ^ 32)) := by
  have hnone : (findOp s id).filter (fun o => decide (o.phase = .freeing)) = none := by
    simpa [Option.filter_eq_none_iff] using hop
  show execStashFreeDeferred id s = _
  simp only [execStashFreeDeferred, hnone, hlate, hidle, Bool.false_eq_true, if_false]

/-- R191: a free that still waits removes its entry and completes. -/
theorem stashFreeDeferred_waiting {id : Nat} {s : State} {o : Op} (hop : findOp s id = some o) (hphase : o.phase = .freeing)
    (htrust : coreDistrusted s o = false) (hidle : getRuns s o.part (fld o.desc 0x10 4) = false) :
    exec (.stashFreeDeferred id) s
      = .next (complete (drawFree (dropStash s o.part (fld o.desc 0x10 4)) 1) o stOk 0 (infoOf (freeClocks s) 0)) := by
  show execStashFreeDeferred id s = _
  simp [execStashFreeDeferred, hop, hphase, htrust, hidle, Option.filter]

/-- Settles O37: each waiting operation leads to one ending (`stashReexecution_…`, `stashFreeDeferred_…`), and `complete` says what
a completion does. -/
theorem stashWaitingOperations : Obligations.StashWaitingOperations := by
  unfold Obligations.StashWaitingOperations
  intro id env s o e u x distrust
  have trusted {v : State} (h : ¬ distrust v) : coreDistrusted v o = false :=
    Bool.eq_false_iff.2 (fun hd => h ((coreDistrusted_iff v o).1 hd))
  refine ⟨fun hop hphase hget hdistrust => ?_, fun hop hphase htrust hentry => ⟨fun w xs hread => ?_, fun w err xs hread hsize => ?_⟩,
    fun k hop hlate hidle => ?_, fun hop hphase htrust hentry hidle => ?_⟩
  · exact ⟨_, _, _, stashReexecution_distrusted hop hphase ((coreDistrusted_iff u o).2 hdistrust),
      failRun_completed u env stCheck 2 (by omega)⟩
  · obtain ⟨v, st, info, hdone, hdram, hcores, -⟩ := getDone_completed w o env e xs
    exact ⟨v, ⟨_, st, info, stashReexecution_clean hop hphase (trusted htrust) hentry hread, hdone⟩, hdram, hcores⟩
  · exact ⟨_, _, _, _, stashReexecution_noBuffer hop hphase (trusted htrust) hentry hread hsize, complete_spec ..⟩
  · obtain ⟨vs, es, hframe⟩ := dropStash_frame s (k / 2 ^ 32) (k % 2 ^ 32)
    exact ⟨_, stashFreeDeferred_late hop hlate hidle, getStash_dropStash .., by rw [hframe], by rw [hframe]⟩
  · obtain ⟨vs, es, hframe⟩ := dropStash_frame s o.part (fld o.desc 0x10 4)
    exact ⟨_, ⟨_, _, _, stashFreeDeferred_waiting hop hphase (trusted htrust) hidle, complete_spec ..⟩,
      getStash_dropStash s o.part (fld o.desc 0x10 4), by rw [hframe]; rfl⟩

end Sys2Proof.Machine
end

section
/-! ### A failed core without a spare (R71, R354) -/

namespace Sys2Proof.Machine

open Sys2Proof

/-- A rebinding that finds no spare makes the number a hole. -/
theorem coreRebind_makesHole {core x : Nat} {env : Env} {s : State} (hx : corePhys (envIn s env) core = some x)
    (hstopped : (getCore (envIn s env) core).stopped = true) (hup : (envIn s env).power.drabexUp = true)
    (hnone : nearestFree (freeSpares (envIn s env)) (domainOf x) = none) :
    exec (.coreRebind core env) s = .next (makeHole (envIn s env) core x) := by
  show execCoreRebind core env s = _
  simp [execCoreRebind, hx, hstopped, hup, hnone]

/-- A failure brings its output ring one record: PRODUCED rises by 1, or the record is held (R84, R125). -/
theorem one_record_of_completed {s t : State} {o : Op} {st xs info r : Nat} (h : Completed s t o st xs info) (hst : st ≠ stOk)
    (hr : (getRing s o.ring).outRing = r) :
    (getORing t r).produced = ((getORing s r).produced + 1) % 2 ^ 32 ∨ (getORing t r).held ≠ [] := by
  subst hr
  cases hopen : oringOpen s o.part (getRing s o.ring).outRing with
  | true =>
    obtain ⟨hproduced, -, -⟩ := h.written (.inr hst) hopen
    exact .inl hproduced
  | false =>
    obtain ⟨⟨x, hheld, -⟩, -⟩ := h.held (.inr hst) hopen
    exact .inr (by simp [hheld])

/-- The one operation of the module below: a NOP of ring 0 on core 0, running, or stopped with its core. -/
def sharedOp (stopped : Bool) : Op :=
  { id := 0, seq := 0, part := 0, ring := 0, core := 0, pos := 0, phase := if stopped then .stopped else .running
    desc := [0#8, 0#8, 2#8, 4#8] ++ leBytes 2 7 ++ leBytes 2 0xFFFF ++ zeros 4 ++ leBytes 2 1 ++ zeros 50 }

/-- A module whose one partition, of PF 0, names output ring 0 as its event ring, while ring 0 sends its completion records there
too; core 0 has no spare. The arguments: the output ring's ENABLE and RECSZ, and whether core 0 is stopped. -/
def sharedRing (enable : Bool) (recsz : Nat) (stopped : Bool) : State :=
  { power := { phase := .ready, ready := true, step := 13, drabexUp := true, perst0 := false, perst1 := false, cause := 1 }
    ports := [(0, { up := true })]
    fns := [(0, { drvWritten := true, drvMajor := 2, accepted := true, pages := [(0, { valid := true, addr := 0x8000 })] })]
    parts := [(0, { state := .enabled, cores := 1#512, ringCount := 1, orCount := 1, evCount := 1, quota := 64, evValid := true })]
    q := { rings := [(0, { enable := true, state := 1, base := 0x10000 })]
           orings := [(0, { enable, recsz, base := 0x30000, dbSlot := 1 })]
           ops := [sharedOp stopped], opSeq := 1 }
    cores := { regs := if stopped then [(0, { stopped })] else [], map := [(0, some 0)], good := [0] } }

/-- Commands lead to the counterexample: core 0 fails, and the driver disables output ring 0, whose records of 16 bytes ring 0 was
enabled with, and enables it again with the 32 bytes of an event ring (R123). -/
theorem sharedRing_arises :
    exec (.coreFailure 0) (sharedRing true 0 false) = .next (sharedRing true 0 true)
      ∧ exec (.oringDisable 0 0 0x19000000#32) (sharedRing true 0 true) = .next (sharedRing false 1 true)
      ∧ exec (.oringEnable 0 0 0x99000000#32) (sharedRing false 1 true) = .next (sharedRing true 1 true) :=
  ⟨rfl, rfl, rfl⟩

/-- The hole brings the shared ring two records: the event of R71, then the operation's completion. -/
theorem makeHole_sharedRing :
    (getORing (makeHole (envIn (sharedRing true 1 true) {}) 0 0) 0).produced = 2
      ∧ (getORing (makeHole (envIn (sharedRing true 1 true) {}) 0 0) 0).held = [] := by decide +kernel

/-- Refutes O51: of a hole's only operation it says that the queues change by its completion alone, but the hole raises a module
event first (R71), and where the partition's event ring is also the operation's output ring (`sharedRing_arises`), that ring
gets two records (`makeHole_sharedRing`), where a completion brings one. -/
theorem not_coreFaults : ¬ Obligations.CoreFaults := by
  unfold Obligations.CoreFaults
  intro h
  obtain ⟨-, hrebind, -⟩ := h 0 0 {} (sharedRing true 1 true)
  obtain ⟨-, hhole⟩ := hrebind 0 rfl rfl rfl
  obtain ⟨t, hexec, -, -, -, -, -, -, -, hone⟩ := hhole rfl
  obtain ⟨v, w, hdone, hq, -, -, ht⟩ := hone (sharedOp true) ⟨rfl, nofun⟩ rfl (fun y hy _ => List.mem_singleton.1 hy) (by decide +kernel)
  have hmade : t = makeHole (envIn (sharedRing true 1 true) {}) 0 0 := by
    rw [coreRebind_makesHole rfl rfl rfl rfl] at hexec
    exact (Host.Outcome.next.inj hexec).symm
  have hafter : getORing w 0 = getORing (makeHole (envIn (sharedRing true 1 true) {}) 0 0) 0 := by
    rw [← hmade, ht]; rfl
  have hring : (getRing v (sharedOp true).ring).outRing = 0 := by
    rw [getRing, hq]; rfl
  have hbefore : (getORing v 0).produced = 0 := by
    rw [getORing, hq]; rfl
  obtain ⟨htwo, hheld⟩ := makeHole_sharedRing
  have hrecord := one_record_of_completed hdone (by decide) hring
  rw [hbefore, hafter, htwo, hheld] at hrecord
  simp at hrecord

end Sys2Proof.Machine
end

section
/-! ### The Weave's map of granules to channels (R143, R144) -/

namespace Sys2Proof.Machine

open Sys2Proof

/-- A hash applied twice is gone. -/
theorem xor_xor_same (x h : Nat) : x ^^^ h ^^^ h = x := by rw [Nat.xor_assoc, Nat.xor_self, Nat.xor_zero]

theorem stripeHash_lt (rid s : Nat) : stripeHash rid s < 2 ^ 9 := by
  unfold stripeHash
  have hproducts : (s * 0x9E3779B1) % 2 ^ 32 ^^^ (rid * 0x85EBCA77) % 2 ^ 32 < 2 ^ 32 :=
    Nat.xor_lt_two_pow (Nat.mod_lt _ (Nat.two_pow_pos 32)) (Nat.mod_lt _ (Nat.two_pow_pos 32))
  rw [Nat.shiftRight_eq_div_pow]
  omega

/-- The channel of a granule by its place j in its stripe (R143). -/
theorem weaveChannel_granule (rid s : Nat) {j : Nat} (hj : j < 512) :
    weaveChannel rid ((s * 512 + j) * 1024) = (j % 16 * 32 + j / 16) ^^^ stripeHash rid s := by
  simp only [weaveChannel, Nat.shiftRight_eq_div_pow]
  rw [show (s * 512 + j) * 1024 / 2 ^ 10 = s * 512 + j by omega, show (s * 512 + j) / 2 ^ 9 = s by omega,
    show (s * 512 + j) % 512 = j by omega]

/-- An offset lies on the channel of its granule. -/
theorem weaveChannel_granule_start (rid off : Nat) : weaveChannel rid off = weaveChannel rid (off / 1024 * 1024) := by
  simp only [weaveChannel, Nat.shiftRight_eq_div_pow]
  rw [show off / 1024 * 1024 / 2 ^ 10 = off / 2 ^ 10 by omega]

theorem weaveChannel_lt (rid s : Nat) {j : Nat} (hj : j < 512) : weaveChannel rid ((s * 512 + j) * 1024) < 512 := by
  rw [weaveChannel_granule rid s hj]
  exact Nat.xor_lt_two_pow (n := 9) (by omega) (stripeHash_lt rid s)

/-- `granuleOn` names a granule of its stripe. -/
theorem granuleOn_mem_stripe (rid s : Nat) {ch : Nat} (hch : ch < 512) : ∃ j, j < 512 ∧ s * 512 + j = granuleOn rid s ch := by
  have hp : ch ^^^ stripeHash rid s < 2 ^ 9 := Nat.xor_lt_two_pow (n := 9) (by omega) (stripeHash_lt rid s)
  exact ⟨(ch ^^^ stripeHash rid s) % 32 * 16 + (ch ^^^ stripeHash rid s) / 32, by omega, by simp only [granuleOn]; omega⟩

/-- `granuleOn` inverts the map on a stripe: a granule lies on a channel just where it is the one that `granuleOn` names. -/
theorem weaveChannel_eq_iff (rid s : Nat) {j ch : Nat} (hj : j < 512) (hch : ch < 512) :
    weaveChannel rid ((s * 512 + j) * 1024) = ch ↔ s * 512 + j = granuleOn rid s ch := by
  have hp : ch ^^^ stripeHash rid s < 2 ^ 9 := Nat.xor_lt_two_pow (n := 9) (by omega) (stripeHash_lt rid s)
  have hxor : ∀ x, x ^^^ stripeHash rid s = ch ↔ x = ch ^^^ stripeHash rid s := fun x =>
    ⟨fun e => by rw [← e, xor_xor_same], fun e => by rw [e, xor_xor_same]⟩
  rw [weaveChannel_granule rid s hj, hxor]
  simp only [granuleOn]
  omega

/-- Two granules of a stripe on one channel are the same. -/
theorem weaveChannel_injective (rid s : Nat) {i j : Nat} (hi : i < 512) (hj : j < 512)
    (h : weaveChannel rid ((s * 512 + i) * 1024) = weaveChannel rid ((s * 512 + j) * 1024)) : i = j := by
  have hfirst := (weaveChannel_eq_iff rid s hi (weaveChannel_lt rid s hj)).1 h
  have hsecond := (weaveChannel_eq_iff rid s hj (weaveChannel_lt rid s hj)).1 rfl
  omega

/-- The stack of a granule is the low four bits of its place under the stripe's hash. -/
theorem weaveChannel_stack (rid s : Nat) {j : Nat} (hj : j < 512) :
    weaveChannel rid ((s * 512 + j) * 1024) / 32 = (j % 16) ^^^ (stripeHash rid s / 32) := by
  rw [weaveChannel_granule rid s hj, show 32 = 2 ^ 5 from rfl, Nat.xor_div_two_pow]
  congr 1
  omega

/-- Fewer than 16 granules apart, two granules of a stripe lie on two stacks. -/
theorem weaveChannel_stack_ne (rid s : Nat) {i j : Nat} (hij : i < j) (hnear : j < i + 16) (hj : j < 512) :
    weaveChannel rid ((s * 512 + i) * 1024) / 32 ≠ weaveChannel rid ((s * 512 + j) * 1024) / 32 := by
  rw [weaveChannel_stack rid s (by omega), weaveChannel_stack rid s hj]
  intro h
  have hlow : i % 16 = j % 16 := by rw [← xor_xor_same (i % 16), h, xor_xor_same]
  omega

/-- The numbers below n hold a number once, where it is below n. -/
theorem countP_range_eq (j n : Nat) : (List.range n).countP (fun k => decide (k = j)) = if j < n then 1 else 0 := by
  induction n with
  | zero => rfl
  | succ n ih =>
    rw [List.range_succ, List.countP_append, ih, List.countP_singleton]
    simp only [decide_eq_true_eq]
    split <;> split <;> split <;> omega

/-- How many of n granules from granule g on lie on a channel. -/
def granulesOn (rid ch g n : Nat) : Nat := (List.range n).countP (fun k => decide (weaveChannel rid ((g + k) * 1024) = ch))

theorem granulesOn_add (rid ch g a b : Nat) : granulesOn rid ch g (a + b) = granulesOn rid ch g a + granulesOn rid ch (g + a) b := by
  unfold granulesOn
  rw [List.range_add, List.countP_append, List.countP_map]
  refine congrArg _ (List.countP_congr fun k _ => ?_)
  rw [Function.comp_apply, Nat.add_assoc]

section
variable (rid : Nat) {ch : Nat} (hch : ch < 512)
include hch

/-- A stripe places one granule on a channel. -/
theorem granulesOn_stripe (s : Nat) : granulesOn rid ch (s * 512) 512 = 1 := by
  obtain ⟨j, hj, hgranule⟩ := granuleOn_mem_stripe rid s hch
  have honly : granulesOn rid ch (s * 512) 512 = (List.range 512).countP (fun k => decide (k = j)) := by
    refine List.countP_congr fun k hk => ?_
    rw [decide_eq_true_eq, decide_eq_true_eq, weaveChannel_eq_iff rid s (List.mem_range.1 hk) hch, ← hgranule]
    exact Nat.add_left_cancel_iff
  rw [honly, countP_range_eq, if_pos hj]

/-- n whole stripes from stripe s on place n granules on a channel. -/
theorem granulesOn_stripes (s n : Nat) : granulesOn rid ch (s * 512) (512 * n) = n := by
  induction n with
  | zero => rfl
  | succ n ih =>
    rw [Nat.mul_succ 512 n, granulesOn_add, ih, show s * 512 + 512 * n = (s + n) * 512 by omega, granulesOn_stripe rid hch]

/-- Of n granules from granule g on, at most n/512, rounded up, and one more lie on a channel: they meet no more stripes. -/
theorem granulesOn_le (g n : Nat) : granulesOn rid ch g n ≤ (n + 511) / 512 + 1 := by
  have hcover : 512 * ((n + 511) / 512 + 1) = g % 512 + (n + (512 * ((n + 511) / 512 + 1) - n - g % 512)) := by omega
  have hstripes := granulesOn_stripes rid hch (g / 512) ((n + 511) / 512 + 1)
  rw [hcover, granulesOn_add, Nat.div_add_mod', granulesOn_add] at hstripes
  exact Nat.le_trans (Nat.le_trans (Nat.le_add_right _ _) (Nat.le_add_left _ _)) (Nat.le_of_eq hstripes)

end

/-- Settles O60: `granuleOn` is the map's inverse on each stripe, and counting goes stripe by stripe. -/
theorem weaveIsBijection : Obligations.WeaveIsBijection := by
  unfold Obligations.WeaveIsBijection
  intro rid stripe ch hch at_ on
  have hcount : ∀ g n, on g n = granulesOn rid ch g n := fun g n => List.countP_eq_length_filter.symm
  refine ⟨fun j hj => weaveChannel_lt rid stripe hj, ?_, fun i j hi hj => weaveChannel_injective rid stripe hi hj, fun n => ?_, fun g n => ?_,
    fun i j hij hnear hj => weaveChannel_stack_ne rid stripe hij hnear hj, fun off => weaveChannel_granule_start rid off⟩
  · obtain ⟨j, hj, hgranule⟩ := granuleOn_mem_stripe rid stripe hch
    exact ⟨j, hj, (weaveChannel_eq_iff rid stripe hj hch).2 hgranule⟩
  · rw [hcount, granulesOn_stripes rid hch]
  · rw [hcount]
    exact granulesOn_le rid hch g n

end Sys2Proof.Machine
end

section
/-! ### Regions take slots, become Ready and are freed (R140, R141) -/

namespace Sys2Proof.Machine

open Sys2Proof

/-- A key whose entry is passed over, before the write and after it, leaves the rest of a table as it was, whatever the table's form. -/
theorem filterMap_tset_skipped {α β : Type} [DecidableEq α] {d v : α} {i : Nat} {f : Nat × α → Option β} (hv : v ≠ d) (hnew : f (i, v) = none) :
    ∀ {t : Tbl α}, f (i, tget d t i) = none → (tset d i v t).filterMap f = t.filterMap f
  | [], _ => by simp [tset, hv, hnew]
  | (k, w) :: t, hold => by
    simp only [tset, hv, if_false]
    split
    · exact List.filterMap_cons_none hnew
    · split
      next he =>
        subst he
        have hhead : f (i, w) = none := by simpa [tget] using hold
        rw [List.filterMap_cons_none hnew, List.filterMap_cons_none hhead]
      next hne =>
        have htail : f (i, tget d t i) = none := by simpa [tget, Ne.symm hne] using hold
        simp only [List.filterMap_cons, filterMap_tset_skipped hv hnew htail]

/-- A region that is off before and after takes no slots. -/
theorem slotRanges_setRegion_off {s : State} {rid : Nat} {r : Region} (hold : (getRegion s rid).enable = false) (hnew : r.enable = false)
    (hr : r ≠ {}) : slotRanges (setRegion s rid r) = slotRanges s := by
  refine filterMap_tset_skipped hr (by simp [hnew]) ?_
  rw [getRegion] at hold
  simp [hold]

/-- A region that fits takes the lowest free range of slots (R141). -/
theorem regionEnable_takes {s : State} {rid a : Nat} {r : Region}
    (hr : r = { getRegion s rid with cls := (getRegion s rid).regCls, size := (getRegion s rid).regSize, base := (getRegion s rid).regBase })
    (hcls : r.cls ≠ 3) (hsome : 1 ≤ r.size) (hsize : r.size ≤ 32686) (hend : r.base + r.size ≤ 2 ^ 16) (hclash : regionClash s rid r = false)
    (hslots : lowestSlots (slotRanges s) (slotsPerUnit r.cls * r.size) = some a) :
    regionEnable s rid = setRegion (clearRegion s rid) rid { r with enable := true, state := 1, slot := a } := by
  unfold regionEnable
  extract_lets x r' bad
  obtain rfl : r = r' := hr
  have hfits : bad = false := by simp [bad, hcls, hsize, hclash]; omega
  rw [hfits, if_neg Bool.false_ne_true, hslots]

/-- A region without a unit, or one for which no free range is large enough, is refused (R141). -/
theorem regionEnable_refused {s : State} {rid : Nat} (h : (getRegion s rid).regSize = 0
      ∨ lowestSlots (slotRanges s) (slotsPerUnit (getRegion s rid).regCls * (getRegion s rid).regSize) = none) :
    regionEnable s rid = setRegion s rid { getRegion s rid with enable := false, state := 3 } := by
  unfold regionEnable
  extract_lets x r bad
  have hnone : (if bad = true then none else lowestSlots (slotRanges s) (slotsPerUnit r.cls * r.size)) = none := by
    rcases h with hzero | hfull
    · exact if_pos (by simp [bad, r, x, hzero])
    · exact ite_eq_left_iff.2 fun _ => hfull
  rw [hnone]

theorem bit_toNat (v : Word32) (i : Nat) : bit v.toNat i = v.getLsbD i := by
  rw [bit_eq, BitVec.getLsbD, Nat.testBit_eq_decide_div_mod_eq]

section
variable {fn rid : Nat} {value : Word32} {s : State} (hrid : rid < 512) (hfn : fnAnswers s fn = true) (hauth : partSetAuth s fn (rid / 64) = .ok)
include hrid hfn hauth

/-- With authority, the row of an enable writes the region's configuration. -/
theorem regionEnable_writes (hbit : value.getLsbD 31 = true) :
    exec (.regionEnable fn rid value) s = .next (writeRegionCfg s rid value.toNat) := by
  show execRegionEnable fn rid value s = _
  simp [execRegionEnable, regRow, writeReg, ringSetup, guarded, hbit, hrid, hfn, hauth]

/-- With authority, the row of a disable writes the region's configuration. -/
theorem regionDisable_writes (hbit : value.getLsbD 31 = false) :
    exec (.regionDisable fn rid value) s = .next (writeRegionCfg s rid value.toNat) := by
  show execRegionDisable fn rid value s = _
  rw [execRegionDisable, hbit, decide_eq_false (Nat.not_le.2 hrid)]
  simp [regRow, writeReg, ringSetup, guarded, hfn, hauth]

end

/-- CLASS and SIZE as a write of REGION_CFG leaves them, before ENABLE has its effect. -/
def configured (s : State) (rid v : Nat) : State := setRegion s rid { getRegion s rid with regCls := field v 27 2, regSize := field v 0 15 }

@[simp] theorem getRegion_configured (s : State) (rid v k : Nat) : getRegion (configured s rid v) k
    = if k = rid then { getRegion s rid with regCls := field v 27 2, regSize := field v 0 15 } else getRegion s k := getRegion_setRegion _ _ _ _

/-- ENABLE = 1 written to a region that is off. -/
theorem writeRegionCfg_on {s : State} {rid v : Nat} (hbit : bit v 31 = true) (hoff : (getRegion s rid).enable = false) :
    writeRegionCfg s rid v = regionEnable (configured s rid v) rid := by
  simp [writeRegionCfg, hbit, hoff, configured]

/-- ENABLE = 0 written. -/
theorem writeRegionCfg_off {s : State} {rid v : Nat} (hbit : bit v 31 = false) : writeRegionCfg s rid v = regionOff (configured s rid v) rid := by
  simp [writeRegionCfg, hbit, configured]

/-- A region of some size that is off takes no slots, however it is configured. -/
theorem slotRanges_configured {s : State} {rid v : Nat} (hoff : (getRegion s rid).enable = false) (hsize : field v 0 15 ≠ 0) :
    slotRanges (configured s rid v) = slotRanges s :=
  slotRanges_setRegion_off hoff hoff fun e => hsize (congrArg Region.regSize e)

/-- Whether a region overlaps another does not hang on the region's own record. -/
theorem regionClash_configured (s : State) (rid v : Nat) (r : Region) : regionClash (configured s rid v) rid r = regionClash s rid r := by
  unfold regionClash
  extract_lets p
  congr 1
  funext i
  by_cases h : 64 * p + i = rid <;> simp [h]

/-- A command that leaves a region's record written last, in a state that differs in memory alone, changes no other region. -/
theorem region_written {s u : State} {rid : Nat} {c : Instr} {r : Region} (h : exec c s = .next (setRegion u rid r))
    (hothers : ∀ k, k ≠ rid → getRegion u k = getRegion s k) (hu : u = { s with dram := u.dram }) :
    ∃ t, exec c s = .next t ∧ getRegion t rid = r ∧ (∀ k, k ≠ rid → getRegion t k = getRegion s k) ∧ t = { s with dram := t.dram } :=
  ⟨_, h, by simp, fun k hk => by simp [hk, hothers k hk], by rw [hu]; rfl⟩

/-- The same where no more than the regions' records differ. -/
theorem region_rewritten {s u : State} {rid : Nat} {c : Instr} {r : Region} (h : exec c s = .next (setRegion u rid r))
    (hothers : ∀ k, k ≠ rid → getRegion u k = getRegion s k) (hu : u = { s with dram := { s.dram with regions := u.dram.regions } }) :
    ∃ t, exec c s = .next t ∧ getRegion t rid = r ∧ (∀ k, k ≠ rid → getRegion t k = getRegion s k)
      ∧ t = { s with dram := { s.dram with regions := t.dram.regions } } :=
  ⟨_, h, by simp, fun k hk => by simp [hk, hothers k hk], by rw [hu]; rfl⟩

/-- Settles O27: the rows write the configuration, which enables (`regionEnable_takes`, `regionEnable_refused`) or disables. -/
theorem regionLifecycle : Obligations.RegionLifecycle := by
  unfold Obligations.RegionLifecycle
  intro fn rid value s hrid v cls size kept shape others
  have hkept : getRegion (configured s rid v) rid = kept := by simp [kept, cls, size]
  have hothers : ∀ k, k ≠ rid → getRegion (configured s rid v) k = getRegion s k := fun k hk => by simp [hk]
  refine ⟨fun hfn hauth => ⟨fun a hbit hoff hcls hsome hsize hend hclash hslots => ?_, fun hbit hoff hslots => ?_, fun hbit hon => ?_,
    fun hbit hoff => ?_⟩, fun hon hstate => ?_⟩
  · have htakes : writeRegionCfg s rid v
        = setRegion (clearRegion (configured s rid v) rid) rid { shape with enable := true, state := 1, slot := a } := by
      rw [writeRegionCfg_on (by rw [bit_toNat, hbit]) hoff]
      refine regionEnable_takes (by rw [hkept]) hcls hsome hsize hend ?_ ?_
      · rw [regionClash_configured, hclash]
      · rw [slotRanges_configured hoff (Nat.pos_iff_ne_zero.1 hsome)]
        exact hslots
    exact region_written ((regionEnable_writes hrid hfn hauth hbit).trans (congrArg _ htakes)) hothers rfl
  · have hrefused : writeRegionCfg s rid v = setRegion (configured s rid v) rid { kept with enable := false, state := 3 } := by
      rw [writeRegionCfg_on (by rw [bit_toNat, hbit]) hoff, regionEnable_refused, hkept]
      rw [hkept]
      rcases Nat.eq_zero_or_pos size with hzero | hpos
      · exact .inl hzero
      · rw [slotRanges_configured hoff (Nat.pos_iff_ne_zero.1 hpos)]
        exact .inr hslots
    exact region_written ((regionEnable_writes hrid hfn hauth hbit).trans (congrArg _ hrefused)) hothers rfl
  · have hfrees : writeRegionCfg s rid v
        = setRegion (clearRegion (configured s rid v) rid) rid { kept with enable := false, state := 0 } := by
      rw [writeRegionCfg_off (by rw [bit_toNat, hbit]), regionOff, hkept, if_pos hon, regionDisable, hkept]
    exact region_written ((regionDisable_writes hrid hfn hauth hbit).trans (congrArg _ hfrees)) hothers rfl
  · have hstays : writeRegionCfg s rid v = setRegion (configured s rid v) rid { kept with state := 0 } := by
      rw [writeRegionCfg_off (by rw [bit_toNat, hbit]), regionOff, hkept, if_neg (by simp [kept, hoff])]
    exact region_rewritten ((regionDisable_writes hrid hfn hauth hbit).trans (congrArg _ hstays)) hothers rfl
  · refine region_rewritten (u := s) ?_ (fun _ _ => rfl) rfl
    show execRegionInitDone rid s = _
    simp [execRegionInitDone, hon, hstate]

end Sys2Proof.Machine
end

section
/-! ### What reading, copying and sending stored blocks leaves alone (R149 to R170) -/

namespace Sys2Proof.Machine

open Sys2Proof

/-- An event leaves DRAM and its tables as they are. -/
@[simp] theorem raiseMod_dram (s : State) (code : Nat) (args : Bytes) : (raiseMod s code args).dram = s.dram := by
  rw [sends_raiseMod code args (sends_refl s)]

/-- The bytes written to DRAM, the write-combining buffers, the regions and the migrations are the same in both states; upsets,
repairs and the row map may differ. -/
structure SameStored (s t : State) : Prop where
  cells : t.dram.cells = s.dram.cells
  wc : t.dram.wc = s.dram.wc
  regions : t.dram.regions = s.dram.regions
  migrations : t.dram.migrations = s.dram.migrations

theorem sameStored_refl (s : State) : SameStored s s := ⟨rfl, rfl, rfl, rfl⟩

theorem sameStored_trans {s t u : State} (a : SameStored s t) (b : SameStored t u) : SameStored s u :=
  ⟨b.cells.trans a.cells, b.wc.trans a.wc, b.regions.trans a.regions, b.migrations.trans a.migrations⟩

theorem sameStored_ite {s0 a b : State} {c : Prop} [Decidable c] (ha : SameStored s0 a) (hb : SameStored s0 b) :
    SameStored s0 (if c then a else b) := by
  split
  · exact ha
  · exact hb

theorem sameStored_forN {s0 : State} {g : Nat → State → State} (hg : ∀ i t, SameStored s0 t → SameStored s0 (g i t)) :
    ∀ (n : Nat) {s : State}, SameStored s0 s → SameStored s0 (forN n g s)
  | 0, _, h => h
  | n + 1, _, h => hg n _ (sameStored_forN hg n h)

theorem sameStored_raiseMod {s0 s : State} (code : Nat) (args : Bytes) (h : SameStored s0 s) : SameStored s0 (raiseMod s code args) :=
  sameStored_trans h (by constructor <;> rw [raiseMod_dram])

theorem sameStored_setFlips {s0 s : State} (rid blk : Nat) (b : Bytes) (h : SameStored s0 s) : SameStored s0 (setFlips s rid blk b) :=
  sameStored_trans h ⟨rfl, rfl, rfl, rfl⟩

theorem sameStored_repairCopy {s0 s : State} (m : MemIn) (rid blk : Nat) (h : SameStored s0 s) : SameStored s0 (repairCopy m s rid blk) := by
  unfold repairCopy
  extract_lets cls w bad
  have hbad : SameStored s0 (bad s) := sameStored_ite h (sameStored_setFlips _ _ _ (sameStored_raiseMod _ _ h))
  clear_value bad w cls
  split
  · refine sameStored_ite hbad ?_
    split
    · exact sameStored_setFlips _ _ _ h
    · exact hbad
  · exact sameStored_ite h hbad
  · exact h

theorem sameStored_copySlot {s0 s : State} (m : MemIn) (ch q : Nat) (h : SameStored s0 s) : SameStored s0 (copySlot m s ch q) := by
  unfold copySlot
  split
  · exact sameStored_forN (fun _ _ => sameStored_repairCopy m _ _) 8 h
  · exact h

theorem sameStored_retireSlot {s0 s : State} (m : MemIn) (ch q : Nat) (h : SameStored s0 s) : SameStored s0 (retireSlot m s ch q) := by
  unfold retireSlot
  extract_lets c copied t counted old recorded raised
  have hrecorded : SameStored s0 recorded := sameStored_trans (sameStored_copySlot m ch q h) ⟨rfl, rfl, rfl, rfl⟩
  have hraised : SameStored s0 raised := sameStored_raiseMod _ _ hrecorded
  clear_value raised
  have hshort : SameStored s0 { raised with dram := { raised.dram with
      capacity := true, shortRaised := raised.dram.shortRaised ++ [ch] } } := sameStored_trans hraised ⟨rfl, rfl, rfl, rfl⟩
  exact sameStored_ite h (sameStored_ite (sameStored_raiseMod _ _ hshort) hraised)

theorem sameStored_rowFault {s0 s : State} (m : MemIn) (ch q : Nat) (h : SameStored s0 s) : SameStored s0 (rowFault m s ch q) := by
  refine sameStored_ite (sameStored_raiseMod _ _ ?_) (sameStored_retireSlot m _ _ (sameStored_retireSlot m _ _ h))
  exact sameStored_trans (sameStored_copySlot m _ _ (sameStored_copySlot m _ _ h)) ⟨rfl, rfl, rfl, rfl⟩

theorem sameStored_markRepair {s0 s : State} (ch : Nat) (h : SameStored s0 s) : SameStored s0 (markRepair s ch) :=
  sameStored_ite h (sameStored_trans h ⟨rfl, rfl, rfl, rfl⟩)

theorem sameStored_badBlock {s0 s : State} (m : MemIn) (rid blk cls : Nat) (w : Bytes) (h : SameStored s0 s) :
    SameStored s0 (badBlock m s rid blk cls w) :=
  sameStored_ite (sameStored_raiseMod _ _ h)
    (sameStored_ite (sameStored_rowFault m _ _ h) (sameStored_raiseMod _ _ (sameStored_rowFault m _ _ h)))

/-- Judging a block corrects upsets and repairs rows, whatever it finds. -/
theorem sameStored_judgeBlock {s0 s : State} (m : MemIn) (rid blk : Nat) (h : SameStored s0 s) : SameStored s0 (judgeBlock s m rid blk).1 := by
  unfold judgeBlock
  extract_lets cls x w
  clear_value w x cls
  split
  · split
    · exact h
    · split
      · extract_lets s1
        split
        · exact sameStored_rowFault m _ _ (sameStored_setFlips _ _ _ h)
        · exact sameStored_setFlips _ _ _ h
      · exact sameStored_badBlock m _ _ _ _ h
  · split
    · exact h
    · exact sameStored_badBlock m _ _ _ _ h
  · exact h

/-- A read changes no written byte. -/
theorem sameStored_readBlock {s0 s : State} (m : MemIn) (rid blk : Nat) (h : SameStored s0 s) : SameStored s0 (readBlock s m rid blk).1 := by
  unfold readBlock
  split
  · exact sameStored_markRepair _ h
  · exact sameStored_judgeBlock m rid blk h

/-! #### A channel copied by a live migration (R162) -/

/-- What copying a channel leaves: the regions and migrations, and the written bytes where no region is of class N. -/
structure Copied (s t : State) : Prop where
  regions : t.dram.regions = s.dram.regions
  migrations : t.dram.migrations = s.dram.migrations
  cells : (∀ r, (getRegion s r).cls < 2) → t.dram.cells = s.dram.cells

theorem copied_trans {s t u : State} (a : Copied s t) (b : Copied t u) : Copied s u where
  regions := b.regions.trans a.regions
  migrations := b.migrations.trans a.migrations
  cells hcls := (b.cells fun r => by rw [getRegion, a.regions]; exact hcls r).trans (a.cells hcls)

theorem copied_of_sameStored {s t : State} (h : SameStored s t) : Copied s t := ⟨h.regions, h.migrations, fun _ => h.cells⟩

/-- A block that the old channel does not deliver leaves free bytes in a region of class N only. -/
theorem copied_copyBlock (s : State) (m : MemIn) (rid blk : Nat) : Copied s (copyBlock s m rid blk) := by
  unfold copyBlock
  extract_lets cls w poison
  have hpoison : ∀ t, SameStored s t → Copied s (poison t) := fun t h =>
    copied_of_sameStored (sameStored_ite h (sameStored_setFlips _ _ _ h))
  split
  · split
    · exact hpoison s (sameStored_refl s)
    next hclass => exact ⟨rfl, rfl, fun hcls => absurd (hcls rid) hclass⟩
  · have hjudged := sameStored_judgeBlock m rid blk (sameStored_refl s)
    split
    next e => rw [e] at hjudged; exact copied_of_sameStored hjudged
    next e => rw [e] at hjudged; exact hpoison _ hjudged

theorem copied_foldl {β : Type} {g : State → β → State} (hg : ∀ t x, Copied t (g t x)) :
    ∀ (l : List β) (s : State), Copied s (l.foldl g s)
  | [], s => copied_of_sameStored (sameStored_refl s)
  | x :: l, s => copied_trans (hg s x) (copied_foldl hg l (g s x))

theorem copied_copyChannel (s : State) (m : MemIn) (ch : Nat) : Copied s (copyChannel s m ch) :=
  copied_foldl (fun t _ => copied_copyBlock t m _ _) _ s

/-! #### The write-combining buffer (R155) -/

@[simp] theorem tget_setWc (s : State) (ch k : Nat) (l : List WcEntry) :
    tget [] (setWc s ch l).dram.wc k = if k = ch then l else tget [] s.dram.wc k := tget_tset _ _ _ _

theorem markRepair_wc (s : State) (ch : Nat) : (markRepair s ch).dram.wc = s.dram.wc := (sameStored_markRepair ch (sameStored_refl s)).wc

/-- Storing a block leaves the buffers alone. -/
theorem wcStore_wc (s : State) (m : MemIn) (e : WcEntry) : (wcStore s m e).dram.wc = s.dram.wc := by
  have hread := sameStored_readBlock m e.rid e.blk (sameStored_refl s)
  unfold wcStore
  extract_lets cls
  split
  · rfl
  · split
    · rfl
    · split
      next hok => rw [hok] at hread; exact hread.wc
      next s1 xs hbad =>
        rw [hbad] at hread
        exact (sameStored_ite (sameStored_raiseMod _ _ hread) hread : SameStored s
          (if readLost s m e.rid e.blk = true then raiseUncorrected s1 e.rid e.blk else s1)).wc

/-- The data entries of a buffer, or of part of one. -/
def dataEntries (l : List WcEntry) : List WcEntry := l.filter (fun x => !x.check)

/-- Check bytes that enter a buffer leave its data entries and the other channels' buffers alone. -/
theorem wcEnter_check (s : State) (m : MemIn) (ch : Nat) {c : WcEntry} (hc : c.check = true) :
    dataEntries (tget [] (wcEnter s m ch c id).dram.wc ch) = dataEntries (tget [] s.dram.wc ch)
      ∧ ∀ k, k ≠ ch → tget [] (wcEnter s m ch c id).dram.wc k = tget [] s.dram.wc k := by
  unfold wcEnter
  extract_lets rest
  have hrest : dataEntries rest = dataEntries (tget [] s.dram.wc ch) := by
    simp only [dataEntries, rest, List.filter_filter]
    refine List.filter_congr fun x _ => ?_
    cases hx : x.check <;> simp [sameBlock, hx, hc]
  have hplaced : dataEntries (rest ++ [c]) = dataEntries (tget [] s.dram.wc ch) := by
    rw [← hrest]
    simp [dataEntries, hc]
  split
  · exact ⟨by simp [hplaced], fun k hk => by simp [hk]⟩
  · split
    · rw [markRepair_wc]
      exact ⟨by simp [hplaced], fun k hk => by simp [hk]⟩
    · exact ⟨by simp [hrest], fun k hk => by simp [hk]⟩

/-- The check bytes of a block that was stored leave data entries and the other channels' buffers alone. -/
theorem wcWrite_data (s : State) (m : MemIn) (ch : Nat) (e : WcEntry) :
    dataEntries (tget [] (wcWrite s m ch e).dram.wc ch) = dataEntries (tget [] s.dram.wc ch)
      ∧ ∀ k, k ≠ ch → tget [] (wcWrite s m ch e).dram.wc k = tget [] s.dram.wc k := by
  unfold wcWrite
  split
  · exact ⟨rfl, fun _ _ => rfl⟩
  · have hstore := wcStore_wc s m e
    unfold wcCheck
    split
    · rw [hstore]
      exact ⟨rfl, fun _ _ => rfl⟩
    · rw [← hstore]
      exact wcEnter_check _ m ch rfl

/-- WC_ENTRY_FLUSH of an entry that cannot be sent. -/
theorem wcEntryFlush_lost {channel index : Nat} {mem : MemIn} {s : State} {e : WcEntry}
    (he : (tget [] (dramUpsets s mem).dram.wc channel)[index]? = some e) (hlost : writeLost (dramUpsets s mem) mem channel e = true) :
    exec (.wcEntryFlush channel index mem) s = .next (markRepair (dramUpsets s mem) channel) := by
  show Host.Outcome.next (wcFlushAt (dramUpsets s mem) mem channel index) = _
  simp only [wcFlushAt, he, hlost, if_true]

/-- WC_ENTRY_FLUSH of an entry that is sent. -/
theorem wcEntryFlush_sent {channel index : Nat} {mem : MemIn} {s : State} {e : WcEntry}
    (he : (tget [] (dramUpsets s mem).dram.wc channel)[index]? = some e) (hsent : writeLost (dramUpsets s mem) mem channel e = false) :
    exec (.wcEntryFlush channel index mem) s
      = .next (wcWrite (setWc (dramUpsets s mem) channel ((tget [] (dramUpsets s mem).dram.wc channel).eraseIdx index)) mem channel e) := by
  show Host.Outcome.next (wcFlushAt (dramUpsets s mem) mem channel index) = _
  simp only [wcFlushAt, he, hsent, Bool.false_eq_true, if_false]

end Sys2Proof.Machine
end

section
/-! ### Migrations, retrains and repair records (R161 to R165, R169, R358) -/

namespace Sys2Proof.Machine

open Sys2Proof

@[simp] theorem getChannel_raiseMod (s : State) (code : Nat) (args : Bytes) (k : Nat) : getChannel (raiseMod s code args) k = getChannel s k := by
  rw [getChannel, raiseMod_dram, getChannel]

@[simp] theorem getChannel_setChannel_same (s : State) (ch : Nat) (c : Channel) : getChannel (setChannel s ch c) ch = c := tget_tset_same _ _ _

theorem wcMask_congr {s t : State} (h : t.dram.wc = s.dram.wc) (rid blk : Nat) : wcMask t rid blk = wcMask s rid blk := by
  rw [wcMask, h, wcMask]

theorem mem_insertNat (x : Nat) : ∀ l : List Nat, x ∈ insertNat x l
  | [] => List.mem_singleton_self x
  | y :: l => by
    unfold insertNat
    split
    · exact List.mem_cons_self
    · split
      next h => exact h ▸ List.mem_cons_self
      · exact List.mem_cons_of_mem y (mem_insertNat x l)

/-- CHANNEL_REPAIR_MARK of a channel in service that is not yet marked. -/
theorem channelRepairMark_marks {channel : Nat} (cause : RepairCause) {s : State} (hch : channel < 512) (hstate : (getChannel s channel).state ≠ 3)
    (hnew : s.dram.repairs.contains channel = false) :
    exec (.channelRepairMark channel cause) s = .next { s with dram := { s.dram with repairs := s.dram.repairs ++ [channel] } } := by
  show Host.Outcome.next (if 512 ≤ channel then s else markRepair s channel) = _
  rw [if_neg (Nat.not_le.2 hch), markRepair, if_neg (by rw [hnew]; simpa using hstate)]

/-! #### Live migration (R162, R163) -/

/-- Step 1 of R162: the channel migrates to the new physical channel, which is no spare any more, and waits for no repair. -/
structure MigrationStarted (s t : State) (ch new : Nat) : Prop where
  state : (getChannel t ch).state = 1
  migrates : (stackOf ch, { channel := ch, oldPhys := (getChannel s ch).phys, newPhys := new }) ∈ t.dram.migrations
  spares : new ∉ tget [] t.dram.spares (stackOf ch)
  repairs : ch ∉ t.dram.repairs
  frame : t.dram = { s.dram with
    channels := t.dram.channels, spares := t.dram.spares, repairs := t.dram.repairs, migrations := t.dram.migrations }

theorem startMigration_started (s : State) (ch new : Nat) : MigrationStarted s (startMigration s ch new) ch new where
  state := by
    rw [startMigration, getChannel_raiseMod]
    exact congrArg Channel.state (getChannel_setChannel_same s ch _)
  migrates := by
    rw [startMigration, raiseMod_dram]
    exact List.mem_append_left _ (List.mem_append_right _ (List.mem_singleton_self _))
  spares := by
    rw [startMigration, raiseMod_dram]
    simp [setSpares, tget_tset]
  repairs := by
    rw [startMigration, raiseMod_dram]
    simp [setSpares, unmark]
  frame := by
    rw [startMigration, raiseMod_dram]
    rfl

/-- LIVE_MIGRATION_START of the stack's first marked channel takes the first spare (log 30). -/
theorem liveMigrationStart_starts {channel new : Nat} {rest : List Nat} {s : State} (hspares : tget [] s.dram.spares (channel / 32) = new :: rest)
    (hup : s.power.drabexUp = true) (hfirst : firstMarked s (channel / 32) = some channel) (hnone : stackMigration s (channel / 32) = none) :
    exec (.liveMigrationStart channel) s = .next (startMigration s channel new) := by
  show execLiveMigrationStart channel s = _
  simp [execLiveMigrationStart, stackOf, stackSpares, hspares, hup, hfirst, hnone]

/-- A stack's migration ends. -/
def endMigration (s : State) (k : Nat) : State :=
  { s with dram := { s.dram with migrations := s.dram.migrations.filter (fun e => e.1 ≠ k) } }

theorem stackMigration_of_ended {s t : State} {k : Nat} (h : t.dram.migrations = (endMigration s k).dram.migrations) : stackMigration t k = none := by
  rw [stackMigration, h, Option.map_eq_none_iff, List.find?_eq_none]
  intro e he hstack
  have hother := (List.mem_filter.1 he).2
  simp only [ne_eq, decide_not, hstack, Bool.not_true, Bool.false_eq_true] at hother

/-- The channel with its copy on the new physical channel; the old one is retrained offline (R162 steps 4 to 6). -/
def switchChannel (s : State) (mem : MemIn) (ch : Nat) (m : Migration) : State :=
  let s1 := updChannel (copyChannel (endMigration s (stackOf ch)) mem ch) ch (fun c => { c with state := 0, phys := m.newPhys })
  { s1 with dram := { s1.dram with offline := s1.dram.offline ++ [stackOf ch * 34 + m.oldPhys] } }

/-- The channel back on its old physical channel, the new one recorded as failed (R163). -/
def abandonChannel (s : State) (ch : Nat) (m : Migration) : State :=
  physFailed (updChannel (endMigration s (stackOf ch)) ch (fun c => { c with state := 0 })) (stackOf ch) m.newPhys

section
variable {channel : Nat} {mem : MemIn} {m : Migration} {s : State} (hm : stackMigration s (channel / 32) = some m) (hch : m.channel = channel)
include hm hch

/-- MIGRATION_SWITCH after a copy that ended well. -/
theorem migrationSwitch_switches : exec (.migrationSwitch channel ⟨false, mem⟩) s
    = .next (raiseMod (switchChannel (dramUpsets s mem) mem channel m) 0x0102 (leBytes 2 channel ++ leBytes 1 m.oldPhys ++ leBytes 1 m.newPhys)) := by
  have hupset : stackMigration (dramUpsets s mem) (stackOf channel) = some m := hm
  show execMigrationSwitch channel ⟨false, mem⟩ s = _
  simp only [execMigrationSwitch, hupset, hch, ne_eq, not_true_eq_false, if_false, Bool.false_eq_true]
  rfl

/-- MIGRATION_SWITCH after a copy to a channel that failed, with no spare or none that the Drabex can give. -/
theorem migrationSwitch_waits (hspares : (if s.power.drabexUp = true then tget [] s.dram.spares (channel / 32) else []) = []) :
    exec (.migrationSwitch channel ⟨true, mem⟩) s = .next
      (let s1 := abandonChannel (dramUpsets s mem) channel m
       { s1 with dram := { s1.dram with repairs := channel :: s1.dram.repairs } }) := by
  have hupset : stackMigration (dramUpsets s mem) (stackOf channel) = some m := hm
  show execMigrationSwitch channel ⟨true, mem⟩ s = _
  simp only [execMigrationSwitch, hupset, hch, ne_eq, not_true_eq_false, if_false, if_true]
  refine congrArg Host.Outcome.next ?_
  split
  · rfl
  next hsome => exact absurd (hspares.symm.trans hsome) (List.cons_ne_nil _ _).symm

/-- MIGRATION_SWITCH after a copy to a channel that failed, with the other spare. -/
theorem migrationSwitch_restarts {new : Nat} {rest : List Nat}
    (hspares : (if s.power.drabexUp = true then tget [] s.dram.spares (channel / 32) else []) = new :: rest) :
    exec (.migrationSwitch channel ⟨true, mem⟩) s = .next (startMigration (abandonChannel (dramUpsets s mem) channel m) channel new) := by
  have hupset : stackMigration (dramUpsets s mem) (stackOf channel) = some m := hm
  show execMigrationSwitch channel ⟨true, mem⟩ s = _
  simp only [execMigrationSwitch, hupset, hch, ne_eq, not_true_eq_false, if_false, if_true]
  refine congrArg Host.Outcome.next ?_
  split
  next hnone => exact absurd (hspares.symm.trans hnone) (List.cons_ne_nil _ _)
  next x tail hsome =>
    obtain ⟨rfl, -⟩ := List.cons.inj (hspares.symm.trans hsome)
    rfl

end

/-- What the switch leaves: the channel in service on the new physical channel, the old one offline, and no migration. -/
theorem switchChannel_switched (s : State) (mem : MemIn) (ch : Nat) (m : Migration) :
    (getChannel (switchChannel s mem ch m) ch).state = 0 ∧ (getChannel (switchChannel s mem ch m) ch).phys = m.newPhys
      ∧ stackOf ch * 34 + m.oldPhys ∈ (switchChannel s mem ch m).dram.offline ∧ stackMigration (switchChannel s mem ch m) (stackOf ch) = none
      ∧ ((∀ r, (getRegion s r).cls < 2) → (switchChannel s mem ch m).dram.cells = s.dram.cells) := by
  have hcopied := copied_copyChannel (endMigration s (stackOf ch)) mem ch
  have hchannel : getChannel (switchChannel s mem ch m) ch
      = { getChannel (copyChannel (endMigration s (stackOf ch)) mem ch) ch with state := 0, phys := m.newPhys } := getChannel_setChannel_same _ _ _
  exact ⟨by rw [hchannel], by rw [hchannel], List.mem_append_right _ (List.mem_singleton_self _), stackMigration_of_ended hcopied.migrations,
    hcopied.cells⟩

/-- What giving a new channel up leaves: the channel in service as before, the failure recorded, and no migration. -/
theorem abandonChannel_abandoned (s : State) (ch : Nat) (m : Migration) :
    getChannel (abandonChannel s ch m) ch = { getChannel s ch with state := 0 }
      ∧ (abandonChannel s ch m).dram = { s.dram with
        channels := (abandonChannel s ch m).dram.channels, migrations := (endMigration s (stackOf ch)).dram.migrations
        failed := s.dram.failed ++ [stackOf ch * 34 + m.newPhys], pendingRecs := s.dram.pendingRecs ++ [.physFailed (stackOf ch * 34 + m.newPhys)] } :=
  ⟨getChannel_setChannel_same _ _ _, rfl⟩

/-! #### Retrains (R162 step 6, R164, R165) -/

/-- A physical channel leaves the offline retrain. -/
def leaveOffline (s : State) (x : Nat) : State := { s with dram := { s.dram with offline := s.dram.offline.filter (fun y => y ≠ x) } }

/-- OFFLINE_RETRAIN_DONE of a channel that trained: it is a spare again. -/
theorem offlineRetrainDone_passed {stack phys : Nat} {s : State} (hoff : stack * 34 + phys ∈ s.dram.offline) :
    exec (.offlineRetrainDone stack phys true) s
      = .next (setSpares (leaveOffline s (stack * 34 + phys)) stack (insertNat phys (stackSpares s stack))) := by
  show execOfflineRetrainDone stack phys true s = _
  rw [execOfflineRetrainDone, List.contains_iff_mem.2 hoff]
  rfl

/-- OFFLINE_RETRAIN_DONE of a channel that failed. -/
theorem offlineRetrainDone_failed {stack phys : Nat} {s : State} (hoff : stack * 34 + phys ∈ s.dram.offline) :
    exec (.offlineRetrainDone stack phys false) s = .next (physFailed (leaveOffline s (stack * 34 + phys)) stack phys) := by
  show execOfflineRetrainDone stack phys false s = _
  rw [execOfflineRetrainDone, List.contains_iff_mem.2 hoff]
  rfl

theorem not_mem_filter_ne {x : Nat} (l : List Nat) : x ∉ l.filter (fun y => y ≠ x) := by simp

/-- A marked channel of a stack without a spare and without a migration under way. -/
def retrainsInPlace (s : State) (ch : Nat) : Prop :=
  s.power.drabexUp = true ∧ ch ∈ s.dram.repairs ∧ tget [] s.dram.spares (ch / 32) = [] ∧ stackMigration s (ch / 32) = none

/-- IN_PLACE_RETRAIN that brings the channel back (R164). -/
theorem inPlaceRetrain_passed {channel : Nat} {s : State} (h : retrainsInPlace s channel) :
    exec (.inPlaceRetrain channel true) s = .next (setChannel (raiseMod (unmark s channel) 0x0103 (leBytes 2 channel ++ leBytes 1 0)) channel
      { getChannel s channel with state := 0 }) := by
  obtain ⟨hup, hmarked, hspares, hnone⟩ := h
  show execInPlaceRetrain channel true s = _
  simp [execInPlaceRetrain, stackOf, stackSpares, hup, hmarked, hspares, hnone]

/-- The channel out of service after a retrain that failed, with what it stored lost and its failure to be recorded (R165). -/
def failChannel (s : State) (ch : Nat) : State :=
  let s1 := loseChannel (setChannel (raiseMod (unmark s ch) 0x0103 (leBytes 2 ch ++ leBytes 1 1)) ch { getChannel s ch with state := 3 }) ch
  queueRecord { s1 with dram := { s1.dram with capacity := true } } (.channelFailed ch)

/-- IN_PLACE_RETRAIN that loses the channel (R165). -/
theorem inPlaceRetrain_failed {channel : Nat} {s : State} (h : retrainsInPlace s channel) :
    exec (.inPlaceRetrain channel false) s = .next
      (raiseMod (failChannel s channel) 0x0104 (leBytes 2 channel ++ leBytes 1 (getChannel s channel).phys)) := by
  obtain ⟨hup, hmarked, hspares, hnone⟩ := h
  show execInPlaceRetrain channel false s = _
  simp [execInPlaceRetrain, stackOf, stackSpares, hup, hmarked, hspares, hnone, failChannel]

/-- A lost channel keeps the bytes alone that wait in its write-combining buffer. -/
theorem mem_loseChannel_cells {s : State} {ch : Nat} {e : Nat × Byte} (h : e ∈ (loseChannel s ch).dram.cells)
    (hch : weaveChannel (e.1 / 2 ^ 40) (e.1 % 2 ^ 40) = ch) :
    (wcMask s (e.1 / 2 ^ 40) (e.1 % 2 ^ 40 / 128)).getLsbD (e.1 % 2 ^ 40 % 128) = true := by
  have hkept := (List.mem_filter.1 h).2
  exact (Bool.or_eq_true_iff.1 hkept).resolve_left fun hne => of_decide_eq_true hne hch

/-- What the failure leaves: the channel in state 3 and unmarked, and of its bytes those that wait in its buffer. -/
theorem failChannel_failed (s : State) (ch : Nat) :
    (getChannel (failChannel s ch) ch).state = 3 ∧ ch ∉ (failChannel s ch).dram.repairs
      ∧ (failChannel s ch).dram.capacity = true ∧ .channelFailed ch ∈ (failChannel s ch).dram.pendingRecs
      ∧ (∀ e ∈ (failChannel s ch).dram.cells, weaveChannel (e.1 / 2 ^ 40) (e.1 % 2 ^ 40) = ch →
        (wcMask s (e.1 / 2 ^ 40) (e.1 % 2 ^ 40 / 128)).getLsbD (e.1 % 2 ^ 40 % 128) = true) := by
  have hdram := raiseMod_dram (unmark s ch) 0x0103 (leBytes 2 ch ++ leBytes 1 1)
  unfold failChannel
  generalize raiseMod (unmark s ch) 0x0103 (leBytes 2 ch ++ leBytes 1 1) = raised at hdram ⊢
  extract_lets lost
  refine ⟨congrArg Channel.state (getChannel_setChannel_same raised ch _), ?_, rfl, List.mem_append_right _ (List.mem_singleton_self _),
    fun e he hch => ?_⟩
  · show ch ∉ raised.dram.repairs
    rw [hdram]
    exact not_mem_filter_ne _
  · rw [← mem_loseChannel_cells he hch]
    exact congrArg (BitVec.getLsbD · _) (wcMask_congr (congrArg Dram.wc hdram) _ _).symm

/-! #### Scrubs and records (R156, R358) -/

/-- PATROL_SCRUB of a block within an enabled class W region. -/
theorem patrolScrub_reads {rid granule block : Nat} {mem : MemIn} {s : State} (hon : (getRegion (dramUpsets s mem) rid).enable = true)
    (hcls : (getRegion (dramUpsets s mem) rid).cls = 0) (hblock : block < 8)
    (hin : granule * 1024 < (getRegion (dramUpsets s mem) rid).size * unit16) :
    exec (.patrolScrub rid granule block mem) s = .next (readBlock (dramUpsets s mem) mem rid (8 * granule + block)).1 := by
  show execPatrolScrub rid granule block mem s = _
  simp [execPatrolScrub, hon, hcls, hblock, hin]

/-- REPAIR_RECORD_WRITE takes the oldest record. -/
theorem repairRecordWrite_stores {r : RepairRec} {rest : List RepairRec} {s : State} (hrecs : s.dram.pendingRecs = r :: rest)
    (hup : s.power.drabexUp = true) :
    exec .repairRecordWrite s = .next (storeRecord { s with dram := { s.dram with pendingRecs := rest } } r) := by
  show execRepairRecordWrite s = _
  simp [execRepairRecordWrite, hrecs, hup]

/-- A record changes its own table alone: neither memory nor the flash. -/
theorem applyRecord_frame (s : State) (r : RepairRec) :
    (applyRecord s r).dram = s.dram ∧ (applyRecord s r).dbx.flashRecs = s.dbx.flashRecs ∧ (applyRecord s r).part = s.part
      ∧ (applyRecord s r).power = s.power := by
  cases r with
  | wavelengthRetired w g =>
    simp only [applyRecord]
    split <;> exact ⟨rfl, rfl, rfl, rfl⟩
  | _ => exact ⟨rfl, rfl, rfl, rfl⟩

/-- A stored record stands in the flash with its CRC-32C and the copy that it replaces; memory stays (R358). -/
theorem storeRecord_stored (s : State) (r : RepairRec) :
    (storeRecord s r).dram = s.dram
      ∧ (∃ y ∈ (storeRecord s r).dbx.flashRecs, y.rcd = r ∧ y.crc = recCrc r
        ∧ y.prev = (s.dbx.flashRecs.find? (fun z => sameRecord z.rcd r)).map (fun z => (z.rcd, z.crc)))
      ∧ (storeRecord s r).part = s.part ∧ (storeRecord s r).power = s.power := by
  unfold storeRecord
  extract_lets old x
  generalize hflash : s.dbx.flashRecs.filter (fun y => !sameRecord y.rcd r) ++ [x] = recs
  obtain ⟨hdram, hrecs, hpart, hpower⟩ := applyRecord_frame { s with dbx := { s.dbx with flashRecs := recs } } r
  refine ⟨hdram, ⟨x, ?_, rfl, rfl, rfl⟩, hpart, hpower⟩
  rw [hrecs, ← hflash]
  exact List.mem_append_right _ (List.mem_singleton_self _)

/-! #### What each command leaves -/

section
variable {channel : Nat} (mem : MemIn) {m : Migration} {s : State} (hm : stackMigration s (channel / 32) = some m) (hch : m.channel = channel)
include hm hch

/-- A switch leaves the channel in service on the new physical channel, and the written bytes as they were where no region is of class N. -/
theorem migrationSwitch_inService : ∃ t, exec (.migrationSwitch channel ⟨false, mem⟩) s = .next t ∧ (getChannel t channel).state = 0
    ∧ (getChannel t channel).phys = m.newPhys ∧ channel / 32 * 34 + m.oldPhys ∈ t.dram.offline ∧ stackMigration t (channel / 32) = none
    ∧ ((∀ r, (getRegion s r).cls < 2) → t.dram.cells = s.dram.cells) := by
  obtain ⟨hstate, hphys, hoffline, hended, hcells⟩ := switchChannel_switched (dramUpsets s mem) mem channel m
  refine ⟨_, migrationSwitch_switches hm hch, ?_, ?_, ?_, ?_, ?_⟩
  · rw [getChannel_raiseMod, hstate]
  · rw [getChannel_raiseMod, hphys]
  · rw [raiseMod_dram]
    exact hoffline
  · rw [stackMigration, raiseMod_dram]
    exact hended
  · rw [raiseMod_dram]
    exact hcells

/-- A new channel that failed is recorded; the migration starts again with the other spare, or the channel is marked again (R163). -/
theorem migrationSwitch_failed : ∃ t, exec (.migrationSwitch channel ⟨true, mem⟩) s = .next t
    ∧ channel / 32 * 34 + m.newPhys ∈ t.dram.failed ∧ .physFailed (channel / 32 * 34 + m.newPhys) ∈ t.dram.pendingRecs
    ∧ t.dram.cells = s.dram.cells
    ∧ ((if s.power.drabexUp = true then tget [] s.dram.spares (channel / 32) else []) = [] →
      (getChannel t channel).state = 0 ∧ stackMigration t (channel / 32) = none ∧ t.dram.repairs = channel :: s.dram.repairs)
    ∧ (∀ new rest, (if s.power.drabexUp = true then tget [] s.dram.spares (channel / 32) else []) = new :: rest →
      (getChannel t channel).state = 1
        ∧ (channel / 32, { channel, oldPhys := (getChannel s channel).phys, newPhys := new }) ∈ t.dram.migrations) := by
  obtain ⟨hchannel, hdram⟩ := abandonChannel_abandoned (dramUpsets s mem) channel m
  cases hgiven : (if s.power.drabexUp = true then tget [] s.dram.spares (channel / 32) else []) with
  | nil =>
    exact ⟨_, migrationSwitch_waits hm hch hgiven, List.mem_append_right _ (List.mem_singleton_self _),
      List.mem_append_right _ (List.mem_singleton_self _), rfl,
      fun _ => ⟨congrArg Channel.state hchannel, stackMigration_of_ended rfl, rfl⟩, fun _ _ => nofun⟩
  | cons spare others =>
    have hstarted := startMigration_started (abandonChannel (dramUpsets s mem) channel m) channel spare
    have hphys : (getChannel (abandonChannel (dramUpsets s mem) channel m) channel).phys = (getChannel s channel).phys := by
      rw [hchannel]
      rfl
    refine ⟨_, migrationSwitch_restarts hm hch hgiven, ?_, ?_, ?_, nofun, fun new rest hnew => ⟨hstarted.state, ?_⟩⟩
    · rw [hstarted.frame, hdram]
      exact List.mem_append_right _ (List.mem_singleton_self _)
    · rw [hstarted.frame, hdram]
      exact List.mem_append_right _ (List.mem_singleton_self _)
    · rw [hstarted.frame, hdram]
      rfl
    · obtain ⟨rfl, -⟩ := List.cons.inj hnew
      rw [← hphys]
      exact hstarted.migrates

end

/-- A channel that an offline retrain brings back is a spare again. -/
theorem offlineRetrainDone_spare {stack phys : Nat} {s : State} (hoff : stack * 34 + phys ∈ s.dram.offline) :
    ∃ t, exec (.offlineRetrainDone stack phys true) s = .next t ∧ phys ∈ tget [] t.dram.spares stack
      ∧ stack * 34 + phys ∉ t.dram.offline ∧ t = { s with dram := t.dram } := by
  refine ⟨_, offlineRetrainDone_passed hoff, ?_, not_mem_filter_ne _, rfl⟩
  rw [setSpares, tget_tset_same]
  exact mem_insertNat phys _

/-- A retrain in place leaves the channel in service and unmarked. -/
theorem inPlaceRetrain_inService {channel : Nat} {s : State} (h : retrainsInPlace s channel) :
    ∃ t, exec (.inPlaceRetrain channel true) s = .next t ∧ (getChannel t channel).state = 0 ∧ channel ∉ t.dram.repairs := by
  refine ⟨_, inPlaceRetrain_passed h, by rw [getChannel_setChannel_same], ?_⟩
  have hdram := raiseMod_dram (unmark s channel) 0x0103 (leBytes 2 channel ++ leBytes 1 0)
  generalize raiseMod (unmark s channel) 0x0103 (leBytes 2 channel ++ leBytes 1 0) = raised at hdram ⊢
  show channel ∉ raised.dram.repairs
  rw [hdram]
  exact not_mem_filter_ne _

/-- A failed retrain in place loses the channel and what it stored, and its failure is to be recorded (R165; capacity by log 111). -/
theorem inPlaceRetrain_lost {channel : Nat} {s : State} (h : retrainsInPlace s channel) :
    ∃ t, exec (.inPlaceRetrain channel false) s = .next t ∧ (getChannel t channel).state = 3 ∧ channel ∉ t.dram.repairs
      ∧ t.dram.capacity = true ∧ .channelFailed channel ∈ t.dram.pendingRecs
      ∧ (∀ e ∈ t.dram.cells, weaveChannel (e.1 / 2 ^ 40) (e.1 % 2 ^ 40) = channel →
        (wcMask s (e.1 / 2 ^ 40) (e.1 % 2 ^ 40 / 128)).getLsbD (e.1 % 2 ^ 40 % 128) = true) := by
  refine ⟨_, inPlaceRetrain_failed h, ?_⟩
  rw [getChannel_raiseMod, raiseMod_dram]
  exact failChannel_failed s channel

/-- A data entry that is sent leaves its buffer, whose other data entries stay. -/
theorem wcEntryFlush_data {channel index : Nat} {mem : MemIn} {s : State} {e : WcEntry}
    (he : (tget [] (dramUpsets s mem).dram.wc channel)[index]? = some e) (hsent : writeLost (dramUpsets s mem) mem channel e = false) :
    ∃ t, exec (.wcEntryFlush channel index mem) s = .next t
      ∧ dataEntries (tget [] t.dram.wc channel) = dataEntries ((tget [] (dramUpsets s mem).dram.wc channel).eraseIdx index)
      ∧ ∀ k, k ≠ channel → tget [] t.dram.wc k = tget [] (dramUpsets s mem).dram.wc k := by
  obtain ⟨hdata, hothers⟩ := wcWrite_data (setWc (dramUpsets s mem) channel ((tget [] (dramUpsets s mem).dram.wc channel).eraseIdx index)) mem channel e
  refine ⟨_, wcEntryFlush_sent he hsent, ?_, fun k hk => ?_⟩
  · rw [hdata, tget_setWc, if_pos rfl]
  · rw [hothers k hk, tget_setWc, if_neg hk]

/-- Settles O52: each clause is what one of the lemmas above says of its command. -/
theorem memoryRepair : Obligations.MemoryRepair := by
  unfold Obligations.MemoryRepair
  intro channel new rid granule block index phys cause mem s k x u
  refine ⟨channelRepairMark_marks cause, fun rest hspares hup hfirst hnone => ?_, fun m hm hch => ⟨migrationSwitch_inService mem hm hch, ?_⟩,
    fun hoff => ⟨offlineRetrainDone_spare hoff, ?_⟩,
    fun hup hmarked hspares hnone => ⟨inPlaceRetrain_inService ⟨hup, hmarked, hspares, hnone⟩, inPlaceRetrain_lost ⟨hup, hmarked, hspares, hnone⟩⟩,
    fun hon hcls hblock hin => ?_,
    fun e he => ⟨wcEntryFlush_lost he, fun hsent hcheck => ?_, fun hsent _ => wcEntryFlush_data he hsent⟩, fun r rest hrecs hup => ?_⟩
  · have hstarted := startMigration_started s channel new
    exact ⟨_, liveMigrationStart_starts hspares hup hfirst hnone, hstarted.state, hstarted.migrates, hstarted.spares, hstarted.repairs,
      by rw [hstarted.frame]⟩
  · obtain ⟨t, hrow, hfailed, hrecord, hcells, hwaits, hrestarts⟩ := migrationSwitch_failed mem hm hch
    refine ⟨t, hrow, hfailed, hrecord, hcells, ?_⟩
    split
    next hgiven => exact hwaits hgiven
    next spare rest hgiven => exact hrestarts spare rest hgiven
  · exact ⟨_, offlineRetrainDone_failed hoff, List.mem_append_right _ (List.mem_singleton_self _),
      List.mem_append_right _ (List.mem_singleton_self _), not_mem_filter_ne _, rfl, rfl⟩
  · exact ⟨_, patrolScrub_reads hon hcls hblock hin, rfl, (sameStored_readBlock mem _ _ (sameStored_refl u)).cells⟩
  · rw [wcEntryFlush_sent he hsent, wcWrite, if_pos hcheck]
  · obtain ⟨hdram, hstored, hpart, hpower⟩ := storeRecord_stored { s with dram := { s.dram with pendingRecs := rest } } r
    refine ⟨_, repairRecordWrite_stores hrecs hup, hdram, hstored, ?_, hpart, hpower⟩
    cases r with
    | coreMap m => rfl
    | lateFailure p n => exact tget_tset_same p n _
    | wavelengthRetired w g =>
      simp only [storeRecord, applyRecord]
      split <;> rfl
    | _ => rfl

end Sys2Proof.Machine
end

section
/-! ### Loading the Steeper's tables (R204, R205, R208) -/

namespace Sys2Proof.Machine

open Sys2Proof

/-- Writing a stretch of entries in turn, from entry `first` on, sets those and leaves the others. -/
theorem tget_foldl_tset {α : Type} [DecidableEq α] (d : α) (first : Nat) (f : Nat → α) (T : Tbl α) (k : Nat) :
    ∀ n, tget d ((List.range n).foldl (fun t i => tset d (first + i) (f i) t) T) k
      = if first ≤ k ∧ k < first + n then f (k - first) else tget d T k
  | 0 => by
    rw [if_neg (by omega)]
    rfl
  | n + 1 => by
    rw [List.range_succ, List.foldl_append, List.foldl_cons, List.foldl_nil, tget_tset, tget_foldl_tset d first f T k n]
    by_cases hk : k = first + n
    · simp [hk]
    · have hstretch : (first ≤ k ∧ k < first + (n + 1)) ↔ first ≤ k ∧ k < first + n := by omega
      simp only [hk, hstretch, if_false]

section
variable {α : Type} [DecidableEq α] (d : α) {first n k : Nat} (f : Nat → α) (T : Tbl α)

theorem tget_foldl_tset_written {i : Nat} (hi : i < n) :
    tget d ((List.range n).foldl (fun t i => tset d (first + i) (f i) t) T) (first + i) = f i := by
  rw [tget_foldl_tset, if_pos (by omega), Nat.add_sub_cancel_left]

theorem tget_foldl_tset_outside (hk : k < first ∨ first + n ≤ k) :
    tget d ((List.range n).foldl (fun t i => tset d (first + i) (f i) t) T) k = tget d T k := by
  rw [tget_foldl_tset, if_neg (by omega)]

end

/-! #### Reading and judging images is quiet -/

theorem quiet_steepCheck {s0 s : State} (p : Nat) (m : MemIn) (a n : Nat) (h : Quiet s0 s) : Quiet s0 (steepCheck s p m a n).1 := by
  unfold steepCheck
  split
  · exact quiet_readRange _ _ _ _ _ h
  · exact h

theorem quiet_readHeader {s0 s : State} (p : Nat) (m : MemIn) (b : Bytes) (h : Quiet s0 s) : Quiet s0 (readHeader s p m b).1 := by
  unfold readHeader
  split
  next s1 e => exact quiet_fst e (quiet_steepCheck _ _ _ _ h)
  next s1 e => exact quiet_fst e (quiet_steepCheck _ _ _ _ h)

theorem quiet_shardVerdict {s0 s : State} (p e : Nat) (m : MemIn) (b : Bytes) (h : Quiet s0 s) : Quiet s0 (shardVerdict s p e m b).1 := by
  unfold shardVerdict
  split
  · exact h
  · split
    next s1 lost hx hread => exact quiet_fst hread (quiet_ite_fst (quiet_readHeader _ _ _ h) h)

theorem quiet_shardFail {s0 : State} (p : Nat) (m : MemIn) :
    ∀ (bs : List (Option Bytes)) (e : Nat) (t : State × Bool), Quiet s0 t.1 → Quiet s0 (shardFail p m bs e t).1
  | [], _, _, h => h
  | none :: bs, e, t, h => quiet_ite_fst h (quiet_shardFail p m bs (e + 1) t h)
  | some b :: bs, e, t, h => by
    simp only [shardFail]
    split
    next s1 lost st xs hv => exact quiet_fst hv (quiet_shardVerdict _ _ _ _ h)
    next s1 lost hv => exact quiet_shardFail p m bs (e + 1) _ (quiet_fst hv (quiet_shardVerdict _ _ _ _ h))

theorem quiet_imagesOf {s0 s : State} (o : Op) (env : Env) (k n : Nat) (h : Quiet s0 s) : Quiet s0 (imagesOf s o env k n).1 :=
  quiet_checkRange _ _ _ _ _ h

/-- A load that leaves only the Steeper changed ends with the success that its operation began with. -/
theorem load_completed {u w : State} (hq : Quiet u w) (o : Op) (env : Env) (st : Steeper) :
    ∃ xs, Completed { w with st } (finishOk { w with st } o env 0 0) o (Claims.success u o env) xs 0 := by
  have hsuccess : Claims.success { w with st } o env = Claims.success u o env := by
    unfold Claims.success
    rw [← hq.degradeBits_eq]
    rfl
  rw [← hsuccess]
  exact finishOk_completed ..

/-! #### ST_SHARD_SET -/

/-- The state in which shard images stand in the table from entry `first` on. -/
def withShards (s : State) (first : Nat) (bs : List (Option Bytes)) : State :=
  { s with st := { s.st with shards := (List.range bs.length).foldl (fun t i => tset [] (first + i) ((bs.getD i none).getD []) t) s.st.shards } }

section
variable {s u w w2 : State} {id : Nat} {env : Env} {o : Op} {bs : List (Option Bytes)}
  (hb : Claims.begins s id 0x71C1 env = some (u, o)) (himages : imagesOf u o env 64 (fld o.desc 0x1A 2) = (w, none, bs))
include hb himages

theorem stShardSet_loads (hgood : shardFail o.part env.mem bs (fld o.desc 0x18 2) (w, false) = (w2, false, none)) :
    Claims.completes (.stShardSet id env) s (withShards w2 (fld o.desc 0x18 2) bs) o (Claims.success u o env) := by
  have hexec : exec (.stShardSet id env) s = .next (finishOk (withShards w2 (fld o.desc 0x18 2) bs) o env 0 0) := by
    show execStShardSet id env s = _
    rw [execStShardSet, runOp_of_begins hb]
    simp only [himages, hgood, withShards]
  have himage : Quiet u w := quiet_fst himages (quiet_imagesOf _ _ _ _ (quiet_refl u))
  obtain ⟨xs, hdone⟩ := load_completed (quiet_fst hgood (quiet_shardFail _ _ _ _ _ himage)) o env (withShards w2 (fld o.desc 0x18 2) bs).st
  exact ⟨_, xs, 0, hexec, hdone⟩

theorem stShardSet_fails {bad : Bool} {st xs e : Nat}
    (hfail : shardFail o.part env.mem bs (fld o.desc 0x18 2) (w, false) = (w2, bad, some (st, xs, e))) :
    exec (.stShardSet id env) s = .next (complete w2 o st xs e) := by
  show execStShardSet id env s = _
  rw [execStShardSet, runOp_of_begins hb]
  simp only [himages, hfail]

end

/-! #### ST_SCHED_SET -/

/-- The state in which schedule images of a partition stand in the table from entry `first` on. -/
def withScheds (s : State) (p first : Nat) (bs : List (Option Bytes)) : State :=
  { s with st := { s.st with scheds := (List.range bs.length).foldl (fun t i => tset [] (16 * p + first + i) ((bs.getD i none).getD []) t) s.st.scheds } }

section
variable {s u w : State} {id : Nat} {env : Env} {o : Op} {bs : List (Option Bytes)}
  (hb : Claims.begins s id 0x71C2 env = some (u, o)) (himages : imagesOf u o env 64 (byteAt o.desc 0x19) = (w, none, bs))
include hb himages

theorem stSchedSet_loads (hgood : schedFail w o.part bs (byteAt o.desc 0x18) = none) :
    Claims.completes (.stSchedSet id env) s (withScheds w o.part (byteAt o.desc 0x18) bs) o (Claims.success u o env) := by
  have hexec : exec (.stSchedSet id env) s = .next (finishOk (withScheds w o.part (byteAt o.desc 0x18) bs) o env 0 0) := by
    show execStSchedSet id env s = _
    rw [execStSchedSet, runOp_of_begins hb]
    simp only [himages, hgood, withScheds]
  obtain ⟨xs, hdone⟩ := load_completed (quiet_fst himages (quiet_imagesOf _ _ _ _ (quiet_refl u))) o env
    (withScheds w o.part (byteAt o.desc 0x18) bs).st
  exact ⟨_, xs, 0, hexec, hdone⟩

theorem stSchedSet_fails {st xs i : Nat} (hfail : schedFail w o.part bs (byteAt o.desc 0x18) = some (st, xs, i)) :
    exec (.stSchedSet id env) s = .next (complete w o st xs i) := by
  show execStSchedSet id env s = _
  rw [execStSchedSet, runOp_of_begins hb]
  simp only [himages, hfail]

end

end Sys2Proof.Machine
end

section
/-! ### ST_ARM (R210, R221, R227) -/

namespace Sys2Proof.Machine

open Sys2Proof

/-- The arming that an ST_ARM registers. -/
def newArming (s : State) (o : Op) (env : Env) : Arming :=
  let d := o.desc
  let step := fld d 0x10 6
  { op := o.id, part := o.part, step, ord := tget 0 (getVote s o.part).started step, group := fld d 0x16 2, seq := fld d 0x18 4
    first := fld d 0x1C 2, count := fld d 0x1E 2, mcast := fld d 0x20 2, degraded := if env.stalled then 4 else 0 }

/-- The state in which the arming of an ST_ARM is registered: its step counts one more, and its operation waits for the vote. -/
def registered (s : State) (o : Op) (env : Env) : State :=
  let a := newArming s o env
  let v := getVote s o.part
  let s1 := setVote s o.part { v with started := tset 0 a.step (a.ord + 1) v.started }
  updOp { s1 with st := { s1.st with armings := s1.st.armings ++ [a] } } o.id (fun x => { x with phase := .registered })

theorem mem_armEntries (a : Arming) (e : Nat) : e ∈ armEntries a ↔ a.first ≤ e ∧ e < a.first + a.count := by
  simp only [armEntries, List.mem_map, List.mem_range]
  constructor
  · rintro ⟨i, hi, rfl⟩
    omega
  · rintro ⟨hfirst, hlast⟩
    exact ⟨e - a.first, by omega, by omega⟩

/-- INFO of an arming that has met neither a gap nor a non-finite value is its step (R227). -/
theorem armInfo_newArming (s : State) (o : Op) (env : Env) : armInfo (newArming s o env) = fld o.desc 0x10 6 := by
  simp [armInfo, newArming]

/-- Some entry passes a test, so that the first of them is found. -/
theorem find_armEntries_some {a : Arming} {p : Nat → Bool} (h : ∃ e, (a.first ≤ e ∧ e < a.first + a.count) ∧ p e = true) :
    ∃ e, (armEntries a).find? p = some e := by
  obtain ⟨e, hnamed, he⟩ := h
  exact Option.isSome_iff_exists.1 (List.find?_isSome.2 ⟨e, (mem_armEntries a e).2 hnamed, he⟩)

theorem find_armEntries_none {a : Arming} {p : Nat → Bool} (h : ∀ e, a.first ≤ e ∧ e < a.first + a.count → p e = false) :
    (armEntries a).find? p = none :=
  List.find?_eq_none.2 (fun e he => by simp [h e ((mem_armEntries a e).1 he)])

section
variable {s u : State} {id : Nat} {env : Env} {o : Op} (hb : Claims.begins s id 0x71C0 env = some (u, o))
include hb

theorem stArm_notLoaded {e : Nat} (hfind : (armEntries (newArming u o env)).find? (fun e => shRule (getShard u e) = 0) = some e) :
    exec (.stArm id env) s = .next (complete u o 0x82 0 (fld o.desc 0x10 6)) := by
  rw [← armInfo_newArming u o env]
  show execStArm id env s = _
  rw [execStArm, runOp_of_begins hb]
  simp only [newArming] at hfind ⊢
  simp only [hfind]

variable (hloaded : (armEntries (newArming u o env)).find? (fun e => shRule (getShard u e) = 0) = none)
include hloaded

theorem stArm_held {e : Nat} (hfind : (armEntries (newArming u o env)).find? (shardHeld u) = some e) :
    exec (.stArm id env) s = .next (complete u o 0x83 0 (fld o.desc 0x10 6)) := by
  rw [← armInfo_newArming u o env]
  show execStArm id env s = _
  rw [execStArm, runOp_of_begins hb]
  simp only [newArming] at hloaded hfind ⊢
  simp only [hloaded, hfind]

variable (hfree : (armEntries (newArming u o env)).find? (shardHeld u) = none)
include hfree

theorem stArm_late (hlate : armLate u o.part (fld o.desc 0x10 6) = true) :
    exec (.stArm id env) s = .next (complete u o stStale 3 (fld o.desc 0x10 6)) := by
  rw [← armInfo_newArming u o env]
  show execStArm id env s = _
  rw [execStArm, runOp_of_begins hb]
  simp only [newArming] at hloaded hfree ⊢
  simp only [hloaded, hfree, hlate, if_true]

theorem stArm_registers (hlate : armLate u o.part (fld o.desc 0x10 6) = false) :
    exec (.stArm id env) s = .next (registered u o env) := by
  show execStArm id env s = _
  rw [execStArm, runOp_of_begins hb]
  simp only [registered, newArming] at hloaded hfree ⊢
  simp only [hloaded, hfree, hlate, Bool.false_eq_true, if_false]

end

/-- The operation of a registered arming waits. -/
theorem phase_of_registered {s : State} {o x : Op} {env : Env} (hx : findOp (registered s o env) o.id = some x) : x.phase = .registered := by
  unfold registered at hx
  rw [findOp_updOp _ _ _ (by intro _; rfl)] at hx
  obtain ⟨y, -, rfl⟩ := Option.map_eq_some_iff.1 hx
  rfl

/-- Settles O38: the loads write the named stretch of their table (`tget_foldl_tset`), and an ST_ARM meets the checks of its entries,
then of its step, in their order (`stArm_…`). -/
theorem steeperTables : Obligations.SteeperTables := by
  unfold Obligations.SteeperTables
  intro id env s u w o bs d ok first count step named ends
  refine ⟨fun w2 hb himages => ⟨fun hgood => ?_, fun bad st xs e hfail => ?_⟩,
    fun hb himages => ⟨fun hgood => ?_, fun st xs i hfail => ?_⟩,
    fun hb => ⟨fun hempty => ?_, fun hloaded => ?_⟩⟩
  · exact ⟨_, stShardSet_loads hb himages hgood, fun i hi => tget_foldl_tset_written [] _ _ hi,
      fun k hk => tget_foldl_tset_outside [] _ _ hk, rfl⟩
  · exact ⟨_, stShardSet_fails hb himages hfail, complete_spec ..⟩
  · refine ⟨_, stSchedSet_loads hb himages hgood, fun i hi => ?_, rfl, rfl⟩
    rw [getSched, ← Nat.add_assoc]
    exact tget_foldl_tset_written [] _ _ hi
  · exact ⟨_, stSchedSet_fails hb himages hfail, complete_spec ..⟩
  · obtain ⟨e, hfind⟩ := find_armEntries_some (a := newArming u o env) (p := fun e => shRule (getShard u e) = 0)
      (hempty.imp fun e ⟨hnamed, hrule⟩ => ⟨hnamed, decide_eq_true hrule⟩)
    exact ⟨_, stArm_notLoaded hb hfind, complete_spec ..⟩
  have hnone := find_armEntries_none (a := newArming u o env) (p := fun e => shRule (getShard u e) = 0)
    (fun e hnamed => decide_eq_false (hloaded e hnamed))
  refine ⟨fun hheld => ?_, fun hheld => ?_⟩
  · obtain ⟨e, hfind⟩ := find_armEntries_some (a := newArming u o env) hheld
    exact ⟨_, stArm_held hb hnone hfind, complete_spec ..⟩
  have hfree := find_armEntries_none (a := newArming u o env) hheld
  refine ⟨fun hlate => ?_, fun hlate => ?_⟩
  · exact ⟨_, stArm_late hb hnone hfree hlate, complete_spec ..⟩
  · exact ⟨_, newArming u o env, stArm_registers hb hnone hfree hlate, rfl, rfl, rfl, rfl, rfl, rfl, rfl, rfl, rfl, rfl, rfl,
      fun x hx => phase_of_registered hx, rfl, rfl, rfl⟩

end Sys2Proof.Machine
end

section
/-! ### The outcome of a step (R221 to R225): what its completions, statistics and records leave -/

namespace Sys2Proof.Machine

open Sys2Proof

/-- From `s` to `t` every partition remembers the same outcome, every layer keeps its slots, with their versions and claim, and
memory stays; fences may be released. -/
structure Settled (s t : State) : Prop where
  outcome : ∀ p, (getVote t p).lastStep = (getVote s p).lastStep ∧ (getVote t p).lastCommit = (getVote s p).lastCommit
  slots : ∀ l, ∃ f0 f1, getVer t l = { getVer s l with fence0 := f0, fence1 := f1 }
  dram : t.dram = s.dram

theorem settled_refl (s : State) : Settled s s := ⟨fun _ => ⟨rfl, rfl⟩, fun _ => ⟨_, _, rfl⟩, rfl⟩

theorem settled_trans {s t u : State} (a : Settled s t) (b : Settled t u) : Settled s u where
  outcome p := ⟨(b.outcome p).1.trans (a.outcome p).1, (b.outcome p).2.trans (a.outcome p).2⟩
  slots l := by
    obtain ⟨f0, f1, ht⟩ := a.slots l
    obtain ⟨g0, g1, hu⟩ := b.slots l
    exact ⟨g0, g1, by rw [hu, ht]⟩
  dram := b.dram.trans a.dram

theorem settled_foldl {β : Type} {g : State → β → State} (hg : ∀ t x, Settled t (g t x)) : ∀ (l : List β) (s : State), Settled s (l.foldl g s)
  | [], s => settled_refl s
  | x :: l, s => settled_trans (hg s x) (settled_foldl hg l (g s x))

theorem settled_ite {s a b : State} {c : Prop} [Decidable c] (ha : Settled s a) (hb : Settled s b) : Settled s (if c then a else b) := by
  split
  · exact ha
  · exact hb

/-- What changes neither votes, nor versions, nor memory. -/
theorem settled_of_eq {s t : State} (hvotes : t.st.votes = s.st.votes) (hvers : t.tr.vers = s.tr.vers) (hdram : t.dram = s.dram) : Settled s t where
  outcome p := by
    have hvote : getVote t p = getVote s p := by rw [getVote, hvotes, getVote]
    exact ⟨congrArg _ hvote, congrArg _ hvote⟩
  slots l := ⟨(getVer s l).fence0, (getVer s l).fence1, by rw [getVer, hvers, getVer]⟩
  dram := hdram

theorem Sends.settled {s t : State} (h : Sends s t) : Settled s t := by
  unfold Sends at h
  exact settled_of_eq (by rw [h]) (by rw [h]) (by rw [h])

theorem settled_fenceSub (s : State) (layer slot : Nat) : Settled s (fenceSub s layer slot) where
  outcome _ := ⟨rfl, rfl⟩
  slots l := by
    unfold fenceSub
    rw [getVer_setVer]
    split
    · subst l
      split
      · exact ⟨_, _, rfl⟩
      · exact ⟨_, _, rfl⟩
    · exact ⟨_, _, rfl⟩
  dram := rfl

theorem settled_releaseLatches (s : State) (ls : List Latch) : Settled s (releaseLatches s ls) :=
  settled_foldl (g := fun t (l : Latch) => fenceSub t l.layer l.slot) (fun t l => settled_fenceSub t l.layer l.slot) ls s

theorem settled_signalEvt (s : State) (e : Nat) (fail : Bool) : Settled s (signalEvt s e fail) := by
  obtain ⟨es, h, -⟩ := signalEvt_frame s e fail
  rw [h]
  exact settled_of_eq rfl rfl rfl

theorem settled_consumeSeq (s : State) (p : Nat) (d : Bytes) : Settled s (consumeSeq s p d) := by
  obtain ⟨gs, h⟩ := consumeSeq_frame s p d
  rw [h]
  exact settled_of_eq rfl rfl rfl

theorem settled_noted (s : State) (core op st : Nat) (srel : Bool) (ring pos : Nat) (ls : List Latch) :
    Settled s (recentDone (windowDone s core op st srel) ring pos st ls) := by
  obtain ⟨rs, ws, h, -⟩ := noted_frame s core op st srel ring pos ls
  rw [h]
  exact settled_of_eq rfl rfl rfl

theorem settled_recordOut (s : State) (p ring : Nat) (irq : Bool) (op : Option Nat) (b : Bytes) : Settled s (recordOut s p ring irq op b) := by
  obtain ⟨fns, m, orings, ops, h, -⟩ := recordOut_frame s p ring irq op b
  rw [h]
  exact settled_of_eq rfl rfl rfl

/-- A completion releases the fences of its latches (R84). -/
theorem settled_complete (s : State) (o : Op) (st xs info : Nat) : Settled s (complete s o st xs info) := by
  unfold complete
  extract_lets s1 s2 s3 s4
  have h2 : Settled s s2 := settled_trans (settled_trans (settled_signalEvt ..) (settled_consumeSeq ..)) (settled_releaseLatches s1 o.latches)
  have h3 : Settled s s3 := settled_trans h2 (settled_noted ..)
  have h4 : Settled s s4 := settled_trans h3 (settled_recordOut ..)
  refine settled_ite ?_ (settled_trans h3 (settled_of_eq rfl rfl rfl))
  split
  · exact settled_trans h4 (settled_ite (settled_of_eq rfl rfl rfl) (settled_of_eq rfl rfl rfl))
  · exact h4

theorem settled_completeArming (s : State) (a : Arming) (st xs info : Nat) : Settled s (completeArming s a st xs info) := by
  have hdrop : Settled s (dropArming s a) := settled_of_eq rfl rfl rfl
  unfold completeArming
  extract_lets s1
  split
  · exact settled_trans hdrop (settled_complete s1 _ st xs info)
  · exact hdrop

theorem settled_endColl (s : State) (x : Ctx) (st xs info : Nat) : Settled s (endColl s x st xs info) := by
  have hkept : Settled s (dropCtx (keepRecords s x) x.op) := by
    unfold keepRecords
    extract_lets l
    split
    · exact settled_of_eq rfl rfl rfl
    · exact settled_of_eq rfl rfl rfl
  unfold endColl
  extract_lets s1
  split
  · exact settled_trans hkept (settled_complete s1 _ st xs info)
  · exact hkept

theorem settled_raise (s : State) (code part : Nat) (args : Bytes) : Settled s (raise s code part args) :=
  (sends_raise code part args (sends_refl s)).settled

theorem settled_putStat (s : State) (p : Nat) (b : Bytes) : Settled s (putStat s p b) :=
  Sends.settled (sends_ite (sends_refl s) (sends_ite (sends_setOwnerLeaf _ _ _ (sends_putRecord _ _ _ (sends_refl s)))
    (sends_holdRecord _ _ _ (sends_refl s))))

/-- The end of a step for a layer governs its format and reports (R196 to R200). -/
theorem settled_endLayer (s : State) (p step : Nat) (committed : Bool) (l : Nat) : Settled s (endLayer s p step committed l) := by
  unfold endLayer
  extract_lets e g0 g1 floor
  split
  next x incomplete _ =>
  extract_lets g2 ratio undef live low high args s1 s2 s3 v fl
  have h1 : Settled s s1 := settled_of_eq rfl rfl rfl
  have h2 : Settled s s2 := settled_ite (settled_trans h1 (settled_raise ..)) h1
  have h3 : Settled s s3 := settled_ite (settled_trans h2 (settled_raise ..)) h2
  exact settled_trans h3 (settled_putStat ..)

theorem settled_endLayers (s : State) (p step : Nat) (committed : Bool) (ls : List Nat) : Settled s (endLayers s p step committed ls) :=
  settled_foldl (fun t l => settled_endLayer t p step committed l) _ s

/-- A vote state that remembers the same outcome. -/
theorem settled_setVote {s : State} {p : Nat} {v : VoteState} (hstep : v.lastStep = (getVote s p).lastStep)
    (hcommit : v.lastCommit = (getVote s p).lastCommit) : Settled s (setVote s p v) where
  outcome q := by
    rw [getVote_setVote]
    split
    · subst q
      exact ⟨hstep, hcommit⟩
    · exact ⟨rfl, rfl⟩
  slots _ := ⟨_, _, rfl⟩
  dram := rfl

theorem settled_suspect (s : State) (p step : Nat) (skipped : Bool) (r : Bytes) : Settled s (suspect s p step skipped r) := by
  unfold suspect
  extract_lets v rank n
  refine settled_ite (settled_ite (settled_trans ?_ (settled_raise ..)) ?_) ?_
  · exact settled_setVote rfl rfl
  · exact settled_setVote rfl rfl
  · exact settled_setVote rfl rfl

/-! #### The slots of the layers claimed for a step -/

/-- The claimed slot is current, with the next version (R179, R224). -/
def committedVer (v : VerState) : VerState :=
  let n := ((if v.cur = 0 then v.ver0 else v.ver1).getD 0 + 1) % 2 ^ 48
  if v.cur = 0 then { v with cur := 1, ver1 := some n, claim := none, filled := [] } else { v with cur := 0, ver0 := some n, claim := none, filled := [] }

/-- The claimed slot holds no version again (R225). -/
def unclaimedVer (v : VerState) : VerState :=
  if v.cur = 0 then { v with ver1 := none, claim := none, filled := [] } else { v with ver0 := none, claim := none, filled := [] }

theorem commitLayer_eq (s : State) (l : Nat) : commitLayer s l = setVer s l (committedVer (getVer s l)) := rfl

theorem unclaimLayer_eq (s : State) (l : Nat) : unclaimLayer s l = setVer s l (unclaimedVer (getVer s l)) := rfl

@[simp] theorem committedVer_claim (v : VerState) : (committedVer v).claim = none := by
  unfold committedVer
  dsimp only
  split <;> rfl

theorem committedVer_cur {v : VerState} (h : v.cur ≤ 1) : (committedVer v).cur = 1 - v.cur := by
  unfold committedVer
  dsimp only
  split
  · simp [*]
  · show 0 = 1 - v.cur
    omega

/-- The version of the slot that a commit makes current. -/
theorem committedVer_version (v : VerState) :
    slotVersion (committedVer v) (committedVer v).cur = some (((slotVersion v v.cur).getD 0 + 1) % 2 ^ 48) := by
  unfold committedVer slotVersion
  dsimp only
  by_cases h : v.cur = 0
  · simp [h]
  · simp [h]

/-- Whatever the fences, a slot holds its version. -/
theorem slotVersion_fences (v : VerState) (f0 f1 slot : Nat) : slotVersion { v with fence0 := f0, fence1 := f1 } slot = slotVersion v slot := rfl

@[simp] theorem unclaimedVer_claim (v : VerState) : (unclaimedVer v).claim = none := by
  unfold unclaimedVer
  split <;> rfl

@[simp] theorem unclaimedVer_cur (v : VerState) : (unclaimedVer v).cur = v.cur := by
  unfold unclaimedVer
  split <;> rfl

section
variable {g : State → Nat → State} {f : VerState → VerState} (hg : ∀ s l, g s l = setVer s l (f (getVer s l)))
include hg

/-- Updating layers in turn changes version state only. -/
theorem updateVers_frame : ∀ (ls : List Nat) (s : State), ∃ vs, ls.foldl g s = { s with tr := { s.tr with vers := vs } }
  | [], s => ⟨s.tr.vers, rfl⟩
  | l :: ls, s => by
    obtain ⟨vs, h⟩ := updateVers_frame ls (g s l)
    exact ⟨vs, by rw [List.foldl_cons, h, hg]; rfl⟩

theorem getVer_updateVers_other {l : Nat} : ∀ (ls : List Nat) (s : State), l ∉ ls → getVer (ls.foldl g s) l = getVer s l
  | [], _, _ => rfl
  | k :: ls, s, h => by
    obtain ⟨hk, hls⟩ : l ≠ k ∧ l ∉ ls := by simpa using h
    rw [List.foldl_cons, getVer_updateVers_other ls _ hls, hg, getVer_setVer, if_neg hk]

/-- Updating each of some distinct layers updates each once. -/
theorem getVer_updateVers {l : Nat} (ls : List Nat) (s : State) (hn : ls.Nodup) (hl : l ∈ ls) : getVer (ls.foldl g s) l = f (getVer s l) := by
  induction ls generalizing s with
  | nil => cases hl
  | cons k ls ih =>
    obtain ⟨hk, hls⟩ := List.nodup_cons.1 hn
    rw [List.foldl_cons]
    by_cases he : l = k
    · subst k
      rw [getVer_updateVers_other hg ls _ hk, hg, getVer_setVer, if_pos rfl]
    · rw [ih _ hls ((List.mem_cons.1 hl).resolve_left he), hg, getVer_setVer, if_neg he]

end

/-- From `s` to `t` a partition has come to remember the outcome of a step; the slots of some layers changed as `f` says, but for
fences, and memory stays. -/
structure Remembers (s t : State) (p step : Nat) (committed : Bool) (f : VerState → VerState) (ls : List Nat) : Prop where
  lastStep : (getVote t p).lastStep = some step
  lastCommit : (getVote t p).lastCommit = committed
  slots : ∀ l ∈ ls, ∃ f0 f1, getVer t l = { f (getVer s l) with fence0 := f0, fence1 := f1 }
  dram : t.dram = s.dram

/-- Updating a step's layers and recording its outcome, before whatever else ends with the step. -/
theorem remembers_of_settled {g : State → Nat → State} {f : VerState → VerState} (hg : ∀ s l, g s l = setVer s l (f (getVer s l)))
    {s t : State} {p step : Nat} {committed : Bool} {ls : List Nat} (hn : ls.Nodup)
    (ht : Settled (recordOutcome (ls.foldl g s) p step committed) t) : Remembers s t p step committed f ls := by
  have hvote : getVote (recordOutcome (ls.foldl g s) p step committed) p
      = { forgetStep (getVote (ls.foldl g s) p) step committed with lastStep := some step, lastCommit := committed } := by
    rw [recordOutcome, getVote_setVote, if_pos rfl]
  obtain ⟨hstep, hcommit⟩ := ht.outcome p
  refine ⟨by rw [hstep, hvote], by rw [hcommit, hvote], fun l hl => ?_, ?_⟩
  · obtain ⟨f0, f1, hver⟩ := ht.slots l
    refine ⟨f0, f1, hver.trans ?_⟩
    rw [← getVer_updateVers hg ls s hn hl]
    rfl
  · obtain ⟨vs, hframe⟩ := updateVers_frame hg ls s
    rw [ht.dram]
    show (ls.foldl g s).dram = s.dram
    rw [hframe]

section
variable {s : State} {p step : Nat} (hn : (claimedFor s p step).Nodup) (r : Bytes) {vote : State → State} (hvote : ∀ t, Settled t (vote t))
include hn hvote

/-- R224: a commit switches the claimed slots; what ends with the step leaves them so. -/
theorem commitStep_remembers : Remembers s (commitStep s p step r vote) p step true committedVer (claimedFor s p step) := by
  refine remembers_of_settled commitLayer_eq hn ?_
  unfold commitStep
  extract_lets as ls s1 s2
  have harmings : Settled s1 s2 := settled_trans (hvote s1)
    (settled_foldl (fun t a => settled_ite (settled_completeArming ..) (settled_completeArming ..)) as _)
  exact settled_trans harmings (settled_trans (settled_suspect ..) (settled_endLayers ..))

/-- R225: a skip whose armings were all counted frees the claimed slots; what ends with the step leaves them so. -/
theorem skipStep_remembers {xs : Nat} (hcounted : ∀ a ∈ armingsOf s p step, a.counted = true) :
    Remembers s (skipStep s p step xs r vote) p step false unclaimedVer (claimedFor s p step) := by
  refine remembers_of_settled unclaimLayer_eq hn ?_
  unfold skipStep
  extract_lets as rest ls keep s1 v s2 s3
  have hrest : rest = [] := List.filter_eq_nil_iff.2 (fun a ha => by simp [hcounted a ha])
  have hkeep : keep = [] := by
    show layersOf s rest = []
    rw [hrest]
    rfl
  have h1 : s1 = (claimedFor s p step).foldl unclaimLayer s := by
    have hall : (claimedFor s p step).filter (fun l => !keep.contains l) = claimedFor s p step :=
      List.filter_eq_self.2 (fun l _ => by rw [hkeep]; rfl)
    exact congrArg (List.foldl unclaimLayer s) hall
  have h2 : s2 = recordOutcome ((claimedFor s p step).foldl unclaimLayer s) p step false := by
    rw [← h1]
    exact if_pos (by rw [hrest]; rfl)
  rw [← h2]
  have harmings : Settled s2 s3 := settled_trans (hvote s2) (settled_foldl (fun t a => settled_completeArming ..) as _)
  exact settled_trans harmings (settled_trans (settled_suspect ..) (settled_endLayers ..))

end

end Sys2Proof.Machine
end

section
/-! ### A member's vote and its decision (R223 to R225) -/

namespace Sys2Proof.Machine

open Sys2Proof

/-! #### Records sent -/

theorem sends_sendRecord {s0 : State} (d rec_ : Bytes) (level dst : Nat) (t : State × Ctx) (h : Sends s0 t.1) :
    Sends s0 (sendRecord d rec_ level dst t).1 := by
  obtain ⟨s, x⟩ := t
  unfold sendRecord
  dsimp only
  split
  · exact h
  · exact sends_trans h (sends_emitChunk ..)

theorem sends_foldl_fst {s0 : State} {β γ : Type} {g : State × γ → β → State × γ} (hg : ∀ t x, Sends s0 t.1 → Sends s0 (g t x).1) :
    ∀ (l : List β) {t : State × γ}, Sends s0 t.1 → Sends s0 (l.foldl g t).1
  | [], _, h => h
  | x :: l, _, h => sends_foldl_fst hg l (hg _ x h)

/-- Moving records up and down the tree sends messages and no more. -/
theorem sends_pumpRecords (s : State) (x : Ctx) (d : Bytes) : Sends s (pumpRecords s x d).1 := by
  unfold pumpRecords
  extract_lets m top
  split
  · exact sends_refl s
  · split
    next s1 x1 hup =>
    have h1 : Sends s s1 := by
      have hs1 : s1 = (s1, x1).1 := rfl
      rw [hs1, ← hup]
      split
      · split
        · exact sends_refl s
        · exact sends_sendRecord _ _ _ _ _ (sends_refl s)
      · exact sends_refl s
    split
    · exact h1
    · refine sends_foldl_fst (fun t l ht => ?_) _ h1
      extract_lets o
      split
      · exact sends_sendRecord _ _ _ _ _ ht
      · exact ht

/-- A vote whose records do not clash goes on: messages leave, and its context is put. -/
theorem pump_vote {s : State} {x : Ctx} {o : Op} (hop : findOp s x.op = some o) (hcode : x.code = 7)
    (hclash : (pumpRecords s x o.desc).2.2 = none) : ∃ t y, pump s x = putCtx t y ∧ Sends s t := by
  rcases hp : pumpRecords s x o.desc with ⟨t, y, c⟩
  have hsends : Sends s t := by
    have h := sends_pumpRecords s x o.desc
    rwa [hp] at h
  obtain rfl : c = none := by rwa [hp] at hclash
  exact ⟨t, y, by simp [pump, hop, hcode, isRecordOp, hp], hsends⟩

/-! #### VOTE_CONTRIBUTE -/

/-- The state in which the armings of a record are counted, and a partition has contributed the record of a step. -/
def contributed (s : State) (p step : Nat) (r : Bytes) (cs : List Arming) : State :=
  let s1 := cs.foldl (fun t a => updArming t a.op (fun a => { a with counted := true })) s
  setVote s1 p { getVote s1 p with contributed := (getVote s1 p).contributed.filter (fun e => e.1 ≠ step) ++ [(step, r)] }

theorem foldl_updArming_frame (g : Arming → Arming) : ∀ (cs : List Arming) (s : State),
    ∃ as, cs.foldl (fun t a => updArming t a.op g) s = { s with st := { s.st with armings := as } }
  | [], s => ⟨s.st.armings, rfl⟩
  | a :: cs, s => by
    obtain ⟨as, h⟩ := foldl_updArming_frame g cs (updArming s a.op g)
    exact ⟨as, by rw [List.foldl_cons, h]; rfl⟩

/-- Contributing changes the Steeper alone. -/
theorem contributed_frame (s : State) (p step : Nat) (r : Bytes) (cs : List Arming) : ∃ st, contributed s p step r cs = { s with st } := by
  obtain ⟨as, h⟩ := foldl_updArming_frame (fun a => { a with counted := true }) cs s
  unfold contributed
  rw [h]
  exact ⟨_, rfl⟩

theorem getVote_contributed (s : State) (p step : Nat) (r : Bytes) (cs : List Arming) :
    getVote (contributed s p step r cs) p
      = { getVote s p with contributed := (getVote s p).contributed.filter (fun e => e.1 ≠ step) ++ [(step, r)] } := by
  obtain ⟨as, h⟩ := foldl_updArming_frame (fun a => { a with counted := true }) cs s
  unfold contributed
  rw [h, getVote_setVote, if_pos rfl]
  rfl

section
variable (v : VoteState) (step : Nat) (r : Bytes)

theorem recordFor_contributed_same :
    recordFor { v with contributed := v.contributed.filter (fun e => e.1 ≠ step) ++ [(step, r)] } step = some r := by
  have hnone : (v.contributed.filter (fun e => e.1 ≠ step)).find? (fun e => e.1 = step) = none :=
    List.find?_eq_none.2 (fun e he => by simpa using (List.mem_filter.1 he).2)
  rw [recordFor, List.find?_append, hnone]
  simp

theorem recordFor_contributed_other {k : Nat} (hk : k ≠ step) :
    recordFor { v with contributed := v.contributed.filter (fun e => e.1 ≠ step) ++ [(step, r)] } k = recordFor v k := by
  have hkept : (v.contributed.filter (fun e => e.1 ≠ step)).find? (fun e => e.1 = k) = v.contributed.find? (fun e => e.1 = k) := by
    rw [List.find?_filter]
    refine congrArg (List.find? · v.contributed) (funext fun e => ?_)
    by_cases he : e.1 = k
    · simp [he, hk]
    · simp [he]
  simp only [recordFor, List.find?_append, hkept]
  simp [Ne.symm hk]

end

section
variable {id : Nat} {s : State} {x : Ctx} {o : Op} (hctx : ctxByOp s id = some x) (hop : findOp s id = some o) (hcode : x.code = 7)
include hctx hop hcode

/-- R223: a member that has not contributed puts its record into the vote. -/
theorem voteContribute_contributes {r : Bytes} {cs : List Arming} (hown : x.own = none) (hrecord : contribution s o x.rank = some (r, cs)) :
    exec (.voteContribute id) s
      = .next (pump (putCtx (contributed s o.part (cStep o.desc) r cs) { x with own := some r }) { x with own := some r }) := by
  show execVoteContribute id s = _
  simp [execVoteContribute, hctx, hop, hcode, hown, hrecord, contributed]

theorem voteDecision_commits {record : Bytes} (hresult : x.result = some record) (hcause : skipCause record (!(fencedRanks x).isEmpty) = none) :
    exec (.voteDecision id record) s
      = .next (commitStep s o.part (cStep o.desc) record (fun t => endColl t x stOk 0 (fld record 0x18 8))) := by
  show execVoteDecision id record s = _
  simp [execVoteDecision, hctx, hop, hcode, hresult, hcause]

theorem voteDecision_skips {record : Bytes} {xs : Nat} (hresult : x.result = some record)
    (hcause : skipCause record (!(fencedRanks x).isEmpty) = some xs) :
    exec (.voteDecision id record) s
      = .next (skipStep s o.part (cStep o.desc) xs record (fun t => endColl t x stSkipped xs (fld record 0x18 8))) := by
  show execVoteDecision id record s = _
  simp [execVoteDecision, hctx, hop, hcode, hresult, hcause]

end

/-- Settles O41: the record contributed stands in the vote while messages leave (`sends_pumpRecords`); a decision first switches or
frees the claimed slots and records the outcome, and nothing that ends with the step touches those (`Settled`). -/
theorem voteDecidesStep : Obligations.VoteDecidesStep := by
  unfold Obligations.VoteDecidesStep
  intro id record s x o p step hctx hop hcode
  have hid : x.op = id := by simpa using List.find?_some hctx
  refine ⟨fun r cs hown hrecord => ?_, fun hresult hn => ⟨fun hcause => ?_, fun xs hcause hcounted => ?_⟩⟩
  · intro s1 kept s2 hclash
    obtain ⟨st, hframe⟩ := contributed_frame s p step r cs
    have hop' : findOp (putCtx (contributed s p step r cs) { x with own := some r }) x.op = some o := by
      rw [hframe, hid]
      exact hop
    obtain ⟨t, y, hpump, hsends⟩ := pump_vote (x := { x with own := some r }) hop' hcode hclash
    unfold Sends at hsends
    have hvote : getVote (putCtx t y) p = getVote (contributed s p step r cs) p := by rw [hsends]; rfl
    refine ⟨putCtx t y, (voteContribute_contributes hctx hop hcode hown hrecord).trans (congrArg _ hpump), ?_, fun k hk => ?_, ?_, ?_⟩
    · rw [hvote, getVote_contributed, recordFor_contributed_same]
    · rw [hvote, getVote_contributed, recordFor_contributed_other _ _ _ hk]
    · show t.dram = s.dram
      rw [hsends, hframe]
      rfl
    · show t.tr = s.tr
      rw [hsends, hframe]
      rfl
  · have h := commitStep_remembers hn record (fun t => settled_endColl t x stOk 0 (fld record 0x18 8))
    refine ⟨_, voteDecision_commits hctx hop hcode hresult hcause, h.lastStep, h.lastCommit, fun l hl hcur => ?_, congrArg Dram.cells h.dram⟩
    obtain ⟨f0, f1, hver⟩ := h.slots l hl
    rw [hver, slotVersion_fences]
    exact ⟨committedVer_claim _, committedVer_cur hcur, committedVer_version _⟩
  · have h := skipStep_remembers hn record (fun t => settled_endColl t x stSkipped xs (fld record 0x18 8)) (xs := xs) hcounted
    refine ⟨_, voteDecision_skips hctx hop hcode hresult hcause, h.lastStep, h.lastCommit, fun l hl => ?_, congrArg Dram.cells h.dram⟩
    obtain ⟨f0, f1, hver⟩ := h.slots l hl
    rw [hver]
    exact ⟨unclaimedVer_claim _, unclaimedVer_cur _⟩

end Sys2Proof.Machine
end

section
/-! ### Acknowledgements, grants, refusals and aborts (R235, R245, R247, R249, R250) -/

namespace Sys2Proof.Machine

open Sys2Proof

/-- A note of a collective that has not opened is kept for it (log 71). -/
theorem absorbEarly_ahead {s : State} {n : EarlyNote} (hahead : collAhead s n.coll = true) :
    absorbEarly s n = { s with pl := { s.pl with early := s.pl.early ++ [n] } } := if_pos hahead

/-! #### A collective without a context -/

/-- The state in which the records kept under a key are released. -/
def recordsReleased (s : State) (coll : CollRef) (rank : Nat) (key : ChunkKey) : State :=
  { s with pl := { s.pl with kept := s.pl.kept.filter (fun k => !(k.coll = coll && isSent rank key k.chunk)) } }

section
variable {s : State} {coll : CollRef} {rank n : Nat} {key : ChunkKey} {kind : AbortKind} (hctx : findCtx s coll = none)
include hctx

theorem grantReceive_ahead (hahead : collAhead s coll = true) :
    exec (.grantReceive coll rank n) s = .next { s with pl := { s.pl with early := s.pl.early ++ [{ coll, rank, grants := n }] } } := by
  show execGrantReceive coll rank n s = _
  rw [execGrantReceive, hctx]
  exact congrArg _ (absorbEarly_ahead hahead)

theorem abortNoticeReceive_ahead (hahead : collAhead s coll = true) :
    exec (.abortNoticeReceive coll kind rank) s
      = .next { s with pl := { s.pl with kept := s.pl.kept.filter (fun k => k.coll ≠ coll), early := s.pl.early ++ [{ coll, rank, abort := some (kind, rank) }] } } := by
  show execAbortNoticeReceive coll kind rank s = _
  rw [execAbortNoticeReceive, hctx]
  exact congrArg _ (absorbEarly_ahead hahead)

theorem ackReceive_noCtx : exec (.ackReceive coll rank ⟨key, n⟩) s = .next (recordsReleased s coll rank key) := by
  have hctx' : findCtx (recordsReleased s coll rank key) coll = none := hctx
  unfold recordsReleased at hctx' ⊢
  show execAckReceive coll rank ⟨key, n⟩ s = _
  simp only [execAckReceive, hctx']

/-- R247: a record that outlives its collective is sent again, behind those that are kept. -/
theorem kept_sendFailed {k : KeptRecord} (hkept : s.pl.kept.find? (fun y => y.coll = coll && isSent rank key y.chunk) = some k) (hsends : k.chunk.sends < 4) :
    (sendFailed s coll rank key).pl.kept = (recordsReleased s coll rank key).pl.kept
      ++ [{ k with chunk := { k.chunk with bytes := markResent k.chunk.bytes, sends := k.chunk.sends + 1 } }] := by
  simp only [sendFailed, hctx, hkept, Nat.not_le.2 hsends, if_false]
  split
  · exact congrArg Plait.kept (sends_sendMsg _ (sends_refl _)).pl_eq
  · rfl

end

/-! #### A collective with an open context -/

section
variable {s : State} {coll : CollRef} {rank n : Nat} {key : ChunkKey} {x : Ctx} (hctx : findCtx s coll = some x)
include hctx

theorem ackReceive_sent {c : SentChunk} (hsent : x.sent.find? (isSent rank key) = some c) :
    let x1 : Ctx := { x with
      sent := listUpdate (isSent rank key) (fun c => { c with acked := true }) x.sent
      grants := if isRecordOp x.code || !x.sent.any (fun c => isSent rank key c && !c.acked) then x.grants else tset 0 rank (tget 0 x.grants rank + n) x.grants }
    exec (.ackReceive coll rank ⟨key, n⟩) s = .next (pump (putCtx (recordsReleased s coll rank key) x1) x1) := by
  have hctx' : findCtx (recordsReleased s coll rank key) coll = some x := hctx
  have hany : x.sent.any (isSent rank key) = true :=
    List.any_eq_true.2 ⟨c, List.mem_of_find?_eq_some hsent, List.find?_some hsent⟩
  unfold recordsReleased at hctx' ⊢
  show execAckReceive coll rank ⟨key, n⟩ s = _
  simp only [execAckReceive, hctx', hany, Bool.not_true, Bool.false_eq_true, if_false]

theorem grantReceive_open :
    let x1 : Ctx := { x with grants := tset 0 rank (tget 0 x.grants rank + n) x.grants }
    exec (.grantReceive coll rank n) s = .next (pump (putCtx s x1) x1) := by
  show execGrantReceive coll rank n s = _
  rw [execGrantReceive, hctx]

theorem abortNoticeReceive_ends (kind : AbortKind) :
    ∃ t, exec (.abortNoticeReceive coll kind rank) s = .next t ∧ ∀ y ∈ t.pl.ctxs, y.op ≠ x.op := by
  refine ⟨abortEnd s x kind rank, ?_, fun y hy => op_ne_of_mem_abortEnd hy⟩
  show execAbortNoticeReceive coll kind rank s = _
  rw [execAbortNoticeReceive, hctx]

variable {o : Op} {c : SentChunk} (hop : findOp s x.op = some o) (hsent : x.sent.find? (isSent rank key) = some c) (hacked : c.acked = false)
include hop hsent hacked

/-- R247: the chunk is sent again with RESENT set, and counted. -/
theorem resent_sendFailed (hsends : c.sends < 4) :
    ∃ y ∈ (sendFailed s coll rank key).pl.ctxs, y.op = x.op ∧ y.resends = x.resends + 1
      ∧ y.sent.find? (isSent rank key) = some { c with bytes := markResent c.bytes, sends := c.sends + 1 } := by
  simp only [sendFailed, hctx, hsent, hop, hacked, Nat.not_le.2 hsends, Bool.false_eq_true, if_false]
  refine ⟨_, mem_putCtx ?_, rfl, rfl, ?_⟩
  · rw [(sends_emitChunk ..).ctxs_eq]
    exact ⟨x, List.mem_of_find?_eq_some hctx, rfl⟩
  · rw [find_listUpdate (by intro _; rfl), hsent]
    simp [hacked]

/-- R247: the fourth failure of a chunk stops its collective. -/
theorem stopped_sendFailed (hsends : 4 ≤ c.sends) : ∀ y ∈ (sendFailed s coll rank key).pl.ctxs, y.op ≠ x.op := by
  simp only [sendFailed, hctx, hsent, hop, hacked, hsends, Bool.false_eq_true, if_false, if_true]
  exact fun y hy => op_ne_of_mem_abortColl hy

end

/-- A refusal and a missing answer are the same failure of a send (R247). -/
theorem exec_of_sendFails {r : Instr} {coll : CollRef} {rank : Nat} {key : ChunkKey}
    (hr : r = .nakReceive coll rank key ∨ r = .chunkResendTimeout coll rank key) (s : State) : exec r s = .next (sendFailed s coll rank key) := by
  obtain rfl | rfl := hr
  · rfl
  · rfl

/-- Settles O45: where no context is open, notes and records wait or leave; in an open one the sent chunk is acknowledged, or its
send has failed (`sendFailed`), whichever command says so. -/
theorem chunksAnswered : Obligations.ChunksAnswered := by
  unfold Obligations.ChunksAnswered
  intro coll rank n key kind s
  refine ⟨fun hctx hahead => ⟨grantReceive_ahead hctx hahead, abortNoticeReceive_ahead hctx hahead⟩, fun hctx => ackReceive_noCtx hctx, ?_, ?_⟩
  · intro x o c hctx hop hops hsent
    refine ⟨ackReceive_sent hctx hsent, grantReceive_open hctx, fun r hr hacked => ⟨fun hsends => ?_, fun hsends => ?_⟩, abortNoticeReceive_ends hctx kind⟩
    · obtain ⟨y, hy, hyx, hresends, hfind⟩ := resent_sendFailed hctx hop hsent hacked hsends
      exact ⟨_, y, _, exec_of_sendFails hr s, hy, hyx, hresends, hfind, rfl, rfl⟩
    · exact ⟨_, exec_of_sendFails hr s, stopped_sendFailed hctx hop hsent hacked hsends⟩
  · intro r hr hctx k hkept hsends
    exact ⟨_, exec_of_sendFails hr s, kept_sendFailed hctx hkept hsends⟩

end Sys2Proof.Machine
end

section
/-! ### What judging neighbours and ports leaves alone (R283, R298 to R301) -/

namespace Sys2Proof.Machine

open Sys2Proof

/-- From `s` to `t` nothing changes but ports and lanes, the fabric beside its plans, epoch and fence list, and what raising an event
touches: function registers, output rings, host memory and the log. -/
def Relinks (s t : State) : Prop :=
  t = { s with
    fns := t.fns, host := t.host, dbx := t.dbx, links := t.links, q := { s.q with orings := t.q.orings }
    fab := { t.fab with active := s.fab.active, staged := s.fab.staged, epoch := s.fab.epoch, fence := s.fab.fence } }

theorem relinks_refl (s : State) : Relinks s s := rfl

theorem relinks_trans {s t u : State} (a : Relinks s t) (b : Relinks t u) : Relinks s u := by
  unfold Relinks at a b ⊢
  rw [a] at b
  exact b

theorem relinks_ite {s a b : State} {c : Prop} [Decidable c] (ha : Relinks s a) (hb : Relinks s b) : Relinks s (if c then a else b) := by
  split
  · exact ha
  · exact hb

theorem relinks_foldl {β : Type} {g : State → β → State} (hg : ∀ t x, Relinks t (g t x)) : ∀ (l : List β) (s : State), Relinks s (l.foldl g s)
  | [], s => relinks_refl s
  | x :: l, s => relinks_trans (hg s x) (relinks_foldl hg l (g s x))

theorem relinks_forN {g : Nat → State → State} (hg : ∀ i t, Relinks t (g i t)) : ∀ (n : Nat) (s : State), Relinks s (forN n g s)
  | 0, s => relinks_refl s
  | n + 1, s => relinks_trans (relinks_forN hg n s) (hg n _)

/-- What only sends a message that leaves the fabric only changes what raising an event touches. -/
theorem Sends.relinks {s t : State} (h : Sends s t) (hfab : t.fab = s.fab) : Relinks s t := by
  unfold Sends at h
  unfold Relinks
  rw [hfab]
  rw [hfab] at h
  exact h.trans (by rw [h])

theorem relinks_raiseMod (s : State) (code : Nat) (args : Bytes) : Relinks s (raiseMod s code args) :=
  (sends_raiseMod code args (sends_refl s)).relinks (quiet_raiseMod s code args (quiet_refl s)).fab

theorem Relinks.plans_eq {s t : State} (h : Relinks s t) :
    t.fab.active = s.fab.active ∧ t.fab.staged = s.fab.staged ∧ t.fab.epoch = s.fab.epoch ∧ t.fab.fence = s.fab.fence := by
  unfold Relinks at h
  rw [h]
  exact ⟨rfl, rfl, rfl, rfl⟩

theorem Relinks.dram_eq {s t : State} (h : Relinks s t) : t.dram = s.dram := by rw [h]
theorem Relinks.part_eq {s t : State} (h : Relinks s t) : t.part = s.part := by rw [h]
theorem Relinks.cores_eq {s t : State} (h : Relinks s t) : t.cores = s.cores := by rw [h]

/-! #### Updates of ports, lanes, segments and switches -/

theorem relinks_updLink (s : State) (port : Nat) (g : LinkPort → LinkPort) : Relinks s (updLink s port g) := rfl
theorem relinks_updLane (s : State) (port w : Nat) (g : Lane → Lane) : Relinks s (updLane s port w g) := rfl
theorem relinks_updSeg (s : State) (g : SegId) (h : Seg → Seg) : Relinks s (updSeg s g h) := rfl
theorem relinks_putWire (s : State) (w : Wire) : Relinks s (putWire s w) := rfl
theorem relinks_setSwitch (s : State) (port : Nat) (x : Switch) : Relinks s (setSwitch s port x) := rfl
theorem relinks_markPort (s : State) (port : Nat) (missing extra : Bool) : Relinks s (markPort s port missing extra) := rfl

/-- An update of the fabric that leaves its plans, epoch and fence list. -/
theorem relinks_fab {s : State} {f : Fabric}
    (hf : f = { f with active := s.fab.active, staged := s.fab.staged, epoch := s.fab.epoch, fence := s.fab.fence }) : Relinks s { s with fab := f } :=
  congrArg (fun fab : Fabric => ({ s with fab } : State)) hf

/-! #### Light and tags -/

theorem relinks_discard (s : State) (kind : Nat) : Relinks s (discard s kind) := by
  unfold discard
  extract_lets f old n f1 last t
  have hcount : f1 = { f1 with active := f.active, staged := f.staged, epoch := f.epoch, fence := f.fence } := by
    simp only [f1]
    split <;> rfl
  clear_value f1
  have htick : Relinks s { s with fab := { f1 with discTick := tset 0 kind (t + 1) f.discTick } } := relinks_fab (by rw [hcount])
  exact relinks_ite (relinks_trans htick (relinks_raiseMod ..)) (relinks_fab hcount)

theorem relinks_sendTag (s : State) (port : Nat) (t : BitVec 64) : Relinks s (sendTag s port t) :=
  relinks_ite (relinks_refl s) (relinks_putWire ..)

theorem relinks_sendLanes (s : State) (first : Nat) (g : SegId) : Relinks s (sendLanes s first g) :=
  relinks_trans (relinks_sendTag ..) (relinks_sendTag ..)

theorem relinks_updPortLane (s : State) (port w : Nat) (f : Lane → Lane) : Relinks s (updPortLane s port w f) :=
  relinks_trans (relinks_updLane ..) (relinks_foldl (fun _ _ => relinks_updLane ..) _ _)

theorem relinks_cutExpress (s : State) (port : Nat) : Relinks s (cutExpress s port) := by
  unfold cutExpress
  extract_lets s1 s2
  have h1 : Relinks s s1 := by
    simp only [s1]
    split
    · exact relinks_refl s
    · exact relinks_trans (relinks_setSwitch ..) (relinks_discard ..)
  have h2 : Relinks s1 s2 := by
    refine relinks_forN (fun p t => ?_) 12 s1
    extract_lets from_
    have hfrom : ∀ i, Relinks t (from_ i) := fun i => relinks_ite (relinks_setSwitch ..) (relinks_refl t)
    split
    · exact relinks_refl t
    · exact hfrom _
    · exact hfrom _
  clear_value s1 s2
  exact relinks_trans (relinks_trans h1 h2) (relinks_fab rfl)

/-! #### Port states -/

theorem relinks_toProbe (s : State) (port : Nat) : Relinks s (toProbe s port) := by
  unfold toProbe
  extract_lets up s1 s2
  have h1 : Relinks s s1 := relinks_trans (relinks_cutExpress s port) (relinks_updLink ..)
  have h2 : Relinks s1 s2 := relinks_forN (fun _ _ => relinks_updPortLane ..) 8 s1
  clear_value s1 s2
  exact relinks_trans (relinks_trans h1 h2)
    (relinks_trans (relinks_foldl (fun _ _ => relinks_updSeg ..) _ s2) (relinks_foldl (fun _ _ => relinks_sendLanes ..) _ _))

theorem relinks_tryRamp (s : State) (port : Nat) : Relinks s (tryRamp s port) :=
  relinks_ite (relinks_trans (relinks_updLink ..) (relinks_forN (fun _ _ => relinks_updLane ..) 8 _)) (relinks_refl s)

theorem relinks_judgePort (s : State) (port : Nat) : Relinks s (judgePort s port) := by
  refine relinks_ite (relinks_tryRamp s port) ?_
  split
  · exact relinks_refl s
  · exact relinks_refl s
  · exact relinks_toProbe s port

theorem relinks_settlePort (port : Nat) (s : State) : Relinks s (settlePort port s) :=
  relinks_ite (relinks_ite (relinks_updLink ..) (relinks_judgePort s port))
    (relinks_ite (relinks_refl s) (relinks_trans (relinks_toProbe s port) (relinks_updLink ..)))

/-! #### The classes of ports -/

theorem relinks_classPort (s : State) (port : Nat) : Relinks s (classPort s port) := by
  unfold classPort
  extract_lets n m
  split
  · exact relinks_markPort ..
  · split
    · exact relinks_trans (relinks_ite (relinks_raiseMod ..) (relinks_refl s)) (relinks_markPort ..)
    · exact relinks_trans (relinks_ite (relinks_raiseMod ..) (relinks_refl s)) (relinks_markPort ..)

theorem relinks_reclassPort (port : Nat) (s : State) : Relinks s (reclassPort port s) :=
  relinks_ite (relinks_classPort s port) (relinks_markPort ..)

theorem relinks_judgeNbrs (s : State) : Relinks s (judgeNbrs s) := relinks_forN (fun _ _ => relinks_fab rfl) 12 s

/-- R283, R298: a new plan judges the neighbours and classes and settles the ports anew, and is itself left as it is. -/
theorem relinks_newPlan (s : State) : Relinks s (newPlan s) :=
  relinks_trans (relinks_judgeNbrs s) (relinks_trans (relinks_forN relinks_reclassPort 12 _) (relinks_forN relinks_settlePort 12 _))

end Sys2Proof.Machine
end

section
/-! ### Loading the group table (R229 to R231) -/

namespace Sys2Proof.Machine

open Sys2Proof

/-! #### Checking images -/

theorem quiet_loadGroup {s0 s : State} (p e : Nat) (m : MemIn) (b : Bytes) (h : Quiet s0 s) : Quiet s0 (loadGroup s p e m b).1 := by
  unfold loadGroup
  split
  · exact h
  · split
    · exact h
    · split
      · exact h
      · extract_lets n list
        split
        next hrange => exact quiet_fst hrange (quiet_checkRange _ _ _ _ _ h)
        next hrange => exact quiet_fst hrange (quiet_checkRange _ _ _ _ _ h)

theorem quiet_loadGroups {s0 : State} (p : Nat) (m : MemIn) :
    ∀ (bs : List (Option Bytes)) (e : Nat) (acc : List (Nat × Group)) (lost : Option Nat) {s : State},
      Quiet s0 s → Quiet s0 (loadGroups p m bs e acc lost s).1
  | [], _, _, _, _, h => h
  | none :: bs, e, acc, lost, _, h => by
    simp only [loadGroups]
    split
    · exact h
    · exact quiet_loadGroups p m bs (e + 1) acc lost h
  | some b :: bs, e, acc, lost, s, h => by
    simp only [loadGroups]
    split
    next hload => exact quiet_fst hload (quiet_loadGroup p e m b h)
    next hload => exact quiet_loadGroups p m bs (e + 1) _ _ (quiet_fst hload (quiet_loadGroup p e m b h))
    next hload => exact quiet_loadGroups p m bs (e + 1) _ _ (quiet_fst hload (quiet_loadGroup p e m b h))

/-- Entries to load, each at an index of its own, below a bound. -/
def EntriesBelow (e : Nat) (gs : List (Nat × Group)) : Prop := (gs.map Prod.fst).Nodup ∧ ∀ g ∈ gs, g.1 < e

theorem EntriesBelow.succ {e : Nat} {gs : List (Nat × Group)} (h : EntriesBelow e gs) : EntriesBelow (e + 1) gs :=
  ⟨h.1, fun g hg => Nat.lt_succ_of_lt (h.2 g hg)⟩

theorem EntriesBelow.append {e : Nat} {gs : List (Nat × Group)} (h : EntriesBelow e gs) (x : Group) : EntriesBelow (e + 1) (gs ++ [(e, x)]) := by
  obtain ⟨hnodup, hbelow⟩ := h
  refine ⟨?_, fun g hg => ?_⟩
  · rw [List.map_append, List.nodup_append]
    refine ⟨hnodup, List.nodup_cons.2 ⟨List.not_mem_nil, List.nodup_nil⟩, fun a ha b hb => ?_⟩
    obtain ⟨g, hg, rfl⟩ := List.mem_map.1 ha
    obtain rfl : b = e := by simpa using hb
    exact Nat.ne_of_lt (hbelow g hg)
  · rcases List.mem_append.1 hg with h | h
    · exact Nat.lt_succ_of_lt (hbelow g h)
    · rw [List.mem_singleton.1 h]
      exact Nat.lt_succ_self e

/-- The entries that images load stand at indices of their own. -/
theorem loadGroups_nodup {p : Nat} {m : MemIn} {gs : List (Nat × Group)} {bad : Option Nat} {t : State} :
    ∀ (bs : List (Option Bytes)) {e : Nat} {acc : List (Nat × Group)} {lost : Option Nat} {s : State},
      loadGroups p m bs e acc lost s = (t, .inl gs, bad) → EntriesBelow e acc → (gs.map Prod.fst).Nodup
  | [], _, _, _, _, hload, hacc => by
    simp only [loadGroups, Prod.mk.injEq, Sum.inl.injEq] at hload
    obtain ⟨-, rfl, -⟩ := hload
    exact hacc.1
  | none :: bs, _, _, _, _, hload, hacc => by
    simp only [loadGroups] at hload
    split at hload
    · simp at hload
    · exact loadGroups_nodup bs hload hacc.succ
  | some b :: bs, _, _, _, _, hload, hacc => by
    simp only [loadGroups] at hload
    split at hload
    · simp at hload
    · exact loadGroups_nodup bs hload hacc.succ
    · exact loadGroups_nodup bs hload (hacc.append _)

/-! #### Setting entries -/

/-- The state in which entries are loaded, and what was absorbed for earlier numbers of their groups is gone. -/
def withGroups (s : State) (gs : List (Nat × Group)) : State := gs.foldl (fun t g => dropEarly (setGroup t g.1 g.2) g.1 g.2.seq0) s

theorem withGroups_cons (s : State) (g : Nat × Group) (gs : List (Nat × Group)) :
    withGroups s (g :: gs) = withGroups (dropEarly (setGroup s g.1 g.2) g.1 g.2.seq0) gs := rfl

theorem withGroups_frame : ∀ (gs : List (Nat × Group)) (s : State), ∃ pl, withGroups s gs = { s with pl }
  | [], s => ⟨s.pl, rfl⟩
  | g :: gs, s => withGroups_frame gs (dropEarly (setGroup s g.1 g.2) g.1 g.2.seq0)

theorem getGroup_loaded (s : State) (e k n : Nat) (x : Group) : getGroup (dropEarly (setGroup s e x) e n) k = if k = e then x else getGroup s k :=
  getGroup_setGroup s e k x

theorem getGroup_withGroups_other {k : Nat} : ∀ {gs : List (Nat × Group)} (s : State), k ∉ gs.map Prod.fst → getGroup (withGroups s gs) k = getGroup s k
  | [], _, _ => rfl
  | g :: gs, s, h => by
    obtain ⟨hk, hgs⟩ : k ≠ g.1 ∧ k ∉ gs.map Prod.fst := by simpa only [List.map_cons, List.mem_cons, not_or] using h
    rw [withGroups_cons, getGroup_withGroups_other _ hgs, getGroup_loaded, if_neg hk]

theorem getGroup_withGroups {g : Nat × Group} {gs : List (Nat × Group)} (s : State) (hn : (gs.map Prod.fst).Nodup) (hg : g ∈ gs) :
    getGroup (withGroups s gs) g.1 = g.2 := by
  induction gs generalizing s with
  | nil => cases hg
  | cons x gs ih =>
    obtain ⟨hx, hgs⟩ := List.nodup_cons.1 (List.map_cons ▸ hn)
    rw [withGroups_cons]
    rcases List.mem_cons.1 hg with rfl | hg
    · rw [getGroup_withGroups_other _ hx, getGroup_loaded, if_pos rfl]
    · exact ih _ hgs hg

/-! #### GROUP_SET -/

/-- Success, where the operation's part and core map are those it began with. -/
theorem finishOk_succeeds {u v : State} (o : Op) (env : Env) (hpart : v.part = u.part) (hregs : v.cores.regs = u.cores.regs) :
    ∃ xs, Completed v (finishOk v o env 0 0) o (Claims.success u o env) xs 0 := by
  have hsuccess : Claims.success v o env = Claims.success u o env := by
    unfold Claims.success degradeBits ranSlow getCore
    rw [hpart, hregs]
  rw [← hsuccess]
  exact finishOk_completed ..

theorem Quiet.regs_eq {s t : State} (h : Quiet s t) : t.cores.regs = s.cores.regs := (Cores.mk.inj h.cores).1

section
variable {s u w w2 : State} {id : Nat} {env : Env} {o : Op} {bs : List (Option Bytes)}
  (hb : Claims.begins s id 0x820B env = some (u, o)) (himages : imagesOf u o env 64 (fld o.desc 0x1A 2) = (w, none, bs))
include hb himages

/-- R231: the first image that fails ends it with that image's status. -/
theorem groupSet_fails {st xs e : Nat} {lost : Option Nat}
    (hload : loadGroups o.part env.mem bs (fld o.desc 0x18 2) [] none w = (w2, .inr (st, xs, e), lost))
    (hquota : quotaWith w2 o.part (fld o.desc 0x18 2) (bs.map (fun b => b.getD [])) ≤ (getPart u o.part).contexts) :
    exec (.groupSet id env) s = .next (complete w2 o st xs (if st = stVersion then 0 else e)) := by
  show execGroupSet id env s = _
  rw [execGroupSet, runOp_of_begins hb]
  simp [himages, hload, Nat.not_lt.2 hquota]

variable {gs : List (Nat × Group)} (hload : loadGroups o.part env.mem bs (fld o.desc 0x18 2) [] none w = (w2, .inl gs, none))
include hload

theorem groupSet_loads (hquota : quotaWith w2 o.part (fld o.desc 0x18 2) (bs.map (fun b => b.getD [])) ≤ (getPart u o.part).contexts) :
    Claims.completes (.groupSet id env) s (withGroups w2 gs) o (Claims.success u o env) := by
  have hexec : exec (.groupSet id env) s = .next (finishOk (withGroups w2 gs) o env 0 0) := by
    show execGroupSet id env s = _
    rw [execGroupSet, runOp_of_begins hb]
    simp [himages, hload, Nat.not_lt.2 hquota, withGroups]
  have hquiet : Quiet u w2 := quiet_fst hload (quiet_loadGroups _ _ _ _ _ _ (quiet_fst himages (quiet_imagesOf _ _ _ _ (quiet_refl u))))
  obtain ⟨pl, hframe⟩ := withGroups_frame gs w2
  obtain ⟨xs, hdone⟩ := finishOk_succeeds (u := u) (v := withGroups w2 gs) o env (by rw [hframe]; exact hquiet.part) (by rw [hframe]; exact hquiet.regs_eq)
  exact ⟨_, xs, 0, hexec, hdone⟩

/-- R229: quotas beyond the partition's contexts load nothing. -/
theorem groupSet_beyond (hquota : (getPart u o.part).contexts < quotaWith w2 o.part (fld o.desc 0x18 2) (bs.map (fun b => b.getD []))) :
    Claims.completes (.groupSet id env) s w2 o stNoRes := by
  refine ⟨complete w2 o stNoRes 4 0, 4, 0, ?_, complete_spec ..⟩
  show execGroupSet id env s = _
  rw [execGroupSet, runOp_of_begins hb]
  simp [himages, hload, hquota]

end

end Sys2Proof.Machine
end

section
/-! ### Multicast entries, plans and epochs (R259, R275, R279, R280, R286) -/

namespace Sys2Proof.Machine

open Sys2Proof

/-! #### MCAST_SET and PLAN_STAGE -/

/-- The state in which MCAST_SET has set its entry. -/
def withMcast (s : State) (d : Bytes) : State :=
  { s with fab := { s.fab with
      mcast := tset {} (fld d 0x10 2) { ports := BitVec.ofNat 12 (fld d 0x12 2), loc := bit (byteAt d 0x14) 0 } s.fab.mcast } }

theorem mcastSet_completes {s u : State} {id : Nat} {env : Env} {o : Op} (hb : Claims.begins s id 0x9243 env = some (u, o)) :
    Claims.completes (.mcastSet id env) s (withMcast u o.desc) o (Claims.success u o env) := by
  obtain ⟨xs, hdone⟩ := finishOk_succeeds (u := u) (v := withMcast u o.desc) o env rfl rfl
  have hexec : exec (.mcastSet id env) s = .next (finishOk (withMcast u o.desc) o env 0 0) := by
    show execMcastSet id env s = _
    rw [execMcastSet, runOp_of_begins hb]
    rfl
  exact ⟨_, xs, 0, hexec, hdone⟩

/-- The state in which an image is staged and the ports follow it. -/
def withStaged (s : State) (img : Bytes) : State := newPlan { s with fab := { s.fab with staged := some img } }

/-- Staging a plan changes nothing else of the plans, the epoch and the fence list, and no memory. -/
theorem relinks_withStaged (s : State) (img : Bytes) : Relinks { s with fab := { s.fab with staged := some img } } (withStaged s img) :=
  relinks_newPlan _

section
variable {s u w : State} {id : Nat} {env : Env} {o : Op}

/-- R259, R286: a readable and valid image is staged. -/
theorem planStage_completes {img : Bytes} (hb : Claims.begins s id 0x9240 env = some (u, o)) (hidle : u.fab.change = none)
    (hread : checkRange u (ctxOf o env) (refAt o.desc 0x10).sram (refAt o.desc 0x10).addr (fld o.desc 0x18 4) = (w, none))
    (himg : devBytes w (ctxOf o env) (refAt o.desc 0x10).sram (refAt o.desc 0x10).addr (fld o.desc 0x18 4) = img)
    (hversion : byteAt img 0 = 1) (hvalid : planFault img (fld o.desc 0x18 4) = none) :
    Claims.completes (.planStage id env) s (withStaged w img) o (Claims.success u o env) := by
  have hquiet : Quiet u w := quiet_fst hread (quiet_checkRange _ _ _ _ _ (quiet_refl u))
  have hchange : w.fab.change = none := by rw [hquiet.fab, hidle]
  have hexec : exec (.planStage id env) s = .next (finishOk (withStaged w img) o env 0 0) := by
    show execPlanStage id env s = _
    rw [execPlanStage, runOp_of_begins hb]
    simp [hread, himg, hversion, hvalid, hchange, withStaged]
  have hlinks := relinks_withStaged w img
  obtain ⟨xs, hdone⟩ := finishOk_succeeds (u := u) (v := withStaged w img) o env (hlinks.part_eq.trans hquiet.part)
    ((congrArg Cores.regs hlinks.cores_eq).trans hquiet.regs_eq)
  exact ⟨_, xs, 0, hexec, hdone⟩

/-! #### PLAN_COMMIT and FENCE -/

/-- An operation that waits for a later command is registered. -/
theorem phase_of_registerOp {y : Op} (hy : findOp (registerOp s id) id = some y) : y.phase = .registered := by
  unfold registerOp at hy
  rw [findOp_updOp _ _ _ (by intro _; rfl)] at hy
  obtain ⟨x, -, rfl⟩ := Option.map_eq_some_iff.1 hy
  rfl

/-- R279: a newer epoch for the staged plan starts to change. -/
theorem planCommit_starts {img : Bytes} (hb : Claims.begins s id 0x9241 env = some (u, o)) (hidle : u.fab.change = none)
    (hnewer : epochNewer u.fab.epoch (fld o.desc 0x10 2) = true) (hstaged : u.fab.staged = some img) :
    exec (.planCommit id env) s = .next (startChange (registerOp u o.id)
      { op := some o.id, epoch := fld o.desc 0x10 2, fence := u.fab.fence, isFence := false, draining := planAgreed u img }) := by
  show execPlanCommit id env s = _
  rw [execPlanCommit, runOp_of_begins hb]
  simp [hidle, hnewer, hstaged]

theorem words_length : ∀ (n : Nat) (b : Bytes), (words n b).length = n
  | 0, _ => rfl
  | n + 1, b => congrArg (· + 1) (words_length n (b.drop 4))

/-- A list of words that could be read is seen whole. -/
theorem map_getElem?_words (n : Nat) (b : Bytes) : (List.range n).map (fun i => (words n b)[i]?) = (words n b).map some := by
  refine List.ext_getElem (by simp [words_length]) (fun i hi _ => ?_)
  have hlt : i < (words n b).length := by simpa [words_length] using hi
  simp [List.getElem?_eq_getElem hlt]

/-- R280: a newer epoch with a readable list of coordinates starts to change. -/
theorem fence_starts (hb : Claims.begins s id 0x9242 env = some (u, o)) (hidle : u.fab.change = none)
    (hnewer : epochNewer u.fab.epoch (fld o.desc 0x10 2) = true) (hcount : fld o.desc 0x12 2 ≤ 256)
    (hread : checkRange u (ctxOf o env) false (field (fld o.desc 0x18 8) 0 40) (4 * fld o.desc 0x12 2) = (w, none)) {ws : List Nat}
    (hwords : words (fld o.desc 0x12 2) (devBytes w (ctxOf o env) false (field (fld o.desc 0x18 8) 0 40) (4 * fld o.desc 0x12 2)) = ws)
    (hgood : badFenceWord w (ws.map some) = none) :
    exec (.fence id env) s = .next (startChange (registerOp w o.id)
      { op := some o.id, epoch := fld o.desc 0x10 2, fence := ws, isFence := true, draining := true }) := by
  subst ws
  rw [← map_getElem?_words] at hgood
  show execFence id env s = _
  rw [execFence, runOp_of_begins hb]
  simp [hidle, hnewer, Nat.not_lt.2 hcount, hread, hgood]

end

/-- Settles O42: the entries of a load have indices of their own (`loadGroups_nodup`), so each stands as loaded; judging the ports for
a staged plan leaves plans, epoch and memory (`Relinks`); a started change waits under its operation's name (`registerOp`). -/
theorem networkTables : Obligations.NetworkTables := by
  unfold Obligations.NetworkTables
  intro id env s u w o d x ok
  refine ⟨?_, ?_, ?_, ?_, ?_⟩
  · intro bs w2 gs hb himages quotas
    refine ⟨fun st xs e lost hload hquota => ⟨_, groupSet_fails hb himages hload hquota, complete_spec ..⟩, fun hload => ?_⟩
    have hentries : (gs.map Prod.fst).Nodup := loadGroups_nodup bs hload ⟨List.nodup_nil, fun g hg => absurd hg List.not_mem_nil⟩
    exact ⟨fun hquota => ⟨groupSet_loads hb himages hload hquota, fun g hg => getGroup_withGroups w2 hentries hg⟩, groupSet_beyond hb himages hload⟩
  · intro hb
    exact ⟨_, mcastSet_completes hb, tget_tset_same _ _ _, fun k hk => tget_tset_other _ hk _, rfl⟩
  · intro hb hidle r hread img hversion hvalid v
    have hv : v = withStaged w img := rfl
    clear_value v
    subst v
    have hlinks := relinks_withStaged w img
    obtain ⟨hactive, hstaged, hepoch, hfence⟩ := hlinks.plans_eq
    exact ⟨planStage_completes hb hidle hread rfl hversion hvalid, hstaged, hactive, hepoch, hfence, hlinks.dram_eq⟩
  · intro img hb hidle hnewer hstaged
    exact ⟨_, planCommit_starts hb hidle hnewer hstaged, rfl, fun y hy => phase_of_registerOp hy, rfl⟩
  · intro hb hidle hnewer hcount list hread ws hgood
    exact ⟨_, fence_starts hb hidle hnewer hcount hread rfl hgood, rfl, fun y hy => phase_of_registerOp hy, rfl⟩

end Sys2Proof.Machine
end

section
/-! ### Flits that a port sends again (R268, R270, R272, R296) -/

namespace Sys2Proof.Machine

open Sys2Proof

/-! #### Flits that leave, and flits that wait -/

/-- A flit on the wire leaves the segments' state: it stays among those kept and those due (R295). -/
@[simp] theorem wireFlit_segs (s : State) (g : SegId) (k : KeptFlit) : (wireFlit s g k).links.segs = s.links.segs := by
  unfold wireFlit noteSlow
  split <;> rfl

/-- On a neighbour link flits go out without bursts (R271), and the segments' state stays. -/
theorem sendBursts_neighbour_segs {g : SegId} (hg : g.xid = 0) (ks : List KeptFlit) (s : State) : (sendBursts s g ks).links.segs = s.links.segs := by
  rw [sendBursts, if_pos hg]
  induction ks generalizing s with
  | nil => rfl
  | cons k ks ih => exact (ih (wireFlit s g k)).trans (wireFlit_segs s g k)

@[simp] theorem sendBursts_nil (s : State) (g : SegId) : sendBursts s g [] = s := by
  unfold sendBursts
  split <;> rfl

/-- Flits behind a VC0 packet put no light on the wire (R268). -/
theorem sendFlits_wire_of_waiting {s : State} {g : SegId} {ks : List KeptFlit} (hwait : ∀ k ∈ ks, vcMay s g.port k.vc = false) :
    (sendFlits s g ks).links.wire = s.links.wire := by
  have hnone : ks.filter (fun k => vcMay s g.port k.vc) = [] := List.filter_eq_nil_iff.2 (fun k hk => by simp [hwait k hk])
  simp only [sendFlits, hnone, ite_self, sendBursts_nil]
  split <;> rfl

/-- A flit that may leave on its port leaves, and does not become due (R268, R272). -/
theorem sendFlits_of_leaving {s : State} {g : SegId} {k : KeptFlit} (hsends : portSends s g = true) (hmay : vcMay s g.port k.vc = true) :
    sendFlits s g [k] = sendBursts s g [k] := by
  simp [sendFlits, hsends, hmay]

/-! #### EXPRESS_RETRY (R270, R272) -/

/-- EXPRESS_RETRY takes the refusal off its VC, and then sends the VC's flits. -/
theorem expressRetry_resends {s : State} {seg : SegId} {vc : Nat} (hbusy : s.fab.busy.contains (vcKey seg.port seg.xid vc) = true)
    (hsends : portSends s seg = true) :
    exec (.expressRetry seg vc) s
      = .next (sendFlits { s with fab := { s.fab with busy := s.fab.busy.filter (fun x => x ≠ vcKey seg.port seg.xid vc) } } seg
          ((getSeg s seg).kept.filter (fun x => x.vc = vc))) := by
  show execExpressRetry seg vc s = _
  simp only [execExpressRetry, hbusy, hsends]
  rfl

/-- A neighbour link that keeps a flit under the number 4, which no VC has, and an express path 1 whose VC0 packet waits, refused. A
retry of VC 4 on the link and one of VC0 on the path have the same key (`vcKey`). -/
def vc4Kept : State :=
  { links := { ports := [(0, { state := .up })]
               segs := [(segKey ⟨0, 0⟩, { mask16 := 0xFF#8, ready := true, kept := [{ seq := 3, vc := 4, lane := 0, body := zeros 256, poff := 256 }] }),
                        (segKey ⟨0, 1⟩, { mask16 := 0xFF#8, ready := true })] }
    fab := { txq := [(vcKey 0 1 0, [{ bytes := zeros 32, need := 1 }])], busy := [vcKey 0 1 0] } }

/-- No VC0 packet of the port can start while path 1's is refused; it can once the refusal is off. -/
theorem vc0Ready_vc4Kept : vc0Ready vc4Kept 0 = false ∧ vc0Ready { vc4Kept with fab := { vc4Kept.fab with busy := [] } } 0 = true := by
  decide +kernel

/-- The retry frees path 1's packet, and the link's flit waits behind it. -/
theorem expressRetry_vc4Kept : ∃ t, exec (.expressRetry ⟨0, 0⟩ 4) vc4Kept = .next t ∧ t.links.wire = [] := by
  obtain ⟨-, hready⟩ := vc0Ready_vc4Kept
  refine ⟨_, expressRetry_resends rfl (by decide +kernel), sendFlits_wire_of_waiting fun k hk => ?_⟩
  have hvc : k.vc = 4 := by simpa using (List.mem_filter.1 hk).2
  rw [hvc]
  exact congrArg (!·) hready

/-- Refutes O53: its clause of EXPRESS_RETRY names any number as the VC, and promises that the VC's kept flits go out where no VC0 packet
could start before the command. With the number 4, which is no VC (R261, R263), the command takes the refusal off VC0 of the next
path (`vcKey`), whose packet can start then and goes first (R268), so that no flit goes out (`expressRetry_vc4Kept`). -/
theorem not_fabricPackets : ¬ Obligations.FabricPackets := by
  unfold Obligations.FabricPackets
  intro h
  obtain ⟨-, -, -, -, -, -, -, -, -, hretry, -⟩ := h ⟨0, 0⟩ ⟨0, 0⟩ [] 4 0 0 0#64 0#32 vc4Kept
  obtain ⟨t, hexec, -, hsent⟩ := hretry rfl (by decide +kernel)
  obtain ⟨u, hretried, hdark⟩ := expressRetry_vc4Kept
  obtain rfl : t = u := Host.Outcome.next.inj (hexec.symm.trans hretried)
  obtain ⟨hlight, -⟩ := hsent _ (List.mem_singleton_self _) rfl
  obtain ⟨hnone, -⟩ := vc0Ready_vc4Kept
  obtain ⟨j, hflit⟩ := hlight (.inr hnone)
  rw [hdark] at hflit
  exact List.not_mem_nil hflit

/-! #### REPLAY_TIMEOUT (R296, R297) -/

/-- The replay of a flit is counted, at the flit and at its port. -/
def replayCounted (s : State) (g : SegId) (seq : Nat) : State :=
  updLink (updSeg s g (fun x => { x with kept := listUpdate (fun o => o.seq = seq) (fun o => { o with replays := o.replays + 1 }) x.kept }))
    g.port (fun x => { x with replays := sat 255 (x.replays + 1) })

theorem getSeg_replayCounted (s : State) (g : SegId) (seq : Nat) :
    getSeg (replayCounted s g seq) g
      = { getSeg s g with kept := listUpdate (fun o => o.seq = seq) (fun o => { o with replays := o.replays + 1 }) (getSeg s g).kept } :=
  tget_tset_same _ _ _

/-- REPLAY_TIMEOUT on a neighbour link: a flit that may leave once its replay is counted leaves, and does not become due. -/
theorem replayTimeout_leaves {s : State} {g : SegId} {seq : Nat} {k : KeptFlit} (hg : g.xid = 0)
    (hkept : (getSeg s g).kept.find? (fun x => x.seq = seq) = some k) (hlane : k.lane ∈ laneSet s g) (hreplays : k.replays < 3)
    (hsends : portSends (replayCounted s g seq) g = true) (hmay : vcMay (replayCounted s g seq) g.port k.vc = true) :
    ∃ t, exec (.replayTimeout g seq) s = .next t ∧ (getSeg t g).due = (getSeg s g).due := by
  have hsent : exec (.replayTimeout g seq) s = .next (sendBursts (replayCounted s g seq) g [{ k with replays := k.replays + 1 }]) := by
    rw [← sendFlits_of_leaving (k := { k with replays := k.replays + 1 }) hsends hmay]
    show execReplayTimeout g seq s = _
    rw [execReplayTimeout, replayFlit, hkept]
    simp [hlane, Nat.not_le.2 hreplays, replayCounted]
  refine ⟨_, hsent, ?_⟩
  rw [getSeg, sendBursts_neighbour_segs hg]
  show (getSeg (replayCounted s g seq) g).due = (getSeg s g).due
  rw [getSeg_replayCounted]

/-- The flit of the neighbour link below. -/
def lateFlit : KeptFlit := { seq := 3, vc := 1, lane := 0, body := zeros 256, poff := 256 }

/-- A port whose table of segments is out of order: the entry of path 1 stands before that of the neighbour link. The two hold 2,046
unacknowledged flits, and a VC0 packet that needs room for two more waits on the link. -/
def segsOutOfOrder : State :=
  { links := { ports := [(0, { state := .up })]
               segs := [(segKey ⟨0, 1⟩, { kept := List.replicate 2045 lateFlit }), (segKey ⟨0, 0⟩, { mask16 := 0xFF#8, ready := true, kept := [lateFlit] })] }
    fab := { txq := [(vcKey 0 0 0, [{ bytes := zeros 32, need := 1 }])] } }

/-- The port's buffer has room for the VC0 packet. Counting the replay gives the link a second entry, in front of path 1's, whose flit
`portKept` counts again, so that there is no room left (R297). -/
theorem vc0Ready_segsOutOfOrder : vc0Ready segsOutOfOrder 0 = true ∧ vc0Ready (replayCounted segsOutOfOrder ⟨0, 0⟩ 3) 0 = false := by
  decide +kernel

/-- The flit goes out at once, and nothing is due. -/
theorem replayTimeout_segsOutOfOrder : ∃ t, exec (.replayTimeout ⟨0, 0⟩ 3) segsOutOfOrder = .next t ∧ (getSeg t ⟨0, 0⟩).due = [] := by
  obtain ⟨-, hfull⟩ := vc0Ready_segsOutOfOrder
  have hmay : vcMay (replayCounted segsOutOfOrder ⟨0, 0⟩ 3) 0 1 = true := by rw [vcMay, hfull]; rfl
  exact replayTimeout_leaves (k := lateFlit) rfl rfl (by decide +kernel) (by decide) (by decide +kernel) hmay

/-- Refutes O54: its clause of replays speaks of any state and promises that a flit of VC1 to VC3 becomes due where a VC0 packet could
start before the command. Where the table of segments is not sorted, counting the replay adds an entry, and the port's buffer seems
full (`vc0Ready_segsOutOfOrder`); VC0 can start no longer, and the flit goes out and is not due (`replayTimeout_segsOutOfOrder`). -/
theorem not_flitsAndReplay : ¬ Obligations.FlitsAndReplay := by
  unfold Obligations.FlitsAndReplay
  intro h
  obtain ⟨-, -, -, -, -, hreplay, -⟩ := h ⟨0, 0⟩ 0 0 3 { mode := 1, symbols := [] } 0 0#64 segsOutOfOrder
  obtain ⟨hresent, -⟩ := hreplay (.replayTimeout ⟨0, 0⟩ 3) ⟨0, 0⟩ lateFlit (.inr rfl) rfl (by decide +kernel)
  obtain ⟨t, hexec, -, -, -, hdue, -⟩ := hresent (by decide)
  obtain ⟨u, hreplayed, hnone⟩ := replayTimeout_segsOutOfOrder
  obtain rfl : t = u := Host.Outcome.next.inj (hexec.symm.trans hreplayed)
  obtain ⟨hready, -⟩ := vc0Ready_segsOutOfOrder
  have hmem := hdue (.inr ⟨by decide, hready⟩)
  rw [hnone] at hmem
  exact List.not_mem_nil hmem

end Sys2Proof.Machine
end
